-- ==== Sys2Proof/Word.lean ====
section
/-! DEFINITION. Words, bytes, bit fields, saturating counters, and the two sparse containers of the model: a keyed map
and a byte memory, each a list in one canonical form. -/

namespace Sys2Proof

/-- A byte. -/
abbrev Byte := BitVec 8

/-- A software-visible register word (R8). -/
abbrev Word := BitVec 32

/-- The largest value of a saturating 32-bit counter. -/
def max32 : Nat := 4294967295

/-- `n + k` in a 32-bit counter that saturates at 0xFFFF_FFFF. -/
def satAdd (n k : Nat) : Nat := min (n + k) max32

/-- Ceiling of a quotient; 0 for a zero divisor. -/
def ceilDiv (a b : Nat) : Nat := (a + (b - 1)) / b

/-- Bits `[lo + len - 1 : lo]` of a number. -/
def bits (v lo len : Nat) : Nat := (v >>> lo) % 2 ^ len

/-- Bit `i` of a number. -/
def bit (v i : Nat) : Bool := (v >>> i) % 2 == 1

/-- A Bool as a bit. -/
def b2n (b : Bool) : Nat := if b then 1 else 0

/-- The two's-complement reading of the low `w` bits of a number. -/
def sext (w v : Nat) : Int :=
  let u := v % 2 ^ w
  if u < 2 ^ (w - 1) then (u : Int) else (u : Int) - 2 ^ w

/-- An integer wrapped to `w` bits. -/
def wrapInt (w : Nat) (i : Int) : Nat := (i % (2 ^ w : Int)).toNat

/-- `a` is after `b` in the modulo 2^32 order of R296. -/
def after32 (a b : BitVec 32) : Bool :=
  let d := (a - b).toNat
  1 ≤ d && d < 2147483648

/-! ### Keyed maps -/

/-- The value listed for a key. -/
def lookupCell {α : Type} : List (Nat × α) → Nat → Option α
  | [], _ => none
  | (k', v) :: r, k => if k' = k then some v else lookupCell r k

/-- A list of cells with the cell of one key replaced, inserted in key order. -/
def setCell {α : Type} : List (Nat × α) → Nat → α → List (Nat × α)
  | [], k, v => [(k, v)]
  | (k', v') :: r, k, v =>
    if k < k' then (k, v) :: (k', v') :: r
    else if k = k' then (k, v) :: r
    else (k', v') :: setCell r k v

/-- A list of cells with the cell of one key replaced or inserted in key order, or (for `none`) removed. -/
def putCell {α : Type} (l : List (Nat × α)) (k : Nat) : Option α → List (Nat × α)
  | some v => setCell l k v
  | none => l.filter fun c => decide (c.1 ≠ k)

/-- A sparse map from numbers to values: keys strictly rising, no entry equal to the default `d`. -/
structure SMap (α : Type) (d : α) where
  cells : List (Nat × α) := []
  deriving DecidableEq, Repr

/-- The value of a key: the entry, or the default. -/
def SMap.get {α : Type} {d : α} (m : SMap α d) (k : Nat) : α :=
  match lookupCell m.cells k with
  | some v => v
  | none => d

/-- The map with the value of one key changed; writing the default removes the entry. -/
def SMap.put {α : Type} {d : α} [DecidableEq α] (m : SMap α d) (k : Nat) (v : α) : SMap α d :=
  ⟨putCell m.cells k (if v = d then none else some v)⟩

/-- The map with a function applied to the value of one key. -/
def SMap.upd {α : Type} {d : α} [DecidableEq α] (m : SMap α d) (k : Nat) (f : α → α) : SMap α d :=
  m.put k (f (m.get k))

/-- The keys that hold something other than the default. -/
def SMap.keys {α : Type} {d : α} (m : SMap α d) : List Nat := m.cells.map (·.1)

/-- A sparse map with a function applied to every listed value. -/
def SMap.mapV {α : Type} {d : α} [DecidableEq α] (s : SMap α d) (f : Nat → α → α) : SMap α d :=
  ⟨s.cells.filterMap fun c => let w := f c.1 c.2; if w = d then none else some (c.1, w)⟩

/-- The canonical form of a map. -/
def SMap.wf {α : Type} {d : α} [DecidableEq α] (m : SMap α d) : Bool :=
  decide ((m.cells.map (·.1)).Pairwise (· < ·)) && m.cells.all (fun c => decide (c.2 ≠ d))

/-! ### Byte memories -/

/-- A byte memory: cells with strictly rising addresses and no zero byte; an unlisted address reads 0. -/
abbrev Mem := List Host.Cell

/-- What an unlisted address reads as (log 3). -/
def unlistedByte : Byte := 0

/-- The byte at an address. -/
def Mem.get (m : Mem) (a : Nat) : Byte :=
  match lookupCell m a with
  | some v => v
  | none => unlistedByte

/-- The memory with one byte written. -/
def Mem.put (m : Mem) (a : Nat) (v : Byte) : Mem :=
  putCell m a (if v = unlistedByte then none else some v)

/-- The canonical form of a memory. -/
def Mem.wf (m : Mem) : Bool :=
  decide ((m.map (·.1)).Pairwise (· < ·)) && m.all (fun c => decide (c.2 ≠ unlistedByte))

/-- `n` bytes from an address upward. -/
def Mem.bytes (m : Mem) (a : Nat) : Nat → List Byte
  | 0 => []
  | n + 1 => m.get a :: Mem.bytes m (a + 1) n

/-- The memory with a list of bytes written from an address upward. -/
def Mem.store (m : Mem) (a : Nat) : List Byte → Mem
  | [] => m
  | b :: bs => Mem.store (m.put a b) (a + 1) bs

/-- The little-endian number of a byte list. -/
def leNat : List Byte → Nat
  | [] => 0
  | b :: bs => b.toNat + 256 * leNat bs

/-- The `n` little-endian bytes of a number. -/
def leBytes (v : Nat) : Nat → List Byte
  | 0 => []
  | n + 1 => BitVec.ofNat 8 v :: leBytes (v / 256) n

/-- The little-endian number of `n` bytes at an address. -/
def Mem.rd (m : Mem) (a n : Nat) : Nat := leNat (m.bytes a n)

/-- The memory with an `n`-byte little-endian number written at an address. -/
def Mem.wr (m : Mem) (a n v : Nat) : Mem := m.store a (leBytes v n)

/-- The bytes `[lo, lo + len)` of a memory, moved down to address 0. -/
def Mem.slice (m : Mem) (lo len : Nat) : Mem :=
  m.filterMap fun c => if lo ≤ c.1 && c.1 < lo + len then some (c.1 - lo, c.2) else none

/-- The memory with the bytes `[lo, lo + len)` replaced by those of another, counted from 0. -/
def Mem.overlay (m : Mem) (lo len : Nat) (src : Mem) : Mem :=
  m.filter (fun c => c.1 < lo) ++
    (src.filterMap fun c => if c.1 < len then some (c.1 + lo, c.2) else none) ++
    m.filter (fun c => lo + len ≤ c.1)

/-- The low `w` bits at a bit offset of a byte list read as a little-endian bit string. -/
def Mem.rdBits (m : Mem) (bitAddr w : Nat) : Nat :=
  bits (m.rd (bitAddr / 8) ((bitAddr % 8 + w + 7) / 8)) (bitAddr % 8) w

/-- The memory with `w` bits written at a bit offset; the other bits of the bytes keep their values. -/
def Mem.wrBits (m : Mem) (bitAddr w v : Nat) : Mem :=
  let a := bitAddr / 8
  let n := (bitAddr % 8 + w + 7) / 8
  let old := m.rd a n
  let sh := bitAddr % 8
  let cleared := old - bits old sh w * 2 ^ sh
  m.wr a n (cleared + (v % 2 ^ w) * 2 ^ sh)

/-- Numbers `lo, lo + 1, …` (`n` of them). -/
def range' (lo : Nat) : Nat → List Nat
  | 0 => []
  | n + 1 => lo :: range' (lo + 1) n

end Sys2Proof
end

