-- ==== Sys2Proof/Syntax.lean ====
section
/-! DEFINITION. The commands the module takes: one constructor of `Instr` per row of the table of operations and
events, with the operands each carries. -/

namespace Sys2Proof

/-- An item of a submission ring: function, ring and SSN (11_host_interface R296, R304). -/
structure ItemRef where
  fn   : Nat
  ring : Nat
  ssn  : Nat
  deriving DecidableEq, Repr

/-- A management message as a processor takes it from the request ring (11_host_interface R329). -/
structure MgmtMsg where
  msn     : Nat := 0
  target  : Nat := 0
  cluster : Nat := 0
  mcode   : Nat := 0
  tag     : Nat := 0
  body    : List Byte := []
  deriving DecidableEq, Repr

/-- What a class 1 order that reaches a core orders (01 R25, R31; 12 R345; 17 R451; 15 R412). -/
inductive HaltOrder where
  /-- pre-emption: stop at the next tile boundary -/
  | preempt
  /-- fence, or the abort of a task: stop at the next cc -/
  | stop
  deriving DecidableEq, Repr

/-- Where a storage error was found (17_faults R447, R449, R450). -/
inductive ErrPlace where
  /-- storage of core `core`: storage kind, byte address -/
  | core (core kind addr : Nat)
  /-- cluster store of a cluster -/
  | cluster (cluster addr : Nat)
  /-- a line of a tier page: partition, page, tier 0 to 2, unit, device address of the line -/
  | tier (part page tier unit addr : Nat)
  /-- a path shared by the module (mesh, bridge, link, host): kind, unit -/
  | path (kind unit : Nat)
  deriving DecidableEq, Repr

/-- A unit that stops answering (17_faults R449, 08 R234). -/
inductive LossUnit where
  | sward (stack : Nat)
  | leyGroup (group : Nat)
  | leyChannel (channel : Nat)
  | heathPort (port : Nat)
  | fabricLink (link : Nat)
  | die (die : Nat)
  deriving DecidableEq, Repr

/-- Coordinates in the torus (13_fabric R362). -/
structure Coord where
  x : Nat := 0
  y : Nat := 0
  z : Nat := 0
  deriving DecidableEq, Repr

/-- A sync word as received, with the offset it gives in units of 2^-16 ns (13_fabric Table 13.5, R368). -/
structure SyncWord where
  slice   : Nat := 0
  mgr     : Coord := {}
  state   : Nat := 0
  epoch   : Nat := 0
  hops    : Nat := 0
  parent  : Bool := false
  takeover : Bool := false
  fwd     : Bool := false
  coord   : Coord := {}
  link    : Nat := 0
  /-- TX_NS and TX_FRAC in units of 2^-16 ns -/
  tx      : Nat := 0
  /-- RESID in units of 2^-8 ns -/
  resid   : Nat := 0
  /-- ECHO_NS and ECHO_FRAC in units of 2^-16 ns -/
  echo    : Nat := 0
  /-- local receive timestamp t4 in units of 2^-16 ns -/
  rx      : Nat := 0
  period  : Nat := 0
  boundary : Nat := 0
  boundaryNs : Nat := 0
  nextPeriod : Nat := 0
  nextFrom : Nat := 0
  armed   : Nat := 0
  deriving DecidableEq, Repr

/-- What a fabric frame carries (13_fabric R358, R374, R380). -/
inductive FrameBody where
  /-- a Hedgerow message: origin, origin sequence, class 1 to 3, payload numbers -/
  | hedge (origin : Coord) (oseq cls : Nat) (payload : List Nat)
  /-- a data frame: job, generation, channel, destination, dateline lane, place of its transfer among those of the channel, the
  transfer's OP, SHIFT, SLOT_BYTES and LEN, source rank, byte offset in that rank's slot or chunk, bytes, and whether it is the last of
  that slot or chunk. On channel 255 the place is the chunk's number and the shape the first 8 bytes of the manifest's digest; with no
  bytes it says that the rank's matching command has started (R384) -/
  | data (job gen chan : Nat) (dest : Coord) (lane : Nat) (place : Nat) (shape : List Nat) (src off : Nat)
      (bytes : List Byte) (last : Bool)
  /-- a sync frame; its word is taken by SYNC_WORD_RECEIVE -/
  | sync
  | idle
  deriving DecidableEq, Repr

/-- A frame: 12-bit sequence number and acknowledgement, and its content (13_fabric R358). -/
structure Frame where
  seq  : Nat := 0
  ack  : Nat := 0
  body : FrameBody := .idle
  deriving DecidableEq, Repr

/-- A configuration request (19_startup R493, 11_host_interface R291, R292). -/
inductive CfgReq where
  /-- read of a configuration register of a function -/
  | read (fn offset : Nat)
  /-- write of NumVFs in the SR-IOV capability of PF0 -/
  | numVfs (n : Nat)
  /-- write of Device Control: Relaxed Ordering enable of a function -/
  | devCtl (fn : Nat) (relaxed : Bool)
  /-- write of the power state of a function: D0 or D3hot -/
  | power (fn : Nat) (d3 : Bool)
  /-- any other configuration write -/
  | other (fn offset : Nat)
  deriving DecidableEq, Repr

/-- A JTAG operation (16_security R443). -/
inductive JtagOp where
  /-- IEEE 1149.1 boundary scan -/
  | boundary
  | idcode
  /-- the bridge to the register space -/
  | bridge
  deriving DecidableEq, Repr

/-! ### Operands of vector-engine instructions (05_vector_engine Tables 5.1 and 5.2) -/

/-- MSK, ZM, D, A, B of every instruction. -/
structure ThreeOps where
  msk : BitVec 3 := 0
  zm  : Bool := false
  d   : BitVec 5 := 0
  a   : BitVec 5 := 0
  b   : BitVec 5 := 0
  deriving DecidableEq, Repr

/-- FALU and IALU: the common fields, C and BS. -/
structure AluOps extends ThreeOps where
  c  : BitVec 5 := 0
  bs : Bool := false
  deriving DecidableEq, Repr

/-- CMP: the common fields, INT, UNS and BS. -/
structure CmpOps extends ThreeOps where
  int : Bool := false
  uns : Bool := false
  bs  : Bool := false
  deriving DecidableEq, Repr

/-- CVT. -/
structure CvtOps extends ThreeOps where
  s      : BitVec 5 := 0
  src    : BitVec 4 := 0
  dst    : BitVec 4 := 0
  rmode  : BitVec 3 := 0
  satfin : Bool := true
  auto   : Bool := false
  scale  : BitVec 8 := 127
  part   : BitVec 2 := 0
  idxreg : BitVec 5 := 0
  deriving DecidableEq, Repr

/-- PERM: the common fields and SH. -/
structure PermOps extends ThreeOps where
  sh : BitVec 6 := 0
  deriving DecidableEq, Repr

/-- MEM. -/
structure MemOps extends ThreeOps where
  base   : BitVec 5 := 0
  fmt    : BitVec 4 := 0
  offset : BitVec 20 := 0
  part   : BitVec 2 := 0
  deriving DecidableEq, Repr

/-- QIO. -/
structure QioOps extends ThreeOps where
  q    : BitVec 4 := 0
  nf   : BitVec 2 := 0
  tag  : BitVec 28 := 0
  last : Bool := false
  deriving DecidableEq, Repr

/-- SAMP: the common fields and KM1. -/
structure SampOps extends ThreeOps where
  km1 : BitVec 6 := 0
  deriving DecidableEq, Repr

/-- SCTL: the common fields, STRIP and IMM. -/
structure SctlOps extends ThreeOps where
  strip : Bool := false
  imm   : BitVec 32 := 0
  deriving DecidableEq, Repr

/-- The commands of the module, one constructor per row of the table of operations and events. -/
inductive Instr where
  /-- FALU_ADD: Adds FP32 lanes under RNE. (R122) -/
  | faluAdd (core : Nat) (o : AluOps)
  /-- FALU_SUB: Subtracts FP32 lanes under RNE. (R122) -/
  | faluSub (core : Nat) (o : AluOps)
  /-- FALU_MUL: Multiplies FP32 lanes under RNE. (R122) -/
  | faluMul (core : Nat) (o : AluOps)
  /-- FALU_FMA: Computes A × B + C with one rounding. (R122) -/
  | faluFma (core : Nat) (o : AluOps)
  /-- FALU_MIN: Takes the FP32 minimum, NaN when either source is NaN. (R122) -/
  | faluMin (core : Nat) (o : AluOps)
  /-- FALU_MAX: Takes the FP32 maximum, NaN when either source is NaN. (R122) -/
  | faluMax (core : Nat) (o : AluOps)
  /-- FALU_ABS: Clears the sign bit. (R122) -/
  | faluAbs (core : Nat) (o : AluOps)
  /-- FALU_NEG: Flips the sign bit. (R122) -/
  | faluNeg (core : Nat) (o : AluOps)
  /-- FALU_MOV: Copies lane bits unchanged. (R122) -/
  | faluMov (core : Nat) (o : AluOps)
  /-- IALU_ADD: Adds INT32 lanes modulo 2^32. (R123) -/
  | ialuAdd (core : Nat) (o : AluOps)
  /-- IALU_SUB: Subtracts INT32 lanes modulo 2^32. (R123) -/
  | ialuSub (core : Nat) (o : AluOps)
  /-- IALU_MUL: Returns the low 32 bits of the INT32 product. (R123) -/
  | ialuMul (core : Nat) (o : AluOps)
  /-- IALU_AND: Bitwise AND of INT32 lanes. (R123) -/
  | ialuAnd (core : Nat) (o : AluOps)
  /-- IALU_OR: Bitwise OR of INT32 lanes. (R123) -/
  | ialuOr (core : Nat) (o : AluOps)
  /-- IALU_XOR: Bitwise XOR of INT32 lanes. (R123) -/
  | ialuXor (core : Nat) (o : AluOps)
  /-- IALU_SHL: Shifts left by the low 5 bits of B. (R123) -/
  | ialuShl (core : Nat) (o : AluOps)
  /-- IALU_SHR: Shifts right filling with zeros. (R123) -/
  | ialuShr (core : Nat) (o : AluOps)
  /-- IALU_SRA: Shifts right filling with the sign bit. (R123) -/
  | ialuSra (core : Nat) (o : AluOps)
  /-- IALU_MIN: Signed INT32 minimum. (R123) -/
  | ialuMin (core : Nat) (o : AluOps)
  /-- IALU_MAX: Signed INT32 maximum. (R123) -/
  | ialuMax (core : Nat) (o : AluOps)
  /-- IALU_MINU: Unsigned INT32 minimum. (R123) -/
  | ialuMinu (core : Nat) (o : AluOps)
  /-- IALU_MAXU: Unsigned INT32 maximum. (R123) -/
  | ialuMaxu (core : Nat) (o : AluOps)
  /-- CMP_EQ: Writes a mask of active lanes where the sources are equal. (R124) -/
  | cmpEq (core : Nat) (o : CmpOps)
  /-- CMP_NE: Writes a mask of active lanes where the sources differ or one is NaN. (R124) -/
  | cmpNe (core : Nat) (o : CmpOps)
  /-- CMP_LT: Writes a mask of active lanes where A is less than B. (R124) -/
  | cmpLt (core : Nat) (o : CmpOps)
  /-- CMP_LE: Writes a mask of active lanes where A is at most B. (R124) -/
  | cmpLe (core : Nat) (o : CmpOps)
  /-- CMP_GT: Writes a mask of active lanes where A is greater than B. (R124) -/
  | cmpGt (core : Nat) (o : CmpOps)
  /-- CMP_GE: Writes a mask of active lanes where A is at least B. (R124) -/
  | cmpGe (core : Nat) (o : CmpOps)
  /-- CMP_UNORD: Writes a mask of active lanes where either source is NaN. (R124) -/
  | cmpUnord (core : Nat) (o : CmpOps)
  /-- CMP_ORD: Writes a mask of active lanes where neither source is NaN. (R124) -/
  | cmpOrd (core : Nat) (o : CmpOps)
  /-- CVT: Converts active lanes between formats with rounding, saturation and block scales. (R125) -/
  | cvt (core : Nat) (o : CvtOps)
  /-- EXP: Computes e^x per lane. (R128) -/
  | exp (core : Nat) (o : ThreeOps)
  /-- EXP2: Computes 2^x per lane. (R128) -/
  | exp2 (core : Nat) (o : ThreeOps)
  /-- LOG: Computes ln x per lane. (R128) -/
  | log (core : Nat) (o : ThreeOps)
  /-- LOG2: Computes log2 x per lane. (R128) -/
  | log2 (core : Nat) (o : ThreeOps)
  /-- RCP: Computes 1/x per lane. (R128) -/
  | rcp (core : Nat) (o : ThreeOps)
  /-- RSQRT: Computes 1/√x per lane. (R128) -/
  | rsqrt (core : Nat) (o : ThreeOps)
  /-- SQRT: Computes √x correctly rounded per lane. (R128) -/
  | sqrt (core : Nat) (o : ThreeOps)
  /-- TANH: Computes tanh x per lane. (R128) -/
  | tanh (core : Nat) (o : ThreeOps)
  /-- SIGMOID: Computes 1/(1 + e^−x) per lane. (R128) -/
  | sigmoid (core : Nat) (o : ThreeOps)
  /-- SIN: Computes sin x per lane. (R128) -/
  | sin (core : Nat) (o : ThreeOps)
  /-- COS: Computes cos x per lane. (R128) -/
  | cos (core : Nat) (o : ThreeOps)
  /-- ERF: Computes erf x per lane. (R128) -/
  | erf (core : Nat) (o : ThreeOps)
  /-- RSUM: Adds active lanes into a scalar (S, C) pair by the compensated combine. (R129) -/
  | rsum (core : Nat) (o : ThreeOps)
  /-- RMAX: Folds active lanes into a scalar maximum. (R130) -/
  | rmax (core : Nat) (o : ThreeOps)
  /-- RMIN: Folds active lanes into a scalar minimum. (R130) -/
  | rmin (core : Nat) (o : ThreeOps)
  /-- RAMAX: Keeps the largest value and its index in a scalar pair. (R130) -/
  | ramax (core : Nat) (o : ThreeOps)
  /-- RFIN: Rounds a scalar (S, C) pair to its final FP32 sum. (R129) -/
  | rfin (core : Nat) (o : ThreeOps)
  /-- RISUM: Adds active INT32 lanes into a scalar modulo 2^64. (R129) -/
  | risum (core : Nat) (o : ThreeOps)
  /-- BCAST: Broadcasts a scalar to every active lane. (R131) -/
  | bcast (core : Nat) (o : PermOps)
  /-- PERMV: Gathers lanes of A by indices in B. (R131) -/
  | permv (core : Nat) (o : PermOps)
  /-- SLIDEUP: Moves lanes up by SH. (R131) -/
  | slideup (core : Nat) (o : PermOps)
  /-- SLIDEDN: Moves lanes down by SH. (R131) -/
  | slidedn (core : Nat) (o : PermOps)
  /-- COMPRESS: Packs active lanes into the low lanes. (R131) -/
  | compress (core : Nat) (o : PermOps)
  /-- EXPAND: Spreads low lanes into the active lanes. (R131) -/
  | expand (core : Nat) (o : PermOps)
  /-- IOTA: Writes a scalar base plus the lane index to each active lane. (R131) -/
  | iota (core : Nat) (o : PermOps)
  /-- SEL: Selects A or B per lane by mask. (R131) -/
  | sel (core : Nat) (o : PermOps)
  /-- LD: Loads lanes from local store at unit stride. (R132) -/
  | ld (core : Nat) (o : MemOps)
  /-- ST: Stores lanes to local store at unit stride. (R132) -/
  | st (core : Nat) (o : MemOps)
  /-- LDS: Loads lanes at a scalar stride. (R132) -/
  | lds (core : Nat) (o : MemOps)
  /-- STS: Stores lanes at a scalar stride. (R132) -/
  | sts (core : Nat) (o : MemOps)
  /-- LDX: Gathers lanes by per-lane offsets. (R132) -/
  | ldx (core : Nat) (o : MemOps)
  /-- STX: Scatters lanes by per-lane offsets. (R132) -/
  | stx (core : Nat) (o : MemOps)
  /-- LDM: Loads 8 bytes into a mask register. (R132) -/
  | ldm (core : Nat) (o : MemOps)
  /-- STM: Stores a mask register to 8 bytes. (R132) -/
  | stm (core : Nat) (o : MemOps)
  /-- RECV: Pops up to four flits of a bundle from an inbound queue into a register. (R135) -/
  | recv (core : Nat) (o : QioOps)
  /-- SEND: Pushes flits of a register to an outbound queue with a tag. (R135) -/
  | send (core : Nat) (o : QioOps)
  /-- SENDE: Pushes one empty-bundle marker with a tag. (R135) -/
  | sende (core : Nat) (o : QioOps)
  /-- MAND: ANDs two masks. (R136) -/
  | mand (core : Nat) (o : ThreeOps)
  /-- MOR: ORs two masks. (R136) -/
  | mor (core : Nat) (o : ThreeOps)
  /-- MXOR: XORs two masks. (R136) -/
  | mxor (core : Nat) (o : ThreeOps)
  /-- MANDN: ANDs A with the complement of B. (R136) -/
  | mandn (core : Nat) (o : ThreeOps)
  /-- MNOT: Complements a mask. (R136) -/
  | mnot (core : Nat) (o : ThreeOps)
  /-- MSET: Writes a mask from a scalar. (R136) -/
  | mset (core : Nat) (o : ThreeOps)
  /-- MGET: Writes a scalar from a mask. (R136) -/
  | mget (core : Nat) (o : ThreeOps)
  /-- MPOP: Counts set mask bits below VL. (R136) -/
  | mpop (core : Nat) (o : ThreeOps)
  /-- MFIRST: Finds the lowest set lane below VL. (R136) -/
  | mfirst (core : Nat) (o : ThreeOps)
  /-- MFROMV: Builds a mask from non-zero lanes. (R136) -/
  | mfromv (core : Nat) (o : ThreeOps)
  /-- MFILL: Writes A to selected lanes and −∞ to the others. (R137) -/
  | mfill (core : Nat) (o : SampOps)
  /-- TOPK: Merges active lanes into a sorted top-k list. (R138) -/
  | topk (core : Nat) (o : SampOps)
  /-- SCAN: Forms an inclusive FP32 prefix sum with a scalar carry. (R139) -/
  | scan (core : Nat) (o : SampOps)
  /-- RAND: Writes a reproducible uniform FP32 value to each active lane. (R140) -/
  | rand (core : Nat) (o : SampOps)
  /-- LI: Loads a sign-extended immediate into a scalar. (R141) -/
  | li (core : Nat) (o : SctlOps)
  /-- LIH: Loads the upper 32 bits of a scalar. (R141) -/
  | lih (core : Nat) (o : SctlOps)
  /-- SADD: Adds two scalars. (R141) -/
  | sadd (core : Nat) (o : SctlOps)
  /-- SSUB: Subtracts two scalars. (R141) -/
  | ssub (core : Nat) (o : SctlOps)
  /-- SMUL: Multiplies two scalars. (R141) -/
  | smul (core : Nat) (o : SctlOps)
  /-- SADDI: Adds an immediate to a scalar. (R141) -/
  | saddi (core : Nat) (o : SctlOps)
  /-- SETVL: Sets VL to min(64, sA). (R116) -/
  | setvl (core : Nat) (o : SctlOps)
  /-- LOOP: Runs a body a counted or strip number of times. (R117) -/
  | loop (core : Nat) (o : SctlOps)
  /-- SETSR: Sets the stochastic-rounding seed and stream. (R127) -/
  | setsr (core : Nat) (o : SctlOps)
  /-- RDHDR: Reads a header word of the triggering bundle. (R141) -/
  | rdhdr (core : Nat) (o : SctlOps)
  /-- END: Ends the handler so that the next may start. (R141) -/
  | endHandler (core : Nat) (o : SctlOps)
  /-- STEP: Descriptor opcode 0x01 opens a serving run of one model that launches a step at each boundary with a non-empty launch set. (R264) -/
  | step (i : ItemRef)
  /-- ADMIT: Descriptor opcode 0x02 reads a request block and admits a request into a slot, or refuses it. (R262) -/
  | admitReq (i : ItemRef) (block : List Byte) (prompt : List Nat)
  /-- ABORT: Descriptor opcode 0x03 resolves its target ring and SSN and either claims the target's terminal-state cell, is held as a pending abort, or completes ABORT_LATE or REJ_STATE. (R319) -/
  | abort (i : ItemRef)
  /-- PAUSE: Descriptor opcode 0x04 marks a request to leave later launch sets from the first seal after it is fetched. (R277) -/
  | pause (i : ItemRef)
  /-- RESUME: Descriptor opcode 0x05 returns a paused request to RUNNING at the next seal, first migrating its pages up when PROMOTE is set. (R280) -/
  | resume (i : ItemRef)
  /-- LOAD_SWATH: Descriptor opcode 0x10 checks and places one to four swath images, then starts streaming them into planes and the swath store. (R196) -/
  | loadSwath (i : ItemRef)
  /-- LOAD_SWATH_STREAM_END: Streaming of a LOAD_SWATH ends, its hashes are compared and its planes become READY or return to EMPTY. (R196) -/
  | loadSwathStreamEnd (i : ItemRef)
  /-- LOAD_WEIGHTS: Descriptor opcode 0x11 checks a signed manifest and starts bringing weight chunks to the destination. (R309) -/
  | loadWeights (i : ItemRef)
  /-- CHUNK_LAND: A weight chunk lands, is hashed against the manifest and is forwarded to the next rank when forwarding is on. (R309) -/
  | chunkLand (i : ItemRef) (data : List Byte)
  /-- SWAP_WEIGHTS: Descriptor opcode 0x12 holds a model from the next seal so that its weights can be replaced in place. (R310) -/
  | swapWeights (i : ItemRef)
  /-- SWAP_COPY_START: Once the held model's step in flight and prefetch streams have ended, copying of the staged weights to the target starts. (R310) -/
  | swapCopyStart (i : ItemRef)
  /-- SWAP_COPY_DONE: The weight copy ends, the model is released and the SWAP_WEIGHTS completes. (R310) -/
  | swapCopyDone (i : ItemRef)
  /-- MOVE_RETIER: MOVE with KIND 0 migrates whole pages to a target tier and placement, with optional LOCK or UNLOCK. (R311) -/
  | moveRetier (i : ItemRef)
  /-- MOVE_COPY: MOVE with KIND 1 to 3 copies bytes between the range and host memory or within the range. (R311) -/
  | moveCopy (i : ItemRef) (data : List Byte)
  /-- EVICT: Descriptor opcode 0x14 frees a swath, a model, a prefix or pages, or completes REJ_STATE. (R312) -/
  | evict (i : ItemRef)
  /-- RUN_GRAPH: Descriptor opcode 0x20 opens a run that launches COUNT steps of a model that is not served. (R313) -/
  | runGraph (i : ItemRef)
  /-- CORE_BIST: SELFTEST code 0x0001 tests a core group, taking an idle group out of placement for the test. (R461) -/
  | coreBist (i : ItemRef)
  /-- CORE_RETEST: SELFTEST code 0x0002 powers and tests a core fenced in service and returns it to service when it passes. (R452) -/
  | coreRetest (i : ItemRef)
  /-- SCRUB_STAT: SELFTEST code 0x0010 reads the patrol-scrub progress of a Sward stack or Ley channel. (R460) -/
  | scrubStat (i : ItemRef)
  /-- SWARD_MARCH: SELFTEST code 0x0011 runs a disruptive march test of a Sward stack that holds no backed page. (R462) -/
  | swardMarch (i : ItemRef)
  /-- LEY_MARCH: SELFTEST code 0x0020 runs a disruptive march test of a Ley channel that holds no backed page. (R462) -/
  | leyMarch (i : ItemRef)
  /-- LINK_LOOPBACK: SELFTEST code 0x0030 runs a disruptive loopback test of a fabric link. (R462) -/
  | linkLoopback (i : ItemRef)
  /-- HEATH_PORT: SELFTEST code 0x0040 runs a disruptive test of a CXL port that holds no backed page. (R462) -/
  | heathPort (i : ItemRef)
  /-- LEY_PHY: CALIBRATE code 0x0001 calibrates one or all Ley PHY groups in the next reserve or in a calibration hold. (R461) -/
  | leyPhy (i : ItemRef)
  /-- FABRIC_LANES: CALIBRATE code 0x0002 disruptively calibrates the lanes of a fabric link. (R462) -/
  | fabricLanes (i : ItemRef)
  /-- SENSORS: CALIBRATE code 0x0003 calibrates the sensors. (R460) -/
  | sensors (i : ItemRef)
  /-- TEST_COMPLETE: A self-test or calibration ends, writes its result block, fences or maps out failed units and completes DONE. (R463) -/
  | testComplete (i : ItemRef) (failed : List Nat)
  /-- SYNC: Descriptor opcode 0x3F holds dispatch behind it until every earlier item in its scope has its terminal completion written. (R315) -/
  | sync (i : ItemRef)
  /-- QUERY: Descriptor opcode 0x40 writes the state of a target item or request to a host result block. (R307) -/
  | query (i : ItemRef)
  /-- SQ_DOORBELL: A write to a submission doorbell is judged against the last SSN fetched and starts a fetch, is ignored, or sets DB_OVF. (R297) -/
  | sqDoorbell (fn : Nat) (ring : Nat) (value : Word)
  /-- CQ_DOORBELL: A write to a completion doorbell frees completion-ring room or is ignored with BAD_WRITE. (R300) -/
  | cqDoorbell (fn : Nat) (ring : Nat) (value : Word)
  /-- DESCRIPTOR_FETCH: A descriptor read completes and its descriptors are checked for SSN, counted as fetched and dispatched in SSN order. (R298) -/
  | descriptorFetch (fn : Nat) (ring : Nat) (descs : List (BitVec 512))
  /-- FETCH_ERR: A descriptor read ends with a PCIe error or timeout, stopping the ring with no completion written. (R298) -/
  | fetchErr (fn : Nat) (ring : Nat)
  /-- HOST_READ: A host-memory read of an item ends with a PCIe error or timeout, raising a HOST_READ event and failing the item. (R515) -/
  | hostRead (i : ItemRef) (timeout : Bool) (addr : Nat)
  /-- COMPLETION_WRITE: A decided completion is written to its completion ring once the ring has room. (R300) -/
  | completionWrite (fn : Nat) (ring : Nat)
  /-- COMPLETION_BATCH_CLOSE: A completion batch closes after 64 entries or 1 µs, the ledger is written and the ring vector may be raised. (R302) -/
  | completionBatchClose (fn : Nat) (ring : Nat)
  /-- COMPLETION_INT_TIMER: TIME_US passes since the first uncovered completion and the ring's MSI-X vector is raised. (R302) -/
  | completionIntTimer (fn : Nat) (ring : Nat)
  /-- EVENT_BATCH_CLOSE: An event batch closes, EVT_LAST is updated and one vector-17 message is sent. (R331) -/
  | eventBatchClose (fn : Nat)
  /-- MGMT_RESPONSE_BATCH_CLOSE: A batch of management responses closes, MRS_LAST is updated and one vector-16 message is sent. (R331) -/
  | mgmtResponseBatchClose (fn : Nat)
  /-- FW_STAGE: MCODE 0x0100 checks a signed firmware bundle and writes it to the inactive boot-flash slot. (R405) -/
  | fwStage (fn : Nat) (msg : MgmtMsg)
  /-- FW_ACTIVATE: MCODE 0x0101 restarts the processors one at a time on the staged images, rolling back on a failure. (R406) -/
  | fwActivate (fn : Nat) (msg : MgmtMsg)
  /-- FW_SLOTS: MCODE 0x0102 returns the versions of both boot-flash slots and the active slot. (R406) -/
  | fwSlots (fn : Nat) (msg : MgmtMsg)
  /-- KEY_ENROL: MCODE 0x0110 enrols a publisher key in a slot of a partition's trust list. (R434) -/
  | keyEnrol (fn : Nat) (msg : MgmtMsg)
  /-- KEY_REVOKE: MCODE 0x0111 revokes a publisher key from a trust-list slot. (R435) -/
  | keyRevoke (fn : Nat) (msg : MgmtMsg)
  /-- ATTEST: MCODE 0x0120 writes a signed attestation report from a snapshot of the module or a partition. (R440) -/
  | attest (fn : Nat) (msg : MgmtMsg)
  /-- ID_GET: MCODE 0x0121 writes the module record, its signature block and the identity public key to the host. (R442) -/
  | idGet (fn : Nat) (msg : MgmtMsg)
  /-- DEBUG_UNLOCK: MCODE 0x0130 checks a debug token bound to this module and start and unlocks debug. (R443) -/
  | debugUnlock (fn : Nat) (msg : MgmtMsg)
  /-- RUN_LIST: MCODE 0x0200 returns the open runs of a partition with their states and engine time. (R341) -/
  | runList (fn : Nat) (msg : MgmtMsg)
  /-- CG_OWNER: MCODE 0x0201 returns the owner of each core group. (R335) -/
  | cgOwner (fn : Nat) (msg : MgmtMsg)
  /-- FAB_LOAD: MCODE 0x0210 checks the signature of a fabric program, backs its receive regions and loads it for a swath. (R437) -/
  | fabLoad (fn : Nat) (msg : MgmtMsg)
  /-- ETH_QP_SET: MCODE 0x0220 connects an Ethernet QP from host-supplied parameters. (R391) -/
  | ethQpSet (fn : Nat) (msg : MgmtMsg)
  /-- ETH_QP_CLEAR: MCODE 0x0221 clears an Ethernet QP. (R391) -/
  | ethQpClear (fn : Nat) (msg : MgmtMsg)
  /-- CMIS_READ: MCODE 0x0310 reads bytes of a cable's CMIS page. (R389) -/
  | cmisRead (fn : Nat) (msg : MgmtMsg) (data : List Byte)
  /-- CMIS_WRITE: MCODE 0x0311 writes CMIS page 10h or 11h of a cable whose link is not UP. (R389) -/
  | cmisWrite (fn : Nat) (msg : MgmtMsg)
  /-- PWR_DOMAINS: MCODE 0x0300 returns the on state of a range of power domains. (R413) -/
  | pwrDomains (fn : Nat) (msg : MgmtMsg)
  /-- PWR_RECORD: MCODE 0x0301 returns the last budget record applied and its tick. (R417) -/
  | pwrRecord (fn : Nat) (msg : MgmtMsg)
  /-- WIDE_READ: A write to HIF_WIDE_SEL with COMMIT 0 takes an atomic snapshot of a wide value into the data words. (R476) -/
  | wideRead (fn : Nat) (selector : BitVec 16)
  /-- WIDE_COMMIT: A write to HIF_WIDE_SEL with COMMIT 1 applies all words of a wide value at once or refuses it with an ERR code. (R477) -/
  | wideCommit (fn : Nat) (selector : BitVec 16)
  /-- RING_SQ_CFG_WRITE: A write to RING_SQ_CFG enables or disables fetching on a submission ring, recording the epoch start when first enabled. (R295) -/
  | ringSqCfgWrite (fn : Nat) (value : Word)
  /-- RING_CQ_CFG_WRITE: A write to RING_CQ_CFG enables or disables a completion ring, refused while items are in flight. (R295) -/
  | ringCqCfgWrite (fn : Nat) (value : Word)
  /-- HIF_FN_PART_BIND: A write to HIF_FN_PART binds or unbinds a function to a partition while its rings are disabled. (R292) -/
  | hifFnPartBind (value : Word)
  /-- HIF_FN_PART_RESET: A write of HIF_FN_PART.RESET by PF0 starts the function reset of a VF. (R325) -/
  | hifFnPartReset (value : Word)
  /-- FUNCTION_LEVEL_RESET: A PCIe Function Level Reset starts the reset of a function: final ledgers, items ended without completions and the epoch raised. (R325) -/
  | functionLevelReset (fn : Nat)
  /-- FN_RESET_COMPLETE: A function reset completes step 5: the epoch increases and rings and the BAR4 window return to reset. (R325) -/
  | fnResetComplete (fn : Nat)
  /-- PART_CFG_WRITE: A write to PART_CFG creates or removes a partition, or sets POOL and backs its context area. (R356) -/
  | partCfgWrite (fn : Nat) (value : Word)
  /-- PART_DRAIN: A write of PART_CTRL.DRAIN 1 starts draining a partition from the next seal. (R352) -/
  | partDrain (fn : Nat) (value : Word)
  /-- PART_UNDRAIN: A write of PART_CTRL.DRAIN 0 lets the partition launch again and resumes the requests the drain paused. (R354) -/
  | partUndrain (fn : Nat) (value : Word)
  /-- PART_RESET: A write of PART_CTRL.RESET resets a partition's functions, aborts its tasks and frees its planes, pages and reservations. (R355) -/
  | partReset (fn : Nat) (value : Word)
  /-- PART_RESET_COMPLETE: A partition reset completes and PART_STAT.BUSY clears. (R355) -/
  | partResetComplete (part : Nat)
  /-- FW_CTRL_RESTART: A write of FW_CTRL.RESTART by PF0 restarts the selected firmware processor. (R395) -/
  | fwCtrlRestart (fn : Nat) (value : Word)
  /-- RAS_FENCE: A write of a global core to RAS_FENCE by PF0 fences that core. (R450) -/
  | rasFence (fn : Nat) (value : Word)
  /-- RETRAIN: A write of FAB_LINK_CTRL.RETRAIN retrains a DOWN link unless an open job uses it. (R361) -/
  | retrain (fn : Nat) (value : Word)
  /-- FAB_JOB_EN: A write of FAB_JOB.EN 1 reads the rank map and opens a multi-module job, or refuses it. (R375) -/
  | fabJobEn (fn : Nat) (value : Word)
  /-- CLU_CNT_CTRL: A masked write to CLU_CNT_CTRL freezes or resumes groups of cluster counters. (R469) -/
  | cluCntCtrl (fn : Nat) (cluster : Nat) (value : Word)
  /-- CLU_CNT_CLR: A posted write to CLU_CNT_CLR clears counter groups in all cores of a cluster. (R473) -/
  | cluCntClr (fn : Nat) (cluster : Nat) (value : Word)
  /-- PB_WRITE_APPLIED: A block applies a posted write and clears its BUSY bit. (R473) -/
  | pbWriteApplied (cluster : Nat)
  /-- TA_WRITE: A write to a TA field is checked and staged for the next boundary, or dropped when the stage is full. (R48) -/
  | taWrite (fn : Nat) (offset : Nat) (value : Word)
  /-- REGISTER_WRITE: A write to a register without its own row acts under its access codes, range checks and bus-error rules. (R469) -/
  | registerWrite (fn : Nat) (bar : Nat) (offset : Nat) (data : List Byte) (enables : List Bool)
  /-- SEAL_LAUNCH_SET: 5,000 ns before a boundary the scheduler seals launch sets, backs pages, applies pauses and pre-emption decisions and commits its journal. (R266) -/
  | sealLaunchSet
  /-- TICK_BOUNDARY: The tick master raises a boundary: halts apply, staged TA writes apply, the sealed launch set launches and slips are counted. (R47) -/
  | tickBoundary
  /-- RESERVE_START: The budget of a tick ends and the reserve work due in it runs: ledger and Lark flush, counter roll-over, set-point steps. (R45) -/
  | reserveStart
  /-- LEY_CALIBRATION_DUE: The once-per-second timer or a 10 °C temperature step makes Ley PHY calibration due. (R46) -/
  | leyCalibrationDue
  /-- DEFERRED_RESERVE_WORK: Reserve work due while no boundary is raised runs once no step of any partition is in progress. (R514) -/
  | deferredReserveWork
  /-- STEP_FINISH: Every core of a step has drained and every completion is handed over; a late finish is counted as a reserve intrusion. (R41) -/
  | stepFinish (part : Nat)
  /-- STEP_RESULTS_PROCESS: After a step finishes the scheduler checks each result entry, moves watermarks, delivers tokens and posts request records. (R271) -/
  | stepResultsProcess (part : Nat)
  /-- SWITCH_COMPLETE: A core's switch between partitions completes and it starts work for the incoming partition. (R346) -/
  | switchComplete (core : Nat) (part : Nat)
  /-- TICK_MESSAGE: A Hedgerow class 0 message arrives and a node compares the tick number with its replica, loading the master's on a mismatch. (R32) -/
  | tickMessage (die : Nat) (tick : Nat)
  /-- HALT_FENCE_ORDER: A Hedgerow class 1 halt-and-fence order reaches a core and is applied ahead of a boundary on the same edge. (R31) -/
  | haltFenceOrder (core : Nat) (order : HaltOrder)
  /-- BARRIER_ARRIVAL: A barrier arrival reaches the root, which sends the release when it is the last expected. (R28) -/
  | barrierArrival (id : Nat) (node : Nat)
  /-- BARRIER_RELEASE: A fold-barrier release reaches a core, the next fold's plane becomes ACTIVE and queue, credit and register state is reset. (R202) -/
  | barrierRelease (part : Nat) (run : Nat)
  /-- ERROR_EVENT_MESSAGE: A Hedgerow class 3 error-event message is received and its event is recorded. (R25) -/
  | errorEventMessage (die : Nat) (code : Nat) (payload : List Nat)
  /-- FIRMWARE_CONTROL_MESSAGE: A Hedgerow class 4 message passes between firmware processors. (R25) -/
  | firmwareControlMessage (proc : Nat) (payload : BitVec 96)
  /-- PLANE_LOSS: The second copy of a Hedgerow message does not arrive within 200 ns and the receiver takes that source from one plane. (R27) -/
  | planeLoss (die : Nat) (plane : Bool)
  /-- CORE_DRAINED: A core of a fold becomes drained and sends its fold-barrier arrival. (R201) -/
  | coreDrained (core : Nat)
  /-- FLIT_ARRIVAL: A flit reaches its inbound queue, extension or deposit ring and is discarded when its run number is stale. (R157) -/
  | flitArrival (core : Nat) (queue : BitVec 4)
  /-- CREDIT_RETURN: A credit returns to an outbound queue, letting a waiting flit be sent. (R158) -/
  | creditReturn (core : Nat) (queue : BitVec 4)
  /-- EXTENSION_MOVE: The cluster switch moves a flit from the head of an elastic extension to the core queue as room appears. (R174) -/
  | extensionMove (core : Nat) (queue : BitVec 4)
  /-- SU_HEADER_MATCH: A header at a steering-unit input is matched by key and paired, held in the pairing buffer, or refused as a duplicate. (R166) -/
  | suHeaderMatch (core : Nat) (pair : BitVec 3) (token : Bool)
  /-- STALL_CYCLE: A task's stall counter reaches its limit, the stall record is written and the task is aborted. (R176) -/
  | stallCycle (part : Nat)
  /-- LARK_SAMPLE: Every LARK_INTERVAL cc the cores of a task latch records into the partition's Lark ring, or the sample is dropped. (R178) -/
  | larkSample (part : Nat) (offset : Nat)
  /-- HANDLER_START: A triggering bundle at the head of a VE queue starts its handler, is skipped as an empty-bundle marker, or raises VE_NO_HANDLER. (R118) -/
  | handlerStart (core : Nat) (queue : BitVec 4)
  /-- ME_RUN_ENTRY: The matrix engine runs the next run-list entry's descriptor, waiting for a full deposit slot when WAIT is set. (R187) -/
  | meRunEntry (core : Nat)
  /-- ME_PASS_COMPLETE: A pass ends and, with WRITE_OUT, results are rounded, converted and written, or sent as seeds or block records. (R94) -/
  | mePassComplete (core : Nat)
  /-- ME_SEED_ARRIVAL: A seed bundle arrives and the waiting row starts from its pairs. (R96) -/
  | meSeedArrival (core : Nat)
  /-- ME_MERGE_RECORD: A block record at the head of a producer queue is combined, held in a slot, left waiting, or raises ME_MERGE_ORDER. (R98) -/
  | meMergeRecord (core : Nat) (queue : BitVec 4)
  /-- TM_STREAM_ISSUE: A tile-mover schedule entry is issued on its LAUNCH, FOLD, AFTER or PRELOAD trigger and a free tile mover takes it. (R227) -/
  | tmStreamIssue (part : Nat) (swath : Nat) (entry : Nat)
  /-- TM_READ_RETURN: The data of a tile-mover read returns and is written straight to its destination or replicated to multicast destinations. (R219) -/
  | tmReadReturn (cluster : Nat) (mover : BitVec 3) (count : Nat)
  /-- TM_STREAM_END: A stream has delivered every position and ends, making its writes visible to followers. (R228) -/
  | tmStreamEnd (cluster : Nat) (mover : BitVec 3)
  /-- TM_GATE_COUNT: A closing bundle at a gate gives a gate count that issues, shortens or cancels gated streams. (R230) -/
  | tmGateCount (core : Nat) (queue : BitVec 4) (count : Nat)
  /-- MIGRATION_PASS: A copy pass of a migrating page ends and is followed by another pass or by the switch. (R212) -/
  | migrationPass (part : Nat) (page : Nat) (dirty : Nat)
  /-- PATROL_SCRUB: Patrol scrub reads a Sward or Ley line in idle cycles and writes back a corrected line. (R448) -/
  | patrolScrub (unit : Nat) (lines : Nat)
  /-- TIER_FAILURE: A tier location fails, its pages are poisoned and tasks that used them fail FAIL_TIER. (R234) -/
  | tierFailure (tier : Nat) (unit : Nat) (part : Nat) (page : Nat)
  /-- UNIT_LOSS: A channel, PHY group, stack, port, link or die stops answering and is mapped out. (R449) -/
  | unitLoss (unit : LossUnit)
  /-- CORRECTED: An error is corrected on read or by replay and counted, fencing a core whose count passes RAS_CE_LIMIT. (R449) -/
  | corrected (place : ErrPlace)
  /-- UNCORRECTABLE: A consumer reads bad or poisoned data, aborting its task or fencing the core whose own storage failed. (R449) -/
  | uncorrectable (place : ErrPlace)
  /-- LATENT: An uncorrectable error in data no consumer took poisons the line or page and work continues. (R449) -/
  | latent (place : ErrPlace)
  /-- REPLACEMENT_DONE: The control core finishes re-placing the groups of a fenced core and the step is replayed or the job stops. (R193) -/
  | replacementDone (part : Nat) (core : Nat)
  /-- REPLAY_ORDER: A replay order of a multi-module job arrives and the rank abandons the step and relaunches it at the replay boundary. (R456) -/
  | replayOrder (job : Nat) (gen : Nat) (model : Nat) (step : Nat) (boundary : Nat)
  /-- DIE_LOST: Loss of a die or of both Hedgerow planes to it fences its cores and maps out its memory units. (R459) -/
  | dieLost (die : Nat)
  /-- SYNC_WORD_SEND: Once per 1,024 ns window the module sends a periodic sync word on every link in CHECK or UP. (R367) -/
  | syncWordSend (link : Nat) (fwd : Bool)
  /-- SYNC_WORD_RECEIVE: A sync word arrives: link delay and offset are measured, FWD words are forwarded, ARMED is taken and SYNC and link states move. (R368) -/
  | syncWordReceive (link : Nat) (word : SyncWord)
  /-- BOUNDARY_ARM: The manager arms a boundary 32 µs before its time, carrying it in every word it sends. (R371) -/
  | boundaryArm
  /-- SYNC_STOP: The time base reaches 4 µs before an unarmed next boundary and the module enters STOPPED with its counter held. (R371) -/
  | syncStop
  /-- TAKEOVER: A standby manager STOPPED for one period takes over, raises MGR_EPOCH and arms the next boundary. (R372) -/
  | takeover
  /-- LINK_TRAINED: A link finishes training and locking and enters CHECK. (R364) -/
  | linkTrained (link : Nat) (slice : Nat) (coord : Coord) (peer : Nat) (delay : Nat)
  /-- LINK_DOWN: A link loses lock, exhausts replays, times out or changes neighbour, goes DOWN and its jobs are stopped. (R361) -/
  | linkDown (link : Nat) (cause : Nat)
  /-- FRAME_RECEIVE: A fabric frame arrives and is acknowledged, replayed, forwarded, discarded or delivered to its job. (R360) -/
  | frameReceive (link : Nat) (frame : Frame) (good : Bool)
  /-- JOB_STOP_ORDER: A class 1 stop order arrives, is forwarded, and aborts the jobs that use the named link. (R386) -/
  | jobStopOrder (link : Nat) (origin : Coord) (oseq : Nat) (lostLink : Option (Coord × Nat)) (job : Nat) (gen : Nat) (core : Nat)
  /-- RAMP_ORDER: A class 2 ramp order arrives, is forwarded and sets the slope to apply at its boundary. (R420) -/
  | rampOrder (link : Nat) (origin : Coord) (oseq : Nat) (slope : Nat) (boundary : Nat)
  /-- TRANSFER_ISSUE: A fabric transfer is issued on its trigger and reads its send region, aborting on a paired mismatch. (R379) -/
  | transferIssue (part : Nat) (prog : Nat) (idx : Nat)
  /-- TRANSFER_COMPLETE: Every slot or chunk for a rank has landed and the receive stream delivers to its queue. (R382) -/
  | transferComplete (part : Nat) (prog : Nat) (idx : Nat)
  /-- FWD_ABORT: A forwarding rank's load ends other than DONE and the next rank's matching command fails and passes the abort on. (R385) -/
  | fwdAbort (i : ItemRef) (broken : Bool)
  /-- ETH_READ_RESPONSE: A RoCEv2 READ response arrives and its payload lands as weight chunk data. (R390) -/
  | ethReadResponse (port : Nat) (qp : Nat) (data : List Byte)
  /-- ETH_CNP: A congestion notification packet arrives and the QP's request rate is lowered. (R390) -/
  | ethCnp (port : Nat) (qp : Nat)
  /-- ETH_INBOUND_REQUEST: An inbound RoCEv2 request arrives and is answered with a NAK. (R390) -/
  | ethInboundRequest (port : Nat) (qp : Nat)
  /-- ETH_QP_TIMEOUT: A QP's acknowledgement timeout expires and a READ is retried or the command fails ETH_READ. (R391) -/
  | ethQpTimeout (port : Nat) (qp : Nat)
  /-- CABLE_INTERRUPT: A cable interrupt is serviced within 1 ms and may raise CABLE_ALARM or take a link down. (R389) -/
  | cableInterrupt (link : Nat) (loss : Bool) (alarm : Bool)
  /-- CMIS_MONITOR_POLL: Every 100 ms the power-management core reads cable monitors. (R389) -/
  | cmisMonitorPoll (link : Nat) (alarm : Bool)
  /-- FW_HEARTBEAT: A firmware processor writes its heartbeat and its watchdog restarts. (R395) -/
  | fwHeartbeat (proc : Nat)
  /-- WATCHDOG_EXPIRY: A watchdog sees no heartbeat for 1 ms and restarts its processor. (R395) -/
  | watchdogExpiry (proc : Nat)
  /-- FATAL_EXCEPTION: A firmware processor takes a fatal exception and is restarted. (R395) -/
  | fatalException (proc : Nat)
  /-- FW_RETURN: A restarted processor writes its first heartbeat and its held work resumes. (R396) -/
  | fwReturn (proc : Nat)
  /-- RESTART_BOUND_MISSED: A processor misses its restart bound and is restarted again, becoming DOWN after three failures. (R399) -/
  | restartBoundMissed (proc : Nat)
  /-- ABSENCE_LIMIT: A processor has not returned by its absence limit and the action of Table 14.3 is taken. (R398) -/
  | absenceLimit (proc : Nat)
  /-- POWER_LOOP_SAMPLE: Every 100 µs the power loop reads input power and lowers or raises the set-point. (R408) -/
  | powerLoopSample (watts : Nat)
  /-- THERMAL_LOOP_SAMPLE: Every 1 ms the thermal loop reads the hottest junction and throttles or forbids raises. (R409) -/
  | thermalLoopSample (temps : List (Nat × Nat))
  /-- FEED_BAD: A feed stays outside its band for 2 µs and turns bad, moving the module to the other feed or starting the loss sequence. (R410) -/
  | feedBad (backup : Bool)
  /-- FEED_GOOD: A feed stays inside its band for its settle time and turns good. (R410) -/
  | feedGood (backup : Bool)
  /-- FEED_SWITCH_BACK: The main feed has been good for 10 s and the module moves back to it. (R411) -/
  | feedSwitchBack
  /-- POWER_LOSS_COMMIT: 50 µs after both feeds turn bad the module resumes on a good feed or commits shutdown, halting cores and sending POWER_LOSS. (R412) -/
  | powerLossCommit
  /-- FINAL_LEDGER_WRITE: During hold-up the completion engine writes decided completions and the final ledger of every ring pair. (R326) -/
  | finalLedgerWrite
  /-- HOLDUP_DARK: The switched domains turn off and the conversion stages open at 1,500 µs. (R412) -/
  | holdupDark
  /-- EPO_ASSERT: EPO_N asserted for 2 µs opens every conversion stage within 50 µs. (R421) -/
  | epoAssert
  /-- EPO_RELEASE: EPO_N deasserted for 100 ms with a good feed starts the module from power-on. (R421) -/
  | epoRelease
  /-- COOLANT_FAULT: COOLANT_FAULT_N asserted for 10 µs sets the coolant clamp at 0.3 of the budget. (R422) -/
  | coolantFault
  /-- COOLANT_CLEAR: COOLANT_FAULT_N deasserted for 10 s ends the clamp. (R422) -/
  | coolantClear
  /-- THERMAL_TRIP: A junction at 105 °C for 10 µs opens every conversion stage except always-on and sends THERMAL_TRIP. (R424) -/
  | thermalTrip (die : Nat) (deg : Nat)
  /-- LEASE_EXPIRED: The lease timer reaches 0 and the safe-budget term applies. (R418) -/
  | leaseExpired
  /-- PWR_DOMAIN_FAULT: A regulator reports a fault and its domain and children switch off, failing or fencing the work that used it. (R415) -/
  | pwrDomainFault (domain : Nat)
  /-- COLD_START: A feed turns good on dead rails and the cold-start sequence begins. (R484) -/
  | coldStart
  /-- BOOT_CHAIN: The security core runs boot stages 1 to 4 and latches image digests, or stops the start. (R428) -/
  | bootChain (puf : Bool) (region : Bool)
  /-- POWER_ON_DOMAINS: The power-management core applies trim and held records and turns on the switched domains in power-on order. (R485) -/
  | powerOnDomains
  /-- MEMORY_TRAINING: Sward stacks and Ley channels finish training, failures are mapped out and MEM_CAP is loaded. (R486) -/
  | memoryTraining (sward : BitVec 8) (ley : BitVec 16)
  /-- CORE_TEST: Each control core forms its live core map and runs CORE_BIST on its live cores. (R487) -/
  | coreTest (failed : List Nat)
  /-- HEATH_ENUMERATION: CXL ports train and enumerate and expanders are taken into service as STRIPE or HOME frames. (R489) -/
  | heathEnumeration (capacity : List (Option Nat))
  /-- READY: Stage 0x0B completes and HIF_STATUS.READY sets. (R491) -/
  | ready
  /-- START_STOP: A start stage fails, START_FAIL sets and the module offers only PF0's HIF block. (R492) -/
  | startStop
  /-- PERST_DEASSERT: PERST_N deasserted with a stable reference clock starts link training of the host port. (R493) -/
  | perstDeassert
  /-- PERST_ASSERT: PERST_N asserted after READY resets the host port and every function without final ledgers. (R494) -/
  | perstAssert
  /-- REFCLK_LOSS: REFCLK_PCIE leaves its limits and the module acts as on PERST_N. (R506) -/
  | refclkLoss
  /-- SYSCLK_LOSS: SYSCLK is absent for 10 µs: cores halt, FAULT_N is asserted and a SYSCLK_LOSS record is queued. (R506) -/
  | sysclkLoss
  /-- SB_ID: Sideband command 0x00 returns HIF_ID of PF0. (R508) -/
  | sbId
  /-- SB_STATUS: Sideband command 0x01 returns readiness, trip, feed, sync and stage status. (R508) -/
  | sbStatus
  /-- SB_SERIAL: Sideband command 0x02 returns the serial number. (R508) -/
  | sbSerial
  /-- SB_REC_IN: Sideband command 0x10 takes a 64-byte inbound record and holds it for application, or refuses it. (R508) -/
  | sbRecIn (data : List Byte)
  /-- SB_REC_STAT: Sideband command 0x11 returns record sequences applied and held and the refused count. (R508) -/
  | sbRecStat
  /-- SB_REC_OUT: Sideband command 0x20 returns the oldest unacknowledged outbound record. (R509) -/
  | sbRecOut
  /-- SB_REC_ACK: Sideband command 0x21 removes the oldest outbound record when its OSEQ matches. (R509) -/
  | sbRecAck (oseq : Word)
  /-- WARM_RESET: SB_ORDER 0x01 turns off the switched domains and reruns start-up from stage 0x01. (R498) -/
  | warmReset (order : BitVec 8) (inverse : BitVec 8) (serial : BitVec 16)
  /-- THERMAL_RESTART: SB_ORDER 0x02 restarts the module after a thermal trip once every sensor reads below 85 °C. (R510) -/
  | thermalRestart (order : BitVec 8) (inverse : BitVec 8) (serial : BitVec 16)
  /-- MOVE_COPY_DONE: The last 64-byte line of a MOVE of KIND 1 to 3 lands, and the MOVE's outcome is decided and its completion requested. (R311) -/
  | moveCopyDone (i : ItemRef)
  /-- ETH_LINK_DOWN: An Ethernet port's link goes down, ETH_STAT.LINK_UP clears and every LOAD_WEIGHTS reading over it completes FAIL_FAULT with an ETH_READ event. (R392) -/
  | ethLinkDown (port : Nat)
  /-- ETH_LINK_UP: An enabled Ethernet port's link comes up and ETH_STAT.LINK_UP sets. (R390) -/
  | ethLinkUp (port : Nat)
  /-- ETH_ACK_RECEIVE: A RoCEv2 acknowledgement or NAK arrives for a QP, a NAK being counted in ETH_NAK and leading to a retry. (R390) -/
  | ethAckReceive (port : Nat) (qp : Nat) (nak : Bool)
  /-- HOST_LINK_UP: Host-port link training completes, sets HIF_STATUS.SPEED, WIDTH and DEGRADED, and raises a link-degraded event when the link is below ×4 at 128 GT/s. (R493) -/
  | hostLinkUp (width : BitVec 2) (speed : BitVec 2)
  /-- HOST_LINK_DOWN: The host PCIe link goes down in service without PERST_N or a loss of REFCLK_PCIE. (R447) -/
  | hostLinkDown
  /-- REFCLK_STABLE: REFCLK_PCIE returns within its limits while PERST_N is deasserted, and the host port trains its link again. (R493) -/
  | refclkStable
  /-- CONFIGURATION_REQUEST: A PCIe configuration read or write arrives, is answered with Retry Status before stage 0x04, and otherwise acts on the configuration space, for example NumVFs, Device Control or the power state. (R493) -/
  | configurationRequest (req : CfgReq)
  /-- CXL_PRSNT_CHANGE: CXL_PRSNT_N of a port changes as an expander is attached or removed, which turns the port's domain on or off. (R414) -/
  | cxlPrsntChange (port : BitVec 2) (attached : Bool)
  /-- JTAG_ACCESS: A JTAG TAP operation on TCK, TMS and TDI performs boundary scan or IDCODE, or reaches the register bridge once debug is unlocked. (R443) -/
  | jtagAccess (op : JtagOp)
  /-- BUS_IN_REGULATION: The 13.5 V bus reaches regulation, STAGE takes 0x01, the always-on domain leaves reset and the security-core and host PCIe domains turn on. (R484) -/
  | busInRegulation
  /-- HEDGEROW_TRIM: Hedgerow lane delays are trimmed, every node's tick replica is loaded with 0 and STAGE takes 0x07. (R484) -/
  | hedgerowTrim
  /-- PEAK_TIME_CAP: The 10 ms of input above L within a 100 ms window is used up, so the current limiter caps the input at L and PWR_PEAK_CAP counts the cap. (R419) -/
  | peakTimeCap
  deriving DecidableEq, Repr

end Sys2Proof
end

