-- ==== Sys2Proof/Machine/Layouts.lean ====
section
/-! DEFINITION. Layouts that a swath image fixes and the hardware reads field by field: the binding section, the
steering-unit rules, the matrix-engine descriptor and the tile-mover descriptor (Tables 4.4, 6.6, 7.5 to 7.10, 8.4). -/

namespace Sys2Proof.Machine

/-- Inbound-queue entry (Table 7.6). -/
structure InEntry where
  consumer : Nat
  prodKind : Nat
  prodCore : Nat
  prodQ    : Nat
  ring     : Nat
  ext      : Nat
  extOff   : Nat
  maxLat   : Nat
  tag      : Nat
  deriving DecidableEq, Repr

/-- Read inbound-queue entry `q` of a plane. -/
def inEntry (b : Mem) (q : Nat) : InEntry :=
  let a := 0xB040 + 32 * q
  ⟨b.rd a 1, b.rd (a + 1) 1, b.rd (a + 2) 2, b.rd (a + 4) 1, b.rd (a + 5) 1, b.rd (a + 6) 2, b.rd (a + 8) 4,
    b.rd (a + 12) 2, b.rd (a + 16) 4⟩

/-- Outbound-queue entry (Table 7.7). -/
structure OutEntry where
  producer : Nat
  tokenQ   : Bool
  destCore : Nat
  destQ    : Nat
  deriving DecidableEq, Repr

/-- Read outbound-queue entry `q` of a plane. -/
def outEntry (b : Mem) (q : Nat) : OutEntry :=
  let a := 0xB240 + 32 * q
  ⟨b.rd a 1, bit (b.rd (a + 1) 1) 0, b.rd (a + 2) 2, b.rd (a + 4) 1⟩

/-- Handler-table entry (Table 7.8). -/
structure HandlerEntry where
  tag     : Nat
  inQ     : Nat
  start   : Nat
  outMask : Nat
  deriving DecidableEq, Repr

/-- Read the handler table of a plane. -/
def handlers (b : Mem) : List HandlerEntry :=
  (range' 0 (b.rd 0xB002 2)).map fun i =>
    let a := 0xB440 + 16 * i
    ⟨b.rd a 4 % 2 ^ 28, b.rd (a + 4) 1, b.rd (a + 6) 2, b.rd (a + 8) 2⟩

/-- Run-list entry (Table 7.9). -/
structure RunEntry where
  desc  : Nat
  wait  : Bool
  ring  : Nat
  times : Nat
  deriving DecidableEq, Repr

/-- Read the run list of a plane. -/
def runList (b : Mem) : List RunEntry :=
  (range' 0 (b.rd 0xB004 1)).map fun i =>
    let a := 0xBC40 + 8 * i
    ⟨b.rd a 1, b.rd (a + 1) 1 == 1, b.rd (a + 2) 1, b.rd (a + 4) 2⟩

/-- Deposit-ring entry (Table 7.10). -/
structure RingEntry where
  inQ   : Nat
  flits : Nat
  slots : Nat
  base  : Nat
  deriving DecidableEq, Repr

/-- Read deposit-ring entry `r` of a plane. -/
def ringEntry (b : Mem) (r : Nat) : RingEntry :=
  let a := 0xBE40 + 32 * r
  ⟨b.rd a 1, b.rd (a + 2) 2, b.rd (a + 4) 2, b.rd (a + 8) 4⟩

/-- Steering-unit rule header (Table 6.6). -/
structure SuRule where
  inData  : Nat
  inToken : Nat
  action  : Nat
  restamp : Bool
  emitEmpty : Bool
  mergeTok : Bool
  keyMask : Nat
  selWord : Nat
  selShift : Nat
  selBits : Nat
  mapBase : Nat
  mapLen  : Nat
  outMask : Nat
  outQ    : Nat
  cap     : Nat
  depth   : Nat
  renorm  : Bool
  deriving DecidableEq, Repr

/-- Read the rule header of input pair `p` of a plane. -/
def suRule (b : Mem) (p : Nat) : SuRule :=
  let a := 0x8000 + 64 * p
  let f := b.rd (a + 3) 1
  ⟨b.rd a 1, b.rd (a + 1) 1, b.rd (a + 2) 1, bit f 0, bit f 1, bit f 2, b.rd (a + 4) 4, b.rd (a + 8) 1,
    b.rd (a + 9) 1, b.rd (a + 10) 1, b.rd (a + 12) 2, b.rd (a + 14) 2, b.rd (a + 16) 2, b.rd (a + 18) 1,
    b.rd (a + 20) 2, b.rd (a + 22) 1, bit (b.rd (a + 23) 1) 0⟩

/-- Map entry `e` of a plane (R165). -/
def suMap (b : Mem) (e : Nat) : Nat := b.rd (0x8200 + 4 * e) 4

/-- The map value that means discard (R165). -/
def mapDiscard : Nat := 0xFFFFFFFF

/-- Matrix-engine descriptor (Table 4.4). -/
structure MeDesc where
  mode    : Nat
  fmtA    : Nat
  fmtW    : Nat
  outFmt  : Nat
  rmode   : Nat
  satfin  : Bool
  accInit : Bool
  kEnd    : Bool
  writeOut : Bool
  autoScale : Bool
  padEn   : Bool
  fromTm  : Bool
  m       : Nat
  n       : Nat
  kFirst  : Nat
  kLen    : Nat
  actAddr : Nat
  wgtAddr : Nat
  mergeId : Nat
  mergeDepth : Nat
  seedQ   : Nat
  outKind : Nat
  outAddr : Nat
  srSeed  : Nat
  srStream : Nat
  outScale : Nat
  padValue : Nat
  idxBase : Nat
  idxStride : Nat
  deriving DecidableEq, Repr

/-- Read matrix-engine descriptor `d` of a plane. -/
def meDesc (b : Mem) (d : Nat) : MeDesc :=
  let a := 0xA000 + 64 * d
  let f := b.rd (a + 3) 1
  { mode := b.rd a 1, fmtA := bits (b.rd (a + 1) 1) 0 4, fmtW := bits (b.rd (a + 1) 1) 4 4
    outFmt := bits (b.rd (a + 2) 1) 0 4, rmode := bits (b.rd (a + 2) 1) 4 3, satfin := bit (b.rd (a + 2) 1) 7
    accInit := bit f 0, kEnd := bit f 1, writeOut := bit f 2, autoScale := bit f 3, padEn := bit f 4
    fromTm := bit f 5, m := b.rd (a + 4) 2, n := b.rd (a + 6) 2, kFirst := b.rd (a + 8) 4, kLen := b.rd (a + 12) 4
    actAddr := b.rd (a + 16) 4, wgtAddr := b.rd (a + 20) 4, mergeId := b.rd (a + 24) 1
    mergeDepth := b.rd (a + 25) 1, seedQ := b.rd (a + 26) 1, outKind := b.rd (a + 27) 1
    outAddr := b.rd (a + 28) 4, srSeed := b.rd (a + 32) 8, srStream := b.rd (a + 40) 2
    outScale := b.rd (a + 42) 1, padValue := b.rd (a + 44) 2, idxBase := b.rd (a + 48) 8 % 2 ^ 48
    idxStride := b.rd (a + 56) 4 }

/-- Tile-mover descriptor (Table 8.4). -/
structure TmDesc where
  op      : Nat
  srcLvl  : Nat
  dstLvl  : Nat
  fmt     : Nat
  skew    : Nat
  padEn   : Bool
  scales  : Bool
  order   : Nat
  gate    : Nat
  gateDiv : Nat
  count   : List Nat
  src     : Nat
  dst     : Nat
  srcStride : List Int
  dstStride : List Int
  srcScale : Nat
  dstScale : Nat
  origin0 : Int
  origin1 : Int
  ext0    : Nat
  ext1    : Nat
  pad     : Nat
  tag     : Nat
  dest    : Nat
  lcluster : Nat
  dstQ    : Nat
  hdr     : Nat
  gateCore : Nat
  gateQ   : Nat
  trig    : Nat
  prev    : Bool
  preload : Bool
  altSrc  : Bool
  altDst  : Bool
  altPhase : Nat
  dep     : Nat
  offset  : Nat
  altOff  : Nat
  deriving DecidableEq, Repr

/-- Read entry `e` of a schedule (a header of 128 bytes, then entries of 128 bytes). -/
def tmDesc (b : Mem) (e : Nat) : TmDesc :=
  let a := 128 + 128 * e
  let t := b.rd (a + 0x6C) 1
  { op := b.rd a 1, srcLvl := bits (b.rd (a + 1) 1) 0 4, dstLvl := bits (b.rd (a + 1) 1) 4 4
    fmt := bits (b.rd (a + 2) 1) 0 4, skew := bits (b.rd (a + 3) 1) 0 2, padEn := bit (b.rd (a + 3) 1) 2
    scales := bit (b.rd (a + 3) 1) 3, order := b.rd (a + 4) 1, gate := bits (b.rd (a + 5) 1) 0 2
    gateDiv := b.rd (a + 6) 2, count := (range' 0 4).map fun i => b.rd (a + 8 + 2 * i) 2
    src := b.rd (a + 0x10) 8, dst := b.rd (a + 0x18) 8
    srcStride := 0 :: (range' 0 3).map fun i => sext 32 (b.rd (a + 0x20 + 4 * i) 4)
    dstStride := 0 :: (range' 0 3).map fun i => sext 32 (b.rd (a + 0x2C + 4 * i) 4)
    srcScale := b.rd (a + 0x38) 8, dstScale := b.rd (a + 0x40) 8
    origin0 := sext 16 (b.rd (a + 0x48) 2), origin1 := sext 16 (b.rd (a + 0x4A) 2)
    ext0 := b.rd (a + 0x4C) 2, ext1 := b.rd (a + 0x4E) 2, pad := b.rd (a + 0x50) 4
    tag := b.rd (a + 0x54) 4, dest := b.rd (a + 0x58) 10, lcluster := b.rd (a + 0x62) 1, dstQ := b.rd (a + 0x63) 1
    hdr := b.rd (a + 0x64) 4, gateCore := b.rd (a + 0x68) 2, gateQ := b.rd (a + 0x6A) 1
    trig := bits t 0 2, prev := bit t 2, preload := bit t 3, altSrc := bit t 4, altDst := bit t 5
    altPhase := b2n (bit t 6), dep := b.rd (a + 0x6E) 2, offset := b.rd (a + 0x70) 4, altOff := b.rd (a + 0x74) 4 }

/-- Transfer descriptor of a fabric program (Table 13.7). -/
structure XfDesc where
  op      : Nat
  chan    : Nat
  outRound : Bool
  trig    : Nat
  shift   : Nat
  gateCore : Nat
  gateQ   : Nat
  rxQ     : Nat
  rxCore  : Nat
  tag     : Nat
  send    : Nat
  recv    : Nat
  slot    : Nat
  offset  : Nat
  len     : Nat
  deriving DecidableEq, Repr

/-- Read descriptor `e` of a fabric program (a header of 128 bytes, then descriptors of 64 bytes). -/
def xfDesc (b : Mem) (e : Nat) : XfDesc :=
  let a := 128 + 64 * e
  { op := b.rd a 1, chan := b.rd (a + 1) 1, outRound := bit (b.rd (a + 2) 1) 0, trig := b.rd (a + 3) 1 % 4
    shift := b.rd (a + 4) 2, gateCore := b.rd (a + 6) 2, gateQ := b.rd (a + 8) 1, rxQ := b.rd (a + 9) 1
    rxCore := b.rd (a + 10) 2, tag := b.rd (a + 12) 4 % 2 ^ 28, send := b.rd (a + 0x10) 8, recv := b.rd (a + 0x18) 8
    slot := b.rd (a + 0x20) 4, offset := b.rd (a + 0x24) 4, len := b.rd (a + 0x28) 8 }

/-- OP, SHIFT, SLOT_BYTES and LEN: what paired transfers agree in (R379). -/
def XfDesc.shape (d : XfDesc) : List Nat := [d.op, d.shift, d.slot, d.len]

/-- COUNT of a dimension. -/
def TmDesc.cnt (d : TmDesc) (i : Nat) : Nat := d.count.getD i 1

/-- Dimension at loop position `p`, 0 outermost (ORDER). -/
def TmDesc.dimAt (d : TmDesc) (p : Nat) : Nat := bits d.order (2 * p) 2

/-- Positions of a stream whose outermost loop runs `outer` iterations. -/
def TmDesc.positions (d : TmDesc) (outer : Nat) : Nat :=
  outer * d.cnt (d.dimAt 1) * d.cnt (d.dimAt 2) * d.cnt (d.dimAt 3)

/-- Index of each dimension at the `n`-th position visited (R223). -/
def TmDesc.indexAt (d : TmDesc) (n : Nat) : List Nat :=
  let c (p : Nat) := d.cnt (d.dimAt p)
  let i3 := n % c 3
  let i2 := n / c 3 % c 2
  let i1 := n / (c 3 * c 2) % c 1
  let i0 := n / (c 3 * c 2 * c 1)
  (range' 0 4).map fun dim =>
    if d.dimAt 0 = dim then i0 else if d.dimAt 1 = dim then i1 else if d.dimAt 2 = dim then i2 else i3

/-- Bit offset of a position from its base address, by the strides of one end (R223). -/
def TmDesc.bitOff (d : TmDesc) (strides : List Int) (ix : List Nat) : Int :=
  (ix.getD 0 0 * fmtBits d.fmt : Nat) +
    8 * ((ix.getD 1 0 : Int) * strides.getD 1 0 + (ix.getD 2 0 : Int) * strides.getD 2 0 +
      (ix.getD 3 0 : Int) * strides.getD 3 0)
where
  /-- Width of an element. -/
  fmtBits : Nat → Nat
    | 0 => 32
    | 1 => 16
    | 2 => 16
    | 5 => 6
    | 6 => 6
    | 7 => 4
    | 9 => 32
    | _ => 8

/-- Byte address of the scale byte of the block at index `ix`, from a scale array's address: one byte per block, in the order of the
payloads (R61). -/
def TmDesc.scaleOff (d : TmDesc) (base : Nat) (strides : List Int) (ix : List Nat) : Int :=
  (base : Int) + d.bitOff strides (ix.set 0 (ix.getD 0 0 / 32 * 32)) / (32 * TmDesc.bitOff.fmtBits d.fmt : Nat)

/-- A position is padding (R224). -/
def TmDesc.isPad (d : TmDesc) (ix : List Nat) : Bool :=
  let x : Int := d.origin0 + ix.getD 0 0
  let y : Int := d.origin1 + ix.getD 1 0
  d.padEn && decide (x < 0 ∨ (d.ext0 : Int) ≤ x ∨ y < 0 ∨ (d.ext1 : Int) ≤ y)

end Sys2Proof.Machine
end

