-- ==== Sys2Proof/Config.lean ====
section
/-! DEFINITION. What an implementation fixes and the free values of the model: constants without a body, so that no
proof can see what they are (log entry 1). -/

namespace Sys2Proof.Config

/-- A fresh free value for each count of the state's `freeCtr` (log 1). -/
opaque freeNat : Nat → Nat

/-- Bit pattern that the transcendental unit gives for operation `op` on an FP32 input, before the model holds it to the
error bound of R128 (log 1). -/
opaque xfRaw : Nat → BitVec 32 → BitVec 32

/-- The `unit` byte of an event record, where no rule gives it (R331; log 1). -/
opaque eventUnit : Nat → Nat → Nat

/-- Byte at an address of a store that a self-test has overwritten, for each count of `freeCtr` (R461; log 1). -/
opaque freeByte : Nat → Nat → Byte

/-- Count left in a counter of a core (80 cores and the cluster itself, counter by number) by a clear that meets the group
counting, for each count of `freeCtr` (18_registers, after Table 18.11; log 1). -/
opaque clearCount : Nat → Nat → Nat → Nat

/-- ML-DSA-87 verification: public key, message, signature (R425; log 1). -/
opaque mldsaVerify : List Byte → List Byte → List Byte → Bool

/-- ML-DSA-87 signature of a message by the identity key (R425, R440; log 1). -/
opaque idSign : List Byte → List Byte

/-- The vendor root public key in the security core's ROM (Table 16.1; log 1). -/
opaque vendorRoot : List Byte

/-- The identity public key derived from the PUF, 2,592 bytes (R432; log 1). -/
opaque identityKey : List Byte

/-- Version of the inter-processor protocol that the running firmware speaks (R405; log 1). -/
opaque protoRunning : Nat

/-- Row of the compute grid, 0 or 1, through which data passes between the two I/O dies, neither of which stands in a row (R16;
log 1). -/
opaque ioRow : Nat

end Sys2Proof.Config
end

