-- ==== Sys2Proof/Machine/State.lean ====
section
/-! DEFINITION. The state of the module: plain data, every piece of state the spec names, its reset value as the
default of its field. A docstring names the register or unit, its width, the file and rule that give it, and the reset
value. `State` is the queue of pending commands and the `Module`. -/

namespace Sys2Proof.Machine

/-! ### Hedgerow (01_organisation) -/

/-- A Hedgerow message (R25): source die and unit, class, 8-bit sequence number, up to 96 bits of payload (those of a class 1
order name the order and its target, log 66), the plane its copy goes out on (R27), and the time at which it entered the lane. -/
structure HedgeMsg where
  die     : Nat := 0
  unit    : Nat := 0
  cls     : Nat := 0
  seq     : Nat := 0
  payload : BitVec 96 := 0
  planeB  : Bool := false
  ns      : Nat := 0
  deriving DecidableEq, Repr

/-- The planes from which a receiver takes one source's messages (R27). -/
inductive PlaneUse where
  | both | onlyA | onlyB | lost
  deriving DecidableEq, Repr

/-- The two Hedgerow nodes of a die, one per plane (R14, R25 to R27, R32): what each plane's node holds apart, and what the die's
sources and their receivers hold. -/
structure HNode where
  /-- node A: replica of the tick counter; 64 bits; 01 R32; reset 0 (DESIGN CHOICE 0, log 2) -/
  replica    : Nat := 0
  /-- node B: replica of the tick counter; 64 bits; 01 R32; reset 0 (DESIGN CHOICE 0, log 2) -/
  replicaB   : Nat := 0
  /-- node A: master's tick number to load at the next boundary; 64 bits or none; 01 R32; reset none -/
  reload     : Option Nat := none
  /-- node B: master's tick number to load at the next boundary; 64 bits or none; 01 R32; reset none -/
  reloadB    : Option Nat := none
  /-- sequence number of the last message of each source unit of the die; 8 bits; 01 R25; reset 0 (DESIGN CHOICE 0, log 2) -/
  seqs       : SMap Nat 0 := {}
  /-- planes from which the die's messages are taken; 01 R27; reset both (DESIGN CHOICE both, log 2) -/
  planes     : PlaneUse := .both
  /-- per source unit, the number of the last message of it that was acted on: a second copy is discarded by it; 8 bits or none; 01
  R27; reset none -/
  lastSeen   : SMap (Option Nat) none := {}
  /-- time of the last error-event message issued, ns; 01 R26; reset none -/
  lastErrNs  : Option Nat := none
  /-- error events coalesced since that message; 01 R26; reset 0 -/
  overflow   : Nat := 0
  deriving DecidableEq, Repr

/-- A barrier that the Hedgerow roots combine (R14, R28): the participants expected, and those whose arrival has reached root A
and root B. -/
structure Barrier where
  expected : List Nat := []
  arrived  : List Nat := []
  arrivedB : List Nat := []
  released : Bool := false
  deriving DecidableEq, Repr

/-! ### A core: flits, queues, steering units, engines (03 to 07) -/

/-- A flit (R145): 64 bytes and its sideband: the marks of the first and the last flit of its bundle, the run number, the virtual
channel, how far it is along its route, and since when it has stood there (ns; log 71). The route itself follows from the two
ends (R185). -/
structure Flit where
  data  : BitVec 512 := 0
  first : Bool := false
  last  : Bool := false
  run   : Nat := 0
  /-- virtual channel, 0 to 3; 06 R161, Table 6.5 -/
  vc    : Nat := 0
  /-- links of the route that it has crossed; 0 while it waits to enter the first; 06 R161 -/
  hop   : Nat := 0
  /-- time at which it came to where it stands, ns; 06 R161; reset 0 -/
  since : Nat := 0
  deriving DecidableEq, Repr

/-- An inbound queue (R13, R149, R154, R174). -/
structure InQ where
  /-- flits held, oldest first; at most 32 × 512 bits; 06 R154, 01 R13; reset empty -/
  flits : List Flit := []
  /-- flits in the elastic extension, oldest first; 06 R174; reset empty -/
  ext   : List Flit := []
  /-- SEQ counter of a queue bound with PROD_KIND 1; 32 bits; 06 R149; reset 0 -/
  seq   : Nat := 0
  /-- flits of the bundle that a stream is delivering to the queue and that have not found room yet, oldest first; 06 R149, 01 R13 (log
  80); reset empty -/
  feed  : List Flit := []
  deriving DecidableEq, Repr

/-- An outbound queue (R155, R158). -/
structure OutQ where
  /-- flits staged or waiting behind the four-flit staging buffer; 06 R155; reset empty -/
  staging   : List Flit := []
  /-- flits sent that have not reached the destination queue; 06 R156; reset empty -/
  inFlight  : List Flit := []
  /-- credit counter; 06 R158; reset 0 -/
  credit    : Nat := 0
  /-- credits released by the destination and not yet arrived; 06 R158, R159; reset 0 -/
  creditsBack : Nat := 0
  /-- SEQ counter; 32 bits; 06 R149; reset 0 -/
  seq       : Nat := 0
  /-- bundles sent since the previous CLOSE; 06 R150; reset 0 -/
  sinceClose : Nat := 0
  /-- a bundle's first flit is staged and its last is not (with the close tag, its flits are discarded); 06 R155, R150 -/
  openBundle : Bool := false
  /-- the open bundle has the close tag or is a token bundle whose payload is not sent; 06 R150, R151; reset false -/
  openDrops  : Bool := false
  /-- virtual channel of the bundle staged last; 06 R161; reset 0 -/
  vc         : Nat := 0
  deriving DecidableEq, Repr

/-- An entry of a pairing buffer (R166): a header; a data bundle's payload stays in its inbound queue. -/
structure PairEntry where
  key     : Nat := 0
  seq     : Nat := 0
  header  : BitVec 512 := 0
  /-- payload flits of the bundle wait at the head of the input's queue -/
  payload : Bool := false
  /-- the two payload flits of a route list, taken with its header (09 R239, log 72) -/
  route   : List (BitVec 512) := []
  deriving DecidableEq, Repr

/-- A bundle that a steering unit is sending (R166 to R171): its copies, each an outbound queue, the key of the output it counts
for and its header; whether the payload at the head of the pair's data queue goes with it, and whether a later copy needs that
payload again. -/
structure SuEmit where
  outs    : List (Nat × Nat × BitVec 512) := []
  payload : Bool := false
  again   : Bool := false
  /-- every flit goes to all the queues in one cc (MULTICAST) -/
  multi   : Bool := false
  /-- SEQ comes from the outbound queue's counter (RESTAMP) -/
  restamp : Bool := false
  /-- a closing bundle of a group -/
  closing : Bool := false
  deriving DecidableEq, Repr

/-- An input pair of a steering unit: its pairing buffer and the counters of the open group (R166, R170). -/
structure SuPair where
  /-- waiting data headers, arrival order; 06 R166; reset empty -/
  data    : List PairEntry := []
  /-- waiting token headers, arrival order; 06 R166; reset empty -/
  tokens  : List PairEntry := []
  /-- bundles each output received in the open group, keyed by map entry value or queue; 06 R170; reset empty -/
  sent    : SMap Nat 0 := {}
  /-- bundles that the unit has decided to send for this pair, the one in hand first; 06 R169 to R171; reset empty -/
  emits   : List SuEmit := []
  /-- flits of the bundle in hand already forwarded; 06 R171; reset 0 -/
  pos     : Nat := 0
  deriving DecidableEq, Repr

/-- One level of the vector engine's loop stack (R117). -/
structure LoopLevel where
  bodyStart : Nat
  bodyEnd   : Nat
  total     : Nat
  iter      : Nat
  strip     : Bool
  count     : Nat
  savedVl   : Nat
  deriving DecidableEq, Repr

/-- The handler that runs on a vector engine (R118): its trigger's queue and header, its outbound queues. -/
structure Handler where
  inQ     : Nat
  header  : BitVec 512
  outMask : Nat
  startCc : Nat
  /-- every payload flit of the triggering bundle has been taken; 06 R153 -/
  ended   : Bool := false
  deriving DecidableEq, Repr

/-- The vector engine (R111). -/
structure Ve where
  /-- vector registers v0 to v31, lane l of v r under key 64 r + l; 32 × 64 × 32 bits; 05 R111; reset DESIGN CHOICE 0 (log 2) -/
  v       : SMap (BitVec 32) 0 := {}
  /-- mask registers m1 to m7 (m0 reads all ones); 64 bits each; 05 R111; reset DESIGN CHOICE 0 (log 2) -/
  mask    : SMap (BitVec 64) 0 := {}
  /-- scalar registers s1 to s31 (s0 reads 0); 64 bits each; 05 R111; reset DESIGN CHOICE 0 (log 2) -/
  sc      : SMap (BitVec 64) 0 := {}
  /-- vector length VL; 7 bits, 0 to 64; 05 R111, R116; reset DESIGN CHOICE 64 (the value at the start of a handler, log 2) -/
  vl      : Nat := 64
  /-- stochastic-rounding SEED; 64 bits; 05 R111, R127; reset DESIGN CHOICE 0 (log 2) -/
  seed    : BitVec 64 := 0
  /-- stochastic-rounding STREAM; 16 bits; 05 R111, R127; reset DESIGN CHOICE 0 (log 2) -/
  stream  : BitVec 16 := 0
  /-- instruction index of the running handler; 12 bits; 05 R118; reset 0 -/
  pc      : Nat := 0
  /-- loop stack, innermost first, at most 4 levels; 05 R111, R117; reset empty -/
  loops   : List LoopLevel := []
  /-- the running handler and its latched trigger header; 05 R118, 06 R153; reset none -/
  handler : Option Handler := none
  /-- time of the issue front within the engine, cc; 05 R142; reset 0 -/
  cc      : Nat := 0
  /-- cc at which each result is ready (keys: v r, 32 + m, 40 + s); 05 R142; reset empty -/
  ready   : SMap Nat 0 := {}
  deriving DecidableEq, Repr

/-- An accumulator pair (R74, R93). -/
structure Pair where
  s : BitVec 32 := 0
  c : BitVec 32 := 0
  /-- every product that entered was -0 or a -0 block (R77); the model's own mark beside the pair -/
  neg : Bool := true
  deriving DecidableEq, Repr

/-- A block record held by the merge unit (R97): merge stream, row, block, 64 (hi, lo) pairs, row width. -/
structure MergeRec where
  stream : Nat
  row    : Nat
  block  : Nat
  cols   : Nat
  pairs  : List Pair
  deriving DecidableEq, Repr

/-- The descriptor in flight (R106, R187): its number, rows, the deposit ring whose slot it reads, the address of its
activations, and the weight blocks already done. -/
structure Pass where
  desc    : Nat
  rows    : Nat
  ring    : Option Nat
  slotAddr : Nat
  blk     : Nat := 0
  /-- rows of weight block `blk` are in the array: a pass is in flight (R109) -/
  live    : Bool := false
  /-- results of that block that have left the array, and, after the last block, output rows already sent -/
  sent    : Nat := 0
  deriving DecidableEq, Repr

/-- A tile of a merge stream whose local passes are done: the descriptor that writes it, its rows, and those already output
(R94, R98). -/
structure MeTile where
  desc : Nat
  rows : Nat
  sent : Nat := 0
  deriving DecidableEq, Repr

/-- A deposit ring (R188). -/
structure Ring where
  /-- full slots not yet released, oldest at `head`; 07 R188; reset 0 -/
  full : Nat := 0
  /-- slot the run list reads next; 07 R187; reset 0 -/
  head : Nat := 0
  /-- slot DEPOSIT fills; 07 R188; reset 0 -/
  tail : Nat := 0
  /-- flits in the tail slot; 07 R188; reset 0 -/
  fill : Nat := 0
  /-- what the run list reads next, oldest first: a full slot (false) or an empty-bundle marker (true); 04 R105; reset empty -/
  order : List Bool := []
  deriving DecidableEq, Repr

/-- The matrix engine (R82, R90, R93, R97). -/
structure Me where
  /-- accumulator pairs keyed ((tile × 4 + pass) × 256 + row) × 64 + column, where the tile is the merge stream that the rows
  belong to, or 16; 2 × 32 bits each; 04 R93; reset DESIGN CHOICE (+0, +0) (log 2) -/
  acc      : SMap Pair {} := {}
  /-- tile whose rows the previous descriptor used; 04 R94; reset 16 -/
  tile     : Nat := 16
  /-- tiles of merge streams that wait for their last blocks, by stream; 04 R94, R98; reset none -/
  tiles    : SMap (Option MeTile) none := {}
  /-- rows that carry a received seed of the current descriptor, keyed pass × 256 + row; 04 R96; reset empty -/
  seeded   : SMap Bool false := {}
  /-- held block records, at most 256 slots; 04 R97; reset empty -/
  held     : List MergeRec := []
  /-- next(m) of each merge stream, key stream × 256 + row; 04 R98; reset empty -/
  nextJ    : SMap Nat 0 := {}
  /-- empty-bundle markers that a producer of a merge stream has sent in the open tile, key stream × 32 + queue, and descriptors
  that the local engine skipped, key stream × 32 + 16; 04 R105; reset 0 -/
  skipped  : SMap Nat 0 := {}
  /-- run-list entry to run next; 07 R187; reset 0 -/
  runIdx   : Nat := 0
  /-- runs of that entry already made; 07 R187; reset 0 -/
  runRep   : Nat := 0
  /-- weight blocks in the front buffer, oldest first: stream tag (2^28 for a block from local store) and bytes in feed order, at
  most 2 complete; 04 R90; reset empty -/
  front    : List (Nat × List (BitVec 8)) := []
  /-- tags of front-buffer streams whose blocks are discarded as they arrive; 08 R231; reset empty -/
  drop     : List Nat := []
  /-- W_ACT: the block in use, as bytes in feed order; 04 R82, R91; reset empty -/
  wAct     : List (BitVec 8) := []
  /-- W_NEXT: the block that the chains hold, if they hold one; 04 R91; reset none -/
  wNext    : Option (List (BitVec 8)) := none
  /-- pass in flight; 04 R109; reset none -/
  pass     : Option Pass := none
  deriving DecidableEq, Repr

/-- Counters of a core (Tables 4.5, 5.6, 6.17); 32 bits each, saturating. -/
structure CoreCnt where
  /-- ME_BUSY_CC; 32 bits; 04 Table 4.5; reset 0 -/
  meBusy : Nat := 0
  /-- ME_FRONT_BUBBLE_CC; 32 bits; 04 R92; reset 0 -/
  meFrontBubble : Nat := 0
  /-- ME_SHORT_PASS_CC; 32 bits; 04 R92; reset 0 -/
  meShortPass : Nat := 0
  /-- ME_SEED_WAIT_CC; 32 bits; 04 R96; reset 0 -/
  meSeedWait : Nat := 0
  /-- ME_MERGE_WAIT_CC; 32 bits; 04 R98; reset 0 -/
  meMergeWait : Nat := 0
  /-- ME_MERGE_PEAK; 32 bits; 04 Table 4.5; reset 0 -/
  meMergePeak : Nat := 0
  /-- ME_SKIP; 32 bits; 04 R105; reset 0 -/
  meSkip : Nat := 0
  /-- VE_BUSY_CC; 32 bits; 05 Table 5.6; reset 0 -/
  veBusy : Nat := 0
  /-- VE_ISSUE; 32 bits; 05 R142; reset 0 -/
  veIssue : Nat := 0
  /-- VE_DEP_STALL_CC; 32 bits; 05 R142; reset 0 -/
  veDepStall : Nat := 0
  /-- VE_BANK_STALL_CC; 32 bits; 05 R134; reset 0 -/
  veBankStall : Nat := 0
  /-- VE_QUEUE_WAIT_CC; 32 bits; 05 R135; reset 0 -/
  veQueueWait : Nat := 0
  /-- VE_SKIP; 32 bits; 05 R119; reset 0 -/
  veSkip : Nat := 0
  /-- VE_LONG_HANDLER; 32 bits; 05 R144; reset 0 -/
  veLong : Nat := 0
  /-- Q_CREDIT_WAIT_CC; 32 bits; 06 Table 6.17; reset 0 -/
  qCreditWait : Nat := 0
  /-- Q_SPILL_FLITS; 32 bits; 06 R174; reset 0 -/
  qSpill : Nat := 0
  /-- Q_EXT_PEAK; 32 bits; 06 Table 6.17; reset 0 -/
  qExtPeak : Nat := 0
  /-- SU_BUNDLES; 32 bits; 06 Table 6.17; reset 0 -/
  suBundles : Nat := 0
  /-- SU_PAIR_WAIT_CC; 32 bits; 06 R167; reset 0 -/
  suPairWait : Nat := 0
  /-- SU_BUF_FULL_CC; 32 bits; 06 R166; reset 0 -/
  suBufFull : Nat := 0
  /-- SU_EMPTY_EMIT; 32 bits; 06 R170; reset 0 -/
  suEmptyEmit : Nat := 0
  /-- SU_DISCARD; 32 bits; 06 R169; reset 0 -/
  suDiscard : Nat := 0
  deriving DecidableEq, Repr

/-! ### Configuration planes and cores as units (07) -/

/-- State of a configuration plane (R194). -/
inductive PlaneState where
  | empty | loading | ready | active
  deriving DecidableEq, Repr

/-- One configuration plane of a core. -/
structure Plane where
  /-- EMPTY, LOADING, READY or ACTIVE; 07 R194; reset EMPTY -/
  st     : PlaneState := .empty
  /-- partition whose swath the plane holds; 07 R194; reset 0 (no meaning while EMPTY) -/
  part   : Nat := 0
  /-- SWATH_ID loaded; 64 bits; 07 R181; reset 0 (no meaning while EMPTY) -/
  swath  : Nat := 0
  /-- logical core that runs here; 07 R191; reset none -/
  logical : Option Nat := none
  /-- the 64 KiB of the plane; 07 R183; reset DESIGN CHOICE all 0 (log 2) -/
  bytes  : Mem := []
  deriving DecidableEq, Repr

/-- A core (R11, R111, R82, R154). -/
structure Core where
  /-- local store, 1 MiB; 01 R11, R12; reset DESIGN CHOICE all 0 (log 2) -/
  ls     : Mem := []
  /-- side lane of an activation tile, by local-store slot address: [7:0] the scale byte, [8] the pad mark of the slot's element, in
  FP4 × FP4 of its even element, [9] of its odd element; 04 R85, R87; reset empty -/
  side   : SMap (BitVec 16) 0 := {}
  /-- configuration planes 0 to 3; 07 R183, R194; reset EMPTY -/
  planes : SMap Plane {} := {}
  /-- inbound queues 0 to 15; 06 R154; reset empty -/
  inq    : SMap InQ {} := {}
  /-- outbound queues 0 to 15; 06 R155; reset empty -/
  outq   : SMap OutQ {} := {}
  /-- input pairs 0 to 7; 06 R166; reset empty -/
  su     : SMap SuPair {} := {}
  /-- DISPATCH group data of the two steering units: counter of expert e under 4096 u + e; 16 bits; 09 R243; reset 0 -/
  capTab : SMap Nat 0 := {}
  /-- (ADMIT, POS) of the last route list of the open group, by input pair; 09 R244; reset none -/
  lastOrd : SMap (Option (Nat × Nat)) none := {}
  /-- route lists taken in the open group, by input pair; 09 Table 9.2; reset 0 -/
  lists  : SMap Nat 0 := {}
  /-- pair, 0 to 3, that each steering unit served last; 06 R171; reset 3 (DESIGN CHOICE, log 2) -/
  suTurn : SMap Nat 3 := {}
  /-- counts of closing bundles that arrived at a gating queue and have not been taken as gate counts; 08 R230; reset empty -/
  closings : SMap (List Nat) [] := {}
  /-- time at which the header at the head of a vector-engine queue reached it, ns; 05 R118; reset none -/
  heads  : SMap (Option Nat) none := {}
  /-- local-store accesses of the current cc, as (requester of LS_PRIO, bank); 01 R12, 05 R134; reset empty -/
  lsUse  : List (Nat × Nat) := []
  ve     : Ve := {}
  me     : Me := {}
  /-- deposit rings 0 to 7; 07 R188; reset empty -/
  rings  : SMap Ring {} := {}
  /-- run number of the core's task; 8 bits; 06 R157; reset 0 -/
  run    : Nat := 0
  /-- the core has sent its arrival at the fold barrier; 07 R201; reset false -/
  drained : Bool := false
  /-- a halt order has reached the core (pre-emption, abort or fence); 01 R31, 12 R345; reset false -/
  halted : Bool := false
  /-- time at which the last halt or fence order reached the core, ns; 01 R31; reset none -/
  haltNs : Option Nat := none
  /-- partition whose task used the core last, whose state it holds; 12 R349, 16 R446; reset none -/
  lastPart : Option Nat := none
  cnt    : CoreCnt := {}
  /-- SU_DISP_LISTS; 32 bits; 09 Table 9.4; reset 0 -/
  dispLists : Nat := 0
  /-- SU_DISP_ASSIGN; 32 bits; 09 Table 9.4; reset 0 -/
  dispAssign : Nat := 0
  /-- SU_DISP_MOVED; 32 bits; 09 Table 9.4; reset 0 -/
  dispMoved : Nat := 0
  /-- SU_DISP_DROP; 32 bits; 09 Table 9.4; reset 0 -/
  dispDrop : Nat := 0
  /-- SU_DISP_EXAMINED; 32 bits; 09 Table 9.4; reset 0 -/
  dispExamined : Nat := 0
  /-- SU_DISP_RENORM; 32 bits; 09 Table 9.4; reset 0 -/
  dispRenorm : Nat := 0
  deriving DecidableEq, Repr

/-! ### Tile movers and clusters (08) -/

/-- Why the stream's oldest read waits (Table 8.5). -/
inductive StallCause where
  | bw | reg | xlate | migr | maint | issue
  deriving DecidableEq, Repr

/-- An issued tile-mover stream: its schedule entry, step, loop indices and gate state (R223, R227, R228). -/
structure Stream where
  part    : Nat := 0
  swath   : Nat := 0
  entry   : Nat := 0
  /-- step index plus one, so that the PRELOAD issue n = -1 is 0 -/
  stepP1  : Nat := 0
  /-- positions whose data was read and delivered -/
  pos     : Nat := 0
  /-- iterations of the outermost loop after gating (R230) -/
  outer   : Nat := 0
  cancelled : Bool := false
  /-- number, in the step, of the gate count the issue takes; none without a gate (R230) -/
  gateIx  : Option Nat := none
  /-- bytes of the bundle or weight block being put together (R225, R149) -/
  buf     : Mem := []
  cause   : StallCause := .bw
  deriving DecidableEq, Repr

/-- Tile-mover counters of a cluster (Table 8.11); 32 bits each, saturating. -/
structure TmCnt where
  /-- TM_BUSY_CC; 32 bits; 08 Table 8.11; reset 0 -/
  busy : Nat := 0
  /-- TM_RD_LINES; 32 bits; 08 Table 8.11; reset 0 -/
  rdLines : Nat := 0
  /-- TM_WR_LINES; 32 bits; 08 Table 8.11; reset 0 -/
  wrLines : Nat := 0
  /-- TM_MCAST_LINES; 32 bits; 08 R226; reset 0 -/
  mcast : Nat := 0
  /-- TM_STREAMS; 32 bits; 08 Table 8.11; reset 0 -/
  streams : Nat := 0
  /-- TM_CANCEL; 32 bits; 08 R231; reset 0 -/
  cancel : Nat := 0
  /-- TM_CANCEL_BYTES; 32 bits; 08 R231; reset 0 -/
  cancelLines : Nat := 0
  /-- TM_DISCARD_BYTES; 32 bits; 08 R231; reset 0 -/
  discardLines : Nat := 0
  /-- TM_PAD_LINES; 32 bits; 08 R224; reset 0 -/
  padLines : Nat := 0
  deriving DecidableEq, Repr

/-! ### Pages, accounts and tiers (08) -/

/-- The three memory tiers. -/
inductive Tier where
  | sward | ley | heath
  deriving DecidableEq, Repr

/-- Placement of a backed page (R210). -/
inductive Placement where
  | stripe
  | home (k : Nat)
  deriving DecidableEq, Repr

/-- A migration in progress (R212). -/
structure Migration where
  toTier  : Tier
  toPlace : Placement
  dirty   : List Nat := []
  pass    : Nat := 1
  /-- eviction or MOVE: the item that waits for the switch, as (function, ring, SSN) -/
  item    : Option ItemRef := none
  lockAfter : Bool := false
  deriving DecidableEq, Repr

/-- A page of a partition's range (R210, R211, R213). -/
structure Page where
  /-- tier that backs the page; none while unbacked; 08 R210; reset none -/
  tier   : Option Tier := none
  /-- STRIPE or HOME(k); 08 R210; reset STRIPE -/
  place  : Placement := .stripe
  /-- frame number F (a free value of the model when the page is backed); 08 R210; reset 0 -/
  frame  : Nat := 0
  /-- last-access tick; 64 bits; 08 R218; reset 0 -/
  access : Nat := 0
  /-- locked by MOVE; 08 R211, R213; reset false -/
  locked : Bool := false
  /-- poisoned; 08 R234; reset false -/
  poison : Bool := false
  /-- migration in progress; 08 R212; reset none -/
  mig    : Option Migration := none
  /-- loaded swaths, programs or rings that keep the page backed; 08 R217; reset 0 -/
  heldBy : Nat := 0
  deriving DecidableEq, Repr

/-- Registers of the MEM block per partition (Tables 8.6 to 8.9). -/
structure MemRegs where
  /-- MEM_MODE.FIRST_TIER; 2 bits; 08 Table 8.7; reset 0 (Sward) -/
  firstTier : Tier := .sward
  /-- MEM_MODE.ACCT, true is POOL; 1 bit; 08 Table 8.7; reset 0 -/
  pool : Bool := false
  /-- MEM_RANGE_PAGES; 26 bits; 08 Table 8.7; reset 0 -/
  rangePages : Nat := 0
  /-- MEM_QUOTA_SWARD, _LEY, _HEATH (keys 0 to 2); 24 bits; 08 Table 8.8; reset 0 -/
  quota : SMap Nat 0 := {}
  /-- MEM_FLOOR_SWARD, _LEY, _HEATH (keys 0 to 2); 24 bits; 08 Table 8.8; reset 0 -/
  floor : SMap Nat 0 := {}
  /-- MEM_USED_SWARD, _LEY, _HEATH (keys 0 to 2); 32 bits; 08 Table 8.8; reset 0 -/
  used : SMap Nat 0 := {}
  /-- MEM_RSVD_SWARD, _LEY, _HEATH (keys 0 to 2); 32 bits; 08 Table 8.8; reset 0 -/
  rsvd : SMap Nat 0 := {}
  /-- MEM_STAT.ALLOC_WAIT; 1 bit; 08 R216; reset 0 -/
  allocWait : Bool := false
  /-- MEM_STAT.POISON; 1 bit; 08 R235; reset 0 -/
  poisonBit : Bool := false
  /-- MEM_STAT.BAD_WRITE; 1 bit; 08 R218; reset 0 -/
  badWrite : Bool := false
  /-- MEM_POISON_PAGES; 32 bits; 08 Table 8.8; reset 0 -/
  poisonPages : Nat := 0
  /-- MEM_ALLOC_WAIT; 32 bits; 08 R216; reset 0 -/
  allocWaits : Nat := 0
  /-- MEM_UNBACKED_RD; 32 bits; 08 R211; reset 0 -/
  unbackedRd : Nat := 0
  /-- MEM_MIGRATED; 32 bits; 08 Table 8.8; reset 0 -/
  migrated : Nat := 0
  /-- MEM_STALL_t_c under key 8 t + c; 32 bits each; 08 Table 8.9, R232; reset 0 -/
  stall : SMap Nat 0 := {}
  deriving DecidableEq, Repr

/-- Module-wide memory units (Table 8.10). -/
structure MemUnits where
  /-- MEM_CAP_SWARD; 32 bits; 08 Table 8.10; reset 0x0002_3F80 -/
  capSward : Nat := 147328
  /-- MEM_CAP_LEY; 32 bits; 08 Table 8.10; reset 0x000F_FC00 -/
  capLey : Nat := 1047552
  /-- MEM_CAP_HEATH; 32 bits; 08 Table 8.10; reset 0 -/
  capHeath : Nat := 0
  /-- MEM_HEALTH.SWARD, bit k for stack k; 8 bits; 08 Table 8.10; reset 0 -/
  healthSward : Byte := 0
  /-- MEM_HEALTH.LEY, bit k for PHY group k; 16 bits; 08 Table 8.10; reset 0 -/
  healthLey : BitVec 16 := 0
  /-- MEM_HEALTH.HEATH, bit k for port k; 4 bits; 08 Table 8.10; reset 0 -/
  healthHeath : BitVec 4 := 0
  /-- Ley channels mapped out, bit c for channel c; 64 bits; 17 R449; reset 0 -/
  lostLey : BitVec 64 := 0
  /-- pages each Heath port contributed at enumeration (keys 0 to 3); 19 R489, R490; reset 0 -/
  portPages : SMap Nat 0 := {}
  /-- MEM_EVICT; 32 bits; 08 Table 8.10; reset 0 -/
  evict : Nat := 0
  deriving DecidableEq, Repr

/-- Registers of the LARK block per partition (Tables 6.10 to 6.16). -/
structure LarkRegs where
  /-- LARK_CTRL.EN; 1 bit; 06 Table 6.11; reset 0 -/
  en : Bool := false
  /-- LARK_CTRL.WRAP; 1 bit; 06 Table 6.11; reset 0 -/
  wrap : Bool := false
  /-- LARK_INTERVAL.CC; 24 bits; 06 Table 6.12; reset 0x00_1000 -/
  interval : Nat := 4096
  /-- LARK_RING_SIZE.PAGES; 12 bits; 06 Table 6.13; reset 0 -/
  ringPages : Nat := 0
  /-- Lark ring base; 64 bits; 06 (wide selector 0x0000_0B01); reset DESIGN CHOICE 0 (log 2) -/
  base : Nat := 0
  /-- the ring base has been committed, so its pages are backed; 08 R217; reset false -/
  committed : Bool := false
  /-- LARK_WR_OFF; 32 bits; 06 Table 6.14; reset 0 -/
  wrOff : Nat := 0
  /-- LARK_RD_OFF; 32 bits; 06 Table 6.14; reset 0 -/
  rdOff : Nat := 0
  /-- LARK_STAT.BAD_WRITE; 1 bit; 06 Table 6.14; reset 0 -/
  badWrite : Bool := false
  /-- LARK_STAT.DROPPED; 1 bit; 06 R180; reset 0 -/
  dropped : Bool := false
  /-- LARK_DROP; 32 bits; 06 Table 6.14; reset 0 -/
  drop : Nat := 0
  /-- sample sequence of the partition; 32 bits; 06 Table 6.7; reset 0 -/
  sampleSeq : Nat := 0
  /-- LARK_STALL_LIMIT.LIMIT; 24 bits; 06 Table 6.15; reset 0x01_0000 -/
  stallLimit : Nat := 65536
  /-- LARK_STALL_COUNT; 32 bits; 06 Table 6.16; reset 0 -/
  stallCount : Nat := 0
  /-- LARK_STALL_NQ; 32 bits; 06 Table 6.16; reset 0 -/
  stallNq : Nat := 0
  /-- LARK_STALL_QID0 to 7; 32 bits each (an unused slot reads 0xFFFF_FFFF); 06 Table 6.16; table reset value 0x0 -/
  stallQid : List Nat := [0, 0, 0, 0, 0, 0, 0, 0]
  deriving DecidableEq, Repr

/-! ### Swaths, models and serving (07, 10) -/

/-- A loaded swath (KIND 3) or a manifest recorded as loaded (KIND 4), as attestation lists it and a swap looks it up (16 R439,
R441): the trust-list slot of its key, SWATH_ID or MODEL_ID, DIGEST0, and the first 16 bytes of its statement's digest. -/
structure Attested where
  kind    : Nat
  slot    : Nat
  obj     : Nat
  digest0 : Nat
  stmt    : Nat
  deriving DecidableEq, Repr

/-- A serving record (Table 10.2). -/
structure Serving where
  draft    : Bool
  draftMax : Nat
  modelId  : Nat
  tokensMax : Nat
  reqMax   : Nat
  vocab    : Nat
  maxContext : Nat
  pageBytes : Nat
  cachePages : Nat
  cacheBase : Nat
  draftModel : Nat
  stepTable : Nat
  resultTable : Nat
  tableBytes : Nat
  eos      : List Nat
  deriving DecidableEq, Repr

/-- A loaded swath (R181, R190, R192, R220). -/
structure Swath where
  id       : Nat := 0
  model    : Nat := 0
  foldIndex : Nat := 0
  foldCount : Nat := 1
  wcStep   : Nat := 0
  plane    : Nat := 0
  /-- core group chosen for each logical group, in order; 07 R190 -/
  groups   : List Nat := []
  /-- global core of each logical core, in order; 07 R191 -/
  cores    : List Nat := []
  /-- logical cluster of each logical group; 07 Table 7.2 -/
  lclusters : List Nat := []
  /-- NEED of each logical group; 07 Table 7.2 -/
  need     : List Nat := []
  /-- CS_BYTES of each logical group; 07 Table 7.2 -/
  csBytes  : List Nat := []
  /-- the swath store: the image, and its schedule, as loaded; 07 R192, 08 R220 -/
  image    : Mem := []
  schedule : Mem := []
  entries  : Nat := 0
  /-- tier pages of the swath store charged to the partition; 07 R192 -/
  storePages : Nat := 0
  serving  : Option Serving := none
  /-- the image is READY (checked); 07 R196 -/
  ready    : Bool := false
  /-- device pages that R217 keeps backed for this swath -/
  held     : List Nat := []
  /-- LOAD_SWATH item that loads or loaded it: its completion must be written before a step uses the planes; 07 R196, R197 -/
  loader   : Option ItemRef := none
  /-- cluster whose absent control core the last chosen group waits for; 14 R394 -/
  waitsFor : Option Nat := none
  /-- what attestation lists once the load has completed, with the digest that FAB_LOAD compares beside its DIGEST0; 16 R437, R441 -/
  att      : Option Attested := none
  digest1  : Nat := 0
  deriving DecidableEq, Repr

/-- State of a request (Table 10.1). -/
inductive ReqState where
  | waiting | running | paused | ended
  deriving DecidableEq, Repr

/-- Why a request was paused: by PAUSE, by the scheduler (R281), by a drain (R352). -/
inductive PauseKind where
  | byHost | auto | drain
  deriving DecidableEq, Repr

/-- Cache pages of a request in one model: list entries, spares, watermark (R258, R282, R283). -/
structure Cache where
  /-- page-list entries that hold a page, by index; 10 R282 -/
  pages  : SMap (Option Nat) none := {}
  /-- spare pages; 10 R284 -/
  spares : List Nat := []
  /-- list indices that are PROVISIONAL; 10 R283 -/
  prov   : List Nat := []
  /-- leading entries that are PINNED; 10 R286 -/
  pinned : Nat := 0
  /-- watermark; 24 bits; 10 R258 -/
  mark   : Nat := 0
  deriving DecidableEq, Repr

/-- The part of a round a request is in (R288). -/
inductive Phase where
  | prefill | draftPrefill | decode | draft | verify
  deriving DecidableEq, Repr

/-- An active request (R256 to R290). -/
structure Request where
  part   : Nat := 0
  fn     : Nat := 0
  ring   : Nat := 0
  ssn    : Nat := 0
  itemTag : Nat := 0
  model  : Nat := 0
  draftModel : Nat := 0
  admitNo : Nat := 0
  st     : ReqState := .waiting
  pause  : PauseKind := .byHost
  startPaused : Bool := false
  dropOnMiss : Bool := false
  deadline : Nat := 0
  pace   : Nat := 0
  prio   : Nat := 0
  prompt : List Nat := []
  maxNew : Nat := 0
  outAddr : Nat := 0
  pageList : Nat := 0
  draftPageList : Nat := 0
  seed   : Nat := 0
  temp   : BitVec 32 := 0
  topP   : BitVec 32 := 0
  topK   : Nat := 0
  selMode : Nat := 0
  selAddr : Nat := 0
  gstate : Nat := 0
  drafts : Nat := 0
  prefixUse : Nat := 0
  prefixPin : Nat := 0
  pinPages : Nat := 0
  main   : Cache := {}
  dcache : Cache := {}
  /-- tokens generated so far, in order -/
  generated : List Nat := []
  proposals : List Nat := []
  phase  : Phase := .prefill
  /-- the request's entry in the step in flight: model, step index, first position, positions -/
  inStep : Option (Nat × Nat × Nat × Nat) := none
  /-- its last record is decided and not yet written -/
  recordPending : Bool := false
  /-- completion tick of the last record, or the admission tick -/
  lastTick : Nat := 0
  /-- consecutive seals for which it has waited for pages -/
  waited : Nat := 0
  /-- a pause has taken effect and its PAUSED record follows the step in flight (R279, R281, R352) -/
  pauseDue : Bool := false
  /-- PAUSE items (ring, SSN) that wait for their effect -/
  pauseBy : List (Nat × Nat) := []
  /-- RESUME items (ring, SSN) that wait, with PROMOTE migrations outstanding -/
  resumeBy : List (Nat × Nat) := []
  promoting : Bool := false
  /-- the cell was claimed by an ABORT (R269) -/
  aborted : Bool := false
  /-- the function that admitted it was reset: it ends without a record once no step holds it (R325) -/
  orphan : Bool := false
  /-- step index of the last record written (R397) -/
  lastStep : Option Nat := none
  /-- tier pages reserved per tier at admission -/
  resv   : SMap Nat 0 := {}
  /-- serving record of the model, latched at admission -/
  srv    : Option Serving := none
  /-- serving record of the draft model, latched at admission -/
  dsrv   : Option Serving := none
  deriving DecidableEq, Repr

/-- A prefix of a model (R286). -/
structure Prefix where
  model : Nat := 0
  num   : Nat := 0
  pages : List Nat := []
  /-- serving record of the model when the prefix was pinned -/
  srv   : Option Serving := none
  deriving DecidableEq, Repr

/-- An entry of a sealed launch set (Table 10.4). -/
structure SetEntry where
  slot  : Nat
  kind  : Nat
  firstPos : Nat
  npos  : Nat
  produce : Nat
  tokens : List Nat
  deriving DecidableEq, Repr

/-- Progress of the step of one run (R200, R264, R340). -/
structure RunStep where
  run    : Nat
  model  : Nat
  index  : Nat
  entries : List SetEntry := []
  fold   : Nat := 0
  /-- the fold barrier's last arrival is in: a release is due; 07 R202 -/
  foldDone : Bool := false
  finished : Bool := false
  deriving DecidableEq, Repr

/-- An open run (R264, R313, R341). -/
structure Run where
  num    : Nat
  graph  : Bool
  model  : Nat
  item   : ItemRef
  count  : Nat
  capOvr : Nat := 0
  reqLim : Nat := 0
  tokLim : Nat := 0
  launched : Nat := 0
  finished : Nat := 0
  engineCc : Nat := 0
  /-- no further launch: the run ends after its step in flight (abort or drain) -/
  ending : Bool := false
  deriving DecidableEq, Repr

/-- The step of a partition: in flight, pre-empted, or awaiting replay (R340, R345, R454). -/
structure PartStep where
  tick   : Nat
  launchNs : Nat
  runs   : List RunStep
  /-- cores the step holds -/
  cores  : List Nat
  /-- boundaries since launch or resumption; 12 R344 -/
  held   : Nat := 0
  /-- boundaries raised since launch; 02 R43 -/
  raised : Nat := 0
  preempted : Bool := false
  /-- a halt order for pre-emption is issued and takes effect at the next boundary; 12 R345 -/
  preemptAt : Option Nat := none
  /-- cores whose switch to the partition has not completed; 12 R346 -/
  switching : List Nat := []
  /-- sealed to resume at this boundary; 12 R345, R346 -/
  resumeAt : Option Nat := none
  /-- time up to which its engine time is counted, ns; 12 R342 -/
  accNs  : Nat := 0
  /-- run number of its tasks; 06 R157 -/
  runNo  : Nat := 0
  /-- time at which its switch began, ns; 12 R349 -/
  switchNs : Nat := 0
  /-- cc of the stall counter; 06 R175 -/
  stall  : Nat := 0
  /-- the step is a replay after the fence of this core; 17 R454, R458 -/
  replayOf : Option Nat := none
  deriving DecidableEq, Repr

/-- Live state saved to a context area (R347): logical core and its core state. -/
structure Saved where
  swath   : Nat
  logical : Nat
  core    : Core
  deriving DecidableEq, Repr

/-- Why a step was abandoned and awaits replay (R454). -/
structure Replay where
  runs : List RunStep
  core : Nat
  /-- replay launches at this tick or the first granted seal; a fabric job waits for its REPLAY order (R456) -/
  at?  : Option Nat := none
  waitRanks : Bool := false
  /-- sealed to launch at the next boundary -/
  sealedNow : Bool := false
  deriving DecidableEq, Repr

/-- PART registers and counters (Tables 12.5 to 12.9, 10.9). -/
structure PartRegs where
  /-- PART_CFG.EN; 1 bit; 12 R333; reset 0 -/
  en : Bool := false
  /-- PART_CFG.POOL; 1 bit; 12 R348; reset 0 -/
  pool : Bool := false
  /-- PART_CTRL.DRAIN; 1 bit; 12 R352; reset 0 -/
  drain : Bool := false
  /-- PART_STAT.BUSY; 1 bit; 12 R355; reset 0 -/
  busy : Bool := false
  /-- PART_STAT.DRAINED; 1 bit; 12 R353; reset 0 -/
  drained : Bool := false
  /-- PART_STAT.BAD_WRITE; 1 bit; 12 Table 12.6; reset 0 -/
  badWrite : Bool := false
  /-- PART_SHARE; 16 bits; 12 Table 12.7; reset 0x0100 -/
  share : Nat := 256
  /-- PART_MIN_RUN; 8 bits; 12 Table 12.7; reset 0x04 -/
  minRun : Nat := 4
  /-- PART_CS_QUOTA; 9 bits; 12 Table 12.7; reset 0 -/
  csQuota : Nat := 0
  /-- owned map, bit k for core group k; 160 bits; 12 R335; reset DESIGN CHOICE 0 (every core group FREE, log 2) -/
  owned : BitVec 160 := 0
  /-- PART_SLIP; 32 bits; 12 Table 12.8; reset 0 -/
  slip : Nat := 0
  /-- PART_PREEMPT; 32 bits; 12 Table 12.8; reset 0 -/
  preempt : Nat := 0
  /-- PART_SWITCH_CC; 32 bits; 12 Table 12.8; reset 0 -/
  switchCc : Nat := 0
  /-- PART_AX_SAT; 32 bits; 12 Table 12.8; reset 0 -/
  axSat : Nat := 0
  /-- PART_AX_NAN; 32 bits; 12 Table 12.8; reset 0 -/
  axNan : Nat := 0
  /-- PART_AX_INF; 32 bits; 12 Table 12.8; reset 0 -/
  axInf : Nat := 0
  /-- PART_REG_RATE_b, keys 0 to 4; 32 bits; 12 Table 12.9; reset 0xFFFF_FFFF -/
  rate : SMap Nat 4294967295 := {}
  /-- PART_REG_BURST_b, keys 0 to 4; 32 bits; 12 Table 12.9; reset 0xFFFF_FFFF -/
  burst : SMap Nat 4294967295 := {}
  /-- level of bucket b; 12 R351; reset its BURST -/
  level : SMap Nat 4294967295 := {}
  /-- PART_REG_WAIT_FAB; 32 bits; 12 Table 12.9; reset 0 -/
  waitFab : Nat := 0
  /-- PART_REG_WAIT_HOST; 32 bits; 12 Table 12.9; reset 0 -/
  waitHost : Nat := 0
  /-- PART_ENGINE_CC; 64 bits; 12 R342; reset 0 (a reset of the partition returns it to 0, R355) -/
  engineCc : Nat := 0
  /-- engine time of the tick now running, cc, charged at the next boundary; 12 R342; reset 0 -/
  tickCc : Nat := 0
  /-- virtual time V; 64 bits; 12 R342; reset 0 (R355) -/
  vtime : Nat := 0
  /-- boundaries since the partition last held a pooled core; 12 R343; reset 0 -/
  idlePool : Nat := 0
  /-- PART_SRV_CTRL.RT; 1 bit; 10 Table 10.9; reset 0 -/
  rt : Bool := false
  /-- PART_SRV_CTRL.AUTO_PAUSE; 1 bit; 10 Table 10.9; reset 0 -/
  autoPause : Bool := false
  /-- PART_SRV_WAIT_LIMIT; 16 bits; 10 Table 10.9; reset 0x0010 -/
  waitLimit : Nat := 16
  /-- PART_SRV_QUOTA; 17 bits; 10 Table 10.9; reset 0x1_0000 -/
  srvQuota : Nat := 65536
  /-- PART_SRV_MISS; 32 bits; 10 R275; reset 0 -/
  srvMiss : Nat := 0
  /-- PART_SRV_DROP; 32 bits; 10 R275; reset 0 -/
  srvDrop : Nat := 0
  /-- PART_SRV_DRAFTED; 32 bits; 10 Table 10.9; reset 0 -/
  srvDrafted : Nat := 0
  /-- PART_SRV_ACCEPTED; 32 bits; 10 R290; reset 0 -/
  srvAccepted : Nat := 0
  /-- PART_SRV_STAT.BAD_WRITE; 1 bit; 10 Table 10.9; reset 0 -/
  srvBadWrite : Bool := false
  deriving DecidableEq, Repr

/-- A swap in progress (R310). -/
structure Swap where
  item   : ItemRef
  model  : Nat
  manifest : Nat
  stage  : Nat
  target : Nat
  bytes  : Nat
  /-- the first seal after dispatch has come: the model is held -/
  held   : Bool := false
  copying : Bool := false
  deriving DecidableEq, Repr

/-- A fabric program loaded by FAB_LOAD (13 R378). -/
structure FabProg where
  swath : Nat := 0
  bytes : Mem := []
  /-- device pages that R217 keeps backed -/
  held  : List Nat := []
  deriving DecidableEq, Repr

/-- A partition (R333, R334). -/
structure Part where
  regs   : PartRegs := {}
  mem    : MemRegs := {}
  lark   : LarkRegs := {}
  /-- pages of the range; 08 R210; reset all unbacked -/
  pages  : SMap Page {} := {}
  /-- bytes of the range; 08 R209; unlisted bytes read 0 (R211 for unbacked pages; log 3) -/
  range  : Mem := []
  /-- context-area pages backed in Sward; 12 R348; reset 0 -/
  ctxPages : Nat := 0
  /-- saved live state; 12 R345, R347; reset empty -/
  saved  : List Saved := []
  /-- saved fold-stream records, as (cluster, stream); 12 R345, R347; reset empty -/
  savedStreams : List (Nat × Stream) := []
  /-- loaded swaths; 07 R192; reset empty -/
  swaths : List Swath := []
  /-- launches of each model counted since a schedule of it became READY (step index), by MODEL_ID; 08 R227, 10 R264; reset 0 -/
  launches : SMap Nat 0 := {}
  /-- launches of its model since the schedule of a swath became READY (step index n plus one), by SWATH_ID; 08 R227; reset 0 -/
  steps : SMap Nat 0 := {}
  /-- steps (index plus two) below which a swath's entries are issued no more: an aborted step takes its issues with it; 08 R228; reset
  0 -/
  issueFloor : SMap Nat 0 := {}
  /-- schedule entries whose trigger has come and that wait for a tile mover or a gate count, key swath × 65536 + entry; 08 R227, R230;
  reset empty -/
  tmWait : List Nat := []
  /-- open runs; 10 R264, 11 R313; reset empty -/
  runs   : List Run := []
  /-- sealed launch set of the next boundary; 02 R47; reset none -/
  sealedSet : Option (List RunStep) := none
  /-- the partition step; 12 R340; reset none -/
  step   : Option PartStep := none
  /-- finished steps whose results the scheduler has not processed; 10 R271; reset empty -/
  results : List RunStep := []
  /-- an abandoned step that is to be replayed; 17 R454; reset none -/
  replay : Option Replay := none
  /-- admission counter; 64 bits; 10 R257; reset 0 -/
  admitCtr : Nat := 0
  /-- prefixes; 10 R286; reset empty -/
  prefixes : List Prefix := []
  /-- loaded swaths and manifests recorded as loaded, in order of completion, at most 256 manifests; 11 R309, 16 R439, R441; reset empty -/
  attested : List Attested := []
  /-- swaps dispatched; 11 R310; reset empty -/
  swaps  : List Swap := []
  /-- fabric programs; 13 R378; reset empty -/
  fabProgs : List FabProg := []
  /-- the drain's seal has come; 12 R352; reset false -/
  drainSeal : Bool := false
  /-- gate counts known, by swath, step, core and queue (`gateKey`), in order of arrival; 08 R230; reset empty -/
  gates  : SMap (List Nat) [] := {}
  /-- gate counts already taken by issues, same keys; 08 R230; reset 0 -/
  gateTaken : SMap Nat 0 := {}
  /-- last step (index plus two, so that PRELOAD is 1) in which each schedule entry was issued, key swath × 65536 + entry; 08 R227; reset 0 -/
  issued : SMap Nat 0 := {}
  /-- last step (index plus two) in which each entry's issue ended, same key; 08 R227; reset 0 -/
  issueEnded : SMap Nat 0 := {}
  /-- last step (index plus two) in which each entry's issue was cancelled, same key; 08 R231; reset 0 -/
  issueCancelled : SMap Nat 0 := {}
  deriving DecidableEq, Repr

/-! ### Host interface: rings, items, functions (11) -/

/-- Status codes (Table 11.7). -/
inductive Status where
  | done | doneLate | aborted | abortLate | paused
  | failFault | failTier | failLink | failFence | failPower | failFw
  | rejQuota | rejFormat | rejSignature | rejState | drained | lostEpoch
  deriving DecidableEq, Repr

/-- DETAIL of a completion that is not yet written: a value, the CSN that another item's completion gets, or the CSN
that follows the completion's own (R317, R319). -/
inductive Detail where
  | val (v : Nat)
  | csnOf (i : ItemRef)
  | ownCsnPlus1
  deriving DecidableEq, Repr

/-- Life of a fetched item (R305, R307, R318). -/
inductive ItemState where
  | fetched      -- fetched, not dispatched
  | dispatched   -- dispatched, not started
  | running
  | decided      -- terminal-state cell written
  | written      -- terminal completion written
  deriving DecidableEq, Repr

/-- A fetched item and its terminal-state cell (R318). -/
structure Item where
  ref    : ItemRef
  opcode : Nat
  /-- the 64-byte descriptor, little-endian -/
  desc   : BitVec 512
  st     : ItemState := .fetched
  status : Option Status := none
  csn    : Nat := 0
  tick   : Nat := 0
  /-- work count of a running item (bytes landed, pages moved, chunks landed) -/
  progress : Nat := 0
  /-- the tier pages reserved for the item, by tier -/
  resv   : SMap Nat 0 := {}
  /-- pages the item backed itself -/
  backed : List Nat := []
  /-- SYNC: items fetched before it, in its scope, whose terminal completion is not written; 11 R315 -/
  waits  : List ItemRef := []
  /-- SYNC: items it waited for; 11 R315 -/
  waitCount : Nat := 0
  /-- LOAD_WEIGHTS over Ethernet or from the rank before: bytes of each chunk that have landed; 13 R384, R392 -/
  landed : SMap Nat 0 := {}
  /-- LOAD_WEIGHTS over Ethernet: READ requests issued on each port; 13 R391, R392 -/
  reqs : SMap Nat 0 := {}
  /-- LOAD_WEIGHTS over Ethernet: PORT, the QPs on port 0 and 1, the remote address, of its storage read block; 13 R392 -/
  eth : List Nat := []
  /-- LOAD_WEIGHTS past its signature check: what is recorded when it completes; 16 R435, R439 -/
  att : Option Attested := none
  /-- LOAD_WEIGHTS: the next rank has ended early, nothing more is forwarded; 13 R385 -/
  fwdBroken : Bool := false
  /-- LOAD_WEIGHTS: chunks forwarded to the next rank; 13 R384 -/
  fwdNext : Nat := 0
  deriving DecidableEq, Repr

/-- A completion that waits in the completion engine (R300, R317). -/
structure Waiting where
  ref    : ItemRef
  tag    : Nat
  status : Status
  detail : Detail
  /-- it is the item's terminal completion (a request's non-final record is not) -/
  terminal : Bool := true
  /-- it may be written only after this item's terminal completion -/
  after  : Option ItemRef := none
  /-- deadline of the item or record, 0 for none (R304, R272) -/
  deadline : Nat := 0
  /-- step index of a request record (R397) -/
  step : Option Nat := none
  /-- SSN that the completion echoes in place of the item's (R298) -/
  echo : Option Nat := none
  deriving DecidableEq, Repr

/-- A completion entry as written to host memory (Table 11.16). -/
structure CplEntry where
  csn    : Nat
  ssn    : Nat
  tag    : Nat
  status : Status
  detail : Nat
  tick   : Nat
  deriving DecidableEq, Repr

/-- A ledger block as written (Table 11.9). -/
structure Ledger where
  lastFetched : Nat
  lastRetired : Nat
  lastCsn     : Nat
  epoch       : Nat
  flags       : Nat
  tick        : Nat
  seq         : Nat
  hostCqDb    : Nat
  inFlight    : Nat
  startCount  : Nat
  fnResets    : Nat
  check       : Nat
  deriving DecidableEq, Repr

/-- What the module writes towards the host, in order (R301, R331). -/
inductive HostWrite where
  | bytes (addr : Nat) (data : List (Byte))
  | completion (fn ring : Nat) (e : CplEntry)
  | ledger (fn ring : Nat) (addr : Nat) (l : Ledger)
  | msix (fn vector : Nat)
  deriving DecidableEq, Repr

/-- A ring pair (R294, R295, Tables 11.10 to 11.14). -/
structure Ringp where
  /-- submission ring base; 64 bits; 11 (wide selector 0x0000_0101); reset DESIGN CHOICE 0 (log 2) -/
  sqBase : Nat := 0
  /-- completion ring base; 64 bits; 11 (wide selector 0x0000_0102); reset DESIGN CHOICE 0 (log 2) -/
  cqBase : Nat := 0
  /-- ledger address; 64 bits; 11 (wide selector 0x0000_0103); reset DESIGN CHOICE 0 (log 2) -/
  ledgerAddr : Nat := 0
  /-- RING_SQ_CFG.EN; 1 bit; 11 Table 11.11; reset 0 -/
  sqEn : Bool := false
  /-- RING_SQ_CFG.LOG2; 5 bits; 11 Table 11.11; reset 0x06 -/
  sqLog2 : Nat := 6
  /-- RING_CQ_CFG.INT_EN; 1 bit; 11 Table 11.11; reset 0 -/
  intEn : Bool := false
  /-- RING_CQ_CFG.EN; 1 bit; 11 Table 11.11; reset 0 -/
  cqEn : Bool := false
  /-- RING_CQ_CFG.LOG2; 5 bits; 11 Table 11.11; reset 0x06 -/
  cqLog2 : Nat := 6
  /-- RING_CQ_MOD.TIME_US; 16 bits; 11 Table 11.12; reset 0 -/
  modTime : Nat := 0
  /-- RING_CQ_MOD.COUNT; 16 bits; 11 Table 11.12; reset 0 -/
  modCount : Nat := 0
  /-- RING_SQ_NEXT; 32 bits; 11 Table 11.13; reset 1 -/
  sqNext : BitVec 32 := 1
  /-- RING_CQ_NEXT; 32 bits; 11 Table 11.13; reset 1 -/
  cqNext : BitVec 32 := 1
  /-- last SSN made available by a doorbell; 32 bits; 11 R297; reset 0 (RING_SQ_NEXT - 1) -/
  sqDb : BitVec 32 := 0
  /-- last value accepted by a completion doorbell; 32 bits; 11 R300; reset 0 (RING_CQ_NEXT - 1) -/
  cqDb : BitVec 32 := 0
  /-- RING_STAT.BAD_WRITE; 1 bit; 11 Table 11.14; reset 0 -/
  badWrite : Bool := false
  /-- RING_STAT.FETCH_ERR; 1 bit; 11 Table 11.14; reset 0 -/
  fetchErr : Bool := false
  /-- RING_STAT.DB_OVF; 1 bit; 11 Table 11.14; reset 0 -/
  dbOvf : Bool := false
  /-- RING_STAT.SSN_ERR; 1 bit; 11 Table 11.14; reset 0 -/
  ssnErr : Bool := false
  /-- fetching stopped by an error until EN is cleared and set; 11 R298; reset false -/
  stopped : Bool := false
  /-- the ring has been enabled in the current epoch: its epoch start; 32 bits or none; 11 R327; reset none -/
  epochStart : Option (BitVec 32) := none
  /-- items fetched in this epoch, oldest first, with their cells; 11 R318, R319; reset empty -/
  items : List Item := []
  /-- completions that wait in the completion engine, oldest first; 11 R300; reset empty -/
  waiting : List Waiting := []
  /-- entries of the open batch; 11 R302; reset 0 -/
  batch : Nat := 0
  /-- time of the open batch's first entry, ns; 11 R302; reset 0 -/
  batchNs : Nat := 0
  /-- entries written that no interrupt covers; 11 R302; reset 0 -/
  uncovered : Nat := 0
  /-- time of the first written entry that no interrupt covers, ns; 11 R302; reset none -/
  uncovNs : Option Nat := none
  /-- LAST_RETIRED; 32 bits; 11 R323; reset 0 -/
  lastRetired : BitVec 32 := 0
  /-- LEDGER_SEQ; 32 bits; 11 Table 11.9; reset 0 -/
  ledgerSeq : Nat := 0
  deriving DecidableEq, Repr

/-- A response on the management response ring (R329). -/
structure MgmtResp where
  msn    : Nat := 0
  reqMsn : Nat := 0
  tag    : Nat := 0
  status : Status := .done
  detail : Nat := 0
  body   : List (Byte) := []
  deriving DecidableEq, Repr

/-- An event record (R331). -/
structure EventRec where
  evsn    : Nat
  code    : Nat
  part    : Nat
  tick    : Nat
  die     : Nat
  unit    : Nat
  lost    : Nat
  payload : List Nat
  deriving DecidableEq, Repr

/-! ### A function of the host port (11, 18) -/

/-- The wide-value operation in progress or last completed (R476 to R478). -/
inductive WideOp where
  | none | read | commit
  deriving DecidableEq, Repr

/-- The select registers of a function (R474). -/
structure Selects where
  /-- RING_SEL; 4 bits; 11 Table 11.10; reset 0 -/
  ring : Nat := 0
  /-- MEM_PSEL; 6 bits; 08 Table 8.6; reset 0 -/
  mem  : Nat := 0
  /-- LARK_PSEL; 6 bits; 06 Table 6.10; reset 0 -/
  lark : Nat := 0
  /-- PART_PSEL; 6 bits; 12 Table 12.4; reset 0 -/
  part : Nat := 0
  /-- FAB_PSEL; 6 bits; 13 Table 13.11; reset 0 -/
  fab  : Nat := 0
  /-- FAB_LINK_SEL; 4 bits; 13 Table 13.9; reset 0 -/
  link : Nat := 0
  /-- ETH_PORT_SEL; 1 bit; 13 Table 13.12; reset 0 -/
  eth  : Nat := 0
  /-- FW_SEL; 6 bits; 14 Table 14.4; reset 0 -/
  fw   : Nat := 0
  /-- SEC_PSEL; 6 bits; 16 Table 16.10; reset 0 -/
  sec  : Nat := 0
  /-- HIF_FN_SEL; 6 bits; 11 Table 11.15; reset 0 -/
  fn   : Nat := 0
  deriving DecidableEq, Repr

/-- The wide-value mailbox of a function (Table 18.8). -/
structure Mailbox where
  /-- HIF_WIDE_SEL.SEL; 16 bits; 18 Table 18.8; reset 0 -/
  sel   : Nat := 0
  /-- HIF_WIDE_STAT.VALID; 1 bit; 18 Table 18.8; reset 1 -/
  valid : Bool := true
  /-- HIF_WIDE_STAT.ERR; 3 bits; 18 Table 18.8; reset 0 -/
  err   : Nat := 0
  /-- HIF_WIDE_D0; 32 bits; 18 Table 18.8; reset 0 -/
  d0    : BitVec 32 := 0
  /-- HIF_WIDE_D1; 32 bits; 18 Table 18.8; reset 0 -/
  d1    : BitVec 32 := 0
  /-- HIF_WIDE_D2; 32 bits; 18 Table 18.8; reset 0 -/
  d2    : BitVec 32 := 0
  /-- HIF_WIDE_D3; 32 bits; 18 Table 18.8; reset 0 -/
  d3    : BitVec 32 := 0
  /-- operation in progress; 18 R476 to R478; reset none -/
  busy  : WideOp := .none
  /-- ERR that the operation in progress shows when it completes; 18 R477, R478; reset 0 -/
  endErr : Nat := 0
  /-- selector and selections latched by the last completed read; 18 R476, R477; reset none -/
  latched : Option (Nat × Selects) := none
  deriving DecidableEq, Repr

/-- HIF_BUSERR and HIF_BUSERR_ADDR (Table 18.7). -/
structure BusErr where
  /-- HIF_BUSERR.WRITE_ERR; 1 bit; 18 Table 18.7; reset 0 -/
  writeErr : Bool := false
  /-- HIF_BUSERR.OVF; 1 bit; 18 Table 18.7; reset 0 -/
  ovf   : Bool := false
  /-- HIF_BUSERR.CAUSE; 3 bits; 18 Table 18.7; reset 0 -/
  cause : Nat := 0
  /-- HIF_BUSERR_ADDR; 32 bits; 18 Table 18.7; reset 0 -/
  addr  : Nat := 0
  deriving DecidableEq, Repr

/-- One entry of the MSI-X table (R293; PCI Express layout). -/
structure MsixEntry where
  /-- message address; 64 bits; 11 R293; reset PRESUMED 0 (PCI Express, log 4) -/
  addr : BitVec 64 := 0
  /-- message data; 32 bits; 11 R293; reset PRESUMED 0 (PCI Express, log 4) -/
  data : BitVec 32 := 0
  /-- vector mask; 1 bit; 11 R293; reset PRESUMED 1 (PCI Express, log 4) -/
  mask : Bool := true
  /-- pending bit; 1 bit; 11 R293; reset PRESUMED 0 (PCI Express, log 4) -/
  pend : Bool := false
  deriving DecidableEq, Repr

/-- A function: PF0 or VF n (R291 to R295, R328, R331, R474 to R480). -/
structure Fn where
  /-- HIF_FN_PART.BOUND; 1 bit; 11 Table 11.15; reset 0 -/
  bound : Bool := false
  /-- HIF_FN_PART.PART; 6 bits; 11 Table 11.15; reset 0 -/
  part  : Nat := 0
  /-- HIF_FN_PART.BAD_WRITE; 1 bit; 11 Table 11.15; reset 0 -/
  fnBadWrite : Bool := false
  /-- HIF_FN_RESETS; 32 bits; 11 R324; reset 0 -/
  resets : Nat := 0
  /-- power state D3hot; 11 Table 11.1; reset DESIGN CHOICE D0 (log 2) -/
  d3 : Bool := false
  /-- Relaxed Ordering enabled in Device Control; 11 R301; reset DESIGN CHOICE false (log 2) -/
  relaxed : Bool := false
  /-- Advanced Error Reporting has recorded a Completer Abort; 1 bit; 18 R479; reset DESIGN CHOICE 0 (log 2) -/
  aerAbort : Bool := false
  /-- a function reset is in progress; 11 R325; reset false -/
  resetting : Bool := false
  sel   : Selects := {}
  box   : Mailbox := {}
  err   : BusErr := {}
  /-- ring pairs 0 to 15; 11 R294; reset disabled -/
  rings : SMap Ringp {} := {}
  /-- pending aborts, at most 64: (the ABORT's ring and SSN, target ring, target SSN); 11 R319; reset empty -/
  pendAborts : List (Nat × Nat × Nat × Nat) := []
  /-- MSI-X table, vectors 0 to 17; 11 R293, Table 11.4; reset masked (log 4) -/
  msix  : SMap MsixEntry {} := {}
  /-- MRQ_TAIL; 32 bits; 11 R328; reset DESIGN CHOICE 0 (log 2) -/
  mrqTail : Nat := 0
  /-- MRQ_HEAD; 32 bits; 11 R328; reset DESIGN CHOICE 0 (log 2) -/
  mrqHead : Nat := 0
  /-- MRS_LAST; 32 bits; 11 R328; reset DESIGN CHOICE 0 (log 2) -/
  mrsLast : Nat := 0
  /-- MRS_HEAD; 32 bits; 11 R328; reset DESIGN CHOICE 0 (log 2) -/
  mrsHead : Nat := 0
  /-- EVT_LAST, updated at each batch; 32 bits; 11 R331; reset 0 -/
  evtLast : Nat := 0
  /-- EVSN of the last record written (EVT_LAST once its batch closes); 32 bits; 11 R331; reset 0 -/
  evtWritten : Nat := 0
  /-- EVT_HEAD; 32 bits; 11 R331; reset 0 -/
  evtHead : Nat := 0
  /-- EVT_LOST; 32 bits; 11 R331; reset 0 -/
  evtLost : Nat := 0
  /-- events dropped since the last record written; 11 R331 (LOST); reset 0 -/
  evtLostNow : Nat := 0
  /-- event records written, newest first; 11 R331; reset empty -/
  events : List EventRec := []
  /-- messages that wait for an absent processor, oldest first; 11 R330; reset empty -/
  mgmtWait : List MgmtMsg := []
  /-- responses written, newest first; 11 R329; reset empty -/
  resps : List MgmtResp := []
  /-- MSN of the last response written (MRS_LAST once its batch closes); 11 R329, R331; reset 0 -/
  respWritten : Nat := 0
  /-- staging area of PF0, bytes from window offset 0x18_1000; 11 R328; reset DESIGN CHOICE all 0 (log 2) -/
  staging : Mem := []
  deriving DecidableEq, Repr

/-! ### The tick (02) -/

/-- TICK_STAT.SYNC (Table 2.7). -/
inductive Sync where
  | free | acquire | locked | stopped
  deriving DecidableEq, Repr

/-- TICK_STAT.ROLE (Table 2.7). -/
inductive Role where
  | worker | standby | manager | norole
  deriving DecidableEq, Repr

/-- A staged TA write (R48, R49): the register by BAR0 offset, the partition its select named, the value. -/
structure TaWrite where
  offset : Nat
  part   : Nat
  value  : Nat
  deriving DecidableEq, Repr

/-- Reserve work that has fallen due (Table 2.3, R46, R514). -/
inductive ReserveWork where
  /-- Ley calibration made due by a temperature step, or by the once-per-second timer (false) -/
  | leyCal (byTemp : Bool)
  | setPoint (value : Nat)
  /-- the fall to the safe operating point (R403), which never waits -/
  | safeFall
  /-- CALIBRATE LEY_PHY, with its item -/
  | leyPhy (i : ItemRef)
  deriving DecidableEq, Repr

/-- The tick master and the TICK block. -/
structure Tick where
  /-- time since power-on, ns: the time base counted from power-on; 02 R35, 01 R29; reset DESIGN CHOICE 0 (log 2) -/
  ns     : Nat := 0
  /-- where the time base has its epoch on that count, ns; 13 R368, R371; reset DESIGN CHOICE 0 (log 2) -/
  epochNs : Int := 0
  /-- TICK_COUNT; 64 bits; 02 R34; reset 0 (19 R484, stage 0x07) -/
  count  : Nat := 0
  /-- TICK_BOUNDARY_TIME, kept from power-on; 64 bits; 02 Table 2.1; reset DESIGN CHOICE 0 (log 2) -/
  boundaryNs : Nat := 0
  /-- TICK_PERIOD_NS; 32 bits; 02 Table 2.5; reset 0x001E_8480 -/
  period : Nat := 2000000
  /-- period applied at a boundary and governing from the next tick; 02 R39; reset none -/
  nextPeriod : Option Nat := none
  /-- TICK_RESERVE_PCT; 6 bits; 02 Table 2.6; reset 0x08 -/
  pct    : Nat := 8
  /-- TICK_STAT.TA_OVF; 1 bit; 02 Table 2.7; reset 0 -/
  taOvf  : Bool := false
  /-- TICK_STAT.BAD_WRITE; 1 bit; 02 Table 2.7; reset 0 -/
  badWrite : Bool := false
  /-- TICK_STAT.ROLE; 2 bits; 02 Table 2.7; reset 0 -/
  role   : Role := .worker
  /-- TICK_STAT.SYNC; 2 bits; 02 Table 2.7; reset 0 -/
  sync   : Sync := .free
  /-- TICK_SLIP_TOTAL; 32 bits; 02 Table 2.8; reset 0 -/
  slipTotal : Nat := 0
  /-- TICK_CAL_HOLD; 32 bits; 02 Table 2.8; reset 0 -/
  calHold : Nat := 0
  /-- TICK_RESV_INTRUDE; 32 bits; 02 Table 2.8; reset 0 -/
  intrude : Nat := 0
  /-- staged TA writes, keyed by block number, in arrival order, at most 64 a block; 02 R48, R49; reset empty -/
  staged : SMap (List TaWrite) [] := {}
  /-- highest boundary armed; 64 bits; 13 R371; reset DESIGN CHOICE 0 (log 2) -/
  armed  : Nat := 0
  /-- boundary whose launch set is sealed; 02 R47; reset none -/
  sealedFor : Option Nat := none
  /-- the tick that the next boundary opens, or the tick now running, is a calibration hold; 02 R46; reset false -/
  holdNext : Bool := false
  /-- reserve work due and not yet run; 02 R45, R46, R514; reset empty -/
  due    : List ReserveWork := []
  /-- reserve work now running; 02 R514; reset empty -/
  running : List ReserveWork := []
  /-- the budget of the tick has ended; 02 R47; reset false -/
  inReserve : Bool := false
  /-- the module has entered STOPPED since the last boundary it raised; 02 R55; reset false -/
  wasStopped : Bool := false
  /-- consecutive words with an offset within 10 ns, in ACQUIRE; 13 R371; reset 0 -/
  goodWords : Nat := 0
  /-- time of the next boundary where it is not one period after the last (takeover); 13 R372; reset none -/
  nextAt : Option Nat := none
  /-- time at which the once-per-second timer last made Ley calibration due, ns; 02 R45, R46; reset none -/
  lastCalNs : Option Nat := none
  /-- time at which the module last raised a boundary, ns; 02 R55; reset DESIGN CHOICE 0 (log 2) -/
  raisedNs : Nat := 0
  /-- time until which reserve work that began outside any tick runs, ns; 02 R514; reset 0 -/
  workEnds : Nat := 0
  deriving DecidableEq, Repr

/-! ### Firmware processors (14) -/

/-- FW_STAT.STATE (Table 14.5). -/
inductive FwState where
  | running | restarting | absent | down | updating
  deriving DecidableEq, Repr

/-- A firmware processor: 0 scheduler, 1 security, 2 power management, 32 + k control core of cluster k. -/
structure FwProc where
  /-- FW_STAT.STATE; 3 bits; 14 Table 14.5; reset 0 -/
  st     : FwState := .running
  /-- FW_STAT.SLOT; 1 bit; 14 Table 14.5; reset 0 -/
  slot   : Nat := 0
  /-- FW_RESTARTS; 32 bits; 14 Table 14.5; reset 0 -/
  restarts : Nat := 0
  /-- FW_LAST_ABSENT_US; 32 bits; 14 Table 14.5; reset 0 -/
  lastAbsentUs : Nat := 0
  /-- FW_HOLD_TICKS; 32 bits; 14 Table 14.5; reset 0 -/
  holdTicks : Nat := 0
  /-- FW_FAILED_ITEMS; 32 bits; 14 Table 14.5; reset 0 -/
  failedItems : Nat := 0
  /-- restart edge of the restart in progress, ns; 14 R395; reset 0 -/
  edgeNs : Nat := 0
  /-- cause of the restart in progress (R400); reset 0 -/
  cause  : Nat := 0
  /-- consecutive restarts that missed their bound; 14 R399; reset 0 -/
  misses : Nat := 0
  /-- the absence limit of this absence has passed; 14 R398; reset false -/
  limitPassed : Bool := false
  /-- latched SHA3-512 digest of the image; 512 bits; 14 R396, 16 R428; reset DESIGN CHOICE 0 (log 2) -/
  digest : Nat := 0
  /-- slot latched with the digest; 14 R396; reset DESIGN CHOICE 0 (log 2) -/
  digestSlot : Nat := 0
  /-- last heartbeat, ns; 14 R395; reset 0 -/
  beatNs : Nat := 0
  /-- time of the last firmware-control message issued, ns; 01 R26; reset none -/
  msgNs : Option Nat := none
  deriving DecidableEq, Repr

/-- An update activation in progress (R406). -/
structure Activation where
  /-- processors still to restart on the staged slot, or, in a rollback, on the active slot -/
  todo   : List Nat
  /-- processors that run from the staged slot -/
  done   : List Nat := []
  current : Option Nat := none
  staged : Nat
  rollback : Bool := false
  /-- processor whose two consecutive restarts failed -/
  rolled : Option Nat := none
  fn     : Nat
  msg    : MgmtMsg
  deriving DecidableEq, Repr

/-! ### Power (15) -/

/-- The loss sequence of Table 15.1. -/
inductive LossPhase where
  | none
  | bad          -- both feeds bad, not committed
  | committed    -- shutdown committed
  | ledgers      -- final ledgers written
  deriving DecidableEq, Repr

/-- A ramp order in force from a boundary (R420). -/
structure RampOrder where
  slope    : Nat
  boundary : Nat
  deriving DecidableEq, Repr

/-- The power logic and the PWR block. -/
structure Power where
  /-- every conversion stage is open; the module has not had a feed or has gone dark; 15 R412, 19 R484; reset true -/
  dark   : Bool := true
  /-- PWR_STAT.MAIN_OK; 1 bit; 15 Table 15.4; reset 0 -/
  mainOk : Bool := false
  /-- PWR_STAT.BACKUP_OK; 1 bit; 15 Table 15.4; reset 0 -/
  backupOk : Bool := false
  /-- PWR_STAT.ON_BACKUP; 1 bit; 15 Table 15.4; reset 0 -/
  onBackup : Bool := false
  /-- PWR_STAT.LEASE_EXPIRED; 1 bit; 15 Table 15.4; reset 1 -/
  leaseExpired : Bool := true
  /-- PWR_STAT.COOLANT; 1 bit; 15 Table 15.4; reset 0 -/
  coolant : Bool := false
  /-- PWR_STAT.SAFE; 1 bit; 15 Table 15.4; reset 0 -/
  safe   : Bool := false
  /-- PWR_STAT.THROTTLE; 1 bit; 15 Table 15.4; reset 0 -/
  throttle : Bool := false
  /-- PWR_STAT.LIMITING; 1 bit; 15 Table 15.4; reset 0 -/
  limiting : Bool := false
  /-- PWR_STAT.RAMPING; 1 bit; 15 Table 15.4; reset 0 -/
  ramping : Bool := false
  /-- PWR_STAT.BAD_WRITE; 1 bit; 15 Table 15.4; reset 0 -/
  badWrite : Bool := false
  /-- PWR_LIMIT_W, L in force; 16 bits; 15 Table 15.5; reset 0x05A0 -/
  limitW : Nat := 1440
  /-- PWR_BUDGET_W, B_g; 16 bits; 15 Table 15.5; reset 0x0E10 -/
  budgetW : Nat := 3600
  /-- PWR_CAP_W; 16 bits; 15 Table 15.5; reset 0x0E10 -/
  capW   : Nat := 3600
  /-- PWR_INPUT_W; 16 bits; 15 Table 15.5; reset 0 -/
  inputW : Nat := 0
  /-- lease of the last applied record, s; 15 R417; reset DESIGN CHOICE 0 (log 2) -/
  leaseS : Nat := 0
  /-- time at which the lease was restarted, ns; 15 R418; reset none -/
  leaseFrom : Option Nat := none
  /-- PWR_RAMP_WPMS, slope in force; 16 bits; 15 Table 15.5; reset 0x00C8 -/
  slope  : Nat := 200
  /-- RAMP_WPMS of the last applied budget record; 15 R420; reset DESIGN CHOICE 200 (the reset slope, log 2) -/
  ownRamp : Nat := 200
  /-- ramp order waiting for its boundary; 15 R420; reset none -/
  rampOrder : Option RampOrder := none
  /-- a fall of L from a budget record waits for the next boundary; 15 R418; reset false -/
  fallPending : Bool := false
  /-- PWR_SETPOINT; 5 bits; 15 Table 15.5; reset 0 -/
  setPoint : Nat := 0
  /-- PWR_TEMP_MAX.DEG; 8 bits; 15 Table 15.5; reset 0 -/
  tempDeg : Nat := 0
  /-- PWR_TEMP_MAX.DIE; 5 bits; 15 Table 15.5; reset 0 -/
  tempDie : Nat := 0
  /-- PWR_FEED_SWITCH; 32 bits; 15 Table 15.6; reset 0 -/
  feedSwitch : Nat := 0
  /-- PWR_BROWNOUT; 32 bits; 15 Table 15.6; reset 0 -/
  brownout : Nat := 0
  /-- PWR_LIMIT_MS; 32 bits; 15 Table 15.6; reset 0 -/
  limitMs : Nat := 0
  /-- PWR_PEAK_CAP; 32 bits; 15 Table 15.6; reset 0 -/
  peakCap : Nat := 0
  /-- PWR_COOLANT; 32 bits; 15 Table 15.6; reset 0 -/
  coolantCnt : Nat := 0
  /-- PWR_THROTTLE_MS; 32 bits; 15 Table 15.6; reset 0 -/
  throttleMs : Nat := 0
  /-- PWR_BURN_J; 32 bits; 15 Table 15.6; reset 0 -/
  burnJ  : Nat := 0
  /-- the peak time of the window is used up: the ceiling is L; 15 R419; reset false -/
  peakUsed : Bool := false
  /-- last budget record applied, 64 bytes; 15 Table 15.7; reset empty (none applied) -/
  lastRec : List Byte := []
  /-- tick of its application; 15 Table 15.7; reset 0 -/
  lastRecTick : Nat := 0
  /-- power domains 0 to 2,661, bit d set while on; 15 R413, R414; reset off -/
  domains : BitVec 2662 := 0
  /-- domains whose regulator has reported a fault since the start; 15 R415; reset none -/
  domFault : BitVec 2662 := 0
  /-- loss sequence; 15 R412; reset none -/
  loss   : LossPhase := .none
  /-- feed drawn from before the loss (true: backup); 15 R412; reset false -/
  lossFrom : Bool := false
  /-- seal instants that fell while both feeds were bad; 15 R412; reset 0 -/
  lossSeals : Nat := 0
  /-- time the main feed last turned good, ns; 15 R411; reset 0 -/
  mainGoodNs : Nat := 0
  /-- time of the last set-point change the power-management core ordered, ns; 14 R407; reset none -/
  lastChangeNs : Option Nat := none
  /-- tick of that change; 14 R407; reset none -/
  lastChangeTick : Option Nat := none
  /-- consecutive power-loop samples (100 us each) with the average below 0.90 L; 14 R408; reset 0 -/
  belowSamples : Nat := 0
  /-- the thermal loop forbids raises; 14 R409; reset false -/
  noRaise : Bool := false
  /-- input readings of the last 1 ms, W, newest first, at most 10; 14 R408; reset empty -/
  samples : List Nat := []
  /-- the limiter has gated since the last millisecond was counted; 15 Table 15.6; reset false -/
  limitSeen : Bool := false
  /-- time at which the peak time of the window was used up, ns; 15 R419; reset none -/
  peakFrom : Option Nat := none
  deriving DecidableEq, Repr

/-! ### Fabric and Ethernet (13) -/

/-- Link states (Table 13.3). -/
inductive LinkState where
  | off | train | check | up | down | miswired | long | unused
  deriving DecidableEq, Repr

/-- A fabric link (Tables 13.3, 13.9). -/
structure Link where
  /-- FAB_LINK_STAT.STATE; 4 bits; 13 Table 13.9; reset 0 -/
  st    : LinkState := .off
  /-- FAB_LINK_STAT.TICK: 0 none, 1 parent, 2 sibling, 3 child; 2 bits; 13 Table 13.9; reset 0 -/
  tick  : Nat := 0
  /-- FAB_LINK_DELAY; 16 bits, units of 0.125 ns; 13 Table 13.9; reset 0 -/
  delay : Nat := 0
  /-- FAB_LINK_FEC_CORR; 32 bits; 13 Table 13.9; reset 0 -/
  fecCorr : Nat := 0
  /-- FAB_LINK_FEC_UNCORR; 32 bits; 13 Table 13.9; reset 0 -/
  fecUncorr : Nat := 0
  /-- FAB_LINK_REPLAY; 32 bits; 13 Table 13.9; reset 0 -/
  replay : Nat := 0
  /-- FAB_LINK_DOWNS; 32 bits; 13 Table 13.9; reset 0 -/
  downs : Nat := 0
  /-- next frame sequence expected; 12 bits; 13 R358, R360; reset DESIGN CHOICE 0 (log 2) -/
  rxSeq : Nat := 0
  /-- sequence of the next frame sent; 12 bits; 13 R358; reset DESIGN CHOICE 0 (log 2) -/
  txSeq : Nat := 0
  /-- frames sent and not acknowledged, oldest first, at most 2,048; 13 R360; reset empty -/
  replayBuf : List Frame := []
  /-- replays of the oldest of them without acknowledgement; 13 R361; reset 0 -/
  replays : Nat := 0
  /-- neighbour identity last seen (slice, coordinates, link); 13 R361, R364; reset none -/
  peer  : Option (Nat × Coord × Nat) := none
  /-- TX_NS and TX_FRAC of the last word received, units of 2^-16 ns; 13 R367 (ECHO_NS); reset 0 -/
  echo  : Nat := 0
  /-- local receive timestamp of that word, units of 2^-16 ns; 13 R367 (RESID); reset 0 -/
  echoRx : Nat := 0
  /-- frames that wait for a place in the replay buffer, oldest first; 13 R360; reset empty -/
  waiting : List FrameBody := []
  deriving DecidableEq, Repr

/-- An applied slice record (Table 13.4). -/
structure SliceRec where
  rseq  : Nat
  slice : Nat
  mode3 : Bool
  dim   : Coord
  at_   : Coord
  role  : Role
  mgr   : Coord
  linkEn : BitVec 12
  deriving DecidableEq, Repr

/-- Module-wide fabric state (Table 13.10, R371 to R374). -/
structure Fabric where
  /-- links 0 to 11; 13 Table 13.9; reset OFF -/
  links : SMap Link {} := {}
  /-- slice record applied (FAB_TOPO, FAB_COORD, FAB_SLICE_ID); 13 Table 13.10; reset none (registers read 0) -/
  slice : Option SliceRec := none
  /-- FAB_STAT.MGR_EPOCH; 16 bits; 13 Table 13.10; reset 0 -/
  mgrEpoch : Nat := 0
  /-- coordinates of the manager followed; 13 R373; reset DESIGN CHOICE (0, 0, 0) (log 2) -/
  follow : Coord := {}
  /-- FAB_STAT.HOPS; 5 bits; 13 Table 13.10; reset 0 -/
  hops  : Nat := 0
  /-- FAB_STAT.DEPOSED; 1 bit; 13 Table 13.10; reset 0 -/
  deposed : Bool := false
  /-- FAB_STAT.MGR_CONFLICT; 1 bit; 13 Table 13.10; reset 0 -/
  mgrConflict : Bool := false
  /-- FAB_STAT.REC_REFUSED; 1 bit; 13 Table 13.10; reset 0 -/
  recRefused : Bool := false
  /-- FAB_STAT.BAD_WRITE; 1 bit; 13 Table 13.10; reset 0 -/
  badWrite : Bool := false
  /-- origin sequence of the module's own Hedgerow messages; 16 bits; 13 R374; reset DESIGN CHOICE 0 (log 2) -/
  oseq  : Nat := 0
  /-- messages seen, (origin, sequence), newest first; 13 R374; reset empty -/
  seen  : List (Coord × Nat) := []
  /-- a TAKEOVER is announced in the words sent; 13 R372; reset false -/
  takeover : Bool := false
  /-- announced period and the first tick it governs; 13 Table 13.5; reset none -/
  announce : Option (Nat × Nat) := none
  deriving DecidableEq, Repr

/-- FAB partition registers (Table 13.11). -/
structure FabPart where
  /-- FAB_JOB.JOB_ID; 16 bits; 13 Table 13.11; reset 0 -/
  job   : Nat := 0
  /-- FAB_JOB.GEN; 8 bits; 13 Table 13.11; reset 0 -/
  gen   : Nat := 0
  /-- FAB_JOB.FWD; 1 bit; 13 Table 13.11; reset 0 -/
  fwd   : Bool := false
  /-- FAB_JOB.EN; 1 bit; 13 Table 13.11; reset 0 -/
  en    : Bool := false
  /-- FAB_RANK.NRANKS; 16 bits; 13 Table 13.11; reset 1 -/
  nranks : Nat := 1
  /-- FAB_RANK.RANK; 16 bits; 13 Table 13.11; reset 0 -/
  rank  : Nat := 0
  /-- FAB_PSTAT.STOPPED; 1 bit; 13 Table 13.11; reset 0 -/
  stopped : Bool := false
  /-- FAB_PSTAT.BAD_WRITE; 1 bit; 13 Table 13.11; reset 0 -/
  badWrite : Bool := false
  /-- FAB_XFER; 32 bits; 13 Table 13.11; reset 0 -/
  xfer  : Nat := 0
  /-- FAB_SLOT_EMPTY_TX; 32 bits; 13 Table 13.11; reset 0 -/
  emptyTx : Nat := 0
  /-- FAB_SLOT_EMPTY_RX; 32 bits; 13 Table 13.11; reset 0 -/
  emptyRx : Nat := 0
  /-- FAB_DISCARD; 32 bits; 13 Table 13.11; reset 0 -/
  discard : Nat := 0
  /-- FAB_STOPS; 32 bits; 13 Table 13.11; reset 0 -/
  stops : Nat := 0
  /-- rank-map address; 64 bits; 13 R375 (wide selector 0x0000_0701); reset DESIGN CHOICE 0 (log 2) -/
  mapAddr : Nat := 0
  /-- the open job was stopped: it launches no step until it is opened anew; 13 R386; reset false -/
  halted : Bool := false
  /-- rank map read when EN was written; 13 R375; reset empty -/
  map   : List Coord := []
  /-- manifests, by the first 8 bytes of their digest, whose matching command has started on the next rank; 13 R384; reset empty -/
  fwdReady : List Nat := []
  deriving DecidableEq, Repr

/-- A transfer in progress on this rank (R379 to R382). -/
structure Xfer where
  part  : Nat
  prog  : Nat
  idx   : Nat
  step  : Nat
  /-- ranks whose slot or chunk has wholly landed -/
  landed : List Nat := []
  /-- contributions to a reduction held until every lower rank's is combined, as (rank, bytes) -/
  held  : List (Nat × List Byte) := []
  /-- (S, C) pairs of the own chunk combined so far, and the next rank to combine -/
  sums  : List Pair := []
  nextRank : Nat := 0
  /-- this rank has issued its half -/
  issued : Bool := false
  /-- the transfer is complete and its receive stream has delivered -/
  done   : Bool := false
  /-- slots (or the CLOSE) that the receive stream has delivered, and bundles of the next slot -/
  deliv  : Nat := 0
  bundle : Nat := 0
  /-- by link, the time at which a frame of the transfer was last sent or received on it, ns; 13 R383; reset none -/
  frames : SMap (Option Nat) none := {}
  deriving DecidableEq, Repr

/-- A queue pair (R391). -/
structure Qp where
  remote : Nat := 0
  gid    : List Byte := []
  sendPsn : Nat := 0
  recvPsn : Nat := 0
  mtu    : Nat := 0
  timeout : Nat := 0
  /-- outstanding READ requests, oldest first: the item, the byte offset in the weights, bytes left -/
  reads  : List (ItemRef × Nat × Nat) := []
  retries : Nat := 0
  /-- congestion notifications since the last rate recovery: each lowers the request rate -/
  slow   : Nat := 0
  deriving DecidableEq, Repr

/-- An Ethernet port (Table 13.12). -/
structure EthPort where
  /-- ETH_CFG.DSCP; 6 bits; 13 Table 13.12; reset 0x1A -/
  dscp : Nat := 26
  /-- ETH_CFG.PFC_PRIO; 3 bits; 13 Table 13.12; reset 3 -/
  pfcPrio : Nat := 3
  /-- ETH_CFG.PFC_EN; 1 bit; 13 Table 13.12; reset 0 -/
  pfcEn : Bool := false
  /-- ETH_CFG.MTU; 2 bits; 13 Table 13.12; reset 2 -/
  mtu : Nat := 2
  /-- ETH_CFG.EN; 1 bit; 13 Table 13.12; reset 0 -/
  en : Bool := false
  /-- ETH_STAT.BAD_WRITE; 1 bit; 13 Table 13.12; reset 0 -/
  badWrite : Bool := false
  /-- ETH_STAT.LINK_UP; 1 bit; 13 Table 13.12; reset 0 -/
  linkUp : Bool := false
  /-- ETH_RX_LINES; 32 bits; 13 Table 13.12; reset 0 -/
  rxLines : Nat := 0
  /-- ETH_RETRY; 32 bits; 13 Table 13.12; reset 0 -/
  retry : Nat := 0
  /-- ETH_CNP; 32 bits; 13 Table 13.12; reset 0 -/
  cnp : Nat := 0
  /-- ETH_NAK; 32 bits; 13 Table 13.12; reset 0 -/
  nak : Nat := 0
  /-- ETH_FEC_UNCORR; 32 bits; 13 Table 13.12; reset 0 -/
  fecUncorr : Nat := 0
  /-- MAC address (wide selector 0x0000_0801); 48 bits; 13 Table 13.12; reset DESIGN CHOICE 0 (log 2) -/
  mac : Nat := 0
  /-- IPv6 address (wide selector 0x0000_0802); 128 bits; 13 Table 13.12; reset DESIGN CHOICE 0 (log 2) -/
  ip : Nat := 0
  /-- queue pairs 0 to 1,023; 13 R391; reset not connected -/
  qps : SMap (Option Qp) none := {}
  deriving DecidableEq, Repr

/-- What the fabric and Ethernet ports send, in order. -/
inductive NetOut where
  /-- a sync word of Table 13.5 on a link; its `rx` is the receiver's and 0 here -/
  | syncWord (link : Nat) (word : SyncWord)
  | frame (link : Nat) (f : Frame)
  | readReq (port qp : Nat) (addr bytes : Nat)
  | nak (port qp : Nat)
  | cable (group link : Nat) (page offset : Nat) (data : List Byte)
  /-- an I3C in-band interrupt on the sideband, with its mandatory data byte (R509) -/
  | inBand (rtype : Nat)
  deriving DecidableEq, Repr

/-! ### Security (16) -/

/-- A publisher key of a trust list (R434): KEY_ID and the public key. -/
structure PubKey where
  id    : Nat
  bytes : List Byte
  deriving DecidableEq, Repr

/-- A firmware bundle in a boot-flash slot (R430). -/
structure Bundle where
  /-- the bundle passes R427 and its images match their directory digests -/
  valid : Bool := true
  version : Nat := 0
  svn   : Nat := 0
  protoMin : Nat := 0
  protoMax : Nat := 0
  /-- SHA3-512 digests of the scheduler, security, power-management and control-core images -/
  digests : List Nat := [0, 0, 0, 0]
  deriving DecidableEq, Repr

/-- The boot flash: what survives without power (R428 to R433, R452). -/
structure Flash where
  /-- MIN_SVN; 32 bits; 16 R429; reset DESIGN CHOICE 0 (log 5) -/
  minSvn : Nat := 0
  /-- START_COUNT; 32 bits; 16 R429; reset DESIGN CHOICE 0 (log 5) -/
  startCount : Nat := 0
  /-- write count of the replay-protected region; 16 R429; reset DESIGN CHOICE 0 (log 5) -/
  writes : Nat := 0
  /-- fence list, at most 128 global cores; 17 R452; reset DESIGN CHOICE empty (log 5) -/
  fences : List Nat := []
  /-- active slot; 1 bit; 16 Table 16.10; reset 0 -/
  active : Nat := 0
  /-- bundles of slots 0 and 1; 16 R430; reset DESIGN CHOICE (log 5) -/
  slots  : SMap Bundle {} := {}
  /-- the module record and its signature block behind it, bytes: SERIAL, ID_HASH, LIVE_MAP, RECORD_BYTES and the rest of Table 16.6;
  16 R433, R442; reset DESIGN CHOICE all 0, a blank flash (log 5) -/
  record : Mem := []
  deriving DecidableEq, Repr

/-- The security core and the SEC block. -/
structure Sec where
  /-- SEC_STAT.PUF_OK; 1 bit; 16 Table 16.10; reset 0 -/
  pufOk : Bool := false
  /-- SEC_STAT.RECORD_OK; 1 bit; 16 Table 16.10; reset 0 -/
  recordOk : Bool := false
  /-- SEC_STAT.DEBUG; 1 bit; 16 Table 16.10; reset 0 -/
  debug : Bool := false
  /-- SEC_MIN_SVN; 32 bits; 16 Table 16.10; reset 0 -/
  minSvn : Nat := 0
  /-- SEC_START_COUNT, HIF_START_COUNT; 32 bits; 16 Table 16.10, 11 Table 11.15; reset 0 -/
  startCount : Nat := 0
  /-- SEC_SIG_FAIL of each partition; 32 bits; 16 Table 16.10; reset 0 -/
  sigFail : SMap Nat 0 := {}
  /-- SEC_HASH_FAIL of each partition; 32 bits; 16 Table 16.10; reset 0 -/
  hashFail : SMap Nat 0 := {}
  /-- trust lists, key 8 × partition + slot; 16 R434; reset empty -/
  keys : SMap (Option PubKey) none := {}
  /-- staged bundle's version last written by FW_STAGE; 14 Table 14.6; reset 0 -/
  stagedVersion : Nat := 0
  deriving DecidableEq, Repr

/-! ### Faults (17) -/

/-- A fault of a partition's domain: a fence whose recovery runs or is queued, or a queued abort (R457, R458). -/
structure Recovery where
  core   : Nat
  part   : Nat
  cause  : Nat
  tick   : Nat
  /-- cores of the groups that the re-placement placed; empty until it is done; 17 R458; reset empty -/
  placed : List Nat := []
  /-- a queued abort of the partition's task: its status, and the DETAIL by function; 17 R458; reset none -/
  abort  : Option (Status × List (Nat × Nat)) := none
  deriving DecidableEq, Repr

/-- The RAS block and the recovery queues. -/
structure Ras where
  /-- RAS_STAT.LOG_FULL; 1 bit; 17 Table 17.7; reset 0 -/
  logFull : Bool := false
  /-- RAS_STAT.RECOV_OVF; 1 bit; 17 Table 17.7; reset 0 -/
  recovOvf : Bool := false
  /-- RAS_STAT.BAD_WRITE; 1 bit; 17 Table 17.7; reset 0 -/
  badWrite : Bool := false
  /-- RAS_STAT.UE; 1 bit; 17 Table 17.7; reset 0 -/
  ueBit : Bool := false
  /-- RAS_CE_LIMIT; 16 bits; 17 Table 17.7; reset 0x0040 -/
  ceLimit : Nat := 64
  /-- RAS_LIVE_COUNT; 12 bits; 17 Table 17.7; reset 0 -/
  liveCount : Nat := 0
  /-- RAS_CE_COUNT; 32 bits; 17 Table 17.7; reset 0 -/
  ceCount : Nat := 0
  /-- RAS_LATENT; 32 bits; 17 Table 17.7; reset 0 -/
  latent : Nat := 0
  /-- RAS_UE; 32 bits; 17 Table 17.7; reset 0 -/
  ue : Nat := 0
  /-- RAS_FENCES; 32 bits; 17 Table 17.7; reset 0 -/
  fences : Nat := 0
  /-- RAS_REPLAYS; 32 bits; 17 Table 17.7; reset 0 -/
  replays : Nat := 0
  /-- RAS_JOB_STOPS; 32 bits; 17 Table 17.7; reset 0 -/
  jobStops : Nat := 0
  /-- RAS_RECOV_PEND; 5 bits; 17 Table 17.7; reset 0 -/
  recovPend : Nat := 0
  /-- live core map; 2,560 bits; 01 R22; reset DESIGN CHOICE 0 until formed at start-up (log 2) -/
  liveMap : BitVec 2560 := 0
  /-- corrected errors of each core's storage: times in ns within the last hour; 17 R450; reset empty -/
  ceTimes : SMap (List Nat) [] := {}
  /-- time of the last CE event of each unit, ns; 17 R449; reset none -/
  ceEventNs : SMap (Option Nat) none := {}
  /-- CE events coalesced per unit since; 17 Table 17.6; reset 0 -/
  ceCoal : SMap Nat 0 := {}
  /-- fences of the current tick, (core, tick); 17 R454; reset empty -/
  tickFences : List (Nat × Nat) := []
  /-- fault queues: faults waiting in each partition's domain; 17 R458; reset empty -/
  queues : SMap (List Recovery) [] := {}
  /-- recoveries in progress; 17 R457; reset empty -/
  active : List Recovery := []
  /-- replays made of the step of each partition; 17 R454; reset 0 -/
  replayCnt : SMap Nat 0 := {}
  /-- dies lost; 17 R459; reset empty -/
  lostDies : List Nat := []
  /-- poisoned local-store lines, keyed core × 16384 + line: the bits not written since the mark; 17 R449; reset none -/
  poisonLs : SMap (BitVec 512) 0 := {}
  /-- poisoned cluster-store lines, keyed cluster × 2^25 + line, a line of partition p at p × 2^19 (log 42): the bits not written since the mark; 17 R449; reset none -/
  poisonCs : SMap (BitVec 512) 0 := {}
  /-- patrol scrub progress, lines, keyed unit (Sward stack 0 to 7, 8 + Ley channel); 17 R448; reset 0 -/
  scrub : SMap Nat 0 := {}
  /-- core groups taken out of placement by a CORE_BIST, with its item; 17 R461; reset empty -/
  testing : SMap (Option ItemRef) none := {}
  deriving DecidableEq, Repr

/-! ### Sideband and start-up (19, 20) -/

/-- An outbound sideband record (Table 20.7). -/
structure SbRec where
  rtype : Nat
  lost  : Nat
  oseq  : Nat
  tick  : Nat
  body  : List Byte
  deriving DecidableEq, Repr

/-- The sideband mailbox (R508, R509). -/
structure Sideband where
  /-- held slice record (RTYPE 1), 64 bytes; 19 R495; reset none -/
  heldSlice : Option (List Byte) := none
  /-- last slice record that has arrived, 64 bytes: a warm reset applies it again; 19 R495, R499; reset none -/
  lastSlice : Option (List Byte) := none
  /-- held budget record (RTYPE 2), 64 bytes; 19 R495; reset none -/
  heldBudget : Option (List Byte) := none
  /-- last RSEQ applied of RTYPE 1; 32 bits; 20 Table 20.6; reset DESIGN CHOICE 0 (log 2) -/
  rseq1 : BitVec 32 := 0
  /-- last RSEQ applied of RTYPE 2; 32 bits; 20 Table 20.6; reset DESIGN CHOICE 0 (log 2) -/
  rseq2 : BitVec 32 := 0
  /-- a record of RTYPE 2 has been applied since power-on; 15 R416; reset false -/
  budgetApplied : Bool := false
  /-- REFUSED; 32 bits; 20 Table 20.6; reset 0 -/
  refused : Nat := 0
  /-- outbound records, oldest first, at most 16; 20 R509; reset empty -/
  out   : List SbRec := []
  /-- OSEQ of the last record queued; 32 bits; 20 Table 20.7; reset DESIGN CHOICE 0 (log 2) -/
  oseq  : Nat := 0
  /-- bytes answered to the last read command; 20 Table 20.6; reset empty -/
  reply : List Byte := []
  /-- the SB_MODE strap is high (open): I3C, else SMBus; 20 Tables 20.2, 20.5; reset DESIGN CHOICE high, as an open pin reads (log 2) -/
  i3c   : Bool := true
  /-- the SB_ADDR straps; 3 bits; 20 Table 20.2; reset DESIGN CHOICE 7, as open pins read (log 2) -/
  addr  : Nat := 7
  deriving DecidableEq, Repr

/-- Start-up, host link and pins (18 Table 18.6, 19, 20). -/
structure Start where
  /-- HIF_STATUS.STAGE; 8 bits; 18 Table 18.6; reset 0 -/
  stage : Nat := 0
  /-- HIF_STATUS.START_FAIL; 1 bit; 18 Table 18.6; reset 0 -/
  startFail : Bool := false
  /-- HIF_STATUS.READY; 1 bit; 18 Table 18.6; reset 0 -/
  ready : Bool := false
  /-- HIF_STATUS.WIDTH; 2 bits; 18 Table 18.6; reset 0 -/
  width : Nat := 0
  /-- HIF_STATUS.SPEED; 2 bits; 18 Table 18.6; reset 0 -/
  speed : Nat := 0
  /-- HIF_STATUS.DEGRADED; 1 bit; 18 Table 18.6; reset 0 -/
  degraded : Bool := false
  /-- the host link is up; 19 R493; reset false -/
  linkUp : Bool := false
  /-- PERST_N is asserted (driven low); 20 Table 20.2; reset DESIGN CHOICE asserted (log 2) -/
  perst : Bool := true
  /-- REFCLK_PCIE is within its limits; 20 R505; reset DESIGN CHOICE false (log 2) -/
  refclk : Bool := false
  /-- SYSCLK is present; 20 R505; reset DESIGN CHOICE true (log 2) -/
  sysclk : Bool := true
  /-- TRIPPED of SB_STATUS; 1 bit; 20 Table 20.6; reset 0 -/
  tripped : Bool := false
  /-- EPO_N is asserted; 20 R503; reset DESIGN CHOICE deasserted (log 2) -/
  epo   : Bool := false
  /-- COOLANT_FAULT_N is asserted; 20 R503; reset DESIGN CHOICE deasserted (log 2) -/
  coolantPin : Bool := false
  /-- FAULT_N driven low; 20 Table 20.2; reset false -/
  faultN : Bool := false
  /-- CXL_PRSNT_N0 to 3 low: expander attached; 4 bits; 20 Table 20.2; reset DESIGN CHOICE none attached (log 2) -/
  cxlPrsnt : BitVec 4 := 0
  /-- VFs enabled by NumVFs of the SR-IOV capability; 11 R291, R292; reset DESIGN CHOICE 0 (log 2) -/
  numVfs : Nat := 0
  /-- completion given to the last configuration request: none, Retry Status (true) or normal (false); 19 R493 -/
  cfgRetry : Option Bool := none
  /-- events raised before PF0's event ring exists, oldest first, at most 32; 19 R488; reset empty -/
  log   : List EventRec := []
  /-- events beyond the 32nd; 19 R488; reset 0 -/
  logLost : Nat := 0
  /-- PF0's event ring exists (its window is up at READY); 19 R488; reset false -/
  ringUp : Bool := false
  deriving DecidableEq, Repr

/-- A cluster (R11, R19, 08 R219, 18 Table 18.10). -/
structure Cluster where
  /-- cluster store, 24 MiB; 01 R11; reset DESIGN CHOICE all 0 (log 2) -/
  cs    : Mem := []
  /-- streams on the tile movers, key tile mover 0 to 7; 08 R219; reset none -/
  tm    : SMap (Option Stream) none := {}
  tmCnt : TmCnt := {}
  /-- CLU_STAT.CC_HELD; 1 bit; 18 Table 18.10; reset 0 -/
  held  : Bool := false
  /-- CLU_STAT.BUSY; 1 bit; 18 Table 18.10; reset 0 -/
  busy  : Bool := false
  /-- CLU_CNT_CTRL.FREEZE; 5 bits; 18 Table 18.10; reset 0 -/
  freeze : BitVec 5 := 0
  /-- groups of the CLU_CNT_CLR write being applied; 5 bits; 18 R473; reset 0 -/
  clr   : BitVec 5 := 0
  /-- CLU_ID.LIVE; 7 bits; 18 Table 18.10; reset DESIGN CHOICE 0 until loaded at start-up (log 2) -/
  live  : Nat := 0
  /-- holding queue of the control core, at most 256 requests (fenced cores awaiting re-placement); 14 R401; reset empty -/
  holding : List Nat := []
  deriving DecidableEq, Repr

/-- Everything of the machine but the command queue. -/
structure Module where
  tick    : Tick := {}
  start   : Start := {}
  power   : Power := {}
  /-- firmware processors by FW_SEL number; 14 Table 14.4 -/
  fw      : SMap FwProc {} := {}
  /-- FW_STAT.BAD_WRITE; 1 bit; 14 Table 14.5; reset 0 -/
  fwBadWrite : Bool := false
  activation : Option Activation := none
  flash   : Flash := {}
  sec     : Sec := {}
  ras     : Ras := {}
  mem     : MemUnits := {}
  /-- pool map, bit k for core group k; 160 bits; 12 R335; reset DESIGN CHOICE 0 (log 2) -/
  pool    : BitVec 160 := 0
  /-- functions 0 to 63; 11 R291 -/
  fns     : SMap Fn {} := {}
  /-- partitions 0 to 63; 12 R333 -/
  parts   : SMap Part {} := {}
  fabParts : SMap FabPart {} := {}
  /-- request slots 0 to 65,535; 10 R256; reset free -/
  slots   : SMap (Option Request) none := {}
  /-- clusters 0 to 31; 01 R11 -/
  clusters : SMap Cluster {} := {}
  /-- cores 0 to 2,559; 01 R11 -/
  cores   : SMap Core {} := {}
  /-- Hedgerow nodes A and B by die 0 to 17; 01 R14 -/
  nodes   : SMap HNode {} := {}
  /-- virtual channel, 0 to 3, that each link of the data path served last, by its two nodes (key 16384 × from + into); 06 R161; reset 3
  (DESIGN CHOICE, log 2) -/
  ports   : SMap Nat 3 := {}
  /-- barriers by identifier; 01 R28; reset none -/
  barriers : SMap Barrier {} := {}
  /-- Hedgerow messages issued, newest first; 01 R25; reset empty -/
  hedgeOut : List HedgeMsg := []
  /-- writes towards host memory and MSI-X messages, newest first; 11 R301; reset empty -/
  hostOut : List HostWrite := []
  fabric  : Fabric := {}
  xfers   : List Xfer := []
  /-- Ethernet ports 0 and 1; 13 R390 -/
  eth     : SMap EthPort {} := {}
  /-- what the fabric, Ethernet and cable ports send, newest first; 13; reset empty -/
  netOut  : List NetOut := []
  sb      : Sideband := {}
  /-- the MODEL's own counter: the next free value (log 1); reset DESIGN CHOICE 0, no statement rests on it -/
  freeCtr : Nat := 0
  deriving DecidableEq, Repr

/-- The state: the commands that wait, first in first out, and the module. -/
structure State where
  pending : List Instr := []
  m       : Module := {}
  deriving DecidableEq, Repr

/-- The machine right after reset: no feed has turned good, every register at its reset value, nothing pending. -/
def State.reset : State := {}

/-- Why a command stops the machine. -/
inductive Fault where
  /-- an operand names a unit, register or field value that does not exist (raised by every meaning; safe: the model
  stops where the hardware offers no such operation) -/
  | illFormed
  deriving DecidableEq, Repr

/-- Why a command has no meaning. -/
inductive Refusal where
  /-- the command's row is not modelled yet (raised by no meaning; safe) -/
  | notModelled (mnemonic : String)
  /-- a register of the debug kit, whose fields the manual does not publish (raised by JTAG_ACCESS and REGISTER_WRITE
  after DEBUG_UNLOCK; safe) -/
  | debugKit
  deriving DecidableEq, Repr

end Sys2Proof.Machine
end

