-- ==== Sys2Proof/WellFormed.lean ====
section
/-! DEFINITION. Which commands are well formed: every operand names a unit that exists and a field value the spec does
not reserve. A meaning runs only on a well-formed command; the vector-engine conditions are the load checks of
05_vector_engine R121. -/

namespace Sys2Proof

/-- Global cores 0 to 2,559 (R22). -/
def coreOk (core : Nat) : Bool := decide (core < 2560)
/-- Functions 0 to 63 (Table 11.1). -/
def fnOk (fn : Nat) : Bool := decide (fn < 64)
/-- Rings 0 to 15 of a function (R294). -/
def ringOk (ring : Nat) : Bool := decide (ring < 16)
/-- Partitions 0 to 63 (R333). -/
def partOk (part : Nat) : Bool := decide (part < 64)
/-- Clusters 0 to 31 (R22). -/
def clusterOk (cluster : Nat) : Bool := decide (cluster < 32)
/-- Dies 0 to 17 (01_organisation Table 1.2). -/
def dieOk (die : Nat) : Bool := decide (die < 18)
/-- Fabric links 0 to 11 (R357). -/
def linkOk (link : Nat) : Bool := decide (link < 12)

/-- An item lies on one of 64 functions and 16 rings, its SSN is 32 bits (R291, R294, R296). -/
def ItemRef.ok (i : ItemRef) : Bool :=
  fnOk i.fn && ringOk i.ring && decide (i.ssn < 4294967296)

/-- A management message fits its 256 bytes: a body of 240, MSN, TARGET, CLUSTER, MCODE and TAG of 4, 1, 1, 2 and 8 bytes (R329). -/
def MgmtMsg.ok (g : MgmtMsg) : Bool :=
  decide (g.body.length ≤ 240) && decide (g.msn < 4294967296) && decide (g.target < 256) && decide (g.cluster < 256) &&
    decide (g.mcode < 65536) && decide (g.tag < 2 ^ 64)

/-- The processors of Table 14.4. -/
def procOk (p : Nat) : Bool := decide (p < 3) || (decide (32 ≤ p) && decide (p < 64))

/-- The units an error place names exist. -/
def ErrPlace.ok : ErrPlace → Bool
  | .core c _ _ => coreOk c
  | .cluster k _ => clusterOk k
  | .tier p _ t u _ => partOk p && decide (t < 3) && decide (u < 64)
  | .path _ _ => true

/-- The lost unit exists (Table 8.1, R357, R14). -/
def LossUnit.ok : LossUnit → Bool
  | .sward k => decide (k < 8)
  | .leyGroup g => decide (g < 16)
  | .leyChannel c => decide (c < 64)
  | .heathPort k => decide (k < 4)
  | .fabricLink l => linkOk l
  | .die d => dieOk d

/-- The function of a configuration request exists (R291). -/
def CfgReq.ok : CfgReq → Bool
  | .read f _ => fnOk f
  | .numVfs n => decide (n ≤ 63)
  | .devCtl f _ => fnOk f
  | .power f _ => fnOk f
  | .other f _ => fnOk f

/-- The destination is a mask register m1 to m7 (R121). -/
def ThreeOps.maskD (o : ThreeOps) : Bool := decide (1 ≤ o.d.toNat) && decide (o.d.toNat ≤ 7)
/-- The first source is a mask register. -/
def ThreeOps.maskA (o : ThreeOps) : Bool := decide (o.a.toNat ≤ 7)
/-- The second source is a mask register. -/
def ThreeOps.maskB (o : ThreeOps) : Bool := decide (o.b.toNat ≤ 7)
/-- MSK is 0, as R136 requires of the MSKOP class. -/
def ThreeOps.noMask (o : ThreeOps) : Bool := decide (o.msk = 0)
/-- D is even, as a pair operation requires (R121). -/
def ThreeOps.evenD (o : ThreeOps) : Bool := decide (o.d.toNat % 2 = 0)

/-- A compare writes m1 to m7 (R124). -/
def CmpOps.ok (o : CmpOps) : Bool := o.toThreeOps.maskD

/-- The formats and the rounding mode of a conversion are not reserved (Tables 3.1, 3.4, 3.6). -/
def CvtOps.ok (o : CvtOps) : Bool :=
  decide (o.src.toNat ≤ 9) && decide (o.dst.toNat ≤ 9) && decide (o.rmode.toNat ≤ 4)

/-- A format LD and ST move: any code of Table 3.1. -/
def MemOps.anyFmt (o : MemOps) : Bool := decide (o.fmt.toNat ≤ 10)
/-- A format LDS, STS, LDX and STX move: not narrow and not E8M0 (R121). -/
def MemOps.wideFmt (o : MemOps) : Bool := decide (o.fmt.toNat ≤ 2) || decide (o.fmt.toNat = 9)

/-- BODY of LOOP is 1 to 4,095 (R117). -/
def SctlOps.bodyOk (o : SctlOps) : Bool := decide (1 ≤ o.imm.toNat % 4096)

/-- The command's operands are well formed. -/
def Instr.wellFormed : Instr → Bool
  | .step i => i.ok
  | .admitReq i block _ => i.ok && decide (block.length = 128)
  | .abort i => i.ok
  | .pause i => i.ok
  | .resume i => i.ok
  | .loadSwath i => i.ok
  | .loadSwathStreamEnd i => i.ok
  | .loadWeights i => i.ok
  | .chunkLand i _ => i.ok
  | .swapWeights i => i.ok
  | .swapCopyStart i => i.ok
  | .swapCopyDone i => i.ok
  | .moveRetier i => i.ok
  | .moveCopy i _ => i.ok
  | .evict i => i.ok
  | .runGraph i => i.ok
  | .coreBist i => i.ok
  | .coreRetest i => i.ok
  | .scrubStat i => i.ok
  | .swardMarch i => i.ok
  | .leyMarch i => i.ok
  | .linkLoopback i => i.ok
  | .heathPort i => i.ok
  | .leyPhy i => i.ok
  | .fabricLanes i => i.ok
  | .sensors i => i.ok
  | .testComplete i failed => i.ok && failed.all coreOk
  | .sync i => i.ok
  | .query i => i.ok
  | .sqDoorbell fn ring _ => fnOk fn && ringOk ring
  | .cqDoorbell fn ring _ => fnOk fn && ringOk ring
  | .descriptorFetch fn ring descs => fnOk fn && ringOk ring && decide (descs.length ≤ 64)
  | .fetchErr fn ring => fnOk fn && ringOk ring
  | .hostRead i _ _ => i.ok
  | .completionWrite fn ring => fnOk fn && ringOk ring
  | .completionBatchClose fn ring => fnOk fn && ringOk ring
  | .completionIntTimer fn ring => fnOk fn && ringOk ring
  | .eventBatchClose fn => fnOk fn
  | .mgmtResponseBatchClose fn => fnOk fn
  | .fwStage fn msg => fnOk fn && msg.ok
  | .fwActivate fn msg => fnOk fn && msg.ok
  | .fwSlots fn msg => fnOk fn && msg.ok
  | .keyEnrol fn msg => fnOk fn && msg.ok
  | .keyRevoke fn msg => fnOk fn && msg.ok
  | .attest fn msg => fnOk fn && msg.ok
  | .idGet fn msg => fnOk fn && msg.ok
  | .debugUnlock fn msg => fnOk fn && msg.ok
  | .runList fn msg => fnOk fn && msg.ok
  | .cgOwner fn msg => fnOk fn && msg.ok
  | .fabLoad fn msg => fnOk fn && msg.ok
  | .ethQpSet fn msg => fnOk fn && msg.ok
  | .ethQpClear fn msg => fnOk fn && msg.ok
  | .cmisRead fn msg _ => fnOk fn && msg.ok
  | .cmisWrite fn msg => fnOk fn && msg.ok
  | .pwrDomains fn msg => fnOk fn && msg.ok
  | .pwrRecord fn msg => fnOk fn && msg.ok
  | .wideRead fn _ => fnOk fn
  | .wideCommit fn _ => fnOk fn
  | .ringSqCfgWrite fn _ => fnOk fn
  | .ringCqCfgWrite fn _ => fnOk fn
  | .hifFnPartBind _ => true
  | .hifFnPartReset _ => true
  | .functionLevelReset fn => fnOk fn
  | .fnResetComplete fn => fnOk fn
  | .partCfgWrite fn _ => fnOk fn
  | .partDrain fn _ => fnOk fn
  | .partUndrain fn _ => fnOk fn
  | .partReset fn _ => fnOk fn
  | .partResetComplete part => partOk part
  | .fwCtrlRestart fn _ => fnOk fn
  | .rasFence fn _ => fnOk fn
  | .retrain fn _ => fnOk fn
  | .fabJobEn fn _ => fnOk fn
  | .cluCntCtrl fn cluster _ => fnOk fn && clusterOk cluster
  | .cluCntClr fn cluster _ => fnOk fn && clusterOk cluster
  | .pbWriteApplied cluster => clusterOk cluster
  | .taWrite fn offset _ => fnOk fn && decide (offset % 4 = 0) && decide (offset < 67108864)
  | .registerWrite fn bar _ data enables => fnOk fn && decide (bar = 0 ∨ bar = 2 ∨ bar = 4) && decide (data.length = enables.length)
  | .sealLaunchSet => true
  | .tickBoundary => true
  | .reserveStart => true
  | .leyCalibrationDue => true
  | .deferredReserveWork => true
  | .stepFinish part => partOk part
  | .stepResultsProcess part => partOk part
  | .switchComplete core part => coreOk core && partOk part
  | .tickMessage die _ => dieOk die
  | .haltFenceOrder core _ => coreOk core
  | .barrierArrival _ node => decide (node < 4096)
  | .barrierRelease part run => partOk part && decide (run < 64)
  | .errorEventMessage die _ _ => dieOk die
  | .firmwareControlMessage proc _ => procOk proc
  | .planeLoss die _ => dieOk die
  | .coreDrained core => coreOk core
  | .flitArrival core _ => coreOk core
  | .creditReturn core _ => coreOk core
  | .extensionMove core _ => coreOk core
  | .suHeaderMatch core _ _ => coreOk core
  | .stallCycle part => partOk part
  | .larkSample part _ => partOk part
  | .handlerStart core _ => coreOk core
  | .meRunEntry core => coreOk core
  | .mePassComplete core => coreOk core
  | .meSeedArrival core => coreOk core
  | .meMergeRecord core _ => coreOk core
  | .tmStreamIssue part swath entry => partOk part && decide (swath < 2 ^ 64) && decide (entry < 65536)
  | .tmReadReturn cluster _ _ => clusterOk cluster
  | .tmStreamEnd cluster _ => clusterOk cluster
  | .tmGateCount core _ _ => coreOk core
  | .migrationPass part _ _ => partOk part
  | .patrolScrub unit _ => decide (unit < 72)
  | .tierFailure tier unit part _ => decide (tier < 3) && partOk part && decide (unit < 64)
  | .unitLoss unit => unit.ok
  | .corrected place => place.ok
  | .uncorrectable place => place.ok
  | .latent place => place.ok
  | .replacementDone part core => partOk part && coreOk core
  | .replayOrder _ _ _ _ _ => true
  | .dieLost die => dieOk die
  | .syncWordSend link _ => linkOk link
  | .syncWordReceive link _ => linkOk link
  | .boundaryArm => true
  | .syncStop => true
  | .takeover => true
  | .linkTrained link _ _ peer _ => linkOk link && linkOk peer
  | .linkDown link _ => linkOk link
  | .frameReceive link _ _ => linkOk link
  | .jobStopOrder link _ _ _ _ _ core => linkOk link && coreOk core
  | .rampOrder link _ _ _ _ => linkOk link
  | .transferIssue part _ _ => partOk part
  | .transferComplete part _ _ => partOk part
  | .fwdAbort i _ => i.ok
  | .ethReadResponse port qp _ => decide (port < 2) && decide (qp < 1024)
  | .ethCnp port qp => decide (port < 2) && decide (qp < 1024)
  | .ethInboundRequest port qp => decide (port < 2) && decide (qp < 1024)
  | .ethQpTimeout port qp => decide (port < 2) && decide (qp < 1024)
  | .cableInterrupt link _ _ => linkOk link
  | .cmisMonitorPoll link _ => linkOk link
  | .fwHeartbeat proc => procOk proc
  | .watchdogExpiry proc => procOk proc
  | .fatalException proc => procOk proc
  | .fwReturn proc => procOk proc
  | .restartBoundMissed proc => procOk proc
  | .absenceLimit proc => procOk proc
  | .powerLoopSample _ => true
  | .thermalLoopSample temps => temps.all (fun t => dieOk t.1)
  | .feedBad _ => true
  | .feedGood _ => true
  | .feedSwitchBack => true
  | .powerLossCommit => true
  | .finalLedgerWrite => true
  | .holdupDark => true
  | .epoAssert => true
  | .epoRelease => true
  | .coolantFault => true
  | .coolantClear => true
  | .thermalTrip die _ => dieOk die
  | .leaseExpired => true
  | .pwrDomainFault domain => decide (domain < 2661)
  | .coldStart => true
  | .bootChain _ _ => true
  | .powerOnDomains => true
  | .memoryTraining _ _ => true
  | .coreTest failed => failed.all coreOk
  | .heathEnumeration capacity => decide (capacity.length = 4)
  | .ready => true
  | .startStop => true
  | .perstDeassert => true
  | .perstAssert => true
  | .refclkLoss => true
  | .sysclkLoss => true
  | .sbId => true
  | .sbStatus => true
  | .sbSerial => true
  | .sbRecIn _ => true
  | .sbRecStat => true
  | .sbRecOut => true
  | .sbRecAck _ => true
  | .warmReset _ _ _ => true
  | .thermalRestart _ _ _ => true
  | .faluAdd core _ => coreOk core
  | .faluSub core _ => coreOk core
  | .faluMul core _ => coreOk core
  | .faluFma core _ => coreOk core
  | .faluMin core _ => coreOk core
  | .faluMax core _ => coreOk core
  | .faluAbs core _ => coreOk core
  | .faluNeg core _ => coreOk core
  | .faluMov core _ => coreOk core
  | .ialuAdd core _ => coreOk core
  | .ialuSub core _ => coreOk core
  | .ialuMul core _ => coreOk core
  | .ialuAnd core _ => coreOk core
  | .ialuOr core _ => coreOk core
  | .ialuXor core _ => coreOk core
  | .ialuShl core _ => coreOk core
  | .ialuShr core _ => coreOk core
  | .ialuSra core _ => coreOk core
  | .ialuMin core _ => coreOk core
  | .ialuMax core _ => coreOk core
  | .ialuMinu core _ => coreOk core
  | .ialuMaxu core _ => coreOk core
  | .cmpEq core o => coreOk core && o.ok
  | .cmpNe core o => coreOk core && o.ok
  | .cmpLt core o => coreOk core && o.ok
  | .cmpLe core o => coreOk core && o.ok
  | .cmpGt core o => coreOk core && o.ok
  | .cmpGe core o => coreOk core && o.ok
  | .cmpUnord core o => coreOk core && o.ok && !o.int
  | .cmpOrd core o => coreOk core && o.ok && !o.int
  | .cvt core o => coreOk core && o.ok
  | .exp core _ => coreOk core
  | .exp2 core _ => coreOk core
  | .log core _ => coreOk core
  | .log2 core _ => coreOk core
  | .rcp core _ => coreOk core
  | .rsqrt core _ => coreOk core
  | .sqrt core _ => coreOk core
  | .tanh core _ => coreOk core
  | .sigmoid core _ => coreOk core
  | .sin core _ => coreOk core
  | .cos core _ => coreOk core
  | .erf core _ => coreOk core
  | .rsum core o => coreOk core && o.evenD
  | .rmax core _ => coreOk core
  | .rmin core _ => coreOk core
  | .ramax core o => coreOk core && o.evenD
  | .rfin core o => coreOk core && o.evenD
  | .risum core _ => coreOk core
  | .bcast core _ => coreOk core
  | .permv core _ => coreOk core
  | .slideup core _ => coreOk core
  | .slidedn core _ => coreOk core
  | .compress core _ => coreOk core
  | .expand core _ => coreOk core
  | .iota core _ => coreOk core
  | .sel core _ => coreOk core
  | .ld core o => coreOk core && o.anyFmt
  | .st core o => coreOk core && o.anyFmt
  | .lds core o => coreOk core && o.wideFmt
  | .sts core o => coreOk core && o.wideFmt
  | .ldx core o => coreOk core && o.wideFmt
  | .stx core o => coreOk core && o.wideFmt
  | .ldm core o => coreOk core && o.maskD
  | .stm core o => coreOk core && o.maskA
  | .recv core _ => coreOk core
  | .send core _ => coreOk core
  | .sende core _ => coreOk core
  | .mand core o => coreOk core && o.noMask && o.maskD && o.maskA && o.maskB
  | .mor core o => coreOk core && o.noMask && o.maskD && o.maskA && o.maskB
  | .mxor core o => coreOk core && o.noMask && o.maskD && o.maskA && o.maskB
  | .mandn core o => coreOk core && o.noMask && o.maskD && o.maskA && o.maskB
  | .mnot core o => coreOk core && o.noMask && o.maskD && o.maskA
  | .mset core o => coreOk core && o.noMask && o.maskD
  | .mget core o => coreOk core && o.noMask && o.maskA
  | .mpop core o => coreOk core && o.noMask && o.maskA
  | .mfirst core o => coreOk core && o.noMask && o.maskA
  | .mfromv core o => coreOk core && o.noMask && o.maskD
  | .mfill core _ => coreOk core
  | .topk core o => coreOk core && o.evenD
  | .scan core _ => coreOk core
  | .rand core _ => coreOk core
  | .li core _ => coreOk core
  | .lih core _ => coreOk core
  | .sadd core _ => coreOk core
  | .ssub core _ => coreOk core
  | .smul core _ => coreOk core
  | .saddi core _ => coreOk core
  | .setvl core _ => coreOk core
  | .loop core o => coreOk core && o.bodyOk
  | .setsr core _ => coreOk core
  | .rdhdr core _ => coreOk core
  | .endHandler core _ => coreOk core
  | .moveCopyDone i => i.ok
  | .ethLinkDown port => decide (port < 2)
  | .ethLinkUp port => decide (port < 2)
  | .ethAckReceive port qp _ => decide (port < 2) && decide (qp < 1024)
  | .hostLinkUp _ _ => true
  | .hostLinkDown => true
  | .refclkStable => true
  | .configurationRequest req => req.ok
  | .cxlPrsntChange _ _ => true
  | .jtagAccess _ => true
  | .busInRegulation => true
  | .hedgerowTrim => true
  | .peakTimeCap => true

end Sys2Proof
end

