-- ==== Sys2Proof/Machine/Ops.lean ====
section
/-! DEFINITION. Shared operations: running a meaning, access to the units of the module, free values, writes towards
the host, events, MSI-X messages, the terminal-state cell and the completion list of a ring, CRC-32C. -/

namespace Sys2Proof.Machine

/-- Run a meaning: a well-formed command (`ok` is its arm of `Instr.wellFormed`) changes the module and leaves the queue
alone; an ill-formed one faults. -/
def guarded (ok : Bool) (f : Module → Module) (s : State) : Host.Outcome State Fault Refusal :=
  if ok then .next { s with m := f s.m } else .fault .illFormed

/-! ### Units by number -/

def Module.fn (m : Module) (f : Nat) : Fn := m.fns.get f
def Module.setFn (m : Module) (f : Nat) (g : Fn → Fn) : Module := { m with fns := m.fns.upd f g }
def Module.part (m : Module) (p : Nat) : Part := m.parts.get p
def Module.setPart (m : Module) (p : Nat) (g : Part → Part) : Module := { m with parts := m.parts.upd p g }
def Module.setRegs (m : Module) (p : Nat) (g : PartRegs → PartRegs) : Module :=
  m.setPart p fun x => { x with regs := g x.regs }
def Module.setMemRegs (m : Module) (p : Nat) (g : MemRegs → MemRegs) : Module :=
  m.setPart p fun x => { x with mem := g x.mem }
def Module.setLark (m : Module) (p : Nat) (g : LarkRegs → LarkRegs) : Module :=
  m.setPart p fun x => { x with lark := g x.lark }
def Module.fab (m : Module) (p : Nat) : FabPart := m.fabParts.get p
def Module.setFab (m : Module) (p : Nat) (g : FabPart → FabPart) : Module :=
  { m with fabParts := m.fabParts.upd p g }
def Module.core (m : Module) (c : Nat) : Core := m.cores.get c
def Module.setCore (m : Module) (c : Nat) (g : Core → Core) : Module := { m with cores := m.cores.upd c g }
def Module.setVe (m : Module) (c : Nat) (g : Ve → Ve) : Module := m.setCore c fun x => { x with ve := g x.ve }
def Module.setMe (m : Module) (c : Nat) (g : Me → Me) : Module := m.setCore c fun x => { x with me := g x.me }
def Module.clu (m : Module) (k : Nat) : Cluster := m.clusters.get k
def Module.setClu (m : Module) (k : Nat) (g : Cluster → Cluster) : Module :=
  { m with clusters := m.clusters.upd k g }

/-- The counters after an update: a frozen group keeps its counts (18_registers Table 18.10; groups 0 ME, 1 VE, 2 queue and
steering unit). -/
def CoreCnt.counted (fz : BitVec 5) (old new : CoreCnt) : CoreCnt :=
  let n := if fz.getLsbD 0 then
    { new with meBusy := old.meBusy, meFrontBubble := old.meFrontBubble, meShortPass := old.meShortPass,
               meSeedWait := old.meSeedWait, meMergeWait := old.meMergeWait, meMergePeak := old.meMergePeak,
               meSkip := old.meSkip } else new
  let n := if fz.getLsbD 1 then
    { n with veBusy := old.veBusy, veIssue := old.veIssue, veDepStall := old.veDepStall, veBankStall := old.veBankStall,
             veQueueWait := old.veQueueWait, veSkip := old.veSkip, veLong := old.veLong } else n
  if fz.getLsbD 2 then
    { n with qCreditWait := old.qCreditWait, qSpill := old.qSpill, qExtPeak := old.qExtPeak, suBundles := old.suBundles,
             suPairWait := old.suPairWait, suBufFull := old.suBufFull, suEmptyEmit := old.suEmptyEmit,
             suDiscard := old.suDiscard } else n

/-- Count on a core: the groups frozen in its cluster do not count. -/
def Module.setCnt (m : Module) (c : Nat) (g : CoreCnt → CoreCnt) : Module :=
  let fz := (m.clu (c / 80)).freeze
  m.setCore c fun x => { x with cnt := x.cnt.counted fz (g x.cnt) }

def Module.ring (m : Module) (f r : Nat) : Ringp := (m.fn f).rings.get r
def Module.setRing (m : Module) (f r : Nat) (g : Ringp → Ringp) : Module :=
  m.setFn f fun x => { x with rings := x.rings.upd r g }
def Module.proc (m : Module) (p : Nat) : FwProc := m.fw.get p
def Module.setProc (m : Module) (p : Nat) (g : FwProc → FwProc) : Module := { m with fw := m.fw.upd p g }
def Module.link (m : Module) (l : Nat) : Link := m.fabric.links.get l
def Module.setLink (m : Module) (l : Nat) (g : Link → Link) : Module :=
  { m with fabric := { m.fabric with links := m.fabric.links.upd l g } }
def Module.setTick (m : Module) (g : Tick → Tick) : Module := { m with tick := g m.tick }
def Module.setPower (m : Module) (g : Power → Power) : Module := { m with power := g m.power }
def Module.setRas (m : Module) (g : Ras → Ras) : Module := { m with ras := g m.ras }
def Module.setSec (m : Module) (g : Sec → Sec) : Module := { m with sec := g m.sec }
def Module.setSb (m : Module) (g : Sideband → Sideband) : Module := { m with sb := g m.sb }
def Module.setStart (m : Module) (g : Start → Start) : Module := { m with start := g m.start }
def Module.setFabric (m : Module) (g : Fabric → Fabric) : Module := { m with fabric := g m.fabric }
def Module.setUnits (m : Module) (g : MemUnits → MemUnits) : Module := { m with mem := g m.mem }
def Module.setEth (m : Module) (p : Nat) (g : EthPort → EthPort) : Module := { m with eth := m.eth.upd p g }

/-- A step of a fold over a list, applied in order. -/
def foldM {α : Type} (l : List α) (f : Module → α → Module) (m : Module) : Module := l.foldl f m

/-! ### Numbering (01_organisation R20, R21) -/

/-- Cluster of a global core. -/
def clusterOf (core : Nat) : Nat := core / 80
/-- Core group of a global core: 5 × cluster + floor(row / 2). -/
def groupOf (core : Nat) : Nat := 5 * (core / 80) + core % 80 / 16
/-- The 16 cores of a core group. -/
def coresOfGroup (g : Nat) : List Nat := range' (80 * (g / 5) + 16 * (g % 5)) 16
/-- Compute die of a cluster. -/
def dieOfCluster (k : Nat) : Nat := k / 4
/-- A live core: its bit of the live core map is set (R22). -/
def Module.live (m : Module) (core : Nat) : Bool := m.ras.liveMap.getLsbD core

/-! ### The module record (16_security R433, Table 16.6) -/

/-- SERIAL. -/
def Flash.serial (f : Flash) : Nat := f.record.rd 8 8
/-- ID_HASH. -/
def Flash.idHash (f : Flash) : Nat := f.record.rd 0x10 64
/-- LIVE_MAP: the live core map as shipped. -/
def Flash.liveMap (f : Flash) : BitVec 2560 := BitVec.ofNat 2560 (f.record.rd 0x50 320)
/-- RECORD_BYTES. -/
def Flash.recordBytes (f : Flash) : Nat := f.record.rd 0x1A0 4

/-! ### Free values and writes towards the outside -/

/-- Take a fresh free value (log 1). -/
def takeFree (m : Module) : Nat × Module :=
  (Config.freeNat m.freeCtr, { m with freeCtr := m.freeCtr + 1 })

/-- Append a write towards host memory, or a message, to the log of writes in order. -/
def emit (m : Module) (w : HostWrite) : Module := { m with hostOut := w :: m.hostOut }

/-- Append something the fabric, Ethernet or cable ports send. -/
def emitNet (m : Module) (w : NetOut) : Module := { m with netOut := w :: m.netOut }

/-- Host-memory data of an item is written only while its function issues writes (R325 step 3). -/
def emitBytes (m : Module) (fn addr : Nat) (data : List Byte) : Module :=
  if (m.fn fn).resetting then m else emit m (.bytes addr data)

/-- Send a message of an MSI-X vector, or set its pending bit while the vector is masked (R331, PCI Express). -/
def sendMsix (m : Module) (f vec : Nat) : Module :=
  let e := (m.fn f).msix.get vec
  if e.mask then m.setFn f fun x => { x with msix := x.msix.put vec { e with pend := true } }
  else emit m (.msix f vec)

/-- Die identifiers of the I/O dies (R14). -/
def dieH : Nat := 16
def dieF : Nat := 17

/-! ### Hedgerow messages (01_organisation R25 to R27) -/

/-- Change the Hedgerow nodes of a die. -/
def setNode (m : Module) (die : Nat) (g : HNode → HNode) : Module := { m with nodes := m.nodes.upd die g }

/-- Put a message on its die's lane: those of the same instant that wait there go by class, class 0 first (R25). The log is newest
first. -/
def laneInsert (x : HedgeMsg) : List HedgeMsg → List HedgeMsg
  | [] => [x]
  | y :: ys => if y.die = x.die && y.ns = x.ns && decide (x.cls < y.cls) then y :: laneInsert x ys else x :: y :: ys

/-- Source unit of a message: the number of source `src` of the die, free (log 1). -/
def hedgeUnit (src die : Nat) : Nat := Config.eventUnit src die % 256

/-- A Hedgerow message of a source of a die goes out on both planes with the source's next sequence number (R25, R27). The first
copy that a plane in use brings is acted on, the second discarded: `lastSeen` keeps its number. -/
def hedgeSend (m : Module) (die src cls : Nat) (payload : BitVec 96) : Module :=
  let u := hedgeUnit src die
  let n := ((m.nodes.get die).seqs.get u + 1) % 256
  let m := setNode m die fun h =>
    { h with seqs := h.seqs.put u n, lastSeen := if h.planes = .lost then h.lastSeen else h.lastSeen.put u (some n) }
  let x : HedgeMsg := { die := die, unit := u, cls := cls, seq := n, payload := payload, ns := m.tick.ns }
  { m with hedgeOut := laneInsert { x with planeB := true } (laneInsert x m.hedgeOut) }

/-- Payload of a class 1 order: its kind (0 pre-empt the step of a partition, 1 stop the task of a partition, 2 fence a core, 3 halt
every core) and its target (log 66). -/
def orderPayload (kind target : Nat) : BitVec 96 := BitVec.ofNat 96 (kind + 256 * target)

/-- A copy of a message of a source reaches its receiver on a plane: it is acted on if that plane is in use for the source and no copy
of that number has been (R27). -/
def takesCopy (m : Module) (die unit seq : Nat) (planeB : Bool) : Bool :=
  let h := m.nodes.get die
  (match h.planes with
    | .both => true
    | .onlyA => !planeB
    | .onlyB => planeB
    | .lost => false) && h.lastSeen.get unit != some seq

/-- A time limit of 100 ns since a message has not passed (R26). -/
def within100 (m : Module) (last : Option Nat) : Bool :=
  match last with
  | some t => decide (m.tick.ns < t + 100)
  | none => false

/-- An error event of a die goes out as a class 3 message, at most one per node and 100 ns; within that time it is coalesced into the
overflow count that the next message carries (R25, R26). -/
def errorMessage (m : Module) (die code : Nat) : Module :=
  let h := m.nodes.get die
  if within100 m h.lastErrNs then setNode m die fun h => { h with overflow := h.overflow + 1 }
  else setNode (hedgeSend m die 3 3 (BitVec.ofNat 96 (code % 65536 + 65536 * h.overflow))) die fun h =>
    { h with lastErrNs := some m.tick.ns, overflow := 0 }

/-! ### Events (11_host_interface R331, 17_faults R464, 19_startup R488) -/

/-- Partition number of an event that concerns no partition. -/
def noPart : Nat := 255

/-- Write one event record to a function's event ring, or count it lost when the ring is full. -/
def writeEvent (m : Module) (f code part tick die unit : Nat) (payload : List Nat) : Module :=
  m.setFn f fun x =>
    if (x.evtWritten + 4294967296 - x.evtHead) % 4294967296 = 16384 then
      { x with evtLost := (x.evtLost + 1) % 4294967296, evtLostNow := x.evtLostNow + 1 }
    else
      let n := (x.evtWritten + 1) % 4294967296
      { x with evtWritten := n, evtLostNow := 0
               events := ⟨n, code, part, tick, die, unit, x.evtLostNow, payload⟩ :: x.events }

/-- The functions that receive an event of a partition: PF0, and every VF bound to the partition. -/
def recipients (m : Module) (part : Nat) : List Nat :=
  0 :: m.fns.keys.filter fun f => f ≠ 0 && (m.fn f).bound && (m.fn f).part = part && part ≠ noPart

/-- Record an event: to every recipient, or, before PF0's event ring exists, in the start log of 32 records. -/
def record (m : Module) (code part die : Nat) (payload : List Nat) : Module :=
  let unit := Config.eventUnit code die % 256
  if m.start.ringUp then
    foldM (recipients m part) (fun m f => writeEvent m f code part m.tick.count die unit payload) m
  else m.setStart fun s =>
    if s.log.length < 32 then { s with log := s.log ++ [⟨0, code, part, m.tick.count, die, unit, 0, payload⟩] }
    else { s with logLost := s.logLost + 1 }

/-- Raise an event: its die sends the class 3 message unless it is the host I/O die, whose host-interface logic keeps the records
itself; the record is written (R26, R331; log 67). -/
def raise (m : Module) (code part die : Nat) (payload : List Nat) : Module :=
  record (if die = dieH then m else errorMessage m die code) code part die payload

/-- EVSN of the event last written to a function's ring, as a FAIL_FAULT completion names it (Table 11.7). -/
def evsnOf (m : Module) (f : Nat) : Nat := (m.fn f).evtWritten

/-- A CONFIG_REFUSED event: BAR offset and cause (Table 17.6). -/
def configRefused (m : Module) (part offset cause : Nat) : Module := raise m 0x0106 part dieH [offset, cause]

/-- Partitions that a core concerns (R464): its group's owner, and those with a plane or saved state on it. -/
def concerned (m : Module) (core : Nat) : List Nat :=
  m.parts.keys.filter fun p =>
    (m.part p).regs.owned.getLsbD (groupOf core) ||
    (m.core core).planes.cells.any (fun c => decide (c.2.st ≠ .empty) && c.2.part == p) ||
    (m.part p).saved.any (fun sv =>
      (m.part p).swaths.any fun w => w.id == sv.swath && w.cores[sv.logical]? == some core)

/-- The records of an event about one core: one for each partition concerned, or one with partition 0xFF (R464). -/
def recordCore (m : Module) (code core : Nat) (payload : List Nat) : Module :=
  let die := dieOfCluster (clusterOf core)
  match concerned m core with
  | [] => record m code noPart die payload
  | ps => foldM ps (fun m p => record m code p die payload) m

/-- An event about one core: one message of its die, and the records. -/
def raiseCore (m : Module) (code core : Nat) (payload : List Nat) : Module :=
  recordCore (errorMessage m (dieOfCluster (clusterOf core)) code) code core payload

/-- Record a dropped write on a function (R480). -/
def busError (m : Module) (f cause offset : Nat) : Module :=
  if (m.fn f).err.writeErr then m.setFn f fun x => { x with err := { x.err with ovf := true } }
  else
    let m := m.setFn f fun x => { x with err := { x.err with writeErr := true, cause := cause, addr := offset } }
    configRefused m (if (m.fn f).bound then (m.fn f).part else noPart) offset 2

/-! ### CRC-32C (the Castagnoli polynomial, reflected) -/

/-- One bit of the CRC. -/
def crcBit (c : Nat) : Nat := if c % 2 = 1 then (c / 2) ^^^ 0x82F63B78 else c / 2

/-- One byte of the CRC. -/
def crcByte (c : Nat) (b : Byte) : Nat :=
  crcBit (crcBit (crcBit (crcBit (crcBit (crcBit (crcBit (crcBit (c ^^^ b.toNat))))))))

/-- CRC-32C of a byte list. -/
def crc32c (l : List Byte) : Nat := (l.foldl crcByte 0xFFFFFFFF) ^^^ 0xFFFFFFFF

/-! ### Items, their cells and completions (R304, R316 to R321) -/

/-- Field of a descriptor: `size` bytes at `off`, little-endian. -/
def dfield (d : BitVec 512) (off size : Nat) : Nat := bits d.toNat (8 * off) (8 * size)

/-- An item of a ring. -/
def findItem (m : Module) (i : ItemRef) : Option Item :=
  (m.ring i.fn i.ring).items.find? fun x => x.ref == i

/-- Change an item. -/
def setItem (m : Module) (i : ItemRef) (g : Item → Item) : Module :=
  m.setRing i.fn i.ring fun r => { r with items := r.items.map fun x => if x.ref == i then g x else x }

/-- The item's terminal-state cell is written. -/
def Item.terminal (x : Item) : Bool := x.st == .decided || x.st == .written

/-- Append a completion to the list that waits on a ring. -/
def pushWaiting (m : Module) (f r : Nat) (w : Waiting) : Module :=
  m.setRing f r fun x => { x with waiting := x.waiting ++ [w] }

/-- DETAIL of an ABORTED completion: its own CSN plus one when the ABORT that claimed the cell came on the same ring pair,
else 0 (R317). -/
def abortedDetail (m : Module) (i : ItemRef) : Detail :=
  if (m.ring i.fn i.ring).waiting.any fun w => w.detail == .csnOf i && w.status == .done then .ownCsnPlus1 else .val 0

/-- A completion request of a ring waits already, or has been written, for the terminal completion of an item. -/
def terminalAsked (m : Module) (i : ItemRef) : Bool :=
  (m.ring i.fn i.ring).waiting.any fun w => w.ref == i && w.terminal

/-- Opcodes of Table 11.5. -/
def opStep : Nat := 0x01
def opAdmit : Nat := 0x02
def opAbort : Nat := 0x03
def opPause : Nat := 0x04
def opResume : Nat := 0x05
def opLoadSwath : Nat := 0x10
def opLoadWeights : Nat := 0x11
def opSwap : Nat := 0x12
def opMove : Nat := 0x13
def opEvict : Nat := 0x14
def opRunGraph : Nat := 0x20
def opSelftest : Nat := 0x30
def opCalibrate : Nat := 0x31
def opSync : Nat := 0x3F
def opQuery : Nat := 0x40

/-- What matches the LOAD_WEIGHTS commands of two ranks: the first 8 bytes of the manifest's digest (R384). -/
def Item.fwdId (x : Item) : Nat :=
  (match x.att with
    | some a => a.digest0
    | none => 0) % 2 ^ 64

/-- A load has a next rank to which it forwards (R384, R385). -/
def forwards (f : FabPart) (x : Item) : Bool :=
  x.opcode == opLoadWeights && f.en && f.fwd && decide (f.rank + 1 < f.nranks) && !x.fwdBroken

/-- A LOAD_WEIGHTS that forwards to a next rank ends other than DONE: FWD_ABORT; its link and value are free (R385, Table
17.6). -/
def fwdEnds (m : Module) (x : Item) (st : Status) : Module :=
  let p := (m.fn x.ref.fn).part
  if x.att.isSome && st != .done && forwards (m.fab p) x then
    let (v, m) := takeFree (m.setFab p fun f => { f with fwdReady := f.fwdReady.erase x.fwdId })
    raise m 0x0504 p dieF [v % 12, v / 12]
  else m

/-- Request the ABORTED completion of an item whose cell an ABORT has claimed: its work has stopped (R321). -/
def releaseClaimed (m : Module) (i : ItemRef) : Module :=
  match findItem m i with
  | some x =>
    if x.st == .decided && x.status == some .aborted && !(m.fn i.fn).resetting && !terminalAsked m i then
      pushWaiting (fwdEnds m x .aborted) i.fn i.ring
        { ref := i, tag := dfield x.desc 0x08 8, status := .aborted, detail := abortedDetail m i }
    else m
  | none => m

/-- Write the cell of an item with its own outcome and request its completion, to be written after that of `after` if one is
named. Where an ABORT holds the cell, the item's work has now stopped and the ABORTED completion is requested; no
completion is requested while the function is being reset (R318, R321, R325). -/
def finishAfter (m : Module) (i : ItemRef) (st : Status) (d : Detail) (after : Option ItemRef) : Module :=
  match findItem m i with
  | some x =>
    if x.terminal then releaseClaimed m i
    else
      let m := fwdEnds (setItem m i fun x => { x with st := .decided, status := some st }) x st
      if (m.fn i.fn).resetting then m
      else pushWaiting m i.fn i.ring
        { ref := i, tag := dfield x.desc 0x08 8, status := st, detail := d, after := after
          deadline := dfield x.desc 0x10 8 }
  | none => m

/-- Finish an item. -/
def finish (m : Module) (i : ItemRef) (st : Status) (d : Detail) : Module := finishAfter m i st d none

/-- Finish an item with a plain DETAIL. -/
def finishV (m : Module) (i : ItemRef) (st : Status) (v : Nat) : Module := finish m i st (.val v)

/-- REJ_FORMAT with the first offending field: byte offset in [15:0], structure in [31:16] (Table 11.7). -/
def rejFormat (m : Module) (i : ItemRef) (structure_ off : Nat) : Module :=
  finishV m i .rejFormat (structure_ * 65536 + off % 65536)

/-- The partition on which an item acts: that of its function, if bound (R292). -/
def itemPart (m : Module) (i : ItemRef) : Option Nat :=
  if (m.fn i.fn).bound then some (m.fn i.fn).part else none

/-- Run `g` on the item and its partition when it is in the given state with one of the opcodes. -/
def withItem (m : Module) (i : ItemRef) (st : ItemState) (ops : List Nat)
    (g : Item → Nat → Module) : Module :=
  match findItem m i, itemPart m i with
  | some x, some p => if x.st == st && ops.contains x.opcode then g x p else m
  | _, _ => m

/-- An item begins its work. -/
def startItem (m : Module) (i : ItemRef) : Module := setItem m i fun x => { x with st := .running }

/-! ### Requests (R256) -/

/-- The slot of the active request that an ADMIT item created. -/
def slotOf (m : Module) (i : ItemRef) : Option Nat :=
  (m.slots.cells.find? fun c =>
    match c.2 with
    | some q => !q.orphan && q.fn == i.fn && q.ring == i.ring && q.ssn == i.ssn
    | none => false).map (·.1)

/-- Change an active request. -/
def setReq (m : Module) (slot : Nat) (g : Request → Request) : Module :=
  { m with slots := m.slots.upd slot fun o => o.map g }

/-- The item that admitted a request. -/
def Request.item (q : Request) : ItemRef := ⟨q.fn, q.ring, q.ssn⟩

/-- The lowest slot at or above `k` that holds no request, within `n` slots. -/
def lowestFree (m : Module) (k : Nat) : Nat → Option Nat
  | 0 => none
  | n + 1 => match m.slots.get k with
    | none => some k
    | some _ => lowestFree m (k + 1) n

/-- Active requests of a partition, as (slot, request). -/
def reqsOf (m : Module) (p : Nat) : List (Nat × Request) :=
  m.slots.cells.filterMap fun c =>
    match c.2 with
    | some q => if q.part = p then some (c.1, q) else none
    | none => none

/-! ### The time base -/

/-- The wide-value operation of a mailbox completes: VALID sets, and ERR takes the operation's own result unless an
overrun keeps 4 (R476 to R478). -/
def Mailbox.complete (b : Mailbox) : Mailbox :=
  match b.busy with
  | .none => b
  | _ => { b with valid := true, busy := .none, err := if b.err = 4 then 4 else b.endErr }

/-- The time base is at least at an instant that a command says has come (log 8). -/
def reachNs (m : Module) (t : Nat) : Module := m.setTick fun k => { k with ns := max k.ns t }

/-- No boundary is raised: SYNC is FREE or STOPPED (R418, R514). -/
def noBoundary (m : Module) : Bool := m.tick.sync == .free || m.tick.sync == .stopped

/-- One cycle of the time base: 1 ns passes, and the mailbox operations in progress complete (R29, R476; log 6). -/
def timeCycle (m : Module) : Module :=
  let m := m.setTick fun t => { t with ns := t.ns + 1 }
  foldM m.fns.keys (fun m f => m.setFn f fun x => { x with box := x.box.complete }) m

end Sys2Proof.Machine
end

