-- ==== Sys2Proof/Machine/Pages.lean ====
section
/-! DEFINITION. Pages of a partition's range: frames, accounts, reservations, backing, eviction, reads and writes of the
range, poison (08_tiers R209 to R218, R234, R238). -/

namespace Sys2Proof.Machine

/-- Bytes of a page. -/
def pageSize : Nat := 2097152

/-- Number of a tier: 0 Sward, 1 Ley, 2 Heath. -/
def Tier.idx : Tier → Nat
  | .sward => 0
  | .ley => 1
  | .heath => 2

/-- Tier of a number. -/
def tierOf : Nat → Tier
  | 0 => .sward
  | 1 => .ley
  | _ => .heath

/-- MEM_CAP of a tier. -/
def capOf (m : Module) : Nat → Nat
  | 0 => m.mem.capSward
  | 1 => m.mem.capLey
  | _ => m.mem.capHeath

/-- Pages of a tier neither backed nor reserved by any partition (MEM_FREE, Table 8.10). -/
def freeIn (m : Module) (t : Nat) : Nat :=
  capOf m t - (m.parts.cells.map fun c => c.2.mem.used.get t + c.2.mem.rsvd.get t).sum

/-- Pages that a partition's quota still allows in a tier. -/
def quotaRoom (m : Module) (p t : Nat) : Nat :=
  let r := (m.part p).mem
  r.quota.get t - (r.used.get t + r.rsvd.get t)

/-- The tiers tried from a first tier downward (R211). -/
def tiersFrom (t : Nat) : List Nat := (range' t (3 - t))

/-! ### Reservations (R214) -/

/-- Add to a partition's MEM_RSVD of a tier. -/
def addRsvd (m : Module) (p t n : Nat) : Module := m.setMemRegs p fun r => { r with rsvd := r.rsvd.upd t (· + n) }
/-- Take from a partition's MEM_RSVD of a tier. -/
def subRsvd (m : Module) (p t n : Nat) : Module := m.setMemRegs p fun r => { r with rsvd := r.rsvd.upd t (· - n) }
/-- Add to a partition's MEM_USED of a tier. -/
def addUsed (m : Module) (p t n : Nat) : Module := m.setMemRegs p fun r => { r with used := r.used.upd t (· + n) }
/-- Take from a partition's MEM_USED of a tier. -/
def subUsed (m : Module) (p t n : Nat) : Module := m.setMemRegs p fun r => { r with used := r.used.upd t (· - n) }

/-- Take `n` pages tier by tier: the pages taken of each tier and what is left over. -/
def takeTiers (m : Module) (p : Nat) : List Nat → Nat → SMap Nat 0 → SMap Nat 0 × Nat
  | [], n, acc => (acc, n)
  | t :: ts, n, acc =>
    let k := min n (min (quotaRoom m p t) (freeIn m t))
    takeTiers m p ts (n - k) (acc.put t k)

/-- A reservation of `n` pages from tier `first` downward (R214): nothing in POOL mode; none when Heath cannot take the
remainder. -/
def reserve (m : Module) (p first n : Nat) : Option (SMap Nat 0 × Module) :=
  if (m.part p).mem.pool then some ({}, m)
  else
    let r := takeTiers m p (tiersFrom first) n {}
    if r.2 = 0 then some (r.1, r.1.cells.foldl (fun m c => addRsvd m p c.1 c.2) m) else none

/-- Release what is left of a reservation. -/
def release (m : Module) (p : Nat) (resv : SMap Nat 0) : Module :=
  resv.cells.foldl (fun m c => subRsvd m p c.1 c.2) m

/-! ### What protects a page (R213, R215) -/

/-- The schedule entry and the addresses added on alternate steps of a stream (R227). -/
def streamAlt (d : TmDesc) (stepP1 : Nat) : Nat := if (stepP1 + 1 + d.altPhase) % 2 = 1 then d.altOff else 0

/-- Pages that a contiguous run of bytes touches. -/
def pagesOf (a n : Nat) : List Nat := if n = 0 then [] else range' (a / pageSize) ((a + n - 1) / pageSize - a / pageSize + 1)

/-- Pages of the range that one end of a descriptor touches over all its positions. -/
def endPages (d : TmDesc) (base : Nat) (strides : List Int) : List Nat :=
  ((range' 0 (d.cnt 1)).flatMap fun i1 => (range' 0 (d.cnt 2)).flatMap fun i2 => (range' 0 (d.cnt 3)).flatMap fun i3 =>
    let a := ((base : Int) + d.bitOff strides [0, i1, i2, i3] / 8).toNat
    pagesOf a ((d.cnt 0 * TmDesc.bitOff.fmtBits d.fmt + 7) / 8)).eraseDups

/-- Pages of the range that a scale array of a descriptor touches over all its positions. -/
def scalePages (d : TmDesc) (base : Nat) (strides : List Int) : List Nat :=
  ((range' 0 (d.cnt 1)).flatMap fun i1 => (range' 0 (d.cnt 2)).flatMap fun i2 => (range' 0 (d.cnt 3)).flatMap fun i3 =>
    pagesOf (d.scaleOff base strides [0, i1, i2, i3]).toNat (ceilDiv (d.cnt 0) 32)).eraseDups

/-- A swath loaded in a partition. -/
def swathOf (m : Module) (p id : Nat) : Option Swath := (m.part p).swaths.find? fun w => w.id == id

/-- Pages of the range that an issued stream reads, and those that it writes, with those of its scale arrays. -/
def streamEnds (m : Module) (s : Stream) : List Nat × List Nat :=
  match swathOf m s.part s.swath with
  | none => ([], [])
  | some w =>
    let d := tmDesc w.schedule s.entry
    let alt := streamAlt d s.stepP1
    (if d.srcLvl = 0 then endPages d (d.src + (if d.altSrc then alt else 0)) d.srcStride ++
        (if d.scales then scalePages d d.srcScale d.srcStride else []) else [],
      if d.dstLvl = 0 then endPages d (d.dst + (if d.altDst then alt else 0)) d.dstStride ++
        (if d.scales then scalePages d d.dstScale d.dstStride else []) else [])

/-- Pages of the range that an issued stream reads or writes. -/
def streamPages (m : Module) (s : Stream) : List Nat := (streamEnds m s).1 ++ (streamEnds m s).2

/-- Issued streams of a partition that have not ended, as (cluster, tile mover, stream). -/
def streamsOf (m : Module) (p : Nat) : List (Nat × Nat × Stream) :=
  m.clusters.cells.flatMap fun c => c.2.tm.cells.filterMap fun t =>
    match t.2 with
    | some s => if s.part = p then some (c.1, t.1, s) else none
    | none => none

/-- Streams of a partition that have been issued and have not ended: those on the tile movers and those saved at a pre-emption
(R213, R228). -/
def openStreams (m : Module) (p : Nat) : List Stream :=
  (streamsOf m p).map (·.2.2) ++ (m.part p).savedStreams.map (·.2)

/-- The serving record of a model loaded, or loading, in a partition: the one named with its swath of FOLD_INDEX 0 (R260). -/
def servingOf (m : Module) (p model : Nat) : Option Serving :=
  (m.part p).swaths.findSome? fun w => if w.model = model ∧ w.foldIndex = 0 then w.serving else none

/-- Range pages of a cache page. -/
def cachePagesOf (v : Serving) (c : Nat) : List Nat :=
  range' ((v.cacheBase + c * v.pageBytes) / pageSize) (v.pageBytes / pageSize)

/-- Cache pages of a request in one model that are PROVISIONAL or PINNED. -/
def Cache.fixed (c : Cache) : List Nat :=
  c.pages.cells.filterMap fun e =>
    if c.prov.contains e.1 || decide (e.1 < c.pinned) then e.2 else none

/-- Range pages of a list of cache pages. -/
def cacheTierPages (v : Option Serving) (cs : List Nat) : List Nat :=
  match v with
  | some v => cs.flatMap (cachePagesOf v)
  | none => []

/-- Range pages that hold a PROVISIONAL or PINNED cache page (R213). -/
def fixedPages (m : Module) (p : Nat) : List Nat :=
  ((reqsOf m p).flatMap fun q => cacheTierPages q.2.srv q.2.main.fixed ++ cacheTierPages q.2.dsrv q.2.dcache.fixed) ++
    ((m.part p).prefixes.flatMap fun x => cacheTierPages x.srv x.pages)

/-- The page may not be chosen for eviction (R213, R235). -/
def protectedPage (m : Module) (p page : Nat) : Bool :=
  let x := (m.part p).pages.get page
  x.locked || x.poison || x.mig.isSome || (fixedPages m p).contains page ||
    (openStreams m p).any fun s => (streamPages m s).contains page

/-! ### Bandwidth regulators (R351) -/

/-- A bucket of a partition is regulated and empty: its charged traffic waits. -/
def regEmpty (m : Module) (p b : Nat) : Bool :=
  (m.part p).regs.rate.get b ≠ max32 && (m.part p).regs.level.get b = 0

/-- Take tokens of a bucket for `n` units of 64 bytes. -/
def regTake (m : Module) (p b n : Nat) : Module :=
  if (m.part p).regs.rate.get b = max32 then m
  else m.setRegs p fun r => { r with level := r.level.upd b (· - n) }

/-! ### Backing and eviction (R210, R211, R215) -/

/-- Change one page of a partition. -/
def setPage (m : Module) (p page : Nat) (g : Page → Page) : Module :=
  m.setPart p fun x => { x with pages := x.pages.upd page g }

/-- CXL ports in service. -/
def heathPorts (m : Module) : List Nat := (range' 0 4).filter fun k => m.mem.healthHeath.getLsbD k

/-- Pages that each port gives as STRIPE frames: with all four ports in service, the capacity of the smallest (R490). -/
def heathStripe (m : Module) : Nat :=
  if (heathPorts m).length = 4 then
    min (min (m.mem.portPages.get 0) (m.mem.portPages.get 1)) (min (m.mem.portPages.get 2) (m.mem.portPages.get 3))
  else 0

/-- Pages placed so in Heath, or about to be by a migration. -/
def heathUsed (m : Module) (pl : Placement) : Nat :=
  (m.parts.cells.map fun c => (c.2.pages.cells.filter fun g =>
    (g.2.tier == some .heath && g.2.place == pl) ||
      (match g.2.mig with
        | some mg => mg.toTier == .heath && mg.toPlace == pl
        | none => false)).length).sum

/-- HOME frames of a port that are free (R490). -/
def homeFree (m : Module) (k : Nat) : Nat :=
  (if m.mem.healthHeath.getLsbD k then m.mem.portPages.get k - heathStripe m else 0) - heathUsed m (.home k)

/-- The placement a page gets in a tier: STRIPE in Heath without a STRIPE frame to give is HOME on the port in service with
the most free frames, the lowest of equals (R490). -/
def placeIn (m : Module) (t : Nat) (pl : Placement) : Placement :=
  if t = 2 ∧ pl = .stripe ∧ 4 * heathStripe m ≤ heathUsed m .stripe then
    .home ((heathPorts m).foldl (fun best k => if homeFree m best < homeFree m k then k else best)
      ((heathPorts m).headD 0))
  else pl

/-- Frame numbers that back a page in a tier. -/
def framesIn (m : Module) (t : Nat) : List Nat :=
  m.parts.cells.flatMap fun c => c.2.pages.cells.filterMap fun g =>
    if g.2.tier == some (tierOf t) then some g.2.frame else none

/-- Lowest number from `k` on that a list does not hold; as many tries as the list is long suffice. -/
def lowestNotIn (l : List Nat) (k : Nat) : Nat → Nat
  | 0 => k
  | n + 1 => if l.contains k then lowestNotIn l (k + 1) n else k

/-- A frame of a tier that backs no page (R210): the first from a free number below the tier's capacity on, but for the frames to
avoid. -/
def freeFrame (m : Module) (t : Nat) (avoid : List Nat) : Nat × Module :=
  let (v, m1) := takeFree m
  let used := avoid ++ framesIn m t
  (lowestNotIn used (v % capOf m t) (used.length + 1), m1)

/-- The page that POOL eviction chooses in a tier: oldest last-access tick, then lower partition, then lower page. -/
def victim (m : Module) (t : Nat) : Option (Nat × Nat) :=
  let cands := m.parts.cells.flatMap fun c =>
    if c.2.mem.pool && decide (c.2.mem.floor.get t < c.2.mem.used.get t) && decide (0 < quotaRoom m c.1 (t + 1)) then
      c.2.pages.cells.filterMap fun g =>
        if g.2.tier == some (tierOf t) && !protectedPage m c.1 g.1 then some (g.2.access, c.1, g.1) else none
    else []
  (cands.foldl (fun best x => match best with
    | none => some x
    | some b => if x.1 < b.1 then some x else some b) none).map (·.2)

/-- Evict one page from a tier to the next lower one, which first evicts when it is full; `fuel` bounds the tiers below. The page's
migration is charged to its partition's buckets (R215, Table 12.3). -/
def evictOne (m : Module) (t : Nat) : Nat → Option Module
  | 0 => none
  | fuel + 1 =>
    if 2 ≤ t then none
    else match victim m t with
    | none => none
    | some (p, page) =>
      match (if freeIn m (t + 1) = 0 then evictOne m (t + 1) fuel else some m) with
      | none => none
      | some m =>
        let pl := placeIn m (t + 1) .stripe
        let (f, m) := freeFrame m (t + 1) []
        let m := setPage m p page fun x => { x with tier := some (tierOf (t + 1)), place := pl, frame := f }
        let m := addUsed (subUsed m p t 1) p (t + 1) 1
        let m := regTake (regTake m p t (pageSize / 64)) p (t + 1) (pageSize / 64)
        let m := m.setMemRegs p fun r => { r with migrated := satAdd r.migrated 1 }
        some (m.setUnits fun u => { u with evict := satAdd u.evict 1 })

/-- Give a page a frame of a tier; a poisoned page gets another than the one that failed (R234). -/
def placeFrame (m : Module) (p page t : Nat) (pl : Placement) : Module :=
  let pl := placeIn m t pl
  let x := (m.part p).pages.get page
  let (f, m) := freeFrame m t (if x.poison then [x.frame] else [])
  let m := setPage m p page fun x =>
    { x with tier := some (tierOf t), place := pl, frame := f, access := m.tick.count, poison := false }
  addUsed m p t 1

/-- In POOL mode, make room for one page in a tier, by eviction where the tier has no free page (R215). -/
def poolRoom (m : Module) (p t : Nat) : Option Module :=
  if quotaRoom m p t = 0 then none
  else if 0 < freeIn m t then some m else evictOne m t 3

/-- Charge `n` pages outside the range to a partition's Sward, with evictions in POOL mode. The module, and whether there was room: on
failure none stays charged, and the evictions stand (R215, R348). -/
def chargePages (m : Module) (p : Nat) : Nat → Module × Bool
  | 0 => (m, true)
  | n + 1 =>
    match (if (m.part p).mem.pool then poolRoom m p 0
      else if 0 < quotaRoom m p 0 ∧ 0 < freeIn m 0 then some m else none) with
    | none => (m, false)
    | some m => match chargePages (addUsed m p 0 1) p n with
      | (m, true) => (m, true)
      | (m, false) => (subUsed m p 0 1, false)

/-- Back a page from the first tier of a list that has one to give, under the partition's accounting mode and a
reservation (R211, R214, R215): the module, and what is left of the reservation. -/
def backIn (m : Module) (p page : Nat) (pl : Placement) (resv : SMap Nat 0) : List Nat → Option (Module × SMap Nat 0)
  | [] => none
  | t :: ts =>
    if (m.part p).mem.pool then
      match poolRoom m p t with
      | some m => some (placeFrame m p page t pl, resv)
      | none => backIn m p page pl resv ts
    else if 0 < resv.get t then
      some (placeFrame (subRsvd m p t 1) p page t pl, resv.upd t (· - 1))
    else if (resv.cells.isEmpty) && decide (0 < quotaRoom m p t) && decide (0 < freeIn m t) then
      some (placeFrame m p page t pl, resv)
    else backIn m p page pl resv ts

/-- Back a page unless it is backed already, from a first tier downward, STRIPE (R211). -/
def backFrom (m : Module) (p first page : Nat) (resv : SMap Nat 0) : Option (Module × SMap Nat 0) :=
  if ((m.part p).pages.get page).tier.isSome then some (m, resv)
  else backIn m p page .stripe resv (tiersFrom first)

/-- First tier of a partition's pages: MEM_MODE.FIRST_TIER (R211). -/
def firstTierOf (m : Module) (p : Nat) : Nat := (m.part p).mem.firstTier.idx

/-- Back a page from MEM_MODE.FIRST_TIER downward. -/
def backPage (m : Module) (p page : Nat) (resv : SMap Nat 0) : Option (Module × SMap Nat 0) :=
  backFrom m p (firstTierOf m p) page resv

/-- Pages of a partition that still migrate for an item. -/
def migratingFor (m : Module) (p : Nat) (i : ItemRef) : Bool :=
  (m.part p).pages.cells.any fun c => match c.2.mig with
    | some mg => mg.item == some i
    | none => false

/-- A page's migration ends without a switch, because the page goes: its target frame is free again, and the RETIER that waited
for no other page is DONE (R285, R311). -/
def dropMigration (m : Module) (p page : Nat) : Module :=
  match ((m.part p).pages.get page).mig with
  | none => m
  | some mg =>
    let m := subRsvd (setPage m p page fun x => { x with mig := none }) p mg.toTier.idx 1
    match mg.item with
    | none => m
    | some i => if migratingFor m p i then m else finishV m i .done 0

/-- Unback a page: its frame is free, its bytes are zero (R238). -/
def unbackPage (m : Module) (p page : Nat) : Module :=
  match ((m.part p).pages.get page).tier with
  | none => m
  | some t =>
    let m := subUsed (dropMigration m p page) p t.idx 1
    m.setPart p fun x =>
      { x with pages := x.pages.put page {}, range := x.range.overlay (page * pageSize) pageSize [] }

/-- Back the pages of a list in turn, on top of those already backed; on failure none of them stays backed. -/
def backEach (m : Module) (p first : Nat) (resv : SMap Nat 0) :
    List Nat → List Nat → Module × Option (SMap Nat 0 × List Nat)
  | done, [] => (m, some (resv, done))
  | done, g :: gs =>
    if ((m.part p).pages.get g).tier.isSome then backEach m p first resv done gs
    else match backFrom m p first g resv with
    | some (m, resv) => backEach m p first resv (g :: done) gs
    | none => (done.foldl (fun m x => unbackPage m p x) m, none)

/-- Back every page of a list: what is left of the reservation, and the pages backed. On failure none of those it backed stays
backed and the reservation is whole again (R215, R316): the evictions stand. -/
def backAll (m : Module) (p first : Nat) (resv : SMap Nat 0) (pages : List Nat) :
    Module × Option (SMap Nat 0 × List Nat) :=
  match backEach m p first resv [] pages with
  | (m2, none) => (m2.setMemRegs p fun r => { r with rsvd := (m.part p).mem.rsvd }, none)
  | r => r

/-- Reserve and back the unbacked pages of a list for a command, from a first tier downward; what is left of the reservation is
released. The pages it backed, or none when the command has no room (R211, R214, R215). -/
def backList (m : Module) (p first : Nat) (pages : List Nat) : Module × Option (List Nat) :=
  let need := pages.eraseDups.filter fun g => ((m.part p).pages.get g).tier.isNone
  match reserve m p first need.length with
  | none => (m, none)
  | some (resv, m1) =>
    match backAll m1 p first resv need with
    | (m2, some (left, done)) => (release m2 p left, some done)
    | (m2, none) => (release m2 p resv, none)

/-- Keep pages backed for a loaded swath, program or ring (R217). -/
def holdPages (m : Module) (p : Nat) (gs : List Nat) : Module :=
  gs.foldl (fun m g => setPage m p g fun x => { x with heldBy := x.heldBy + 1 }) m
/-- Let them go again. -/
def unholdPages (m : Module) (p : Nat) (gs : List Nat) : Module :=
  gs.foldl (fun m g => setPage m p g fun x => { x with heldBy := x.heldBy - 1 }) m

/-! ### Reads and writes of a range (R209, R211, R212, R236) -/

/-- One past the last device address of a partition's range (R209). -/
def rangeEnd (m : Module) (p : Nat) : Nat := pageSize * (m.part p).mem.rangePages

/-- Bytes of the range; an unbacked page reads zeros (R211). -/
def devRead (m : Module) (p a n : Nat) : List Byte := (m.part p).range.bytes a n

/-- A little-endian number in the range. -/
def devNum (m : Module) (p a n : Nat) : Nat := (m.part p).range.rd a n

/-- The accounting of a read: lines of unbacked pages are counted, and the backed pages take the tick (R211, R218). -/
def noteRead (m : Module) (p a n : Nat) : Module :=
  let lines := if n = 0 then [] else range' (a / 64) ((a + n - 1) / 64 - a / 64 + 1)
  let un := (lines.filter fun l => ((m.part p).pages.get (l * 64 / pageSize)).tier.isNone).length
  let m := if un = 0 then m else m.setMemRegs p fun r => { r with unbackedRd := satAdd r.unbackedRd un }
  (pagesOf a n).foldl (fun m g =>
    if ((m.part p).pages.get g).tier.isSome then setPage m p g fun x => { x with access := m.tick.count } else m) m

/-- Write bytes into backed pages of the range; the lines of a migrating page are marked dirty (R212), and a poisoned page is
never filled with data (R235). -/
def devWrite (m : Module) (p a : Nat) (bs : List Byte) : Module :=
  let lines := if bs.length = 0 then [] else range' (a / 64) ((a + bs.length - 1) / 64 - a / 64 + 1)
  (pagesOf a bs.length).foldl (fun m g =>
    if ((m.part p).pages.get g).poison then m
    else
      let lo := max a (g * pageSize)
      let m := m.setPart p fun x =>
        { x with range := x.range.store lo ((bs.drop (lo - a)).take ((g + 1) * pageSize - lo)) }
      setPage m p g fun x =>
        { x with access := m.tick.count
                 mig := x.mig.map fun mg =>
                   { mg with dirty := (mg.dirty ++ lines.filter fun l => l * 64 / pageSize == g).eraseDups } }) m

/-- The first poisoned page that a run of bytes touches (R234). -/
def poisonedIn (m : Module) (p a n : Nat) : Option Nat :=
  (pagesOf a n).find? fun g => ((m.part p).pages.get g).poison

/-- Where granule `g` of a page lies: the units that the placement spreads over, and the unit of the granule (Table 8.2). -/
def Page.unit (x : Page) (g : Nat) : Nat × Nat :=
  match x.tier, x.place with
  | some .sward, .stripe => (8, (g + x.frame) % 8)
  | some .ley, .stripe => (64, (g + x.frame) % 64)
  | some .ley, .home k => (8, 8 * k + (g + x.frame) % 8)
  | some .heath, .stripe => (4, (g + x.frame) % 4)
  | _, .home k => (1, k)
  | none, .stripe => (1, 0)

/-- Location of a device address in its tier: the unit, the 4 KiB slot of the frame's share of it, the byte in the slot
(R209, R210). -/
def locationOf (m : Module) (p a : Nat) : Nat × Nat × Nat :=
  let g := a % pageSize / 4096
  let u := ((m.part p).pages.get (a / pageSize)).unit g
  (u.2, g / u.1, a % 4096)

/-- Unit of a device address's granule under the page's placement (Table 8.2). -/
def unitOf (m : Module) (p a : Nat) : Nat := (locationOf m p a).1

/-- DETAIL of FAIL_TIER: tier in [1:0], unit in [15:8] (Table 11.7). -/
def tierDetail (t unit : Nat) : Nat := t + 256 * unit

/-- DETAIL that names the location of a poisoned page. -/
def poisonDetail (m : Module) (p page : Nat) : Nat :=
  tierDetail (match ((m.part p).pages.get page).tier with
    | some t => t.idx
    | none => 0) (unitOf m p (page * pageSize))

/-- A poisoned page leaves its failed location; the next frame it gets clears its poison. What locks it or holds it stays (R217,
R234). -/
def dropPoisoned (m : Module) (p page : Nat) : Module :=
  match ((m.part p).pages.get page).tier with
  | none => m
  | some t => (subUsed m p t.idx 1).setPart p fun x =>
      { x with pages := x.pages.upd page fun g => { g with tier := none, place := .stripe }
               range := x.range.overlay (page * pageSize) pageSize [] }

/-- The pages of a list as they stood in an earlier module: poisoned pages for which no good location was found. -/
def restorePages (old m : Module) (p : Nat) (pages : List Nat) : Module :=
  let was := old.part p
  let m := pages.foldl (fun m g => match (was.pages.get g).tier with
    | some t => addUsed (setPage m p g fun _ => was.pages.get g) p t.idx 1
    | none => m) m
  m.setPart p fun x => { x with range := was.range }

/-- Back the pages that a command writes, `n` bytes from `a`: a poisoned page that it writes whole is backed again in a good
location, another poisoned page fails it (R211, R214, R234). The module, and how the command ends if it cannot go on. -/
def backForWrite (m : Module) (p first a n : Nat) : Module × Option (Status × Nat) :=
  let pages := pagesOf a n
  let bad := pages.filter fun g => ((m.part p).pages.get g).poison
  match bad.find? fun g => !(decide (a ≤ g * pageSize) && decide ((g + 1) * pageSize ≤ a + n)) with
  | some g => (m, some (.failTier, poisonDetail m p g))
  | none =>
    let m1 := bad.foldl (fun m g => dropPoisoned m p g) m
    match backList m1 p first pages with
    | (m2, some _) => (m2, none)
    | (m2, none) => (if bad.isEmpty then m2 else restorePages m m2 p bad, some (.rejQuota, first))

/-! ### Cache pages (10_serving R283 to R285) -/

/-- Unback the tier pages of a list of cache pages. -/
def freeCache (m : Module) (p : Nat) (v : Option Serving) (cs : List Nat) : Module :=
  (cacheTierPages v cs).foldl (fun m g => unbackPage m p g) m

/-- Cache pages that a request's end returns: every page it lists or holds spare, but for the PINNED ones (R285). -/
def Cache.owned (c : Cache) : List Nat :=
  (c.pages.cells.filterMap fun e => if e.1 < c.pinned then none else e.2) ++ c.spares

/-- Cache pages that an active request of the model, other than the one in `slot`, lists, or that a prefix of the model
holds. -/
def cacheInUse (m : Module) (p model slot : Nat) : List Nat :=
  ((reqsOf m p).flatMap fun q =>
    if q.1 = slot then []
    else (if q.2.model = model then q.2.main.pages.cells.filterMap (·.2) else []) ++
      (if q.2.draftModel = model then q.2.dcache.pages.cells.filterMap (·.2) else [])) ++
    ((m.part p).prefixes.flatMap fun x => if x.model = model then x.pages else [])

/-- PINNED pages of a cache that nothing else holds any more: their prefix was released (R286). -/
def Cache.orphans (c : Cache) (inUse : List Nat) : List Nat :=
  c.pages.cells.filterMap fun e =>
    match e.2 with
    | some x => if e.1 < c.pinned && !inUse.contains x then some x else none
    | none => none

/-- A request ends: its pages return to the pool, what is left of its reservation is released (R285), and a PAUSE or RESUME
that waits for it completes REJ_STATE with the CSN of its final completion (R278). -/
def endRequest (m : Module) (slot : Nat) : Module :=
  match m.slots.get slot with
  | none => m
  | some q =>
    let m := freeCache m q.part q.srv
      (q.main.owned ++ q.main.orphans (cacheInUse m q.part q.model slot))
    let m := freeCache m q.part q.dsrv
      (q.dcache.owned ++ q.dcache.orphans (cacheInUse m q.part q.draftModel slot))
    let m := release m q.part q.resv
    let m := (q.pauseBy ++ q.resumeBy).foldl (fun m r =>
      finishAfter m ⟨q.fn, r.1, r.2⟩ .rejState (.csnOf q.item) (some q.item)) m
    setReq m slot fun q =>
      { q with st := .ended, main := {}, dcache := {}, resv := {}, inStep := none, recordPending := true
               proposals := [], pauseBy := [], resumeBy := [], promoting := false }

/-- The provisional entries of a cache after a step: committed below the new watermark, else spare pages again, their
list entries empty (R284); the entries that become empty. -/
def Cache.settle (c : Cache) (w : Nat) : Cache × List Nat :=
  let dead := c.prov.filter fun i => decide (w ≤ 64 * i)
  ({ c with
      mark := w
      prov := []
      spares := c.spares ++ dead.filterMap fun i => c.pages.get i
      pages := dead.foldl (fun ps i => ps.put i none) c.pages }, dead)

end Sys2Proof.Machine
end

