-- ==== Sys2Proof/Machine/Tasks.lean ====
section
/-! DEFINITION. Tasks: the partition step, the cores and streams it holds, and how it is aborted (06 R157, 10 R269, R270,
04 R110, 05 R144, 12 R345). -/

namespace Sys2Proof.Machine

/-- The plane of a core that is ACTIVE, with its index (R194). -/
def activePlane (c : Core) : Option (Nat × Plane) := c.planes.cells.find? fun x => x.2.st == .active

/-- The active plane's content; empty when no plane is active. -/
def planeBytes (c : Core) : Mem :=
  match activePlane c with
  | some x => x.2.bytes
  | none => []

/-- Partition whose plane is active on a core. -/
def corePart (m : Module) (core : Nat) : Option Nat := (activePlane (m.core core)).map fun x => x.2.part

/-- Global core of a logical core in the swath that is active on `core`. -/
def globalOf (m : Module) (core logical : Nat) : Option Nat :=
  match activePlane (m.core core) with
  | some (_, pl) => (swathOf m pl.part pl.swath).bind fun w => w.cores[logical]?
  | none => none

/-- READY swaths of a model, in fold order. -/
def swathsOfModel (m : Module) (p model : Nat) : List Swath :=
  (range' 0 4).flatMap fun f => (m.part p).swaths.filter fun w => w.model == model && w.ready && w.foldIndex == f

/-- The swath that a model runs in fold `f`. -/
def foldSwath (m : Module) (p model f : Nat) : Option Swath :=
  (m.part p).swaths.find? fun w => w.model == model && w.ready && w.foldIndex == f

/-- Every core that the swaths of a model are placed on. -/
def coresOfModel (m : Module) (p model : Nat) : List Nat :=
  ((swathsOfModel m p model).flatMap fun w => w.cores).eraseDups

/-- Set the state of a core's planes that are in one state. -/
def Core.planesTo (c : Core) (old new : PlaneState) : Core :=
  { c with planes := c.planes.mapV fun _ p => if p.st = old then { p with st := new } else p }

/-- Every engine and queue of a core empty, its run number advanced: what an abort leaves (R110, R144, R157). Flits in
flight stay in flight, to be discarded on arrival. -/
def Core.stopped (c : Core) : Core :=
  { c.planesTo .active .ready with
    run := (c.run + 1) % 256
    inq := {}
    outq := c.outq.mapV fun _ q => { inFlight := q.inFlight }
    su := {}, capTab := {}, lastOrd := {}, lists := {}, closings := {}, heads := {}
    ve := { c.ve with handler := none, loops := [], pc := 0, ready := {} }
    me := {}
    rings := {}
    drained := false }

/-- Stop a list of cores. -/
def stopCores (m : Module) (cs : List Nat) : Module := cs.foldl (fun m c => m.setCore c Core.stopped) m

/-- A swath belongs to the task of a partition: its model is in the step, or there is no step and everything of the partition is
meant. -/
def ofTask (m : Module) (p swath : Nat) : Bool :=
  match (m.part p).step with
  | none => true
  | some st => match swathOf m p swath with
    | some w => st.runs.any fun r => r.model == w.model
    | none => true

/-- End the streams of a partition's task, on the tile movers and saved, and the entries of it that wait to be issued; none of their
issues up to the step now aborted is made any more (R227, R228). -/
def stopStreams (m : Module) (p : Nat) : Module :=
  let mine := ofTask m p
  let m := { m with clusters := m.clusters.mapV fun _ k => { k with tm := k.tm.mapV fun _ t =>
      match t with
      | some s => if s.part = p ∧ mine s.swath = true then none else some s
      | none => none } }
  m.setPart p fun x =>
    { x with savedStreams := x.savedStreams.filter fun s => !mine s.2.swath
             tmWait := x.tmWait.filter fun k => !mine (k / 65536)
             issueFloor := (x.swaths.filter fun w => mine w.id).foldl (fun f w =>
               f.put w.id (x.steps.get w.id + 2)) x.issueFloor }

/-- A request whose cell an ABORT has claimed, or whose function was reset, ends: its ABORTED completion is requested now
(R269); after a function reset there is none, and the slot is free (R325). -/
def releaseAborted (m : Module) (slot : Nat) : Module :=
  match m.slots.get slot with
  | none => m
  | some q =>
    if q.orphan then
      let m := endRequest m slot
      { m with slots := m.slots.put slot none }
    else endRequest (releaseClaimed m q.item) slot

/-- A request fails with a status (R270); one whose cell an ABORT claimed is released instead (R269). -/
def failRequest (m : Module) (slot : Nat) (st : Status) (v : Nat) : Module :=
  match m.slots.get slot with
  | none => m
  | some q =>
    if q.st = .ended then m
    else if q.aborted || q.orphan then releaseAborted m slot
    else endRequest (finishV m q.item st v) slot

/-- Requests in the entries of a run's step (R270). -/
def entrySlots (rs : List RunStep) : List Nat := (rs.flatMap fun r => r.entries.map (·.slot)).eraseDups

/-- End the runs of a list of run steps: their items finish with a status, the requests in their steps fail with it. -/
def failRuns (m : Module) (p : Nat) (rs : List RunStep) (st : Status) (d : Nat → Nat) : Module :=
  let nums := rs.map (·.run)
  let its := ((m.part p).runs.filter fun r => nums.contains r.num).map (·.item)
  let m := its.foldl (fun m i => finishV m i st (d i.fn)) m
  let m := m.setPart p fun x => { x with runs := x.runs.filter fun r => !nums.contains r.num }
  (entrySlots rs).foldl (fun m s => failRequest m s st (d (match m.slots.get s with
    | some q => q.fn
    | none => 0))) m

/-- What a partition's step leaves when it is gone: cores stopped, streams and transfers ended, gates forgotten, saved
state discarded (R157, R228, R350). -/
def clearStep (m : Module) (p : Nat) : Module :=
  let cs := match (m.part p).step with
    | some st => st.cores
    | none => []
  let m := if cs.isEmpty then m else hedgeSend m dieH 1 1 (orderPayload 1 p)
  let m := stopCores (stopStreams m p) cs
  let m := { m with xfers := m.xfers.filter fun x => x.part ≠ p }
  m.setPart p fun x => { x with step := none, saved := [], gates := {}, gateTaken := {} }

/-- Abort the task of a partition: its step in progress, pre-empted or awaiting replay, is gone; the items of its runs
and the requests in it fail with a status, whose DETAIL may depend on the function (R270). -/
def abortTask (m : Module) (p : Nat) (st : Status) (d : Nat → Nat) : Module :=
  let x := m.part p
  let rs := match x.step, x.replay with
    | some s, _ => s.runs
    | none, some r => r.runs
    | none, none => []
  let m := clearStep m p
  let m := m.setPart p fun x => { x with replay := none }
  failRuns m p rs st d

/-- Count arithmetic exceptions in the partition whose plane is active on a core (R81, Table 12.8). -/
def countAx (m : Module) (core sat nan inf : Nat) : Module :=
  match corePart m core with
  | none => m
  | some p => m.setRegs p fun r =>
    { r with axSat := satAdd r.axSat sat, axNan := satAdd r.axNan nan, axInf := satAdd r.axInf inf }

/-- Event codes of Table 17.6 that an engine raises. -/
def evQProtocol : Nat := 0x0202
def evSuTagDup : Nat := 0x0203
def evSuRange : Nat := 0x0204
def evSuRoute : Nat := 0x0205
def evSuOrder : Nat := 0x0206
def evMeMergeOrder : Nat := 0x0207
def evVeAddr : Nat := 0x0208
def evVeAlign : Nat := 0x0209
def evVeNoHandler : Nat := 0x020A
def evMemRange : Nat := 0x020B

/-- The step of a partition that is in progress: launched, unfinished and not pre-empted (R41, R345). -/
def runningStep (m : Module) (p : Nat) : Option PartStep := (m.part p).step.filter fun s => !s.preempted

end Sys2Proof.Machine
end

