-- ==== Sys2Proof/Machine/Placement.lean ====
section
/-! DEFINITION. Routes and their latencies, the swath image's fields, placement of logical groups on core groups,
re-placement after a fence, and the loading of planes (01 R16 to R21, 06 R159 to R162, 07 R181 to R193). -/

namespace Sys2Proof.Machine

/-! ### Routes (R16, R159, R162, Table 6.4) -/

/-- Distance of two numbers. -/
def dist (a b : Nat) : Nat := (a - b) + (b - a)

/-- Mesh row of a global core. -/
def rowOf (core : Nat) : Nat := core % 80 / 8
/-- Mesh column of a global core. -/
def colOf (core : Nat) : Nat := core % 8

/-- Mesh hops from a core to the nearest core at the edge of its mesh. -/
def edgeHops (core : Nat) : Nat :=
  min (min (rowOf core) (9 - rowOf core)) (min (colOf core) (7 - colOf core))

/-- Bridges between two compute dies: along the row, then across rows (R16). -/
def bridges (d e : Nat) : Nat := dist (d % 4) (e % 4) + dist (d / 4) (e / 4)

/-- One-way latency in cc of the route from one core to another; a queue with an extension ends through the consumer's
cluster switch (Table 6.4, R174). -/
def routeLatency (a b : Nat) (ext : Bool) : Nat :=
  if clusterOf a = clusterOf b && !ext then 2 * (dist (rowOf a) (rowOf b) + dist (colOf a) (colOf b))
  else
    let ends := 3 + 2 * edgeHops a + 3 + 2 * edgeHops b
    if clusterOf a = clusterOf b then ends
    else ends + 12 + 20 * bridges (dieOfCluster (clusterOf a)) (dieOfCluster (clusterOf b))

/-! ### The swath image (R181, R182) -/

/-- Fields of an image and its group table, as placement reads them. -/
structure ImgInfo where
  id      : Nat
  model   : Nat
  fold    : Nat
  folds   : Nat
  wcStep  : Nat
  need    : List Nat
  lcl     : List Nat
  cs      : List Nat
  planeOff : Nat
  cores   : Nat
  deriving DecidableEq, Repr

/-- Read an image's header and group table. -/
def imgInfo (b : Mem) : ImgInfo :=
  let g := b.rd 0x1A 2
  let off := b.rd 0x30 8
  { id := b.rd 8 8, model := b.rd 0x10 8, fold := b.rd 0x18 1, folds := b.rd 0x19 1, wcStep := b.rd 0x20 8
    need := (range' 0 g).map fun i => b.rd (off + 16 * i) 1
    lcl := (range' 0 g).map fun i => b.rd (off + 16 * i + 1) 1
    cs := (range' 0 g).map fun i => b.rd (off + 16 * i + 4) 4
    planeOff := b.rd 0x38 8, cores := b.rd 0x1C 4 }

/-- Plane payload of a logical core in an image (R182). -/
def payload (b : Mem) (planeOff logical : Nat) : Mem := b.slice (planeOff + logical * 0x10000) 0x10000

/-- Routes of an image whose latency is limited: (producing logical core, consuming logical core, MAX_LAT, extended). -/
def routesOf (b : Mem) (i : ImgInfo) : List (Nat × Nat × Nat × Bool) :=
  (range' 0 i.cores).flatMap fun c =>
    let pl := payload b i.planeOff c
    (range' 0 16).filterMap fun q =>
      let e := inEntry pl q
      if e.consumer ≠ 0 ∧ e.prodKind = 0 ∧ e.maxLat ≠ 0 then some (e.prodCore, c, e.maxLat, decide (0 < e.ext))
      else none

/-! ### Placement (R190, R191, R338) -/

/-- Live cores of a core group, in increasing local-core number. -/
def liveIn (m : Module) (g : Nat) : List Nat :=
  (coresOfGroup g).filter fun c => m.live c && !(m.power.coolant && !m.power.domains.getLsbD c)

/-- First logical core of each group (R182). -/
def firstCores : List Nat → Nat → List Nat
  | [], _ => []
  | n :: ns, k => k :: firstCores ns (k + n)

/-- Global core of each logical core, for groups placed in order (R191). -/
def coresFor (m : Module) (need groups : List Nat) : List Nat :=
  (need.zip groups).flatMap fun x => (liveIn m x.2).take x.1

/-- Cluster-store bytes that the partition's loaded swaths, other than `skip`, hold in a cluster. -/
def csUsed (m : Module) (p k skip : Nat) : Nat :=
  ((m.part p).swaths.map fun w =>
    if w.id = skip then 0
    else ((w.groups.zip w.csBytes).map fun x => if x.1 / 5 = k then x.2 else 0).sum).sum

/-- The partition may use the core group: owned, or pooled with POOL set; no test holds it, and its cluster's control core
is not past its absence limit (R190, R338, R398, R461). -/
def groupUsable (m : Module) (p g : Nat) : Bool :=
  ((m.part p).regs.owned.getLsbD g || (m.pool.getLsbD g && (m.part p).regs.pool)) &&
    (m.ras.testing.get g).isNone && !(m.proc (32 + g / 5)).limitPassed

/-- The core group holds a plane of a main model whose draft model is `model` (R338). -/
def holdsMainOf (m : Module) (p model g : Nat) : Bool :=
  (coresOfGroup g).any fun c => (m.core c).planes.cells.any fun x =>
    decide (x.2.st ≠ .empty) && x.2.part == p &&
      (m.part p).swaths.any fun w => w.id == x.2.swath && (match servingOf m p w.model with
        | some v => v.draftModel == model && !v.draft
        | none => false)

/-- Every route of the image whose two ends are placed keeps its MAX_LAT (R190, condition 5). -/
def routesOk (routes : List (Nat × Nat × Nat × Bool)) (cores : List Nat) : Bool :=
  routes.all fun r =>
    match cores[r.1]?, cores[r.2.1]? with
    | some a, some b => decide (routeLatency a b r.2.2.2 ≤ r.2.2.1)
    | _, _ => true

/-- Core group `k` fits the next logical group, given those already placed; `any3` leaves condition 3 out (R195). -/
def fits (m : Module) (p : Nat) (i : ImgInfo) (routes : List (Nat × Nat × Nat × Bool)) (plane : Nat) (isDraft any3 : Bool)
    (placed : List Nat) (k : Nat) : Bool :=
  let g := placed.length
  let need := i.need.getD g 0
  let cl := i.lcl.getD g 0
  let same := (placed.zip i.lcl).filter fun x => x.2 = cl
  let here := ((placed.zip i.cs).map fun x => if x.1 / 5 = k / 5 then x.2 else 0).sum + i.cs.getD g 0
  groupUsable m p k && !(isDraft && holdsMainOf m p i.model k) &&
    decide (need ≤ (liveIn m k).length) &&
    !placed.contains k &&
    (any3 || (coresOfGroup k).all fun c => ((m.core c).planes.get plane).st == .empty) &&
    same.all (fun x => x.1 / 5 == k / 5) &&
    decide (csUsed m p (k / 5) i.id + here ≤ 65536 * (m.part p).regs.csQuota) &&
    routesOk routes (coresFor m i.need (placed ++ [k]))

/-- Place the remaining groups in order, each on the lowest-numbered group that fits: the groups, or the logical group
that found none (R190). -/
def placeFrom (m : Module) (p : Nat) (i : ImgInfo) (routes : List (Nat × Nat × Nat × Bool)) (plane : Nat)
    (isDraft any3 : Bool) : List Nat → List Nat → Except Nat (List Nat)
  | [], placed => .ok placed
  | _ :: rest, placed =>
    match (range' 0 160).find? fun k => fits m p i routes plane isDraft any3 placed k with
    | some k => placeFrom m p i routes plane isDraft any3 rest (placed ++ [k])
    | none => .error placed.length

/-! ### Planes (R184, R194) -/

/-- Whole lines of a core's local store have been written: their poison marks are gone (R449; log 22). -/
def clearLines (m : Module) (core a n : Nat) : Module :=
  m.setRas fun r => { r with poisonLs := ⟨r.poisonLs.cells.filter fun c =>
    c.1 < core * 16384 + a / 64 || decide (core * 16384 + (a + n) / 64 ≤ c.1)⟩ }

/-- Load a plane of a core: payload, state, and the constants into local store (R184). -/
def loadPlane (m : Module) (p core plane logical : Nat) (id : Nat) (st : PlaneState) (pl : Mem) : Module :=
  (clearLines m core (0xF0000 + plane * 0x4000) 0x4000).setCore core fun c =>
    { c with planes := c.planes.put plane { st := st, part := p, swath := id, logical := some logical, bytes := pl }
             ls := c.ls.overlay (0xF0000 + plane * 0x4000) 0x4000 (pl.slice 0xC000 0x4000) }

/-- Empty a plane of a list of cores. -/
def emptyPlanes (m : Module) (plane : Nat) (cs : List Nat) : Module :=
  cs.foldl (fun m c => m.setCore c fun x => { x with planes := x.planes.put plane {} }) m

/-- Change one loaded swath. -/
def setSwath (m : Module) (p id : Nat) (g : Swath → Swath) : Module :=
  m.setPart p fun x => { x with swaths := x.swaths.map fun w => if w.id = id then g w else w }

/-! ### Re-placement (R193) -/

/-- The image information of a loaded swath. -/
def Swath.info (w : Swath) : ImgInfo := imgInfo w.image

/-- Core group that logical group `g` of a loaded swath takes after a fence: its own if it still fits, else the first other
that does (R193). -/
def regroup (m : Module) (p : Nat) (w : Swath) (routes : List (Nat × Nat × Nat × Bool)) (g : Nat) : Option Nat :=
  let i := w.info
  let own := w.groups.getD g 0
  let keep := w.groups
  if i.need.getD g 0 ≤ (liveIn m own).length ∧ routesOk routes (coresFor m i.need keep) = true then some own
  else
    let isDraft := match w.serving with
      | some v => v.draft
      | none => false
    (range' 0 160).find? fun k =>
      !w.groups.contains k && groupUsable m p k && !(isDraft && holdsMainOf m p i.model k) &&
        decide (i.need.getD g 0 ≤ (liveIn m k).length) &&
        ((coresOfGroup k).all fun c => ((m.core c).planes.get w.plane).st == .empty) &&
        ((w.groups.zip i.lcl).all fun x => x.1 == own || x.2 != i.lcl.getD g 0 || x.1 / 5 == k / 5) &&
        decide (csUsed m p (k / 5) w.id +
          ((w.groups.zip i.cs).map fun x => if x.1 / 5 = k / 5 && x.1 != own then x.2 else 0).sum +
            i.cs.getD g 0 ≤ 65536 * (m.part p).regs.csQuota) &&
        routesOk routes (coresFor m i.need (w.groups.set g k))

/-- Re-place the group of one loaded swath that holds core group `cg`: reload the planes of the cores whose assignment
changed (R193); none when no core group fits. -/
def replaceSwath (m : Module) (p : Nat) (w : Swath) (cg : Nat) : Option Module :=
  match w.groups.findIdx? (· == cg) with
  | none => some m
  | some g =>
    match regroup m p w (routesOf w.image w.info) g with
    | none => none
    | some k =>
      let i := w.info
      let groups := w.groups.set g k
      let cores := coresFor m i.need groups
      let st := match w.cores.head? with
        | some c => if ((m.core c).planes.get w.plane).st = .loading then PlaneState.loading else .ready
        | none => .ready
      let m := emptyPlanes m w.plane (w.cores.filter fun c => !cores.contains c)
      let m := (range' 0 cores.length).foldl (fun m l =>
        let c := cores.getD l 0
        if k = cg && w.cores[l]? == some c then m
        else if groupOf c = k then loadPlane m p c w.plane l w.id st (payload w.image i.planeOff l) else m) m
      some (setSwath m p w.id fun w => { w with groups := groups, cores := cores })

/-- Re-place every loaded swath of a partition that has a group on `cg`; the flag says whether all succeeded. -/
def replaceAll (m : Module) (p cg : Nat) : Module × Bool :=
  (m.part p).swaths.foldl (fun r w =>
    match replaceSwath r.1 p w cg with
    | some m => (m, r.2)
    | none => (r.1, false)) (m, true)

end Sys2Proof.Machine
end

