-- ==== Sys2Proof/Machine/FabricOps.lean ====
section
/-! DEFINITION. Shared operations of the fabric link layer: frames on a link, Hedgerow messages across the slice
(13_fabric R358, R360, R374). -/

namespace Sys2Proof.Machine

/-- Places of a link's replay buffer (R360). -/
def replayDepth : Nat := 2048

/-- Put a frame on a link: the next sequence number, the acknowledgement of the last frame received, and a place in the
replay buffer (R358, R360). -/
def putFrame (m : Module) (l : Nat) (body : FrameBody) : Module :=
  let k := m.link l
  let f : Frame := { seq := k.txSeq, ack := (k.rxSeq + 4095) % 4096, body := body }
  emitNet (m.setLink l fun k => { k with txSeq := (k.txSeq + 1) % 4096, replayBuf := k.replayBuf ++ [f] }) (.frame l f)

/-- Strict priority on a link: Hedgerow messages by class, class 1 first, then data (R374). -/
def frameRank : FrameBody → Nat
  | .hedge _ _ cls _ => cls
  | _ => 4

/-- A frame takes its place among those that wait: behind every frame of its priority or a higher one (R374, R376). -/
def queueFrame (b : FrameBody) : List FrameBody → List FrameBody
  | [] => [b]
  | x :: xs => if frameRank b < frameRank x then b :: x :: xs else x :: queueFrame b xs

/-- Send a frame on a link; it waits while the replay buffer is full (R360). -/
def sendFrame (m : Module) (l : Nat) (body : FrameBody) : Module :=
  if replayDepth ≤ (m.link l).replayBuf.length then m.setLink l fun k => { k with waiting := queueFrame body k.waiting }
  else putFrame m l body

/-- Send the frames that wait while the replay buffer of a link has places. -/
def drainFrames (l : Nat) : Nat → Module → Module
  | 0, m => m
  | n + 1, m =>
    match (m.link l).waiting with
    | [] => m
    | b :: bs =>
      if replayDepth ≤ (m.link l).replayBuf.length then m
      else drainFrames l n (putFrame (m.setLink l fun k => { k with waiting := bs }) l b)

/-- Links in state UP. -/
def upLinks (m : Module) : List Nat := (range' 0 12).filter fun l => (m.link l).st == .up

/-- The module's coordinates; (0, 0, 0) without a slice record. -/
def ownCoord (m : Module) : Coord :=
  match m.fabric.slice with
  | some s => s.at_
  | none => {}

/-- Forward a Hedgerow message on every UP link except the one it came on (R374). -/
def forwardHedge (m : Module) (except : Option Nat) (origin : Coord) (oseq cls : Nat) (payload : List Nat) : Module :=
  (upLinks m).foldl (fun m l => if except = some l then m else sendFrame m l (.hedge origin oseq cls payload)) m

/-- Issue a Hedgerow message of the module's own across the slice (R374). -/
def issueHedge (m : Module) (cls : Nat) (payload : List Nat) : Module :=
  let o := ownCoord m
  let n := (m.fabric.oseq + 1) % 65536
  let m := m.setFabric fun f => { f with oseq := n, seen := (o, n) :: f.seen }
  forwardHedge m none o n cls payload

/-- A message from a link is new: it is recorded as seen (R374). -/
def firstSeen (m : Module) (origin : Coord) (oseq : Nat) : Bool := !m.fabric.seen.contains (origin, oseq)

/-- Payload of a stop order that names a job of the module itself: kind 1, JOB_ID, GEN and the fenced core (R455). -/
def stopJobOrder (job gen core : Nat) : List Nat := [1, job, gen, core]
/-- Payload of a stop order that names a link: kind 0, the link's module coordinates and its number (R386). -/
def stopLinkOrder (c : Coord) (l : Nat) : List Nat := [0, c.x, c.y, c.z, l]
/-- Payload of a class 3 replay order (R456). -/
def replayOrderPayload (job gen model step boundary : Nat) : List Nat := [job, gen, model, step, boundary]

/-- A partition's multi-module job stops: it launches no further step, FAB_PSTAT.STOPPED sets and the stop is counted
(R386, R455). -/
def markStopped (m : Module) (p : Nat) : Module :=
  if (m.fab p).en then m.setFab p fun x => { x with stopped := true, halted := true, stops := satAdd x.stops 1 } else m

end Sys2Proof.Machine
end

