-- ==== Sys2Proof/Machine/Fence.lean ====
section
/-! DEFINITION. Shared fault operations: job stops, recoveries and their queues, a fence, storage errors and their counts
(17_faults R449 to R458). -/

namespace Sys2Proof.Machine

/-- A partition's domain is in recovery (R457). -/
def recovering (m : Module) (p : Nat) : Bool := m.ras.active.any fun r => r.part = p

/-- Take the faults queued in a partition's domain in order: aborts are carried out, and the first fence begins its recovery (R457,
R458). `fuel` bounds their number. -/
def takeFaults (p : Nat) : Nat → Module → Module
  | 0, m => m
  | fuel + 1, m =>
    match m.ras.queues.get p with
    | [] => m
    | q :: qs =>
      let m := m.setRas fun r => { r with queues := r.queues.put p qs }
      match q.abort with
      | none => m.setRas fun r => { r with active := r.active ++ [q] }
      | some (st, ds) => takeFaults p fuel (abortTask m p st fun f => ((ds.find? fun x => x.1 == f).map (·.2)).getD 0)

/-- Drop a partition's recovery in progress and take the faults queued in its domain (R457). -/
def endRecovery (m : Module) (p : Nat) : Module :=
  takeFaults p 17 (m.setRas fun r => { r with active := r.active.filter fun x => x.part ≠ p })

/-- Stop the job of a partition: every item of its open runs and every request in the abandoned step fails, a JOB_STOP
event is raised, and in a multi-module job a class 1 stop order names the module itself (R455). -/
def jobStopWith (m : Module) (p core : Nat) (st : Status) (d : Nat → Nat) : Module :=
  let x := m.part p
  let rs := match x.step, x.replay with
    | some s, _ => s.runs
    | none, some r => r.runs
    | none, none => []
  let m := clearStep m p
  let its := x.runs.map (·.item)
  let m := m.setPart p fun x => { x with replay := none, runs := [], sealedSet := none }
  let m := its.foldl (fun m i => finishV m i st (d i.fn)) m
  let m := (entrySlots rs).foldl (fun m s => failRequest m s st (d (match m.slots.get s with
    | some q => q.fn
    | none => 0))) m
  let f := m.fab p
  let m := m.setRas fun r => { r with jobStops := satAdd r.jobStops 1, replayCnt := r.replayCnt.put p 0 }
  let m := raise m 0x0403 p (dieOfCluster (clusterOf core)) [core, f.job, f.gen]
  let m := if f.en then markStopped (issueHedge m 1 (stopJobOrder f.job f.gen core)) p else m
  endRecovery m p

/-- The job stop of R455: FAIL_FENCE with the fenced core. -/
def jobStop (m : Module) (p core : Nat) : Module := jobStopWith m p core .failFence fun _ => core

/-- Abort a partition's task for a fault at once: within a replayed step the job stops under R455, else its items fail (R458). -/
def faultNow (m : Module) (p : Nat) (st : Status) (d : Nat → Nat) : Module :=
  match (m.part p).step.bind (·.replayOf) with
  | some core => jobStop m p core
  | none => abortTask m p st d

/-- Queue a fault in the domain of a partition that recovers; a 17th stops the domain's job with FAIL_FAULT and raises RECOVERY_OVF
(R458). -/
def queueFault (m : Module) (f : Recovery) : Module :=
  let p := f.part
  if (m.ras.queues.get p).length < 16 then m.setRas fun r => { r with queues := r.queues.upd p (· ++ [f]) }
  else
    let m := raise m 0x0406 p dieH [p]
    let m := m.setRas fun r => { r with recovOvf := true, queues := r.queues.put p [] }
    jobStopWith m p f.core .failFault (fun f => evsnOf m f)

/-- Abort a partition's task for a fault. While its domain recovers the abort is queued, once (R449, R457, R458). -/
def faultTask (m : Module) (p : Nat) (st : Status) (d : Nat → Nat) : Module :=
  if !recovering m p then faultNow m p st d
  else if (m.ras.queues.get p).any fun q => q.abort.isSome then m
  else
    let core := ((m.ras.active.find? fun r => r.part = p).map (·.core)).getD 0
    queueFault m { core := core, part := p, cause := 0, tick := m.tick.count, abort := some (st, m.fns.keys.map fun f => (f, d f)) }

/-- Raise an error event of a core and abort the task that runs on it with FAIL_FAULT, DETAIL the EVSN of that event
(Tables 11.7, 17.6). -/
def coreFault (m : Module) (core code value : Nat) : Module :=
  match activePlane (m.core core) with
  | none => m
  | some (ix, pl) =>
    let m := raise m code pl.part (dieOfCluster (clusterOf core)) [core, ix, value]
    faultTask m pl.part .failFault (fun f => evsnOf m f)

/-- A stream or command of a partition met an address outside its range (R209): the event, and the abort of the task. -/
def rangeFault (m : Module) (p a : Nat) : Module :=
  let m := raise m evMemRange p dieH [0xFFFF, 0xFF, a / pageSize % 4294967296]
  faultTask m p .failFault (fun f => evsnOf m f)

/-- A fence enters a partition's domain: its recovery starts, or it is queued (R457, R458). -/
def enterRecovery (m : Module) (p core cause : Nat) : Module :=
  let f : Recovery := { core := core, part := p, cause := cause, tick := m.tick.count }
  if recovering m p then queueFault m f else m.setRas fun r => { r with active := r.active ++ [f] }

/-- Other fences of the tick in the same core group (R454, condition 1; R458). -/
def sameGroupTick (m : Module) (core : Nat) : Bool :=
  m.ras.tickFences.any fun x => x.1 != core && groupOf x.1 == groupOf core && x.2 == m.tick.count

/-- Cores of a core's cluster fenced in this tick. -/
def clusterTick (m : Module) (core : Nat) : Nat :=
  (m.ras.tickFences.filter fun x => clusterOf x.1 = clusterOf core && x.2 = m.tick.count).length

/-- Condition 1 of R454 at a fence just entered in the list of the tick. -/
def replayAllowed (m : Module) (core : Nat) : Bool := !sameGroupTick m core && decide (clusterTick m core ≤ 4)

/-- A partition's step holds a core: it runs on it, or is pre-empted with its state still in place there (R451). -/
def holdsCore (m : Module) (p core : Nat) : Bool :=
  match (m.part p).step with
  | some s => s.cores.contains core
  | none => false

/-- Cores of the groups in which a core lies, over all swaths of a partition. -/
def placedOn (m : Module) (p core : Nat) : Bool := (m.part p).swaths.any fun w => w.groups.contains (groupOf core)

/-- What a fence of `core` does to one partition: its step that held the core is abandoned, to be replayed or its job
stopped; a fence that strikes the recovery itself stops the job; otherwise the fault enters its domain (R451 to R458). -/
def fenceHits (m : Module) (core cause : Nat) (p : Nat) : Module :=
  let x := m.part p
  let strikes := m.ras.active.any fun r => r.part == p && r.placed.contains core
  if holdsCore m p core then
    if replayAllowed m core && decide (m.ras.replayCnt.get p < 3) then
      let rs := match x.step with
        | some s => s.runs
        | none => []
      let m := clearStep m p
      let m := m.setPart p fun x => { x with replay := some { runs := rs, core := core } }
      enterRecovery (m.setRas fun r => { r with active := r.active.filter fun y => y.part ≠ p || y.placed = [] })
        p core cause
    else jobStop m p core
  else if x.replay.isSome && (strikes || !replayAllowed m core) then jobStop m p core
  else if placedOn m p core then enterRecovery m p core cause
  else m

/-- Fence a core (R450 to R452, Table 17.3): halt order, abort of the steps that hold it, domain off, live map bit
clear, the fence list, the counters and the FENCE event. -/
def fence (m : Module) (core cause : Nat) : Module :=
  if !m.live core then m
  else
    let full := decide (128 ≤ m.flash.fences.length)
    let m := raiseCore m 0x0401 core [core, cause, b2n full]
    let m := hedgeSend m (dieOfCluster (clusterOf core)) 0 1 (orderPayload 2 core)
    let ps := m.parts.keys.filter fun p => holdsCore m p core || placedOn m p core
    let m := { m with flash := if full || m.flash.fences.contains core then m.flash
                               else { m.flash with fences := m.flash.fences ++ [core] } }
    let m := m.setRas fun r =>
      { r with liveMap := r.liveMap &&& ~~~(BitVec.twoPow 2560 core), liveCount := r.liveCount - 1
               fences := satAdd r.fences 1, logFull := r.logFull || full
               tickFences := (core, m.tick.count) :: r.tickFences.filter fun x => x.2 = m.tick.count }
    let m := m.setPower fun w => { w with domains := w.domains &&& ~~~(BitVec.twoPow 2662 core) }
    let m := m.setClu (clusterOf core) fun k => { k with live := k.live - 1 }
    let m := foldM ps (fun m p => fenceHits m core cause p) m
    m.setCore core fun c => { c.stopped with planes := {}, halted := true, haltNs := some m.tick.ns }

/-! ### Storage errors (R449, R450) -/

/-- One hour and one second of the time base, ns. -/
def hourNs : Nat := 3600000000000
/-- One second, ns. -/
def secondNs : Nat := 1000000000

/-- Key of a unit for the rate of CE events, and the kind and unit number its events carry. -/
def errUnit : ErrPlace → Nat × Nat × Nat
  | .core c k _ => (c, k, c)
  | .cluster k _ => (4096 + k, 32, k)
  | .tier _ _ t u _ => (8192 + 256 * t + u, 64 + t, u)
  | .path k u => (16384 + 256 * k + u, 128 + k, u)

/-- Address an error place gives. -/
def errAddr : ErrPlace → Nat
  | .core _ _ a => a
  | .cluster _ a => a
  | .tier _ _ _ _ a => a
  | .path _ _ => 0

/-- Raise an event about an error place: of a core's own storage under R464, of a partition's page for that partition. -/
def raisePlace (m : Module) (pl : ErrPlace) (code : Nat) (payload : List Nat) : Module :=
  match pl with
  | .core c _ _ => raiseCore m code c payload
  | .cluster k _ => raise m code noPart (dieOfCluster k) payload
  | .tier p _ _ u _ => raise m code p (8 + u % 8) payload
  | .path _ _ => raise m code noPart dieH payload

/-- A corrected error: RAS_CE_COUNT, and one CE event per unit per second with those coalesced (R449). -/
def countCorrected (m : Module) (pl : ErrPlace) : Module :=
  let (key, kind, unit) := errUnit pl
  let m := m.setRas fun r => { r with ceCount := satAdd r.ceCount 1, ceCoal := r.ceCoal.upd key (· + 1) }
  let due := match m.ras.ceEventNs.get key with
    | some t => decide (t + secondNs ≤ m.tick.ns)
    | none => true
  if due then
    let n := m.ras.ceCoal.get key
    let m := m.setRas fun r => { r with ceCoal := r.ceCoal.put key 0, ceEventNs := r.ceEventNs.put key (some m.tick.ns) }
    raisePlace m pl 0x0301 [kind, unit, n]
  else m

/-- A corrected error in storage that belongs to a core alone: past RAS_CE_LIMIT within an hour the core is fenced with
cause 1 (R450). -/
def coreCorrected (m : Module) (core : Nat) : Module :=
  let m := m.setRas fun r =>
    { r with ceTimes := r.ceTimes.upd core fun l => m.tick.ns :: l.filter fun t => m.tick.ns < t + hourNs }
  if m.ras.ceLimit < (m.ras.ceTimes.get core).length then fence m core 1 else m

/-- Key of the poison mark of a local-store line. -/
def poisonKey (core addr : Nat) : Nat := core * 16384 + addr / 64 % 16384

/-- A local-store line of a core carries a poison mark. -/
def linePoisoned (m : Module) (core addr : Nat) : Bool := m.ras.poisonLs.get (poisonKey core addr) != 0

/-- What a write of `w` bits from bit address `a` leaves of the poison marks of a store whose lines are keyed from `key`: a mark goes
once every bit of its line has been written (R449; log 22). -/
def coverBits (t : SMap (BitVec 512) 0) (key a w : Nat) : SMap (BitVec 512) 0 :=
  (range' (a / 512) ((a + w + 511) / 512 - a / 512)).foldl (fun t l =>
    let lo := max a (512 * l) - 512 * l
    let hi := min (a + w) (512 * (l + 1)) - 512 * l
    t.upd (key + l) fun b => b &&& ~~~(BitVec.ofNat 512 ((2 ^ (hi - lo) - 1) * 2 ^ lo))) t

/-- Bits of a core's local store are written, as its poison marks see it (R449). -/
def clearPoisonBits (m : Module) (core a w : Nat) : Module :=
  m.setRas fun r => { r with poisonLs := coverBits r.poisonLs (core * 16384) a w }

/-- Bytes of a core's local store are written, as its poison marks see it (R449). -/
def clearPoison (m : Module) (core a n : Nat) : Module := clearPoisonBits m core (8 * a) (8 * n)

/-- An uncorrectable error consumed in storage of a core: the event, the count, and the fence that R450 orders; a step
that holds the core is abandoned and may be replayed (R449 to R451). -/
def coreUncorrectable (m : Module) (core code : Nat) (payload : List Nat) : Module :=
  let m := raiseCore m code core payload
  let m := m.setRas fun r => { r with ue := satAdd r.ue 1, ueBit := true }
  fence m core 0

/-! ### Poisoned pages (08 R234, R235) -/

/-- Mark a page poisoned: the counters and the PAGE_POISON event. -/
def poisonPage (m : Module) (p page tier unit : Nat) : Module :=
  let x := (m.part p).pages.get page
  if x.tier.isNone || x.poison then m
  else
    let m := match x.mig with
      | some g => subRsvd m p g.toTier.idx 1
      | none => m
    let m := setPage m p page fun x => { x with poison := true, mig := none }
    let m := m.setMemRegs p fun r => { r with poisonBit := true, poisonPages := satAdd r.poisonPages 1 }
    raise m 0x0305 p (8 + unit % 8) [tier, unit, page]

/-- An access of a partition's task to a poisoned page aborts the task with FAIL_TIER (R234). -/
def tierFault (m : Module) (p page : Nat) : Module := faultTask m p .failTier fun _ => poisonDetail m p page

end Sys2Proof.Machine
end

