-- ==== Sys2Proof/Machine/Hedgerow.lean ====
section
/-! DEFINITION. Hedgerow messages: tick check words, halt and fence orders, error events, firmware control
(01_organisation R25 to R27, R31, R32). -/

namespace Sys2Proof.Machine

/-- One node compares the master's tick number with its replica: the event and the number to load, or nothing (R32). -/
def compareTick (m : Module) (die tick replica : Nat) : Module × Option Nat :=
  if replica = tick then (m, none) else (raise m 0x0105 noPart die [replica, tick], some tick)

/-- TICK_MESSAGE: the nodes of a die, each on its own plane while that plane serves, compare the master's tick number with their
replicas; on a mismatch a node raises an error event and loads the number at the next boundary (R27, R32). -/
def tickMessageFn (die tick : Nat) (m : Module) : Module :=
  let h := m.nodes.get die
  let (m, a) := if h.planes = .both ∨ h.planes = .onlyA then compareTick m die tick h.replica else (m, none)
  let (m, b) := if h.planes = .both ∨ h.planes = .onlyB then compareTick m die tick h.replicaB else (m, none)
  setNode m die fun h => { h with reload := a.orElse fun _ => h.reload, reloadB := b.orElse fun _ => h.reloadB }

/-- Execute TICK_MESSAGE. -/
def execTickMessage (die tick : Nat) (s : State) : Host.Outcome State Fault Refusal :=
  guarded (dieOk die) (tickMessageFn die tick) s

/-- HALT_FENCE_ORDER: a pre-emption order halts the core at its next tile boundary with its state in place; a fence or abort
order stops it at the next cc, every engine and queue empty (R31, R110, R144, R345). -/
def haltFenceOrderFn (core : Nat) (order : HaltOrder) (m : Module) : Module :=
  match order with
  | .preempt => m.setCore core fun c => { c with halted := true, haltNs := some m.tick.ns }
  | .stop => m.setCore core fun c => { c.stopped with halted := true, haltNs := some m.tick.ns }

/-- Execute HALT_FENCE_ORDER. -/
def execHaltFenceOrder (core : Nat) (order : HaltOrder) (s : State) : Host.Outcome State Fault Refusal :=
  guarded (coreOk core) (haltFenceOrderFn core order) s

/-- The records of an event that an error-event message carries; one about a core goes to the partitions it concerns (R464). -/
def recordEvent (m : Module) (die code : Nat) (payload : List Nat) : Module :=
  match payload with
  | core :: _ => if code = 0x0303 ∨ code = 0x0401 then recordCore m code core payload else record m code noPart die payload
  | [] => record m code noPart die payload

/-- ERROR_EVENT_MESSAGE: at most one message per node and 100 ns; events within that time are coalesced into the overflow count
that the next message carries (R25, R26). -/
def errorEventMessageFn (die code : Nat) (payload : List Nat) (m : Module) : Module :=
  let h := m.nodes.get die
  if h.planes = .lost then m
  else if within100 m h.lastErrNs then errorMessage m die code
  else recordEvent (errorMessage m die code) die code payload

/-- Execute ERROR_EVENT_MESSAGE. -/
def execErrorEventMessage (die code : Nat) (payload : List Nat) (s : State) : Host.Outcome State Fault Refusal :=
  guarded (dieOk die) (errorEventMessageFn die code payload) s

/-- Die of a firmware processor: the host I/O die, or the compute die of its cluster (Table 14.1). -/
def dieOfProc (p : Nat) : Nat := if p < 32 then dieH else dieOfCluster (p - 32)

/-- FIRMWARE_CONTROL_MESSAGE: a class 4 message of a firmware processor, at most one per 100 ns (R25, R26). -/
def firmwareControlMessageFn (proc : Nat) (payload : BitVec 96) (m : Module) : Module :=
  let y := m.proc proc
  if y.st ≠ .running ∨ within100 m y.msgNs = true ∨ (m.nodes.get (dieOfProc proc)).planes = .lost then m
  else (hedgeSend m (dieOfProc proc) (256 + proc) 4 payload).setProc proc fun y => { y with msgNs := some m.tick.ns }

/-- Execute FIRMWARE_CONTROL_MESSAGE. -/
def execFirmwareControlMessage (proc : Nat) (payload : BitVec 96) (s : State) : Host.Outcome State Fault Refusal :=
  guarded (procOk proc) (firmwareControlMessageFn proc payload) s

end Sys2Proof.Machine
end

