-- ==== Sys2Proof/Machine/Domains.lean ====
section
/-! DEFINITION. Power domains: their numbers, what powers each, which are on (15_power R413 to R415). -/

namespace Sys2Proof.Machine

/-- The domain without which another is not powered (Table 15.2); the always-on domain is 2,661. -/
def domParent (d : Nat) : Option Nat :=
  if d < 2560 then some (2560 + d / 80)
  else if d < 2592 then some (2592 + (d - 2560) / 4)
  else if d < 2600 then some (2653 + (d - 2592))
  else if d < 2608 then some (2653 + (d - 2600))
  else if d < 2616 then some (2600 + (d - 2608))
  else if d < 2632 then some (2600 + (d - 2616) / 2)
  else if d < 2661 then some 2661
  else none

/-- A core group is OWNED or POOLED (R335). -/
def groupUsed (m : Module) (g : Nat) : Bool := m.pool.getLsbD g || m.parts.cells.any fun c => c.2.regs.owned.getLsbD g

/-- A CORE_RETEST runs on a core, which it powers alone (R461). -/
def retested (m : Module) (core : Nat) : Bool :=
  m.fns.cells.any fun f => f.2.rings.cells.any fun r => r.2.items.any fun x =>
    x.st == .running && x.opcode == 0x30 && dfield x.desc 0x18 2 == 2 && dfield x.desc 0x1C 4 == core

/-- What R414 and R461 ask of a domain, its parent apart. -/
def domWanted (m : Module) (d : Nat) : Bool :=
  if d < 2560 then
    (m.start.ready && m.live d && groupUsed m (groupOf d)) || (m.power.domains.getLsbD d && retested m d)
  else if 2632 ≤ d ∧ d < 2636 then m.start.cxlPrsnt.getLsbD (d - 2632)
  else if 2637 ≤ d ∧ d < 2649 then (m.link (d - 2637)).st != .off && (m.link (d - 2637)).st != .unused
  else if 2649 ≤ d ∧ d < 2651 then (m.eth.get (d - 2649)).en
  else true

/-- A domain is on: it is wanted, its regulator has not failed, its parent is on, and it does not turn on under the coolant
clamp (R414, R415). `fuel` bounds the chain of parents. -/
def domOn (m : Module) (d : Nat) : Nat → Bool
  | 0 => false
  | fuel + 1 =>
    domWanted m d && !m.power.domFault.getLsbD d && (m.power.domains.getLsbD d || !m.power.coolant) &&
      (match domParent d with
        | some q => domOn m q fuel
        | none => true)

/-- Bits of a list of flags, the first at bit 0. -/
def bitsOf : List Bool → Nat
  | [] => 0
  | b :: bs => b2n b + 2 * bitsOf bs

/-- A domain is off and is not turned on: the coolant clamp holds (R415). -/
def heldOff (m : Module) (d : Nat) : Bool := m.power.coolant && !m.power.domains.getLsbD d

/-- Domains follow R414, once the switched domains have been turned on. -/
def refreshDomains (m : Module) : Module :=
  if m.power.dark || m.start.tripped || decide (m.start.stage < 6) then m
  else
    let d := BitVec.ofNat 2662 (bitsOf ((range' 0 2662).map fun d => domOn m d 6))
    m.setPower fun w => { w with domains := d }

end Sys2Proof.Machine
end

