-- ==== Sys2Proof/Machine/RegOps.lean ====
section
/-! DEFINITION. Shared operations of register writes: who reaches the port, which blocks a function is offered, the selected
partition, a refused value (18_registers R469 to R481, 19_startup R491, R492). -/

namespace Sys2Proof.Machine

/-- Block numbers of Table 18.3. -/
def blkHif : Nat := 0
def blkRing : Nat := 1
def blkTick : Nat := 2
def blkPwr : Nat := 3
def blkSec : Nat := 4
def blkFw : Nat := 5
def blkMem : Nat := 6
def blkFab : Nat := 7
def blkEth : Nat := 8
def blkPart : Nat := 9
def blkRas : Nat := 10
def blkLark : Nat := 11

/-- BAR0 offset of an offset within a block (R475). -/
def barOff (block off : Nat) : Nat := block * 0x100000 + off

/-- The function exists behind a link that is up, is in D0, and is PF0 or an enabled VF of a start that has not failed
(R291, R292, R492). -/
def reaches (m : Module) (fn : Nat) : Bool :=
  m.start.linkUp && !m.start.perst && !(m.fn fn).d3 && (fn == 0 || (decide (fn ≤ m.start.numVfs) && !m.start.startFail))

/-- Partition whose registers a VF reaches: its own (R293). -/
def ownPart (m : Module) (fn : Nat) : Option Nat := if (m.fn fn).bound then some (m.fn fn).part else none

/-- A VF is offered a register of a block for writing (Table 18.3, R481). -/
def vfWrites (m : Module) (fn block off : Nat) : Bool :=
  if block = blkHif ∨ block = blkRing then true
  else if block = blkMem ∨ block = blkPart ∨ block = blkLark then (ownPart m fn).isSome
  else if block = blkFab then (ownPart m fn).isSome && decide (0x100 ≤ off ∧ off ≤ 0x120)
  else false

/-- A write to a register of a block: dropped as a bus error where the function or the stage does not offer it, else it
acts (R480, R481, R491, R492). -/
def regWrite (m : Module) (fn block off : Nat) (g : Module → Module) : Module :=
  if !reaches m fn then m
  else if block ≠ blkHif && (!m.start.ready || m.start.startFail) then busError m fn 1 (barOff block off)
  else if fn ≠ 0 && !vfWrites m fn block off then busError m fn 1 (barOff block off)
  else g m

/-- Partition that a write of a function to a block addresses: the one PF0 selected, or the VF's own (R474). -/
def selPart (m : Module) (fn block : Nat) : Nat :=
  if fn = 0 then
    let s := (m.fn 0).sel
    if block = blkMem then s.mem else if block = blkLark then s.lark else if block = blkFab then s.fab
    else if block = blkSec then s.sec else s.part
  else (m.fn fn).part

/-- A write refused under R472: the block's BAD_WRITE sets and a CONFIG_REFUSED event of cause 0 is raised. -/
def refuse (m : Module) (part block off : Nat) (set : Module → Module) : Module :=
  configRefused (set m) part (barOff block off) 0

/-- The partition that a function's events name. -/
def fnPart (m : Module) (fn : Nat) : Nat := (ownPart m fn).getD noPart

/-- Refusal of a write to a partition register of the PART block. -/
def refusePart (m : Module) (p off : Nat) : Module :=
  refuse m p blkPart off fun m => m.setRegs p fun r => { r with badWrite := true }
/-- Refusal of a write to the RAS block. -/
def refuseRas (m : Module) (off : Nat) : Module :=
  refuse m noPart blkRas off fun m => m.setRas fun r => { r with badWrite := true }
/-- Refusal of a write to the FW block. -/
def refuseFw (m : Module) (off : Nat) : Module := refuse m noPart blkFw off fun m => { m with fwBadWrite := true }
/-- Refusal of a write to the selected ring's registers. -/
def refuseRing (m : Module) (fn r off : Nat) : Module :=
  refuse m (fnPart m fn) blkRing off fun m => m.setRing fn r fun x => { x with badWrite := true }
/-- Refusal of a write to a partition register of the FAB block. -/
def refuseFab (m : Module) (p off : Nat) : Module :=
  refuse m p blkFab off fun m => m.setFab p fun x => { x with badWrite := true }
/-- Refusal of a write to HIF_FN_PART of a function. -/
def refuseFn (m : Module) (f off : Nat) : Module :=
  refuse m (fnPart m f) blkHif off fun m => m.setFn f fun x => { x with fnBadWrite := true }

end Sys2Proof.Machine
end

