-- ==== Sys2Proof/Machine/ItemOps.lean ====
section
/-! DEFINITION. Descriptors and their fields, the pages an item touches, and how an item's work stops (11_host_interface
R304 to R315, Table 11.8). -/

namespace Sys2Proof.Machine

/-! ### Descriptor fields (Tables 11.5 and 11.6, R308 to R315) -/

/-- OPCODE. -/
def opOf (d : BitVec 512) : Nat := dfield d 4 1
/-- DEADLINE. -/
def deadlineOf (d : BitVec 512) : Nat := dfield d 0x10 8

/-- The target of an ABORT, PAUSE, RESUME or QUERY: a submission ring of the same function and an SSN (R306). -/
def targetOf (i : ItemRef) (d : BitVec 512) : ItemRef := ⟨i.fn, dfield d 0x18 2, dfield d 0x1C 4⟩

/-- An entry of a load list (R308). -/
structure LoadEntry where
  image    : Nat
  schedule : Nat
  serving  : Nat
  signature : Nat
  plane    : Nat
  bytes    : Nat
  reserved : Bool
  deriving DecidableEq, Repr

/-- Read entry `k` of the load list at a device address. -/
def loadEntry (m : Module) (p a k : Nat) : LoadEntry :=
  let e := a + 64 * k
  { image := devNum m p e 8, schedule := devNum m p (e + 8) 8, serving := devNum m p (e + 16) 8
    signature := devNum m p (e + 24) 8, plane := devNum m p (e + 32) 1, bytes := devNum m p (e + 40) 8
    reserved := decide (devNum m p (e + 33) 7 ≠ 0) || decide (devNum m p (e + 48) 16 ≠ 0) }

/-- The load list of a LOAD_SWATH. -/
def loadList (m : Module) (p : Nat) (d : BitVec 512) : List LoadEntry :=
  (range' 0 (dfield d 0x20 1)).map (loadEntry m p (dfield d 0x18 8))

/-- Bytes of a schedule at a device address: its header and ENTRIES descriptors (R220). -/
def scheduleBytes (m : Module) (p a : Nat) : Nat := 128 + 128 * devNum m p (a + 0x10) 4

/-- Pages of the range that a running command reads or writes (R234). -/
def itemPages (m : Module) (p : Nat) (x : Item) : List Nat :=
  let d := x.desc
  let f (o : Nat) := dfield d o 8
  if x.opcode = opLoadSwath then
    pagesOf (f 0x18) (64 * dfield d 0x20 1) ++ (loadList m p d).flatMap fun e =>
      pagesOf e.image e.bytes ++ pagesOf e.schedule (scheduleBytes m p e.schedule)
  else if x.opcode = opLoadWeights then pagesOf (f 0x20) (f 0x38)
  else if x.opcode = opSwap then pagesOf (f 0x28) (f 0x38) ++ pagesOf (f 0x30) (f 0x38)
  else if x.opcode = opMove then
    match dfield d 0x18 1 with
    | 0 => pagesOf (f 0x20) (f 0x30)
    | 1 => pagesOf (f 0x20) (f 0x30)
    | 2 => pagesOf (f 0x28) (f 0x30)
    | _ => pagesOf (f 0x20) (f 0x30) ++ pagesOf (f 0x28) (f 0x30)
  else []

/-- The running items of a partition's functions. -/
def runningItems (m : Module) (p : Nat) : List Item :=
  m.fns.cells.flatMap fun f =>
    if f.2.bound && f.2.part == p then f.2.rings.cells.flatMap fun r => r.2.items.filter fun x => x.st == .running
    else []

end Sys2Proof.Machine
end

