-- ==== Sys2Proof/Machine/ServeOps.lean ====
section
/-! DEFINITION. Shared operations of runs and requests: watermarks and cache pages after a step, ending a run, taking a
sealed entry back, and what an ABORT or a function reset stops (10_serving R264, R269, R284, R285; 11 Table 11.8, R325). -/

namespace Sys2Proof.Machine

/-! ### Watermarks (R284, R285) -/

/-- Move the watermark of a request in one model to `w`; its provisional pages follow it: those that cover no position below
it become spare, and their list entries read 0xFFFF_FFFF (R284, R285). -/
def settleModel (m : Module) (slot model w : Nat) : Module :=
  match m.slots.get slot with
  | none => m
  | some q =>
    let isMain := q.model == model
    let (c, dead) := (if isMain then q.main else q.dcache).settle w
    let list := if isMain then q.pageList else q.draftPageList
    let m := setReq m slot fun q => if isMain then { q with main := c } else { q with dcache := c }
    dead.foldl (fun m i => devWrite m q.part (list + 4 * i) (leBytes 0xFFFFFFFF 4)) m

/-- The watermark of a request in one model. -/
def Request.markIn (q : Request) (model : Nat) : Nat := if q.model = model then q.main.mark else q.dcache.mark

/-- The results of a request's step are discarded: the watermark keeps its value (R285). -/
def discardEntry (m : Module) (model slot : Nat) : Module :=
  match m.slots.get slot with
  | none => m
  | some q => setReq (settleModel m slot model (q.markIn model)) slot fun q => { q with inStep := none }

/-! ### Runs (R264, R313, R352) -/

/-- A step of an open run is in progress, pre-empted or awaiting replay. -/
def runBusy (m : Module) (p num : Nat) : Bool :=
  (match (m.part p).step with
    | some s => s.runs.any fun r => r.run == num && !r.finished
    | none => false) ||
  (match (m.part p).replay with
    | some s => s.runs.any fun r => r.run == num
    | none => false)

/-- An open run ends and its item takes an outcome. -/
def completeRun (m : Module) (p : Nat) (r : Run) (st : Status) (d : Nat) : Module :=
  finishV (m.setPart p fun x => { x with runs := x.runs.filter fun y => y.num ≠ r.num }) r.item st d

/-- Positions that an entry writes: its inputs, and, in a draft step, those of the proposals that it feeds back (R284, R289, the example
after R290). -/
def SetEntry.span (e : SetEntry) : Nat := if e.kind = 3 then e.npos + (e.produce - 1) else e.npos

/-- List entries that the positions which an entry writes touch. -/
def SetEntry.pages (e : SetEntry) : List Nat :=
  range' (e.firstPos / 64) ((e.firstPos + e.span + 63) / 64 - e.firstPos / 64)

/-- At the launch, every page that an entry writes is PROVISIONAL, but for the PINNED ones (R284). -/
def markProv (m : Module) (model : Nat) (e : SetEntry) : Module :=
  setReq m e.slot fun q =>
    let mark (c : Cache) : Cache :=
      { c with prov := e.pages.filter fun i => decide (c.pinned ≤ i) }
    if q.model = model then { q with main := mark q.main } else { q with dcache := mark q.dcache }

/-- Undo an entry of a sealed set that does not launch. -/
def undoEntry (m : Module) (model : Nat) (e : SetEntry) : Module := discardEntry (markProv m model e) model e.slot

/-- Take a run's part out of the sealed launch set, and with it the other run's entries for the same prefill chunks, which
are sealed together or not at all (R288). -/
def takeBack (m : Module) (p num : Nat) : Module :=
  match (m.part p).sealedSet with
  | none => m
  | some rs =>
    let mine := (rs.filter fun r => r.run = num).flatMap fun r => r.entries
    let gone (r : RunStep) (e : SetEntry) : Bool :=
      r.run == num || (e.kind == 0 && mine.any fun x => x.slot == e.slot && x.kind == 0)
    let m := foldM rs (fun m r => foldM (r.entries.filter (gone r)) (fun m e => undoEntry m r.model e) m) m
    let left := (rs.filter fun r => r.run ≠ num).map fun r => { r with entries := r.entries.filter fun e => !gone r e }
    m.setPart p fun x => { x with sealedSet := some (left.filter fun r =>
      !r.entries.isEmpty || (rs.any fun o => o.run == r.run && o.entries.isEmpty)) }

/-- An open run launches no further step: it ends with its step in flight, or now (Table 11.8, R352). -/
def stopRun (m : Module) (p : Nat) (r : Run) (st : Status) : Module :=
  let m := takeBack m p r.num
  if runBusy m p r.num then
    m.setPart p fun x => { x with runs := x.runs.map fun y => if y.num = r.num then { y with ending := true } else y }
  else completeRun m p r st r.finished

/-! ### Swaths and migrations -/

/-- The steps, waiting entries and gate counts of a swath that is gone, or whose schedule becomes READY, are forgotten (R227, R230). -/
def Part.forget (x : Part) (swath : Nat) : Part :=
  { x with steps := x.steps.put swath 0, issueFloor := x.issueFloor.put swath 0
           tmWait := x.tmWait.filter fun k => k / 65536 ≠ swath
           gates := ⟨x.gates.cells.filter fun c => c.1 / 65536 / 2 ^ 64 ≠ swath⟩
           gateTaken := ⟨x.gateTaken.cells.filter fun c => c.1 / 65536 / 2 ^ 64 ≠ swath⟩ }

/-- Free a swath: its planes EMPTY, its swath store and the pages held for it released (R192, R196, R217). -/
def dropSwath (m : Module) (p : Nat) (w : Swath) : Module :=
  let mine := w.cores.filter fun c =>
    let pl := (m.core c).planes.get w.plane
    pl.part == p && pl.swath == w.id
  let m := emptyPlanes m w.plane mine
  let m := unholdPages (subUsed m p 0 w.storePages) p w.held
  let m := foldM ((m.part p).fabProgs.filter fun g => g.swath == w.id) (fun m g => unholdPages m p g.held) m
  m.setPart p fun x =>
    { x with
      fabProgs := x.fabProgs.filter fun g => g.swath ≠ w.id
      swaths := x.swaths.filter fun y => y.id ≠ w.id
      attested := x.attested.filter fun y => !(y.kind == 3 && y.obj == w.id)
      issued := ⟨x.issued.cells.filter fun c => c.1 / 65536 ≠ w.id⟩
      issueEnded := ⟨x.issueEnded.cells.filter fun c => c.1 / 65536 ≠ w.id⟩
      issueCancelled := ⟨x.issueCancelled.cells.filter fun c => c.1 / 65536 ≠ w.id⟩ }.forget w.id

/-- Stop the migrations of an item: the pages stay where they are, the target frames are free again (Table 11.8). -/
def cancelMigrations (m : Module) (p : Nat) (i : ItemRef) : Module :=
  foldM (m.part p).pages.cells (fun m c =>
    match c.2.mig with
    | some g => if g.item == some i then
        subRsvd (setPage m p c.1 fun x => { x with mig := none }) p g.toTier.idx 1 else m
    | none => m) m

/-- The domain of a core under CORE_RETEST turns off again, unless the core is live (R461). -/
def coreDark (m : Module) (core : Nat) : Module :=
  if core < 2560 && !m.live core then
    m.setPower fun w => { w with domains := w.domains &&& ~~~(BitVec.twoPow 2662 core) }
  else m

/-! ### What stops (Table 11.8) -/

/-- Stop the work of a running item as a winning ABORT does; its ABORTED completion, if an ABORT holds the cell, is requested
once the work has stopped (R321, Table 11.8). -/
def stopWork (m : Module) (t : ItemRef) (x : Item) (p : Nat) : Module :=
  if x.opcode = opStep ∨ x.opcode = opRunGraph then
    match (m.part p).runs.find? fun r => r.item == t with
    | some r => stopRun m p r .aborted
    | none => releaseClaimed m t
  else if x.opcode = opAdmit then
    match slotOf m t with
    | some slot =>
      let m := setReq m slot fun q => { q with aborted := true }
      match m.slots.get slot with
      | some q => if q.inStep.isSome || q.st == .ended then m else releaseAborted m slot
      | none => m
    | none => releaseClaimed m t
  else
    let m :=
      if x.opcode = opLoadSwath then
        foldM ((m.part p).swaths.filter fun w => w.loader == some t) (fun m w => dropSwath m p w) m
      else if x.opcode = opMove then cancelMigrations m p t
      else if x.opcode = opSwap then
        m.setPart p fun y => { y with swaps := y.swaps.filter fun s => !(s.item == t) }
      else if x.opcode = opSelftest then
        let m := m.setRas fun r => { r with testing := r.testing.mapV fun _ o => if o == some t then none else o }
        if dfield x.desc 0x18 2 = 0x0002 then coreDark m (dfield x.desc 0x1C 4) else m
      else m
    releaseClaimed (release (setItem m t fun y => { y with resv := {} }) p x.resv) t

/-- An ABORT can no longer stop the item (R319, Table 11.8). -/
def unstoppable (m : Module) (p : Nat) (t : ItemRef) (x : Item) : Bool :=
  (x.st != .fetched && [opPause, opResume, opEvict, opCalibrate].contains x.opcode) ||
    (x.opcode == opSwap && (m.part p).swaps.any fun s => s.item == t && s.copying)

/-- An ABORT claims the open cell of its target: the ABORT completes DONE with the CSN of the ABORTED completion, and the
target's work stops (R317, R319, R321). -/
def claimCell (m : Module) (a t : ItemRef) (p : Nat) : Module :=
  match findItem m t with
  | none => m
  | some x =>
    let m := setItem m t fun y => { y with st := .decided, status := some .aborted }
    let m := finishAfter m a .done (.csnOf t) (some t)
    if x.st == .running then stopWork m t x p else releaseClaimed m t

end Sys2Proof.Machine
end

