-- ==== Sys2Proof/Machine/Ras.lean ====
section
/-! DEFINITION. Error classes, tier failures, fences by register, patrol scrub and re-placement after a fence
(17_faults R448 to R458, 08_tiers R234, R235, 07_swaths R193). -/

namespace Sys2Proof.Machine

/-! ### Tier failures (R234) -/

/-- A backed page has a granule on a unit of a tier (Table 8.2, R462). Units: Sward stack, Ley channel, Heath port. -/
def onUnit (pg : Page) (t unit : Nat) : Bool :=
  pg.tier == some (tierOf t) && (match pg.place with
    | .stripe => true
    | .home k => k == (if t = 1 then unit / 8 else unit))

/-- Pages that the streams of a partition's step read or write in that step: those issued in it, and those issued before it that have not
ended (R234). -/
def stepPages (m : Module) (p : Nat) : List Nat :=
  match (m.part p).step with
  | none => []
  | some s =>
    let x := m.part p
    let models := s.runs.map (·.model)
    let now := s.runs.flatMap fun r =>
      (x.swaths.filter fun w => w.model = r.model).flatMap fun w =>
        let l := x.steps.get w.id
        (range' 0 w.entries).flatMap fun e =>
          if x.issued.get (w.id * 65536 + e) = l + 1 then
            streamPages m { part := p, swath := w.id, entry := e, stepP1 := l }
          else []
    let open_ := (openStreams m p).flatMap fun t => match swathOf m p t.swath with
      | some w => if models.contains w.model then streamPages m t else []
      | none => []
    (now ++ open_).eraseDups

/-- A running item fails and its work stops. -/
def failItem (m : Module) (p : Nat) (x : Item) (st : Status) (v : Nat) : Module :=
  stopWork (finishV m x.ref st v) x.ref x p

/-- Pages of one partition at a failed location are poisoned, and what used them in its current step fails with FAIL_TIER
(R234, steps 1 and 2). -/
def poisonPages (m : Module) (p t unit : Nat) (pages : List Nat) : Module :=
  if pages.isEmpty then m
  else
    let users := (runningItems m p).filter fun x => (itemPages m p x).any fun g => pages.contains g
    let hit := (stepPages m p).any fun g => pages.contains g
    let m := foldM pages (fun m g => poisonPage m p g t unit) m
    let m := if hit then faultTask m p .failTier (fun _ => tierDetail t unit) else m
    foldM users (fun m x => failItem m p x .failTier (tierDetail t unit)) m

/-- TIER_FAILURE: one location of a partition's page fails. -/
def tierFailureFn (tier unit part page : Nat) (m : Module) : Module :=
  if onUnit ((m.part part).pages.get page) tier unit then poisonPages m part tier unit [page] else m

/-- Execute TIER_FAILURE. -/
def execTierFailure (tier unit part page : Nat) (s : State) : Host.Outcome State Fault Refusal :=
  guarded (decide (tier < 3) && partOk part && decide (unit < 64)) (tierFailureFn tier unit part page) s

/-- Every page with a granule on a lost unit is poisoned, partition by partition (R234, R235). -/
def loseGranules (m : Module) (t unit : Nat) : Module :=
  foldM m.parts.keys (fun m p =>
    let pages := ((m.part p).pages.cells.filter fun g => onUnit g.2 t unit && !g.2.poison).map (·.1)
    poisonPages m p t unit pages) m

/-- Pages that a Sward stack contributes: an eighth of 147,328 (Table 8.10). -/
def swardUnitPages : Nat := 18416
/-- Pages that a Ley channel contributes: one of 64 of 1,047,552 (Table 8.10). -/
def leyUnitPages : Nat := 16368

/-- A Sward stack is mapped out: health, capacity, the UNIT_LOSS event, poison (R234). -/
def loseSward (m : Module) (k : Nat) : Module :=
  if !m.mem.healthSward.getLsbD k then m
  else
    let m := m.setUnits fun u =>
      { u with healthSward := u.healthSward &&& ~~~(BitVec.twoPow 8 k), capSward := u.capSward - swardUnitPages }
    loseGranules (raise m 0x0306 noPart (8 + k) [0, k]) 0 k

/-- A Ley channel is mapped out; the health bit of its group, the only one that can report the loss, clears with the group's first
lost channel (R234, Table 8.10). -/
def loseLeyChannel (m : Module) (c : Nat) : Module :=
  if m.mem.lostLey.getLsbD c then m
  else
    let m := m.setUnits fun u =>
      { u with lostLey := u.lostLey ||| BitVec.twoPow 64 c, capLey := u.capLey - leyUnitPages
               healthLey := u.healthLey &&& ~~~(BitVec.twoPow 16 (c / 4)) }
    loseGranules (raise m 0x0306 noPart (8 + c / 8) [1, c]) 1 c

/-- A Ley PHY group is mapped out with the channels it still has (R206, R234). -/
def loseLeyGroup (m : Module) (g : Nat) : Module :=
  let cs := (range' (4 * g) 4).filter fun c => !m.mem.lostLey.getLsbD c
  if cs.isEmpty || m.mem.healthLey == 0 && m.mem.lostLey == 0 then m
  else
    let m := m.setUnits fun u =>
      { u with healthLey := u.healthLey &&& ~~~(BitVec.twoPow 16 g), capLey := u.capLey - cs.length * leyUnitPages
               lostLey := cs.foldl (fun b c => b ||| BitVec.twoPow 64 c) u.lostLey }
    let m := raise m 0x0306 noPart (8 + g / 2) [1, g]
    foldM cs (fun m c => loseGranules m 1 c) m

/-- A Heath port is mapped out. -/
def loseHeath (m : Module) (k : Nat) : Module :=
  if !m.mem.healthHeath.getLsbD k then m
  else
    let m := m.setUnits fun u =>
      { u with healthHeath := u.healthHeath &&& ~~~(BitVec.twoPow 4 k), capHeath := u.capHeath - u.portPages.get k }
    loseGranules (raise m 0x0306 noPart dieH [2, k]) 2 k

/-! ### Error classes (R449, R450) -/

/-- CORRECTED: counted, reported at most once per unit and second; past RAS_CE_LIMIT within an hour the core that the storage
belongs to is fenced (R449, R450). -/
def correctedFn (place : ErrPlace) (m : Module) : Module :=
  let m := countCorrected m place
  match place with
  | .core c _ _ => coreCorrected m c
  | _ => m

/-- Execute CORRECTED. -/
def execCorrected (place : ErrPlace) (s : State) : Host.Outcome State Fault Refusal :=
  guarded (place.ok) (correctedFn place) s

/-- A UE event is raised and counted. -/
def countUe (m : Module) (place : ErrPlace) : Module :=
  let (_, kind, unit) := errUnit place
  let m := raisePlace m place 0x0304 [kind, unit, errAddr place]
  m.setRas fun r => { r with ue := satAdd r.ue 1, ueBit := true }

/-- Partitions whose step in progress runs on a core that satisfies `f`. -/
def partsOn (m : Module) (f : Nat → Bool) : List Nat :=
  m.parts.keys.filter fun p =>
    match runningStep m p with
    | some s => s.cores.any f
    | none => false

/-- UNCORRECTABLE: a core's own storage fences the core (R450); a tier location poisons its page and fails its users with
FAIL_TIER (R234); shared storage or a shared path aborts the tasks that consume it with FAIL_FAULT (R449). -/
def uncorrectableFn (place : ErrPlace) (m : Module) : Module :=
  match place with
  | .core c kind a => coreUncorrectable m c 0x0304 [kind, c, a]
  | .tier p page t u _ => tierFailureFn t u p page (countUe m place)
  | .cluster k _ =>
    let m := countUe m place
    foldM (partsOn m fun c => clusterOf c = k) (fun m p => faultTask m p .failFault fun f => evsnOf m f) m
  | .path kind unit =>
    let m := countUe m place
    let f (c : Nat) : Bool := if kind = 0 then clusterOf c = unit
      else if kind = 1 then dieOfCluster (clusterOf c) = unit else true
    foldM (partsOn m f) (fun m p => faultTask m p .failFault fun f => evsnOf m f) m

/-- Execute UNCORRECTABLE. -/
def execUncorrectable (place : ErrPlace) (s : State) : Host.Outcome State Fault Refusal :=
  guarded (place.ok) (uncorrectableFn place) s

/-- LATENT: the event and the count; an SRAM line takes a poison mark, a tier page is poisoned; work continues (R449). -/
def latentFn (place : ErrPlace) (m : Module) : Module :=
  let (_, kind, unit) := errUnit place
  let m := raisePlace m place 0x0302 [kind, unit, errAddr place]
  let m := m.setRas fun r => { r with latent := satAdd r.latent 1 }
  match place with
  | .core c 0 a => m.setRas fun r => { r with poisonLs := r.poisonLs.put (poisonKey c a) (BitVec.allOnes 512) }
  | .core _ _ _ => m
  | .cluster k a => m.setRas fun r => { r with poisonCs := r.poisonCs.put (k * 33554432 + a / 64 % 33554432) (BitVec.allOnes 512) }
  | .tier p page t u _ =>
    let waits := match ((m.part p).pages.get page).mig with
      | some g => (g.item.bind (findItem m)).toList
      | none => []
    foldM waits (fun m x => failItem m p x .failTier (tierDetail t u)) (poisonPage m p page t u)
  | .path _ _ => m

/-- Execute LATENT. -/
def execLatent (place : ErrPlace) (s : State) : Host.Outcome State Fault Refusal :=
  guarded (place.ok) (latentFn place) s

/-- RAS_FENCE: PF0 fences a core; a number outside 0 to 2,559 or a core already fenced is refused (R450, Table 17.7). -/
def rasFenceFn (fn : Nat) (value : Word) (m : Module) : Module :=
  regWrite m fn blkRas 4 fun m =>
    let core := value.toNat % 4096
    if 2560 ≤ core || !m.live core then refuseRas m 4 else fence m core 4

/-- Execute RAS_FENCE. -/
def execRasFence (fn : Nat) (value : Word) (s : State) : Host.Outcome State Fault Refusal :=
  guarded (fnOk fn) (rasFenceFn fn value) s

/-- PATROL_SCRUB: lines of a Sward stack (0 to 7) or Ley channel (8 + channel) in service are read; the progress advances
(R448, R460). -/
def patrolScrubFn (unit lines : Nat) (m : Module) : Module :=
  let g := (unit - 8) / 4
  let alive := if unit < 8 then m.mem.healthSward.getLsbD unit
    else !m.mem.lostLey.getLsbD (unit - 8) &&
      (m.mem.healthLey.getLsbD g || (range' (4 * g) 4).any fun c => m.mem.lostLey.getLsbD c)
  if alive then m.setRas fun r => { r with scrub := r.scrub.upd unit (· + lines) } else m

/-- Execute PATROL_SCRUB. -/
def execPatrolScrub (unit lines : Nat) (s : State) : Host.Outcome State Fault Refusal :=
  guarded (decide (unit < 72)) (patrolScrubFn unit lines) s

/-! ### Re-placement (R193, R401, R454 to R457) -/

/-- First boundary at least 50 µs away: the replay boundary of a replay order issued now (R456). -/
def replayBoundary (m : Module) : Nat :=
  let n := m.tick.count + 1
  if m.tick.ns + 50000 ≤ m.tick.boundaryNs + m.tick.period then n else n + 1

/-- The re-placement of a fenced core's group has succeeded for every run of the partition: its abandoned step is replayed,
after a replay order where it belongs to a multi-module job; where another rank's order for the step has come already, the job
stops. Without a step to replay the recovery ends (R454, R456). -/
def replaced (m : Module) (p core : Nat) : Module :=
  let cg := groupOf core
  let cores := ((m.part p).swaths.flatMap fun w => w.cores.filter fun c => groupOf c ≠ cg || m.live c).eraseDups
  let m := m.setRas fun r =>
    { r with active := r.active.map fun y => if y.part = p && y.core = core then { y with placed := cores } else y }
  match (m.part p).replay with
  | none => endRecovery m p
  | some r =>
    let f := m.fab p
    if f.en && r.at?.isSome then jobStop m p core
    else
    let b := if f.en then replayBoundary m else m.tick.count + 1
    let m := m.setPart p fun x => { x with replay := some { r with at? := some b, waitRanks := f.en } }
    if f.en then
      match r.runs.head? with
      | some s => issueHedge m 3 (replayOrderPayload f.job f.gen s.model s.index b)
      | none => m
    else m

/-- Re-place the partition's groups that a fence struck; when no core group fits, the job stops (R193, R455). -/
def doReplacement (m : Module) (p core : Nat) : Module :=
  let (m2, ok) := replaceAll m p (groupOf core)
  if ok then replaced m2 p core else jobStop m p core

/-- REPLACEMENT_DONE: the control core of the fenced core's cluster finishes re-placing; while it is absent the request waits in
its holding queue of 256 (R193, R401). -/
def replacementDoneFn (part core : Nat) (m : Module) : Module :=
  match m.ras.active.find? fun r => r.part = part && r.core = core && r.placed.isEmpty with
  | none => m
  | some _ =>
    let k := clusterOf core
    if (m.proc (32 + k)).st ≠ .running then
      m.setClu k fun c =>
        if c.holding.contains core ∨ 256 ≤ c.holding.length then c else { c with holding := c.holding ++ [core] }
    else doReplacement m part core

/-- Execute REPLACEMENT_DONE. -/
def execReplacementDone (part core : Nat) (s : State) : Host.Outcome State Fault Refusal :=
  guarded (partOk part && coreOk core) (replacementDoneFn part core) s

end Sys2Proof.Machine
end

