-- ==== Sys2Proof/Machine/Torus.lean ====
section
/-! DEFINITION. The torus: directions and link groups, neighbours, routes, the links a job uses, the parent link
(13_fabric R362 to R364, R369, R376, R377). Shared sideband record queue (20_package R509). -/

namespace Sys2Proof.Machine

/-- Links of a direction group (Table 13.2). -/
def groupSize (mode3 : Bool) : Nat := if mode3 then 2 else 3

/-- Coordinate on axis 0, 1 or 2. -/
def coordAx (c : Coord) : Nat → Nat
  | 0 => c.x
  | 1 => c.y
  | _ => c.z

/-- A coordinate with one axis changed. -/
def setAx (c : Coord) (ax v : Nat) : Coord :=
  match ax with
  | 0 => { c with x := v }
  | 1 => { c with y := v }
  | _ => { c with z := v }

/-- Neighbour across + or − of an axis (R363). -/
def neighbour (dim c : Coord) (ax : Nat) (plus : Bool) : Coord :=
  let d := coordAx dim ax
  setAx c ax ((coordAx c ax + (if plus then 1 else d - 1)) % d)

/-- Links of the group of a direction, lowest first (Table 13.2). -/
def dirLinks (mode3 : Bool) (ax : Nat) (plus : Bool) : List Nat :=
  range' ((2 * ax + (if plus then 0 else 1)) * groupSize mode3) (groupSize mode3)

/-- Axis, direction and position of a link (Table 13.2). -/
def linkDir (mode3 : Bool) (l : Nat) : Nat × Bool × Nat :=
  let g := l / groupSize mode3
  (g / 2, g % 2 == 0, l % groupSize mode3)

/-- On axis `ax`, + is the way from `a` to `b`: the shorter, + when equal (R369, R376). -/
def goPlus (dim a b : Coord) (ax : Nat) : Bool :=
  let d := coordAx dim ax
  let f := (coordAx b ax + d - coordAx a ax) % d
  decide (2 * f ≤ d)

/-- Hops on an axis from `a` to `b` the shorter way. -/
def axHops (dim a b : Coord) (ax : Nat) : Nat :=
  let d := coordAx dim ax
  let f := (coordAx b ax + d - coordAx a ax) % d
  min f (d - f)

/-- First axis on which two coordinates differ. -/
def diffAxis (a b : Coord) : Option Nat := (range' 0 3).find? fun ax => decide (coordAx a ax ≠ coordAx b ax)

/-- Hops (module, axis, direction) of the route between two modules, in dimension order (R376). -/
def routeHops (dim a b : Coord) : List (Coord × Nat × Bool) :=
  ((range' 0 3).foldl (fun (acc : Coord × List (Coord × Nat × Bool)) ax =>
    let plus := goPlus dim acc.1 b ax
    (range' 0 (axHops dim acc.1 b ax)).foldl (fun acc _ =>
      (neighbour dim acc.1 ax plus, acc.2 ++ [(acc.1, ax, plus)])) acc) (a, [])).2

/-- The link at module `c` lies on the route from `a` to `b`, seen from either end (R377). -/
def onRoute (s : SliceRec) (c : Coord) (l : Nat) (a b : Coord) : Bool :=
  let (ax, plus, _) := linkDir s.mode3 l
  let far := neighbour s.dim c ax plus
  (routeHops s.dim a b).any fun h =>
    h.2.1 == ax && ((h.1 == c && h.2.2 == plus) || (h.1 == far && h.2.2 == !plus))

/-- The open job of a partition uses a link of a module of the slice (R377). -/
def jobUses (m : Module) (p : Nat) (c : Coord) (l : Nat) : Bool :=
  match m.fabric.slice with
  | none => false
  | some s =>
    let f := m.fab p
    f.en && f.map.any fun a => f.map.any fun b => a != b && onRoute s c l a b

/-- Partitions whose open job uses a link. -/
def jobsOn (m : Module) (c : Coord) (l : Nat) : List Nat := m.fabParts.keys.filter fun p => jobUses m p c l

/-! ### Tick roles of links (R369) -/

/-- Direction group that leads to the manager followed; none at the manager itself. -/
def parentGroup (m : Module) : List Nat :=
  match m.fabric.slice with
  | none => []
  | some s => match diffAxis s.at_ m.fabric.follow with
    | none => []
    | some ax => dirLinks s.mode3 ax (goPlus s.dim s.at_ m.fabric.follow ax)

/-- The parent link: the lowest-numbered UP link of that group. -/
def parentLink (m : Module) : Option Nat := (parentGroup m).find? fun l => (m.link l).st == .up

/-- Hops from the manager (R369). -/
def hopsTo (m : Module) : Nat :=
  match m.fabric.slice with
  | none => 0
  | some s => ((range' 0 3).map fun ax => axHops s.dim s.at_ m.fabric.follow ax).sum

/-- Give every link its tick role: parent, sibling, or child or none as the far end last marked it (R369). -/
def refreshRoles (m : Module) : Module :=
  let p := parentLink m
  let g := parentGroup m
  let m := (range' 0 12).foldl (fun m l => m.setLink l fun k =>
    { k with tick := if some l = p then 1 else if g.contains l && k.st == .up then 2
                     else if k.tick = 3 && k.st == .up then 3 else 0 }) m
  m.setFabric fun f => { f with hops := hopsTo m }

/-! ### Sideband records (R509) -/

/-- Queue an outbound record; a full queue of 16 drops its oldest, which the newest one's LOST counts. In I3C mode the record raises an
in-band interrupt. -/
def sbQueue (m : Module) (rtype : Nat) (body : List Byte) : Module :=
  let tick := if m.tick.sync = .free then 0 else m.tick.count
  let m := if m.sb.i3c then emitNet m (.inBand rtype) else m
  m.setSb fun b =>
    let full := decide (16 ≤ b.out.length)
    let lost := match full, b.out.head? with
      | true, some r => min 65535 (r.lost + 1)
      | _, _ => 0
    let n := (b.oseq + 1) % 4294967296
    { b with oseq := n, out := (if full then b.out.drop 1 else b.out) ++ [⟨rtype, lost, n, tick, body⟩] }

/-! ### A link that goes DOWN (R361, R386) -/

/-- The jobs that use a link stop on this module: their tasks are aborted and fail FAIL_LINK with `detail` (R386). -/
def stopJobsOn (m : Module) (c : Coord) (l detail : Nat) : Module :=
  foldM (jobsOn m c l) (fun m p => markStopped (endRecovery (faultNow m p .failLink fun _ => detail) p) p) m

/-- Event codes of the fabric (Table 17.6). -/
def evLinkDown : Nat := 0x0501
def evMgrConflict : Nat := 0x0502
def evFabMismatch : Nat := 0x0503
def evFwdAbort : Nat := 0x0504
def evFwdBroken : Nat := 0x0505
def evCableAlarm : Nat := 0x0506
def evEthRead : Nat := 0x0507
def evTakeover : Nat := 0x0508

/-- Number of a direction group, as TICK_UNREACHABLE names it. -/
def groupNumber (m : Module) : Nat :=
  match m.fabric.slice, (parentGroup m).head? with
  | some s, some l => l / groupSize s.mode3
  | _, _ => 0

/-- A link in service or under check goes DOWN: the event, the sibling that becomes parent, and, for an UP link, the stop of
the jobs that use it with a class 1 order (R361, R369, R386). -/
def loseLink (m : Module) (l cause : Nat) : Module :=
  let k := m.link l
  if k.st ≠ .up ∧ k.st ≠ .check ∧ k.st ≠ .train then m
  else
    let wasUp := k.st == .up
    let wasParent := parentLink m == some l
    let m := m.setLink l fun k => { k with st := .down, tick := 0, downs := satAdd k.downs 1, replayBuf := [], replays := 0, waiting := [] }
    let m := raise m evLinkDown noPart dieF [l, cause]
    let m := refreshRoles m
    let m := if wasParent && (parentLink m).isNone then raise m 0x0104 noPart dieF [groupNumber m] else m
    if wasUp then
      let c := ownCoord m
      let m := if (jobsOn m c l).isEmpty then m else stopJobsOn m c l l
      issueHedge m 1 (stopLinkOrder c l)
    else m

end Sys2Proof.Machine
end

