-- ==== Sys2Proof/Machine/Links.lean ====
section
/-! DEFINITION. Fabric links and the tick across the slice: bring-up, loss, retraining, sync words, arming, STOPPED, takeover
(13_fabric R361, R364, R367 to R373). -/

namespace Sys2Proof.Machine

/-! ### Bring-up and loss -/

/-- LINK_TRAINED: the lanes are locked; sync words flow and the neighbour is under check (R364). -/
def linkTrainedFn (link slice : Nat) (coord : Coord) (peer delay : Nat) (m : Module) : Module :=
  if (m.link link).st = .train ∧ m.power.domains.getLsbD (2637 + link) = true then
    m.setLink link fun k =>
      { k with st := .check, peer := some (slice, coord, peer), delay := min delay 65535, rxSeq := 0, txSeq := 0
               replayBuf := [], replays := 0, waiting := [], echo := 0, echoRx := 0 }
  else m

/-- Execute LINK_TRAINED. -/
def execLinkTrained (link slice : Nat) (coord : Coord) (peer delay : Nat) (s : State) :
    Host.Outcome State Fault Refusal :=
  guarded (linkOk link && linkOk peer) (linkTrainedFn link slice coord peer delay) s

/-- LINK_DOWN (R361). -/
def linkDownFn (link cause : Nat) (m : Module) : Module := loseLink m link cause

/-- Execute LINK_DOWN. -/
def execLinkDown (link cause : Nat) (s : State) : Host.Outcome State Fault Refusal :=
  guarded (linkOk link) (linkDownFn link cause) s

/-- Refusal of a write to the link and module registers of the FAB block. -/
def refuseFabric (m : Module) (off : Nat) : Module :=
  refuse m noPart blkFab off fun m => m.setFabric fun f => { f with badWrite := true }

/-- RETRAIN: a DOWN link is retrained, unless an open job uses it (R361). -/
def retrainFn (fn : Nat) (value : Word) (m : Module) : Module :=
  regWrite m fn blkFab 8 fun m =>
    let l := (m.fn 0).sel.link
    if !value.getLsbD 0 || 12 ≤ l then m
    else if !(jobsOn m (ownCoord m) l).isEmpty then refuseFabric m 8
    else if (m.link l).st = .down then m.setLink l fun k => { k with st := .train } else m

/-- Execute RETRAIN. -/
def execRetrain (fn : Nat) (value : Word) (s : State) : Host.Outcome State Fault Refusal :=
  guarded (fnOk fn) (retrainFn fn value) s

/-! ### Sync words (R367 to R373) -/

/-- Time of the next boundary on the module's time base. -/
def nextBoundaryNs (m : Module) : Nat := m.tick.nextAt.getD (m.tick.boundaryNs + m.tick.period)

/-- A time counted from power-on as a value of the time base (R371). -/
def onTimeBase (m : Module) (t : Nat) : Nat := ((t : Int) - m.tick.epochNs).toNat

/-- STATE codes of Table 2.7. -/
def Sync.code : Sync → Nat
  | .free => 0
  | .acquire => 1
  | .locked => 2
  | .stopped => 3

/-- The sync word of a link, with the newest state held; the manager sets FWD in every word (R367, Table 13.5). -/
def wordFor (m : Module) (l : Nat) (fwd : Bool) : SyncWord :=
  let k := m.link l
  let now := onTimeBase m m.tick.ns * 65536
  { slice := (m.fabric.slice.map (·.slice)).getD 0, mgr := m.fabric.follow, state := m.tick.sync.code, epoch := m.fabric.mgrEpoch
    hops := m.fabric.hops, parent := parentLink m == some l, takeover := m.fabric.takeover
    fwd := fwd || m.tick.role == .manager, coord := ownCoord m, link := l, tx := now
    resid := if k.echo = 0 then 0 else (now - k.echoRx) / 256, echo := k.echo, period := m.tick.period, boundary := m.tick.count
    boundaryNs := onTimeBase m (nextBoundaryNs m - m.tick.period), armed := m.tick.armed
    nextPeriod := (m.fabric.announce.map (·.1)).getD 0, nextFrom := (m.fabric.announce.map (·.2)).getD 0 }

/-- Send a sync word on a link (R367). -/
def sendSync (m : Module) (l : Nat) (fwd : Bool) : Module := emitNet m (.syncWord l (wordFor m l fwd))

/-- SYNC_WORD_SEND: on a link in CHECK or UP. -/
def syncWordSendFn (link : Nat) (fwd : Bool) (m : Module) : Module :=
  if (m.link link).st = .check ∨ (m.link link).st = .up then sendSync m link fwd else m

/-- Execute SYNC_WORD_SEND. -/
def execSyncWordSend (link : Nat) (fwd : Bool) (s : State) : Host.Outcome State Fault Refusal :=
  guarded (linkOk link) (syncWordSendFn link fwd) s

/-- One-way delay that a word measures, in units of 2^-16 ns; none before a word has been echoed (R368). -/
def wordDelay (w : SyncWord) : Option Int :=
  if w.echo = 0 then none else some ((((w.rx : Int) - w.echo) - (w.resid : Int) * 256) / 2)

/-- Offset from the sender that a word measures over a delay, in units of 2^-16 ns (R368). -/
def wordOffset (w : SyncWord) (delay : Int) : Int := (w.rx : Int) - (w.tx + delay)

/-- 10 ns, 25 ns and 500 ns in units of 2^-16 ns. -/
def fix10 : Int := 655360
def fix25 : Int := 1638400
def fix500 : Int := 32768000

/-- An order on manager coordinates: (X, Y, Z), taken in that order (R373). -/
def coordBelow (a b : Coord) : Bool :=
  decide (a.x < b.x ∨ (a.x = b.x ∧ (a.y < b.y ∨ (a.y = b.y ∧ a.z < b.z))))

/-- Neighbour check of a link in CHECK (R364). -/
def checkLink (m : Module) (s : SliceRec) (l : Nat) (w : SyncWord) (delay : Int) : Module :=
  let (ax, plus, pos) := linkDir s.mode3 l
  let far := neighbour s.dim s.at_ ax plus
  let farLink := (dirLinks s.mode3 ax (!plus)).getD pos 0
  let ok := w.slice == s.slice && w.coord == far && w.link == farLink
  let st : LinkState := if !ok then .miswired else if fix500 < delay then .long else .up
  refreshRoles (m.setLink l fun k => { k with st := st })

/-- Which manager a module follows after a word, and what that does to a manager of its own (R373). -/
def followWord (m : Module) (w : SyncWord) : Module :=
  let f := m.fabric
  if f.mgrEpoch < w.epoch then
    let m := m.setFabric fun f => { f with mgrEpoch := w.epoch, follow := w.mgr, takeover := false }
    let m := if m.tick.role = .manager ∧ w.state = 2 then
        (m.setTick fun t => { t with role := .norole, sync := .stopped, wasStopped := true }).setFabric fun f =>
          { f with deposed := true }
      else m
    refreshRoles m
  else if f.mgrEpoch = w.epoch ∧ f.follow ≠ w.mgr then
    let m := raise (m.setFabric fun f => { f with mgrConflict := true }) evMgrConflict noPart dieF [w.link, w.epoch]
    if coordBelow w.mgr f.follow then refreshRoles (m.setFabric fun f => { f with follow := w.mgr }) else m
  else m

/-- The module leaves LOCKED, or stops: the event of R54. -/
def syncLost (m : Module) (st : Sync) (offsetNs : Int) : Module :=
  let was := m.tick.sync
  let m := m.setTick fun t => { t with sync := st, goodWords := 0, wasStopped := t.wasStopped || st == .stopped }
  if was = .locked then raise m 0x0103 noPart dieF [st.code, wrapInt 32 offsetNs] else m

/-- Enter ACQUIRE: the phase of the time base steps by the offset, and a boundary of the word that the module has not raised gives
the boundary number and its time (R371). -/
def enterAcquire (m : Module) (w : SyncWord) (off : Int) : Module :=
  m.setTick fun t =>
    let t := { t with sync := .acquire, goodWords := 0, epochNs := t.epochNs + off / 65536, nextAt := none
                      boundaryNs := ((t.boundaryNs : Int) + off / 65536).toNat, period := if w.period = 0 then t.period else w.period }
    if t.count ≤ w.boundary then
      { t with count := w.boundary, boundaryNs := ((w.boundaryNs : Int) + t.epochNs).toNat }
    else t

/-- State of TICK_STAT.SYNC after a word on the parent link with a measured offset (R371). -/
def syncStep (m : Module) (w : SyncWord) (off : Int) : Module :=
  let t := m.tick
  let big (n : Int) : Bool := decide (n < off ∨ off < -n)
  match t.sync with
  | .free => if t.role = .norole then m else enterAcquire m w off
  | .stopped => if t.role ≠ .norole ∧ t.count < t.armed then enterAcquire m w off else m
  | .acquire =>
    if big fix10 then m.setTick fun t => { t with goodWords := 0 }
    else if t.goodWords + 1 < 4 then m.setTick fun t => { t with goodWords := t.goodWords + 1 }
    else m.setTick fun t => { t with sync := .locked, goodWords := 0 }
  | .locked => if big fix25 then enterAcquire (syncLost m .acquire (off / 65536)) w off else m

/-- What a word of the followed manager brings: the arm, an announced period, the SYNC state on the parent link, and the
forwarding of a FWD word to the child links (R367, R369, R371). -/
def takeWord (m : Module) (l : Nat) (w : SyncWord) (delay : Option Int) : Module :=
  if w.epoch ≠ m.fabric.mgrEpoch ∨ w.mgr ≠ m.fabric.follow ∨ m.tick.role = .manager then m
  else
    let m := m.setTick fun t => { t with armed := max t.armed w.armed }
    let m := if w.nextPeriod = 0 then m
      else m.setFabric fun f => { f with announce := some (w.nextPeriod, w.nextFrom) }
    if parentLink m ≠ some l then m
    else
      let m := match delay with
        | some d => syncStep m w (wordOffset w d)
        | none => m
      if w.fwd then
        foldM (upLinks m) (fun m c => if (m.link c).tick = 3 then sendSync m c true else m) m
      else m

/-- SYNC_WORD_RECEIVE: the delay is measured, the neighbour checked, the manager chosen, and the word taken; a change of the
neighbour's identity takes the link DOWN (R361, R364, R368 to R373). -/
def syncWordReceiveFn (link : Nat) (w : SyncWord) (m : Module) : Module :=
  match m.fabric.slice with
  | none => m
  | some s =>
    let k := m.link link
    if k.st ≠ .check ∧ k.st ≠ .up then m
    else
      let id := (w.slice, w.coord, w.link)
      if k.st = .up ∧ k.peer.isSome = true ∧ k.peer ≠ some id then loseLink m link 3
      else
        let d := wordDelay w
        let m := m.setLink link fun k =>
          { k with peer := some id, echo := w.tx, echoRx := w.rx
                   delay := match d with
                     | some d => min 65535 (d / 8192).toNat
                     | none => k.delay
                   tick := if w.parent && k.st == .up then 3 else if k.tick = 3 then 0 else k.tick }
        let m := match k.st, d with
          | .check, some d => checkLink m s link w d
          | _, _ => refreshRoles m
        if w.slice ≠ s.slice then m else takeWord (followWord m w) link w d

/-- BOUNDARY_ARM: the manager arms the next boundary (R371). -/
def boundaryArmFn (m : Module) : Module :=
  if m.tick.role = .manager ∧ m.tick.sync = .locked then
    (reachNs m (nextBoundaryNs m - 32000)).setTick fun t => { t with armed := max t.armed (t.count + 1) }
  else m

/-- Execute BOUNDARY_ARM. -/
def execBoundaryArm (s : State) : Host.Outcome State Fault Refusal := guarded true boundaryArmFn s

/-- SYNC_STOP: 4 µs before an unarmed next boundary the module enters STOPPED and its counter holds (R371). -/
def syncStopFn (m : Module) : Module :=
  if (m.tick.sync = .acquire ∨ m.tick.sync = .locked) ∧ m.tick.armed < m.tick.count + 1 then
    syncLost (reachNs m (nextBoundaryNs m - 4000)) .stopped 0
  else m

/-- The manager orders a slope for every module of the slice, itself included, at the first boundary at least 25 µs away (R420). -/
def rampAll (m : Module) (slope : Nat) : Module :=
  let n := if m.tick.ns + 25000 ≤ nextBoundaryNs m then m.tick.count + 1 else m.tick.count + 2
  issueHedge (m.setPower fun w => { w with rampOrder := some ⟨slope, n⟩ }) 2 [slope, n]

/-- TAKEOVER: a standby manager that has been STOPPED for one period, with a link UP, becomes manager of the next epoch and arms
the next boundary at three periods after the last, or 32 µs from now when that is later (R372). -/
def takeoverFn (m : Module) : Module :=
  if m.tick.role ≠ .standby ∨ m.tick.sync ≠ .stopped ∨ (upLinks m).isEmpty = true then m
  else
    let m := reachNs m (m.tick.boundaryNs + 2 * m.tick.period - 4000)
    let at3 := max (m.tick.boundaryNs + 3 * m.tick.period) (m.tick.ns + 32000)
    let m := m.setTick fun t =>
      { t with role := .manager, sync := .locked, armed := max t.armed (t.count + 1), nextAt := some at3 }
    let c := ownCoord m
    let m := m.setFabric fun f => { f with mgrEpoch := (f.mgrEpoch + 1) % 65536, follow := c, takeover := true }
    let m := refreshRoles m
    let m := rampAll m m.power.ownRamp
    let m := raise m evTakeover noPart dieF [0, m.fabric.mgrEpoch]
    sbQueue m 0x83 (leBytes m.fabric.mgrEpoch 2 ++ leBytes c.x 1 ++ leBytes c.y 1 ++ leBytes c.z 1)

/-- Execute TAKEOVER. -/
def execTakeover (s : State) : Host.Outcome State Fault Refusal := guarded true takeoverFn s

end Sys2Proof.Machine
end

