-- ==== Sys2Proof/Machine/Fp.lean ====
section
/-! DEFINITION. The arithmetic of 03_numbers: element formats as exact dyadic numbers, rounding under RMODE, the
conversion matrix, the compensated combine, and the bounded transcendental functions of 05 R128. -/

namespace Sys2Proof.Machine

/-- A number of an element format: NaN, an infinity, or (-1)^neg × mag × 2^exp, the sign of zero kept. -/
inductive Num where
  | nan
  | inf (neg : Bool)
  | fin (neg : Bool) (mag : Nat) (exp : Int)
  deriving DecidableEq, Repr

/-- A floating-point format (R57, R58): width, fraction bits, bias, magnitude code of the largest finite value, of
infinity (none where the format has none), of the canonical NaN (none likewise), and the largest code that is no NaN. -/
structure FFmt where
  w       : Nat
  frac    : Nat
  bias    : Int
  maxCode : Nat
  infCode : Option Nat
  nanCode : Option Nat
  topCode : Nat
  deriving DecidableEq, Repr

/-- FP32 (R57, R59). -/
def fp32 : FFmt := ⟨32, 23, 127, 0x7F7FFFFF, some 0x7F800000, some 0x7FC00000, 0x7F800000⟩
/-- BF16 (R57, R59). -/
def bf16 : FFmt := ⟨16, 7, 127, 0x7F7F, some 0x7F80, some 0x7FC0, 0x7F80⟩
/-- FP16 (R57, R59). -/
def fp16 : FFmt := ⟨16, 10, 15, 0x7BFF, some 0x7C00, some 0x7E00, 0x7C00⟩
/-- FP8 E4M3 (Table 3.2). -/
def e4m3 : FFmt := ⟨8, 3, 7, 0x7E, none, some 0x7F, 0x7E⟩
/-- FP8 E5M2 (Table 3.2). -/
def e5m2 : FFmt := ⟨8, 2, 15, 0x7B, some 0x7C, some 0x7F, 0x7C⟩
/-- FP6 E3M2 (Table 3.2). -/
def e3m2 : FFmt := ⟨6, 2, 3, 0x1F, none, none, 0x1F⟩
/-- FP6 E2M3 (Table 3.2). -/
def e2m3 : FFmt := ⟨6, 3, 1, 0x1F, none, none, 0x1F⟩
/-- FP4 E2M1 (Table 3.3). -/
def e2m1 : FFmt := ⟨4, 1, 1, 0x7, none, none, 0x7⟩

/-- The floating-point format of a format code (Table 3.1). -/
def floatFmt : Nat → Option FFmt
  | 0 => some fp32
  | 1 => some bf16
  | 2 => some fp16
  | 3 => some e4m3
  | 4 => some e5m2
  | 5 => some e3m2
  | 6 => some e2m3
  | 7 => some e2m1
  | _ => none

/-- Width in bits of a format code (Table 3.1). -/
def fmtWidth : Nat → Nat
  | 0 => 32
  | 1 => 16
  | 2 => 16
  | 3 => 8
  | 4 => 8
  | 5 => 6
  | 6 => 6
  | 7 => 4
  | 8 => 8
  | 9 => 32
  | 10 => 8
  | _ => 0

/-- The narrow formats: codes 0x3 to 0x8 (R56). -/
def narrowFmt (c : Nat) : Bool := decide (3 ≤ c) && decide (c ≤ 8)

/-- The number a code of a floating-point format stands for (R57, R58). -/
def FFmt.decode (f : FFmt) (v : Nat) : Num :=
  let neg := bit v (f.w - 1)
  let mag := v % 2 ^ (f.w - 1)
  if f.infCode = some mag then .inf neg
  else if f.topCode < mag then .nan
  else
    let e := mag / 2 ^ f.frac
    let m := mag % 2 ^ f.frac
    if e = 0 then .fin neg m (1 - f.bias - f.frac)
    else .fin neg (2 ^ f.frac + m) (e - f.bias - f.frac)

/-- A signed integer as a number. -/
def numOfInt (i : Int) : Num := .fin (decide (i < 0)) i.natAbs 0

/-- The number that a code of format code `c` stands for (Table 3.1): floats, and INT8 and INT32 in two's complement. -/
def decodeFmt (c v : Nat) : Num :=
  match floatFmt c with
  | some f => f.decode v
  | none => numOfInt (sext (if c = 8 then 8 else 32) v)

/-! ### Rounding (R63, R64, R65) -/

/-- The 64-bit mix of R65 and R140. -/
def srMix (seed stream idx : Nat) : Nat :=
  let x := (seed + stream * 2 ^ 48 + idx) % 2 ^ 64
  let x := ((x ^^^ (x >>> 30)) * 0xBF58476D1CE4E5B9) % 2 ^ 64
  let x := ((x ^^^ (x >>> 27)) * 0x94D049BB133111EB) % 2 ^ 64
  x ^^^ (x >>> 31)

/-- sr_random of R65. -/
def srRandom (seed stream idx : Nat) : Nat := srMix seed stream idx % 65536

/-- Is the magnitude rounded up? `q` is the truncated quotient in units of the spacing, `rem / den` the discarded part;
RMODE codes of Table 3.4, `r` the random number of R65. -/
def roundUp (mode r : Nat) (neg : Bool) (q rem den : Nat) : Bool :=
  match mode with
  | 0 => decide (den < 2 * rem) || (decide (2 * rem = den) && decide (q % 2 = 1))
  | 1 => false
  | 2 => neg && decide (0 < rem)
  | 3 => !neg && decide (0 < rem)
  | _ => decide (65536 ≤ rem * 65536 / den + r)

/-- `mag × 2^exp` rounded to a multiple of `2^u`, as that multiple's count. -/
def roundAt (mode r : Nat) (neg : Bool) (mag : Nat) (exp u : Int) : Nat :=
  if u ≤ exp then mag * 2 ^ (exp - u).toNat
  else
    let den := 2 ^ (u - exp).toNat
    let q := mag / den
    if roundUp mode r neg q (mag % den) den then q + 1 else q

/-- Exponent of the spacing of a format at a magnitude (R64). -/
def FFmt.spacing (f : FFmt) (mag : Nat) (exp : Int) : Int :=
  max ((mag.log2 : Int) + exp) (1 - f.bias) - f.frac

/-- What a conversion gives: the code, and the arithmetic exceptions it met (R81). -/
structure Rounded where
  code : Nat
  sat  : Bool := false
  nan  : Bool := false
  inf  : Bool := false
  deriving DecidableEq, Repr

/-- The sign bit of a format. -/
def FFmt.sign (f : FFmt) (neg : Bool) : Nat := if neg then 2 ^ (f.w - 1) else 0

/-- How an overflow ends (R66): narrow formats saturate unless E5M2 has SATFINITE 0; the others follow IEEE 754. -/
inductive Overflow where
  | saturate | toInf | ieee
  deriving DecidableEq, Repr

/-- The magnitude code on overflow. -/
def FFmt.over (f : FFmt) (o : Overflow) (mode : Nat) (neg : Bool) : Rounded :=
  let maxi : Rounded := { code := f.sign neg + f.maxCode }
  match o, f.infCode with
  | .saturate, _ => { maxi with sat := true }
  | _, none => { maxi with sat := true }
  | .toInf, some c => { code := f.sign neg + c, inf := true }
  | .ieee, some c =>
    if mode = 1 || (mode = 2 && !neg) || (mode = 3 && neg) then maxi
    else { code := f.sign neg + c, inf := true }

/-- A number rounded to a floating-point format under RMODE (R63 to R67, R69). -/
def FFmt.round (f : FFmt) (o : Overflow) (mode r : Nat) : Num → Rounded
  | .nan => { code := f.nanCode.getD 0, nan := true }
  | .inf neg =>
    match o, f.infCode with
    | .saturate, _ => { code := f.sign neg + f.maxCode, sat := true }
    | _, none => { code := f.sign neg + f.maxCode, sat := true }
    | _, some c => { code := f.sign neg + c }
  | .fin neg mag exp =>
    if mag = 0 then { code := f.sign neg }
    else
      let u := f.spacing mag exp
      let q := roundAt mode r neg mag exp u
      let code := (u - (1 - f.bias - f.frac)).toNat * 2 ^ f.frac + q
      if f.maxCode < code then f.over o mode neg else { code := f.sign neg + code }

/-- A number rounded to a two's-complement integer of `w` bits and saturated to the magnitudes `lo` below and 2^(w−1) − 1 above; NaN
gives 0, and −0 gives 0 (R67, R69). -/
def roundInt (w lo mode r : Nat) : Num → Rounded
  | .nan => { code := 0, nan := true }
  | .inf neg => { code := if neg then 2 ^ w - lo else 2 ^ (w - 1) - 1, sat := true }
  | .fin neg mag exp =>
    let q := roundAt mode r neg mag exp 0
    if neg then
      if lo < q then { code := 2 ^ w - lo, sat := true } else { code := (2 ^ w - q) % 2 ^ w }
    else if 2 ^ (w - 1) ≤ q then { code := 2 ^ (w - 1) - 1, sat := true } else { code := q }

/-- INT8: a magnitude above the largest finite value, 127, gives 127 with the source's sign, so −128 is never written (R66; DEDUCED,
log 73). -/
def roundInt8 : Nat → Nat → Num → Rounded := roundInt 8 127

/-- INT32: code I saturates to −2^31 and 2^31 − 1 (R70). Code D of an INT8 block whose scale carries it below −2^31 takes the same
bound: 'the largest INT32 value with the source's sign' is read as −2^31 (DESIGN CHOICE, log 73). -/
def roundInt32 : Nat → Nat → Num → Rounded := roundInt 32 (2 ^ 31)

/-- A number times a power of two. -/
def Num.scale (k : Int) : Num → Num
  | .fin neg mag exp => .fin neg mag (exp + k)
  | x => x

/-- An element of a scaled block: encoded value × 2^(X − 127); scale byte 0xFF makes it NaN (R60). -/
def scaled (x : Nat) (v : Num) : Num := if x = 255 then .nan else v.scale (x - 127)

/-! ### Exact arithmetic and FP32 operations (R74, R122) -/

/-- The signed value of a finite number at exponent `e`, for `e` at most its own. -/
def signedAt (neg : Bool) (mag : Nat) (exp e : Int) : Int :=
  let v : Int := mag * 2 ^ (exp - e).toNat
  if neg then -v else v

/-- Exact sum; an exact zero is +0 unless both terms are negative. -/
def Num.add : Num → Num → Num
  | .nan, _ => .nan
  | _, .nan => .nan
  | .inf a, .inf b => if a == b then .inf a else .nan
  | .inf a, _ => .inf a
  | _, .inf b => .inf b
  | .fin na ma ea, .fin nb mb eb =>
    let e := min ea eb
    let s := signedAt na ma ea e + signedAt nb mb eb e
    if s = 0 then .fin (na && nb) 0 e else .fin (decide (s < 0)) s.natAbs e

/-- Negation. -/
def Num.neg : Num → Num
  | .nan => .nan
  | .inf a => .inf (!a)
  | .fin a m e => .fin (!a) m e

/-- Exact product; an infinity times zero is NaN. -/
def Num.mul : Num → Num → Num
  | .nan, _ => .nan
  | _, .nan => .nan
  | .inf a, .inf b => .inf (a != b)
  | .inf a, .fin b m _ => if m = 0 then .nan else .inf (a != b)
  | .fin a m _, .inf b => if m = 0 then .nan else .inf (a != b)
  | .fin a ma ea, .fin b mb eb => .fin (a != b) (ma * mb) (ea + eb)

/-- Order of two numbers that are not NaN: -1, 0 or 1, with -0 equal to +0. -/
def Num.cmp : Num → Num → Int
  | .nan, _ => 0
  | _, .nan => 0
  | .inf a, .inf b => if a == b then 0 else if a then -1 else 1
  | .inf a, _ => if a then -1 else 1
  | _, .inf b => if b then 1 else -1
  | .fin na ma ea, .fin nb mb eb =>
    let e := min ea eb
    let d := signedAt na ma ea e - signedAt nb mb eb e
    if d < 0 then -1 else if d = 0 then 0 else 1

/-- The number is infinite. -/
def Num.isInf : Num → Bool
  | .inf _ => true
  | _ => false

/-- The number is NaN. -/
def Num.isNan : Num → Bool
  | .nan => true
  | _ => false

/-- The number is a zero. -/
def Num.isZero : Num → Bool
  | .fin _ m _ => decide (m = 0)
  | _ => false

/-- The number is negative (or -0). -/
def Num.isNeg : Num → Bool
  | .nan => false
  | .inf a => a
  | .fin a _ _ => a

/-- An FP32 word. -/
abbrev F32 := BitVec 32

/-- The number an FP32 word stands for. -/
def F32.num (x : F32) : Num := fp32.decode x.toNat

/-- A number rounded to FP32 under RNE with subnormals kept (R57, R122). -/
def toF32 (x : Num) : F32 := BitVec.ofNat 32 (fp32.round .ieee 0 0 x).code

/-- The canonical FP32 NaN (R59). -/
def nan32 : F32 := 0x7FC00000

/-- FP32 sum under RNE. -/
def fadd (a b : F32) : F32 := toF32 (a.num.add b.num)
/-- FP32 difference under RNE. -/
def fsub (a b : F32) : F32 := toF32 (a.num.add b.num.neg)
/-- FP32 product under RNE. -/
def fmul (a b : F32) : F32 := toF32 (a.num.mul b.num)
/-- A × B + C rounded once (R122). -/
def ffma (a b c : F32) : F32 := toF32 ((a.num.mul b.num).add c.num)

/-- FP32 order with -0 below +0, for words that are no NaN (R122). -/
def f32Below (a b : F32) : Bool :=
  let c := a.num.cmp b.num
  decide (c < 0) || (decide (c = 0) && a.num.isNeg && !b.num.isNeg)

/-- FP32 minimum: the canonical NaN when either source is NaN (R122). -/
def fmin (a b : F32) : F32 :=
  if a.num.isNan || b.num.isNan then nan32 else if f32Below b a then b else a
/-- FP32 maximum (R122). -/
def fmax (a b : F32) : F32 :=
  if a.num.isNan || b.num.isNan then nan32 else if f32Below a b then b else a

/-! ### The compensated combine (R74, R77, R79) -/

/-- The two-sum of R74: enter `hi` and `lo` into an (S, C) pair. -/
def combineHiLo (s c hi lo : F32) : F32 × F32 :=
  let t := fadd s hi
  let z := fsub t s
  let err := fadd (fsub s (fsub t z)) (fsub hi z)
  (t, fadd c (fadd err lo))

/-- The (hi, lo) words of an exact block value: nearest FP32, and nearest FP32 to the remainder; a special value enters
as itself with +0 (R73, R74). -/
def hiLo (v : Num) : F32 × F32 :=
  let hi := toF32 v
  match v with
  | .fin _ _ _ => (hi, toF32 (v.add hi.num.neg))
  | _ => (hi, 0)

/-- The result S + C under RNE, with the sign of zero of R77. -/
def pairResult (s c : F32) (allNeg : Bool) : F32 :=
  if s = 0 ∧ c = 0 then (if allNeg then 0x80000000 else 0) else fadd s c

/-! ### Conversion between formats (R66 to R70) -/

/-- Exponent e of the largest finite value of a narrow destination (Table 3.5). -/
def scaleExp : Nat → Int
  | 3 => 8
  | 4 => 15
  | 5 => 4
  | 6 => 2
  | 7 => 2
  | _ => 6

/-- amax of R68: the largest finite magnitude, as (mag, exp); none when it is 0. -/
def amax (vs : List Num) : Option (Nat × Int) :=
  vs.foldl (fun best v =>
    match v with
    | .fin _ m e =>
      if m = 0 then best
      else match best with
        | none => some (m, e)
        | some (bm, be) => if (Num.fin false bm be).cmp (.fin false m e) < 0 then some (m, e) else best
    | _ => best) none

/-- The automatic scale byte of a block (R68). -/
def autoScale (dst : Nat) (vs : List Num) : Nat :=
  match amax vs with
  | none => 127
  | some (m, e) => (max (-127) (min 127 ((m.log2 : Int) + e - scaleExp dst)) + 127).toNat

/-- Conversion of one number to a format that is not narrow: codes X, R, D and I of Table 3.7. `fromNarrow` is code D or
R for a narrow or INT8 source. -/
def convertWide (dst mode r : Nat) (exactOver : Bool) (v : Num) : Rounded :=
  match floatFmt dst with
  | some f => f.round (if exactOver then .toInf else .ieee) mode r v
  | none => roundInt32 mode r v

/-- Code D of Table 3.6: a narrow float or INT8 to FP32 or BF16, and INT8 to INT32. -/
def codeD (src dst : Nat) : Bool := narrowFmt src && (decide (dst ≤ 1) || (decide (src = 8) && decide (dst = 9)))

/-- Quantisation of one number by a scale byte: divided by 2^s, rounded and saturated (R66, R68). -/
def quantise (dst mode r : Nat) (satfin : Bool) (scaleByte : Nat) (v : Num) : Rounded :=
  let w := v.scale (127 - (scaleByte : Int))
  match floatFmt dst with
  | some f => f.round (if dst = 4 && !satfin then .toInf else .saturate) mode r w
  | none => roundInt8 mode r w

/-- The tensor that a conversion writes is unscaled INT8: it carries the fixed scale byte 0x7F (R62; DEDUCED, log 73). -/
def unscaledInt8 (dst : Nat) (fixed : Option Nat) : Bool := dst == 8 && fixed == some 127

/-- A block of sources quantised together: scale byte and element results. A NaN source of FP6, FP4 or INT8 makes the scale 0xFF and
every code 0 inside a scaled block; in unscaled INT8 it gives 0 for its own element alone (R67). Each source carries its random
number. -/
def quantiseBlock (dst mode : Nat) (satfin : Bool) (fixed : Option Nat) (vs : List (Num × Nat)) : Nat × List Rounded :=
  let sb := fixed.getD (autoScale dst (vs.map (·.1)))
  if decide (5 ≤ dst) && !unscaledInt8 dst fixed && vs.any (fun v => v.1.isNan) then
    (255, vs.map fun v => { code := 0, nan := v.1.isNan })
  else (sb, vs.map fun v => quantise dst mode v.2 satfin sb v.1)

/-! ### Transcendental functions (05 R128): exact values in fixed point, and the bound -/

/-- Fraction bits of the fixed-point values. -/
def fxBits : Nat := 640
/-- 1 in fixed point. -/
def fxOne : Int := 2 ^ fxBits
/-- Product in fixed point. -/
def fxMul (a b : Int) : Int := a * b / fxOne
/-- Quotient in fixed point. -/
def fxDiv (a b : Int) : Int := a * fxOne / b

/-- Sum of `t, t·x, …` with each term `n` divided by `d n`, where `t` is multiplied by `x` and divided by `g n` from one
term to the next: `k` terms. -/
def fxSeries (x : Int) (g d : Nat → Int) : Nat → Nat → Int → Int → Int
  | 0, _, _, acc => acc
  | k + 1, n, t, acc => fxSeries x g d k (n + 1) (fxMul t x / g n) (acc + t / d n)

/-- atanh z for |z| ≤ 1/3. -/
def fxAtanh (z : Int) : Int := fxSeries (fxMul z z) (fun _ => 1) (fun n => 2 * n + 1) 210 0 z 0
/-- atan (1 / k). -/
def fxAtanInv (k : Int) : Int :=
  fxSeries (-(fxOne / (k * k))) (fun _ => 1) (fun n => 2 * n + 1) 145 0 (fxOne / k) 0
/-- ln 2. -/
def fxLn2 : Int := 2 * fxAtanh (fxOne / 3)
/-- π. -/
def fxPi : Int := 16 * fxAtanInv 5 - 4 * fxAtanInv 239

/-- e^x as a mantissa and a power of two. -/
def fxExp (x : Int) : Int × Int :=
  let k := x / fxLn2
  (fxSeries (x - k * fxLn2) (fun n => n + 1) (fun _ => 1) 120 0 fxOne 0, k)

/-- ln of a positive number mag × 2^exp. -/
def fxLn (mag : Nat) (exp : Int) : Int :=
  let b := mag.log2
  let m : Int := mag * 2 ^ (fxBits - b)
  2 * fxAtanh (fxDiv (m - fxOne) (m + fxOne)) + (b + exp) * fxLn2

/-- sin and cos by quadrant after reduction modulo π/2. -/
def fxSinCos (x : Int) : Int × Int :=
  let h := fxPi / 2
  let k := x / h
  let r := x - k * h
  let s := fxSeries (-(fxMul r r)) (fun n => (2 * n + 2) * (2 * n + 3)) (fun _ => 1) 70 0 r 0
  let c := fxSeries (-(fxMul r r)) (fun n => (2 * n + 1) * (2 * n + 2)) (fun _ => 1) 70 0 fxOne 0
  match (k % 4).toNat with
  | 0 => (s, c)
  | 1 => (c, -s)
  | 2 => (-s, -c)
  | _ => (-c, s)

/-- The largest root whose square is at most `n`, by bits from the top. -/
def isqrtGo (n : Nat) : Nat → Nat → Nat
  | 0, r => r
  | k + 1, r => let t := r + 2 ^ k; if t * t ≤ n then isqrtGo n k t else isqrtGo n k r
/-- Integer square root. -/
def isqrt (n : Nat) : Nat := isqrtGo n (n.log2 / 2 + 1) 0

/-- erf x for |x| < 5. -/
def fxErf (x : Int) : Int :=
  let s := fxSeries (-(fxMul x x)) (fun n => n + 1) (fun n => 2 * n + 1) 260 0 x 0
  fxDiv (2 * s) (isqrt (fxPi * fxOne).toNat)

/-- A fixed-point value times a power of two as a number. -/
def numOfFx (v : Int) (k : Int := 0) : Num := .fin (decide (v < 0)) v.natAbs (k - fxBits)

/-- A finite FP32 number in fixed point. -/
def fxOf (neg : Bool) (mag : Nat) (exp : Int) : Int :=
  let v : Int := if 0 ≤ exp + fxBits then mag * 2 ^ (exp + fxBits).toNat else 0
  if neg then -v else v

/-- The functions of Table 5.4, by OP code. -/
inductive XfFn where
  | exp | exp2 | log | log2 | rcp | rsqrt | sqrt | tanh | sigmoid | sin | cos | erf
  deriving DecidableEq, Repr

/-- OP code of a function (Table 5.3). -/
def XfFn.op : XfFn → Nat
  | .exp => 0
  | .exp2 => 1
  | .log => 2
  | .log2 => 3
  | .rcp => 4
  | .rsqrt => 5
  | .sqrt => 6
  | .tanh => 7
  | .sigmoid => 8
  | .sin => 9
  | .cos => 10
  | .erf => 11

/-- e^x for a finite x, held to the range in which the result is neither surely 0 nor surely above FP32. -/
def expNum (x : Int) : Num :=
  if 200 * fxOne < x then .inf false
  else if x < -(200 * fxOne) then .fin false 1 (-288)
  else let r := fxExp x; numOfFx r.1 r.2

/-- The value, exact to far more places than FP32 holds, of a function at a finite input inside its domain. -/
def xfExact (f : XfFn) (neg : Bool) (mag : Nat) (exp : Int) : Num :=
  let x := fxOf neg mag exp
  let big := decide (64 * fxOne < x ∨ x < -(64 * fxOne))
  match f with
  | .exp => expNum x
  | .exp2 => expNum (if big && decide (400 * fxOne < x ∨ x < -(400 * fxOne)) then 4 * x else fxMul x fxLn2)
  | .log => numOfFx (fxLn mag exp)
  | .log2 => numOfFx (fxDiv (fxLn mag exp) fxLn2)
  | .rcp => .fin neg (2 ^ 600 / mag) (-600 - exp)
  | .rsqrt =>
    let odd := (exp % 2).toNat
    .fin false (2 ^ 600 / isqrt (mag * 2 ^ odd * 2 ^ 400)) (-600 + 200 - (exp - odd) / 2)
  | .sqrt =>
    let odd := (exp % 2).toNat
    let n := mag * 2 ^ odd * 2 ^ 200
    let r := isqrt n
    .fin neg (2 * r + (if r * r = n then 0 else 1)) ((exp - odd) / 2 - 101)
  | .tanh =>
    if big then .fin neg 1 0
    else let e := fxExp (2 * x)
         let v := if 0 ≤ e.2 then e.1 * 2 ^ e.2.toNat else e.1 / 2 ^ (-e.2).toNat
         numOfFx (fxDiv (v - fxOne) (v + fxOne))
  | .sigmoid =>
    if big then (if neg then (expNum x) else .fin false 1 0)
    else let e := fxExp x
         let v := if 0 ≤ e.2 then e.1 * 2 ^ e.2.toNat else e.1 / 2 ^ (-e.2).toNat
         numOfFx (fxDiv v (fxOne + v))
  | .sin => numOfFx (fxSinCos x).1
  | .cos => numOfFx (fxSinCos x).2
  | .erf => if decide (5 * fxOne < x ∨ x < -(5 * fxOne)) then .fin neg 1 0 else numOfFx (fxErf x)

/-- Error bound of Table 5.4, in units of the last place; SQRT is correctly rounded. -/
def xfBound (f : XfFn) (mag : Nat) (exp : Int) : Nat :=
  match f with
  | .rcp => 1
  | .rsqrt => 1
  | .sqrt => 0
  | .sin => if (Num.fin false mag exp).cmp (.fin false 65536 0) ≤ 0 then 2 else 4
  | .cos => if (Num.fin false mag exp).cmp (.fin false 65536 0) ≤ 0 then 2 else 4
  | _ => 2

/-- A candidate FP32 word lies within `n` units in the last place of a value. -/
def withinUlp (n : Nat) (cand : F32) (v : Num) : Bool :=
  match cand.num, v with
  | .fin _ _ _, .fin vn vm ve =>
    let u := fp32.spacing vm ve
    let bound : Num := .fin false n u
    let d := cand.num.add (Num.fin vn vm ve).neg
    match d with
    | .fin _ dm de => (Num.fin false dm de).cmp bound ≤ 0
    | _ => false
  | _, _ => false

/-- Special values of Table 5.4: some result, or none where the bound governs. -/
def xfSpecial (f : XfFn) (x : Num) : Option F32 :=
  let zero := x.isZero
  let negv := x.isNeg
  let inf (b : Bool) : F32 := if b then 0xFF800000 else 0x7F800000
  let one (b : Bool) : F32 := if b then 0xBF800000 else 0x3F800000
  let sgn0 (b : Bool) : F32 := if b then 0x80000000 else 0
  if x.isNan then some nan32
  else match f with
  | .exp | .exp2 => if x.isInf then some (if negv then 0 else inf false) else none
  | .log | .log2 =>
    if zero then some (inf true) else if negv then some nan32 else if x.isInf then some (inf false) else none
  | .rcp => if zero then some (inf negv) else if x.isInf then some (sgn0 negv) else none
  | .rsqrt =>
    if zero then some (inf negv) else if negv then some nan32 else if x.isInf then some 0 else none
  | .sqrt =>
    if zero then some (sgn0 negv) else if negv then some nan32 else if x.isInf then some (inf false) else none
  | .tanh | .erf => if x.isInf then some (one negv) else none
  | .sigmoid => if x.isInf then some (if negv then 0 else one false) else none
  | .sin | .cos => if x.isInf then some nan32 else none

/-- An XF result (R128): the special value; else a fixed bit pattern, free within the error bound (log 1); an exact
value that rounds beyond FP32 gives the infinity; SQRT is correctly rounded. -/
def xf (f : XfFn) (x : F32) : F32 :=
  match xfSpecial f x.num with
  | some r => r
  | none =>
    match x.num with
    | .fin neg mag exp =>
      let v := xfExact f neg mag exp
      let near := toF32 v
      let raw := Config.xfRaw f.op x
      if f = .sqrt || near.num.isInf then near
      else if withinUlp (xfBound f mag exp) raw v then raw else near
    | _ => nan32

end Sys2Proof.Machine
end

