-- ==== Sys2Proof/Machine/Operands.lean ====
section
/-! DEFINITION. Operands of the vector engine: registers, masks, active lanes, lane and packed form, local-store
addresses, the issue front and the loop stack (05_vector_engine R111 to R117, R132 to R134, R142). -/

namespace Sys2Proof.Machine

/-! ### Registers (R111, R112) -/

/-- Lane `l` of vector register `r`. -/
def Ve.lane (v : Ve) (r l : Nat) : BitVec 32 := v.v.get (64 * r + l)
/-- Write one lane. -/
def Ve.setLane (v : Ve) (r l : Nat) (x : BitVec 32) : Ve := { v with v := v.v.put (64 * r + l) x }
/-- Mask register: m0 reads all ones. -/
def Ve.maskOf (v : Ve) (r : Nat) : BitVec 64 := if r = 0 then BitVec.allOnes 64 else v.mask.get r
/-- Write a mask register; a write to m0 has no effect (it is refused at load, R121). -/
def Ve.setMask (v : Ve) (r : Nat) (x : BitVec 64) : Ve := if r = 0 then v else { v with mask := v.mask.put r x }
/-- Scalar register: s0 reads 0. -/
def Ve.scalar (v : Ve) (r : Nat) : BitVec 64 := if r = 0 then 0 else v.sc.get r
/-- Write a scalar register; a write to s0 is discarded. -/
def Ve.setScalar (v : Ve) (r : Nat) (x : BitVec 64) : Ve := if r = 0 then v else { v with sc := v.sc.put r x }

/-- The low 32 bits of a scalar. -/
def Ve.low (v : Ve) (r : Nat) : BitVec 32 := (v.scalar r).setWidth 32

/-- Lane `l` is active under mask register `msk` (R113). -/
def Ve.active (v : Ve) (msk l : Nat) : Bool := decide (l < v.vl) && (v.maskOf msk).getLsbD l

/-- The active lanes, in increasing index. -/
def Ve.actives (v : Ve) (msk : Nat) : List Nat := (range' 0 64).filter fun l => v.active msk l

/-- The lanes below VL. -/
def Ve.belowVl (v : Ve) : List Nat := range' 0 (min v.vl 64)

/-- Write a register lane by lane: active lanes take their value, masked lanes keep theirs or take zero under ZM, tail
lanes keep theirs (R114). -/
def Ve.writeLanes (v : Ve) (o : ThreeOps) (f : Nat → BitVec 32) : Ve :=
  v.belowVl.foldl (fun w l =>
    if v.active o.msk.toNat l then w.setLane o.d.toNat l (f l)
    else if o.zm then w.setLane o.d.toNat l 0 else w) v

/-- A whole register as a little-endian bit string of 2,048 bits (R112). -/
def Ve.regNat (v : Ve) (r : Nat) : Nat :=
  (range' 0 64).foldl (fun acc l => acc + (v.lane r l).toNat * 2 ^ (32 * l)) 0
/-- Write a whole register from a bit string. -/
def Ve.setRegNat (v : Ve) (r n : Nat) : Ve :=
  (range' 0 64).foldl (fun w l => w.setLane r l (BitVec.ofNat 32 (n / 2 ^ (32 * l)))) v

/-- A number with `w` bits at bit `lo` replaced. -/
def setBits (n lo w x : Nat) : Nat := n - bits n lo w * 2 ^ lo + (x % 2 ^ w) * 2 ^ lo

/-- Bit offset of element `i` of packed group `part` (R61, R112). -/
def packedAt (part w i : Nat) : Nat := 512 * part + w * i

/-! ### The issue front (R142) -/

/-- Scoreboard keys of the registers. -/
def keyV (r : Nat) : Nat := r
def keyM (r : Nat) : Nat := 32 + r
def keyS (r : Nat) : Nat := 40 + r

/-- The mask of an instruction as a source; m0 is none. -/
def mskKey (o : ThreeOps) : List Nat := if o.msk = 0 then [] else [keyM o.msk.toNat]

/-- Follow the loop stack after an instruction whose successor is `pc`: the next iteration, or the end of the loop with VL
as it was (R117). -/
def loopEnds : List LoopLevel → Nat → Nat → List LoopLevel × Nat × Nat
  | [], pc, vl => ([], pc, vl)
  | l :: ls, pc, vl =>
    if pc = l.bodyEnd then
      if l.iter + 1 < l.total then
        ({ l with iter := l.iter + 1 } :: ls, l.bodyStart,
          if l.strip then min 64 (l.count - 64 * (l.iter + 1)) else vl)
      else loopEnds ls pc l.savedVl
    else (l :: ls, pc, vl)

/-- The engine goes on to instruction `pc`, or to where the loop stack sends it. -/
def Ve.goTo (v : Ve) (pc : Nat) : Ve :=
  let r := loopEnds v.loops pc v.vl
  { v with loops := r.1, pc := r.2.1, vl := r.2.2 }

/-- Latest ready time among the sources. -/
def Ve.front (v : Ve) (srcs : List Nat) : Nat := srcs.foldl (fun t k => max t (v.ready.get k)) v.cc

/-- The time and counters of one issue (R142, Table 5.6). -/
def issueTime (m : Module) (core : Nat) (srcs dsts : List Nat) (interval latency : Nat) : Module :=
  let v := (m.core core).ve
  let at_ := v.front srcs
  let m := m.setVe core fun v =>
    { v with cc := at_ + interval, ready := dsts.foldl (fun r k => r.put k (at_ + latency)) v.ready }
  m.setCnt core fun c =>
    { c with veIssue := satAdd c.veIssue 1, veDepStall := satAdd c.veDepStall (at_ - v.cc)
             veBusy := satAdd c.veBusy (at_ - v.cc + interval) }

/-- Progress of the task that runs on a core: its stall counter returns to 0 (R175). -/
def noteProgress (m : Module) (core : Nat) : Module :=
  match corePart m core with
  | some p => m.setPart p fun x => { x with step := x.step.map fun s => { s with stall := 0 } }
  | none => m

/-- A transfer of a partition is outstanding on a link that is up: a frame of it went over the link within the last 1,024 ns (R175,
13 R383). -/
def xferMoves (m : Module) (p : Nat) : Bool :=
  m.xfers.any fun x => x.part == p && (range' 0 12).any fun l =>
    (m.link l).st == .up && match x.frames.get l with
      | some t => decide (m.tick.ns ≤ t + 1024)
      | none => false

/-- A cc of a partition's running step without work of an engine or movement of a flit: it counts unless a transfer is outstanding,
and the counter holds while a control core of the step's cores is absent (R175, 14 R401). -/
def stallCc (m : Module) (p : Nat) : Module :=
  m.setPart p fun x => { x with step := x.step.map fun s =>
    if s.preempted || s.cores.any (fun c => (m.proc (32 + clusterOf c)).st != .running) then s
    else { s with stall := if xferMoves m p then 0 else s.stall + 1 } }

/-- A cc in which the task on a core only waits (R175; log 63). -/
def noteStall (m : Module) (core : Nat) : Module :=
  match corePart m core with
  | some p => stallCc m p
  | none => m

/-- A handler runs on a core. -/
def handling (m : Module) (core : Nat) : Bool := (m.core core).ve.handler.isSome

/-- Issue one instruction of the running handler: its time, its effect, and the next instruction; nothing without a
running handler (log 7). -/
def issue (m : Module) (core : Nat) (srcs dsts : List Nat) (interval latency : Nat) (body : Module → Module) : Module :=
  if handling m core then
    let m := body (noteProgress (issueTime m core srcs dsts interval latency) core)
    if handling m core then m.setVe core fun v => v.goTo (v.pc + 1) else m
  else m

/-- An instruction that changes vector-engine registers alone. -/
def issueVe (m : Module) (core : Nat) (srcs dsts : List Nat) (interval latency : Nat) (f : Ve → Ve) : Module :=
  issue m core srcs dsts interval latency fun m => m.setVe core f

/-! ### Local-store addresses (R132 to R134) -/

/-- Bytes of the local store. -/
def lsSize : Nat := 1048576

/-- Requester codes of LS_PRIO (Table 7.5). -/
def lsMe : Nat := 0
def lsVe : Nat := 1
def lsTm : Nat := 2
def lsDeposit : Nat := 3

/-- Place of a requester in LS_PRIO: the lower goes first at a bank (R12, Table 7.5). -/
def lsRank (b : Mem) (req : Nat) : Nat := ((range' 0 4).find? fun i => bits (b.rd 0xB001 1) (2 * i) 2 == req).getD 4

/-- Local-store bank of a byte address (R134). -/
def bankOf (a : Nat) : Nat := a / 64 % 8

/-- A requester uses banks of a core's local store in the current cc (R12; log 74). -/
def noteBanks (m : Module) (core req : Nat) (banks : List Nat) : Module :=
  m.setCore core fun c => { c with lsUse := (c.lsUse ++ banks.map (req, ·)).eraseDups }

/-- cc that a requester waits for its banks: one for each requester that uses one of them in this cc and stands before it in
LS_PRIO (R12, R134). -/
def bankWait (m : Module) (core req : Nat) (banks : List Nat) : Nat :=
  let c := m.core core
  ((c.lsUse.filter fun x => banks.contains x.2 && decide (lsRank (planeBytes c) x.1 < lsRank (planeBytes c) req)).map
    (·.1)).eraseDups.length

/-- The vector engine waits for the banks of an access (R134). -/
def veBankWait (m : Module) (core : Nat) (addrs : List Nat) : Module :=
  let n := bankWait m core lsVe ((addrs.map bankOf).eraseDups)
  let m := m.setVe core fun v => { v with cc := v.cc + n }
  m.setCnt core fun c => { c with veBankStall := satAdd c.veBankStall n, veBusy := satAdd c.veBusy n }

/-- s[BASE] + OFFSET, and every address a lane forms from it, modulo 2^64 (DESIGN CHOICE, log 75: R132 does not say what a sum beyond
64 bits gives). -/
def Ve.base (v : Ve) (o : MemOps) : Nat := ((v.scalar o.base.toNat).toNat + o.offset.toNat) % 2 ^ 64

/-- cc of a load or store: the most distinct 64-byte lines in any one bank, at least 1 (R134). -/
def bankCycles (addrs : List Nat) : Nat :=
  let lines := (addrs.map (· / 64)).eraseDups
  (range' 0 8).foldl (fun n b => max n (lines.filter fun l => l % 8 = b).length) 1

/-- The first address of a list that lies beyond the local store or is misaligned: the event it raises (R133). With several faulting
lanes the lowest lane's event is raised, on one lane VE_ADDR before VE_ALIGN (DESIGN CHOICE, log 75: R133 does not say which). -/
def addrFault (size : Nat) : List Nat → Option (Nat × Nat)
  | [] => none
  | a :: as =>
    if lsSize ≤ a then some (evVeAddr, a) else if a % size ≠ 0 then some (evVeAlign, a) else addrFault size as

end Sys2Proof.Machine
end

