-- ==== Sys2Proof/Machine/Flags.lean ====
section
/-! DEFINITION. Flag and exception computations: the arithmetic exceptions of FP32 results (03 R81) and the compare
predicates that mask registers receive (05 R124). -/

namespace Sys2Proof.Machine

/-- A lane's result with the arithmetic exceptions it counts (R81). -/
structure LaneOut where
  val : BitVec 32
  sat : Bool := false
  nan : Bool := false
  inf : Bool := false
  deriving DecidableEq, Repr

/-- An FP32 result: a NaN counts, and so does an infinity that no infinite source gave. -/
def fpOut (srcs : List F32) (r : F32) : LaneOut :=
  { val := r, nan := r.num.isNan, inf := r.num.isInf && !srcs.any fun s => s.num.isInf }

/-- A result that counts nothing. -/
def rawOut (r : BitVec 32) : LaneOut := { val := r }

/-- Count the exceptions of a list of lane results in the core's partition. -/
def countOuts (m : Module) (core : Nat) (os : List LaneOut) : Module :=
  countAx m core (os.filter (·.sat)).length (os.filter (·.nan)).length (os.filter (·.inf)).length

/-- The predicates of CMP (Table 5.3). -/
inductive CmpFn where
  | eq | ne | lt | le | gt | ge | unord | ord
  deriving DecidableEq, Repr

/-- A predicate on an order: negative, zero or positive. -/
def CmpFn.onOrder (f : CmpFn) (c : Int) : Bool :=
  match f with
  | .eq => c == 0
  | .ne => c != 0
  | .lt => decide (c < 0)
  | .le => decide (c ≤ 0)
  | .gt => decide (0 < c)
  | .ge => decide (0 ≤ c)
  | .unord => false
  | .ord => true

/-- A floating-point compare: with a NaN source only NE and UNORD hold; -0 equals +0 (R124). -/
def CmpFn.fp (f : CmpFn) (a b : F32) : Bool :=
  if a.num.isNan || b.num.isNan then f == .ne || f == .unord else f.onOrder (a.num.cmp b.num)

/-- An integer compare, signed or unsigned (R124). -/
def CmpFn.int (f : CmpFn) (uns : Bool) (a b : BitVec 32) : Bool :=
  f.onOrder (if uns then (a.toNat : Int) - b.toNat else a.toInt - b.toInt)

end Sys2Proof.Machine
end

