-- ==== Sys2Proof/Machine/Queues.lean ====
section
/-! DEFINITION. Bundles, outbound and inbound queues, credits: the shared operations of the dataflow (06_dataflow R145 to
R159, R174, R175). -/

namespace Sys2Proof.Machine

/-! ### Headers (R146 to R148) -/

/-- Header word `i` of a header flit. -/
def hword (h : BitVec 512) (i : Nat) : Nat := bits h.toNat (32 * i) 32

/-- A flit of 16 words. -/
def flitOfWords (w : Nat → Nat) : BitVec 512 :=
  BitVec.ofNat 512 ((range' 0 16).foldl (fun acc i => acc + (w i % 4294967296) * 2 ^ (32 * i)) 0)

/-- A header with some words replaced. -/
def withWords (h : BitVec 512) (f : Nat → Option Nat) : BitVec 512 :=
  flitOfWords fun i => (f i).getD (hword h i)

/-- KIND of a header (Table 6.1). -/
def hkind (h : BitVec 512) : Nat := hword h 0 / 2 ^ 28
/-- Stream tag of a header. -/
def htag (h : BitVec 512) : Nat := hword h 0 % 2 ^ 28
/-- FLAGS.EMPTY. -/
def hempty (h : BitVec 512) : Bool := bit (hword h 1) 0

/-- The kinds of Table 6.1. -/
def kData : Nat := 0
def kToken : Nat := 1
def kRecord : Nat := 2
def kSeed : Nat := 3
def kClose : Nat := 4

/-- The close tag (R150). -/
def closeTag : Nat := 0x0FFFFFFF

/-- Word 0 of a header. -/
def tagWord (kind tag : Nat) : Nat := kind * 2 ^ 28 + tag % 2 ^ 28

/-- A reserved KIND or a reserved bit is set (R147, Table 6.2). -/
def headerBad (h : BitVec 512) : Bool :=
  decide (5 ≤ hkind h) || decide (4 ≤ hword h 1) || decide (65536 ≤ hword h 4) || decide (65536 ≤ hword h 6)

/-- The header is an empty-bundle marker (R152). -/
def isMarker (h : BitVec 512) : Bool := hkind h == kData && hempty h

/-- The header closes a group: a CLOSE or a marker (R150, R152). -/
def isClosing (h : BitVec 512) : Bool := hkind h == kClose || isMarker h

/-! ### Outbound queues (R149, R150, R155, R158) -/

/-- Send staged flits while credit lasts (R158). -/
def OutQ.send (q : OutQ) (run : Nat) : OutQ :=
  let n := min q.credit q.staging.length
  { q with inFlight := q.inFlight ++ (q.staging.take n).map fun f => { f with run := run }
           staging := q.staging.drop n, credit := q.credit - n }

/-- `n` more flits fit: after those that credit lets go, at most four stay staged (R155). -/
def OutQ.room (q : OutQ) (n : Nat) : Bool := decide (q.staging.length + n ≤ q.credit + 4)

/-- A new bundle of `n` flits fits: the queue sends no flit of another bundle while one is open (R155). -/
def OutQ.takes (q : OutQ) (n : Nat) : Bool := !q.openBundle && q.room n

/-- Stage flits on a virtual channel and send what credit allows; a bundle stays open until its last flit is staged (R155, R161). -/
def OutQ.push (q : OutQ) (run vc : Nat) (fs : List Flit) : OutQ :=
  let opens := match fs.getLast? with
    | some f => !f.last
    | none => q.openBundle
  let marked := fs.map fun (f : Flit) => { f with vc := vc }
  { q with staging := q.staging ++ marked, vc := vc, openBundle := opens }.send run

/-- Change an outbound queue. -/
def setOut (m : Module) (core q : Nat) (g : OutQ → OutQ) : Module :=
  m.setCore core fun c => { c with outq := c.outq.upd q g }

/-- An outbound queue. -/
def outQ (m : Module) (core q : Nat) : OutQ := (m.core core).outq.get q

/-- Binding of an inbound queue in the core's active plane. -/
def inBind (m : Module) (core q : Nat) : InEntry := inEntry (planeBytes (m.core core)) q
/-- Binding of an outbound queue in the core's active plane. -/
def outBind (m : Module) (core q : Nat) : OutEntry := outEntry (planeBytes (m.core core)) q
/-- The core is in use in its active plane (USE of Table 7.5); one that is not does nothing. -/
def inUse (m : Module) (core : Nat) : Bool := (planeBytes (m.core core)).rd 0xB000 1 == 1

/-- Virtual channel of a bundle on an outbound queue: 3 on a route that passes a cluster switch, else that of its kind (Table 6.5,
R174). -/
def vcOf (m : Module) (core q kind : Nat) : Nat :=
  let e := outBind m core q
  let switched := match globalOf m core e.destCore with
    | some g => clusterOf g != clusterOf core || decide (0 < (inBind m g e.destQ).ext)
    | none => false
  if switched then 3 else if kind = kRecord ∨ kind = kSeed then 2 else if kind = kData then 0 else 1

/-- The flits of a bundle, first and last marked (R146). -/
def bundleFlits (h : BitVec 512) (payload : List (BitVec 512)) : List Flit :=
  match payload.reverse with
  | [] => [{ data := h, first := true, last := true }]
  | l :: r => { data := h, first := true } :: (r.reverse.map fun d => { data := d }) ++ [{ data := l, last := true }]

/-- Put a bundle on an outbound queue, or its first flits while the rest of its payload is still to come (`whole` false): SEQ is
stamped from the queue's counter unless `keep` is given, and the bundle counts toward the next CLOSE (R149, R150). -/
def pushPart (m : Module) (core q : Nat) (keep whole : Bool) (h : BitVec 512) (payload : List (BitVec 512)) : Module :=
  let run := (m.core core).run
  let vc := vcOf m core q (hkind h)
  setOut m core q fun o =>
    let h := if keep then h else withWords h fun i => if i = 2 then some o.seq else none
    let o := o.push run vc (if whole then bundleFlits h payload
      else { data := h, first := true } :: payload.map fun d => { data := d })
    { o with seq := (o.seq + 1) % 4294967296, sinceClose := o.sinceClose + 1 }

/-- Put a whole bundle on an outbound queue. -/
def pushBundle (m : Module) (core q : Nat) (keep : Bool) (h : BitVec 512) (payload : List (BitVec 512)) : Module :=
  pushPart m core q keep true h payload

/-- Put a CLOSE on an outbound queue: COUNT is the bundles sent since the previous one (R150). -/
def pushClose (m : Module) (core q : Nat) (h : BitVec 512) : Module :=
  let run := (m.core core).run
  let vc := vcOf m core q kClose
  setOut m core q fun o =>
    let h := withWords h fun i =>
      if i = 0 then some (tagWord kClose closeTag) else if i = 1 then some 0 else if i = 2 then some o.seq
      else if i = 3 then some o.sinceClose else none
    let o := o.push run vc (bundleFlits h [])
    { o with seq := (o.seq + 1) % 4294967296, sinceClose := 0 }

/-- An empty-bundle marker with a stream tag, its other words those of a header (R152). -/
def markerOf (tag : Nat) (h : BitVec 512) : BitVec 512 :=
  withWords h fun i => if i = 0 then some (tagWord kData tag) else if i = 1 then some 1 else none

/-! ### Inbound queues (R154, R156, R158, R174) -/

/-- An inbound queue. -/
def inQ (m : Module) (core q : Nat) : InQ := (m.core core).inq.get q

/-- Change an inbound queue. -/
def setIn (m : Module) (core q : Nat) (g : InQ → InQ) : Module :=
  m.setCore core fun c => { c with inq := c.inq.upd q g }

/-- Entries of an inbound queue without its extension (R11, R154). -/
def queueDepth : Nat := 32

/-- Flits that a stream is delivering move in while there is room: into the core's queue while the extension is empty, else to the tail
of the extension; and how many went there (R13, R149, R174). -/
def InQ.refill (ext : Nat) : Nat → InQ → InQ × Nat
  | 0, i => (i, 0)
  | n + 1, i =>
    match i.feed with
    | [] => (i, 0)
    | f :: r =>
      if i.ext = [] ∧ i.flits.length < queueDepth then
        InQ.refill ext n { i with flits := i.flits ++ [f], feed := r }
      else if i.ext.length < ext then
        let x := InQ.refill ext n { i with ext := i.ext ++ [f], feed := r }
        (x.1, x.2 + 1)
      else (i, 0)

/-- Release one credit to the outbound queue that feeds an inbound queue (R158). -/
def releaseCredit (m : Module) (core q : Nat) : Module :=
  let e := inBind m core q
  if e.prodKind ≠ 0 then m
  else match globalOf m core e.prodCore with
    | some g => setOut m g e.prodQ fun o => { o with creditsBack := o.creditsBack + 1 }
    | none => m

/-- Note when the header at the head of a vector-engine queue came there: a handler starts in that order (R118). -/
def noteHead (m : Module) (core q : Nat) : Module :=
  if (inBind m core q).consumer ≠ 1 then m
  else m.setCore core fun c =>
    { c with heads := c.heads.put q (match (c.inq.get q).flits with
        | f :: _ => if f.first then some m.tick.ns else none
        | [] => none) }

/-- Change an inbound queue and let what a stream is delivering move in: flits written to the extension are counted, and a header that
so comes to the head is noted (R174, Table 6.17). -/
def fillIn (m : Module) (core q : Nat) (g : InQ → InQ) : Module :=
  let i := g (inQ m core q)
  let x := i.refill (inBind m core q).ext i.feed.length
  let m := setIn m core q fun _ => x.1
  if x.2 = 0 then m
  else m.setCnt core fun c => { c with qSpill := satAdd c.qSpill x.2, qExtPeak := max c.qExtPeak x.1.ext.length }

/-- Pop the flit at the head of an inbound queue; its credit is released (R158). -/
def popFlit (m : Module) (core q : Nat) : Module :=
  match (inQ m core q).flits with
  | [] => m
  | _ :: r => noteProgress (releaseCredit (noteHead (fillIn m core q fun i => { i with flits := r }) core q) core q) core

/-- Pop `n` flits. -/
def popFlits (m : Module) (core q : Nat) : Nat → Module
  | 0 => m
  | n + 1 => popFlits (popFlit m core q) core q n

/-- Payload flits of the bundle whose header is at the head of a list, up to and including the last-flit mark; none while
the bundle has not arrived whole. -/
def takeBundle : List Flit → Option (List (BitVec 512))
  | [] => none
  | f :: r => if f.last then some [f.data] else (takeBundle r).map (f.data :: ·)

/-- The bundle at the head of an inbound queue, once it has arrived whole: header and payload. -/
def headBundle (m : Module) (core q : Nat) : Option (BitVec 512 × List (BitVec 512)) :=
  match takeBundle (inQ m core q).flits with
  | some (h :: p) => some (h, p)
  | _ => none

/-- The header at the head of an inbound queue. -/
def headHeader (m : Module) (core q : Nat) : Option (BitVec 512) :=
  match (inQ m core q).flits with
  | f :: _ => if f.first then some f.data else none
  | [] => none

/-- Bytes of a 512-bit flit. -/
def flitBytes (d : BitVec 512) : List Byte := leBytes d.toNat 64
/-- A flit of 64 bytes. -/
def flitOfBytes (b : List Byte) : BitVec 512 := BitVec.ofNat 512 (leNat b)

/-- Identifier of a queue (R177): core, outbound, number, kind. -/
def queueId (core : Nat) (out : Bool) (q kind : Nat) : Nat :=
  core + b2n out * 4096 + q * 8192 + kind * 131072

/-- A malformed header on a queue: Q_PROTOCOL, and the task is aborted (R147). -/
def protocolFault (m : Module) (core q : Nat) : Module := coreFault m core evQProtocol (queueId core false q 0)

/-- Flits that suffice for what a queue, its extension and a bundle in delivery can hold. -/
def depositFuel : Nat := 2048

/-- DEPOSIT takes flits from the head of its queue: headers are discarded (a marker's is noted for the run list, R105),
payload flits fill the tail slot of the ring while a slot is free (R188); `fuel` bounds the flits taken. -/
def deposit (m : Module) (core q : Nat) : Nat → Module
  | 0 => m
  | fuel + 1 =>
    let e := inBind m core q
    match (inQ m core q).flits with
    | [] => m
    | f :: _ =>
      if !inUse m core then m
      else if f.first && headerBad f.data then protocolFault m core q
      else if f.first then
        let m := if isMarker f.data then m.setCore core fun c =>
            { c with rings := c.rings.upd e.ring fun r => { r with order := r.order ++ [true] } } else m
        deposit (popFlit m core q) core q fuel
      else
        let re := ringEntry (planeBytes (m.core core)) e.ring
        let r := (m.core core).rings.get e.ring
        if re.slots ≤ r.full then m
        else
          let a := re.base + (r.tail * re.flits + r.fill) * 64
          let m := m.setCore core fun c => { c with ls := c.ls.store a (flitBytes f.data) }
          let m := noteBanks (clearPoison m core a 64) core lsDeposit [bankOf a]
          let r := if r.fill + 1 = re.flits then
              { r with full := r.full + 1, tail := (r.tail + 1) % re.slots, fill := 0, order := r.order ++ [false] }
            else { r with fill := r.fill + 1 }
          let m := m.setCore core fun c => { c with rings := c.rings.put e.ring r }
          deposit (popFlit m core q) core q fuel

/-- Flits that an inbound queue and its extension can still take (R13, R174). -/
def inRoom (m : Module) (core q : Nat) : Nat :=
  let i := inQ m core q
  let ext := (inBind m core q).ext
  (if i.ext = [] then queueDepth - i.flits.length else 0) + (ext - i.ext.length)

/-- An inbound queue gates a schedule entry of the core's swath, or a transfer of its fabric program (08 R230, 13 R379). -/
def isGate (m : Module) (core q : Nat) : Bool :=
  match activePlane (m.core core) with
  | none => false
  | some (_, pl) =>
    match swathOf m pl.part pl.swath with
    | none => false
    | some w =>
      let mine (lc gq : Nat) := w.cores[lc]? == some core && gq == q
      (range' 0 w.entries).any (fun e => let d := tmDesc w.schedule e; d.gate ≠ 0 && mine d.gateCore d.gateQ) ||
        ((m.part pl.part).fabProgs.any fun g => g.swath == w.id &&
          (range' 0 (g.bytes.rd 0x10 4)).any fun e => let d := xfDesc g.bytes e; d.trig == 2 && mine d.gateCore d.gateQ)

/-- The closing bundles among arriving flits are noted at a gate: their counts are known on arrival, not when they are popped (R230). -/
def noteClosings (m : Module) (core q : Nat) (fs : List Flit) : Module :=
  let counts := (fs.filter fun f => f.first && isClosing f.data).map fun f =>
    if isMarker f.data then 0 else hword f.data 3
  if counts.isEmpty || !isGate m core q then m
  else m.setCore core fun c => { c with closings := c.closings.upd q (· ++ counts) }

/-- Flits arrive at an inbound queue: into the core's queue while the extension is empty and there is room, else to the tail of the
extension (R174); those of a stream that find no room stay with it (R13); DEPOSIT then acts (R188). -/
def arrive (m : Module) (core q : Nat) (fs : List Flit) : Module :=
  let empty := (inQ m core q).flits.isEmpty
  let m := fillIn (noteClosings (noteProgress m core) core q fs) core q fun i => { i with feed := i.feed ++ fs }
  let m := if empty then noteHead m core q else m
  if (inBind m core q).consumer = 6 then deposit m core q depositFuel else m

end Sys2Proof.Machine
end

