-- ==== Sys2Proof/Machine/Steering.lean ====
section
/-! DEFINITION. The steering units: pairing buffers, joined bundles, the outputs of a rule and expert dispatch, and the forwarding of
bundles flit by flit (06_dataflow R165 to R171, 09_experts R239 to R248, R253). -/

namespace Sys2Proof.Machine

/-! ### Pairing (R165 to R168) -/

/-- Input pair of a core. -/
def suPair (m : Module) (core pair : Nat) : SuPair := (m.core core).su.get pair
/-- Change an input pair. -/
def setSu (m : Module) (core pair : Nat) (g : SuPair → SuPair) : Module :=
  m.setCore core fun c => { c with su := c.su.upd pair g }

/-- A waiting header is the partner of another: the same key, and both a CLOSE or neither (R166, R168). -/
def partners (a b : PairEntry) : Bool :=
  a.key == b.key && a.seq == b.seq && (hkind a.header == kClose) == (hkind b.header == kClose)

/-- The joined header of R168 before an output is chosen: words 1 to 3 of the data bundle, PAIRED when a token took part,
words 4 to 15 of the token under MERGE_TOKEN. -/
def joined (r : SuRule) (data : BitVec 512) (tok : Option (BitVec 512)) : BitVec 512 :=
  match tok with
  | none => data
  | some t => withWords data fun i =>
    if i = 1 then some (hword data 1 ||| 2) else if 4 ≤ i && r.mergeTok then some (hword t i) else none

/-- Key of the index output among the outputs of a dispatch pair. -/
def indexKey (q : Nat) : Nat := 2 ^ 32 + q

/-- Outputs of a rule, in order, each with the key it is counted under and its outbound queue and stream tag (R170). -/
def outputsOf (b : Mem) (r : SuRule) : List (Nat × Nat × Nat) :=
  match r.action with
  | 0 => [(r.outQ, r.outQ, closeTag)]
  | 3 => (range' 0 16).filterMap fun q => if bit r.outMask q then some (q, q, closeTag) else none
  | _ =>
    let vs := (((range' r.mapBase r.mapLen).map (suMap b)).filter (· ≠ mapDiscard)).eraseDups
    (vs.map fun v => (v, v % 16, v / 16)) ++
      (if r.action = 2 ∧ r.outQ ≠ 255 then [(indexKey r.outQ, r.outQ, closeTag)] else [])

/-- Decide to send bundles, after those already decided. -/
def suPlan (m : Module) (core pair : Nat) (es : List SuEmit) : Module :=
  setSu m core pair fun s => { s with emits := s.emits ++ es }

/-- A close pair: one closing bundle to each output, then the group's counters return to 0 (R170, R243). -/
def suClose (m : Module) (core pair : Nat) (b : Mem) (r : SuRule) (h : BitVec 512) : Module :=
  let m := suPlan m core pair ((outputsOf b r).map fun o =>
    let n := (suPair m core pair).sent.get o.1
    let h := if n = 0 && r.emitEmpty then
        withWords (markerOf o.2.2 h) fun i => if i = 1 then some (hword h 1 ||| 1) else none
      else withWords h fun i => if i = 0 then some (tagWord kClose closeTag) else if i = 3 then some n else none
    { outs := [(o.2.1, o.1, h)], restamp := r.restamp, closing := true })
  let u := pair / 4
  let m := setSu m core pair fun s => { s with sent := {} }
  if r.action = 2 then
    m.setCore core fun c =>
      { c with capTab := c.capTab.mapV fun k n => if k / 4096 = u then 0 else n, lists := c.lists.put pair 0 }
  else m

/-! ### Expert dispatch (09 R239 to R248, R253) -/

/-- A route list (Table 9.1). -/
structure Route where
  k      : Nat
  len    : Nat
  experts : List Nat
  gates  : List F32
  bad    : Bool
  deriving DecidableEq, Repr

/-- Read a route list from its payload; a byte that is not there reads 0. -/
def routeOf (payload : List (BitVec 512)) : Route :=
  let f := (payload.getD 0 0).toNat
  let g := (payload.getD 1 0).toNat
  let k := bits f 0 8
  let len := bits f 8 8
  let es := (range' 0 24).map fun i => bits f (32 + 16 * i) 16
  let ch := es.take k
  { k := k, len := len, experts := es.map (· % 4096)
    gates := (range' 0 16).map fun r => BitVec.ofNat 32 (bits g (32 * r) 32)
    bad := decide (k < 1 ∨ 16 < k ∨ len < k ∨ 24 < len) || decide (bits f 16 16 ≠ 0) || decide (bits f 416 96 ≠ 0) ||
      es.any (fun e => decide (4096 ≤ e)) || decide (ch.eraseDups ≠ ch) }

/-- Search of the overflow candidates (R245, step 2): the expert that takes the choice, and the entries examined. -/
def overflow (cnt : Nat → Nat) (cap : Nat) (chosen : List Nat) : List Nat → Nat → Nat → Option Nat × Nat
  | [], _, n => (none, n)
  | e :: es, d, n =>
    if chosen.contains e then overflow cnt cap chosen es d n
    else match d with
      | 0 => (none, n)
      | d + 1 => if cnt e < cap then (some e, n + 1) else overflow cnt cap chosen es d (n + 1)

/-- The state of the decisions on one route list. -/
structure Decide where
  cnt    : SMap Nat 0
  chosen : List Nat
  /-- for each rank decided, the expert and the slot, or none when dropped -/
  out    : List (Option (Nat × Nat)) := []
  moved  : Nat := 0
  examined : Nat := 0
  deriving DecidableEq, Repr

/-- Decide one choice (R245); counters are 16 bits. -/
def decideRank (u cap depth : Nat) (rest : List Nat) (d : Decide) (e : Nat) : Decide :=
  let cnt (x : Nat) := d.cnt.get (4096 * u + x)
  let give (x : Nat) (d : Decide) : Decide :=
    { d with out := d.out ++ [some (x, cnt x)], cnt := d.cnt.put (4096 * u + x) ((cnt x + 1) % 65536) }
  if cap = 0 ∨ cnt e < cap then give e d
  else
    let r := overflow cnt cap d.chosen rest depth 0
    let d := { d with examined := d.examined + r.2 }
    match r.1 with
    | some x => give x { d with chosen := x :: d.chosen, moved := d.moved + 1 }
    | none => { d with out := d.out ++ [none] }

/-- Sum of gates by the compensated combine, rounded once (R246, R74, R77). -/
def gateSum (gs : List F32) : F32 :=
  let r := gs.foldl (fun a g => combineHiLo a.1 a.2 g 0) ((0 : F32), (0 : F32))
  pairResult r.1 r.2 (gs.all fun g => g == 0x80000000)

/-- FP32 quotient rounded once under RNE (R246): the quotient to 128 further bits with a sticky bit below them. -/
def fdiv (a b : F32) : F32 :=
  match a.num, b.num with
  | .nan, _ => nan32
  | _, .nan => nan32
  | .inf _, .inf _ => nan32
  | .inf x, .fin y _ _ => toF32 (.inf (x != y))
  | .fin x _ _, .inf y => toF32 (.fin (x != y) 0 0)
  | .fin x ma ea, .fin y mb eb =>
    if mb = 0 then (if ma = 0 then nan32 else toF32 (.inf (x != y)))
    else
      let n := ma * 2 ^ 128
      toF32 (.fin (x != y) (2 * (n / mb) + b2n (decide (n % mb ≠ 0))) (ea - eb - 129))

/-- Final gates of the choices, and the results that R81 counts: T over G0 to G(K − 1), U over the surviving gates, their quotient and
the products (R246). -/
def finalGates (renorm : Bool) (out : List (Option (Nat × Nat))) (gs : List F32) : List F32 × List LaneOut :=
  let chosen := gs.take out.length
  let live := (out.zip gs).filterMap fun x => if x.1.isSome then some x.2 else none
  if renorm && decide (live.length < out.length) && decide (live ≠ []) then
    let t := gateSum chosen
    let v := gateSum live
    let q := fdiv t v
    let fs := gs.map fun g => fmul g q
    (fs, fpOut chosen t :: fpOut live v :: fpOut [t, v] q :: (live.map fun g => fpOut [g, q] (fmul g q)))
  else (gs, [])

/-- CAP of a pair in the step that runs: the compiled value, or a non-zero override of the model's run (R248). -/
def capFor (m : Module) (core : Nat) (r : SuRule) : Nat :=
  match activePlane (m.core core) with
  | none => r.cap
  | some (_, pl) =>
    match swathOf m pl.part pl.swath with
    | none => r.cap
    | some w =>
      match (m.part pl.part).runs.find? fun x => x.model == w.model with
      | some x => if x.capOvr = 0 then r.cap else x.capOvr
      | none => r.cap

/-- Copies of a data bundle in the order of their ranks, cut into runs whose queues differ: the copies of one run go out together, flit
by flit, and the payload stays in its inbound queue until the last run has taken it (R155, R166, R247; log 72). -/
def runsOf : List (Nat × Nat × BitVec 512) → List (List (Nat × Nat × BitVec 512))
  | [] => []
  | x :: xs => match runsOf xs with
    | [] => [[x]]
    | r :: rs => if r.any (fun y => y.1 == x.1) then [x] :: r :: rs else (x :: r) :: rs

/-- The bundles that carry the copies of a data bundle with payload: every run but the last needs the payload again; with no copy the
payload is dropped. -/
def copiesOf (restamp : Bool) (outs : List (Nat × Nat × BitVec 512)) : List SuEmit :=
  let rs := runsOf outs
  if rs.isEmpty then [{ payload := true }]
  else (range' 0 rs.length).map fun i =>
    { outs := rs.getD i [], payload := true, again := decide (i + 1 < rs.length), restamp := restamp }

/-- Process a route list: the assignments in increasing rank, then the index records (R241 to R247, R253). `body` says that the data
bundle has payload flits. -/
def dispatch (m : Module) (core pair : Nat) (b : Mem) (r : SuRule) (h tok : BitVec 512) (body : Bool)
    (route : List (BitVec 512)) : Module :=
  let rl := routeOf route
  let u := pair / 4
  let c := m.core core
  let first := rl.experts.take rl.k
  let rest := (rl.experts.take rl.len).drop rl.k
  let d := first.foldl (decideRank u (capFor m core r) r.depth rest) { cnt := c.capTab, chosen := first }
  let (gates, outs) := finalGates r.renorm d.out rl.gates
  let dropped := (d.out.filter (·.isNone)).length
  let ix := c.lists.get pair
  let m := countOuts m core outs
  let m := m.setCore core fun c =>
    let c := { c with capTab := d.cnt, lists := c.lists.put pair (ix + 1) }
    if (m.clu (clusterOf core)).freeze.getLsbD 3 then c
    else
    { c with dispLists := satAdd c.dispLists 1, dispAssign := satAdd c.dispAssign (rl.k - dropped)
             dispMoved := satAdd c.dispMoved d.moved, dispDrop := satAdd c.dispDrop dropped
             dispExamined := satAdd c.dispExamined d.examined
             dispRenorm := satAdd c.dispRenorm (b2n (decide (outs ≠ []))) }
  let route6 (e rank : Nat) := e + rank * 4096
  let user6 (slot : Nat) := slot % 65536 + ix % 65536 * 65536
  let tagOf (e : Nat) := suMap b (r.mapBase + e / 2 ^ r.selShift)
  let kind := if r.inData = 255 then kToken else hkind h
  let given := (range' 0 rl.k).filterMap fun rank => (d.out.getD rank none).map fun x => (rank, x.1, x.2)
  let discards := (given.filter fun x => tagOf x.2.1 == mapDiscard).length
  let copies := (given.filter fun x => tagOf x.2.1 != mapDiscard).map fun x =>
    let v := tagOf x.2.1
    (v % 16, v, withWords h fun i =>
      if i = 0 then some (tagWord kind (v / 16)) else if i = 6 then some (route6 x.2.1 x.1)
      else if i = 7 then some (gates.getD x.1 0).toNat else if i = 15 then some (user6 x.2.2) else none)
  let m := m.setCnt core fun c => { c with suDiscard := satAdd c.suDiscard discards }
  let m := suPlan m core pair (if body then copiesOf r.restamp copies
    else copies.map fun x => { outs := [x], restamp := r.restamp })
  if r.outQ = 255 then m
  else foldM (range' 0 rl.k) (fun m rank =>
    let (gate, m) := match d.out.getD rank none with
      | some _ => ((gates.getD rank 0).toNat, m)
      | none => let f := takeFree m; (f.1 % 4294967296, f.2)
    let (e, slot) := (d.out.getD rank none).getD (0, 0xFFFF)
    let h := flitOfWords fun i =>
      if i = 0 then tagWord kToken (tagOf e / 16) else if i = 4 ∨ i = 5 ∨ i = 8 then hword tok i
      else if i = 6 then route6 e rank else if i = 7 then gate else if i = 15 then user6 slot else 0
    suPlan m core pair [{ outs := [(r.outQ, indexKey r.outQ, h)], restamp := true }]) m

/-- What is wrong with a route list that reaches a dispatch pair: the event, or its (ADMIT, POS) (R240, R242, R244). -/
def routeFault (r : SuRule) (last : Option (Nat × Nat)) (h : BitVec 512) (payload : List (BitVec 512)) :
    Except Nat (Nat × Nat) :=
  let rl := routeOf payload
  let at_ := (hword h 8, hword h 5)
  if rl.bad then .error evSuRoute
  else if (rl.experts.take rl.len).any fun e => decide (r.mapLen ≤ e / 2 ^ r.selShift) then .error evSuRange
  else match last with
    | none => .ok at_
    | some p =>
      let d := (at_.1 + 4294967296 - p.1) % 4294967296
      if (1 ≤ d ∧ d < 2147483648) ∨ (d = 0 ∧ p.2 < at_.2) then .ok at_ else .error evSuOrder

/-! ### Acting on a joined bundle (R169, R170) -/

/-- Act on a joined bundle: decide the bundles that it sends. `body` says that the data bundle has payload flits, `tok` is the entry of
the token when one took part. -/
def suAct (m : Module) (core pair : Nat) (b : Mem) (r : SuRule) (h : BitVec 512) (body : Bool) (tok : Option PairEntry) :
    Module :=
  let j := joined r h (tok.map (·.header))
  if hkind h = kClose then suClose m core pair b r j
  else match r.action with
    | 0 => suPlan m core pair [{ outs := [(r.outQ, r.outQ, j)], payload := body, restamp := r.restamp }]
    | 1 =>
      let v := hword j r.selWord / 2 ^ r.selShift % 2 ^ r.selBits
      if r.mapLen ≤ v then coreFault m core evSuRange (htag h)
      else
        let e := suMap b (r.mapBase + v)
        if e = mapDiscard then
          let m := m.setCnt core fun c => { c with suDiscard := satAdd c.suDiscard 1 }
          if body then suPlan m core pair [{ payload := true }] else m
        else
          let j := withWords j fun i => if i = 0 then some (tagWord (hkind h) (e / 16)) else none
          suPlan m core pair [{ outs := [(e % 16, e, j)], payload := body, restamp := r.restamp }]
    | 2 =>
      let t := (tok.map (·.header)).getD h
      if isMarker t then suClose m core pair b r j
      else dispatch m core pair b r j t body ((tok.map (·.route)).getD [])
    | _ =>
      let outs := ((range' 0 16).filter fun q => bit r.outMask q).map fun q => (q, q, j)
      suPlan m core pair [{ outs := outs, payload := body, multi := true, restamp := r.restamp }]

/-- The pair that is sent next, taken from the pairing buffer, in the order in which the data arrived (R166, R167); none while a bundle
of the pair is still going out. -/
def suDecide (m : Module) (core pair : Nat) : Option Module :=
  let b := planeBytes (m.core core)
  let r := suRule b pair
  let s := suPair m core pair
  if s.emits ≠ [] then none
  else match s.data, s.tokens with
    | d :: ds, ts =>
      if r.inToken = 255 then
        some (suAct (setSu m core pair fun s => { s with data := ds }) core pair b r d.header d.payload none)
      else (ts.find? (partners d)).map fun t =>
        suAct (setSu m core pair fun s => { s with data := ds, tokens := s.tokens.erase t }) core pair b r d.header d.payload
          (some t)
    | [], t :: ts =>
      if r.inData = 255 then
        some (suAct (setSu m core pair fun s => { s with tokens := ts }) core pair b r t.header false (some t))
      else none
    | [], [] => none

/-! ### Forwarding (R155, R169, R171) -/

/-- The queues of a bundle can take its next flit: a credit in every one of them under MULTICAST, room in the staging buffers
otherwise (R155, R169). -/
def suRoom (m : Module) (core : Nat) (e : SuEmit) : Bool :=
  e.outs.all fun o =>
    let q := outQ m core o.1
    if e.multi then q.staging.isEmpty && decide (0 < q.credit) else q.room 1

/-- The header of the bundle in hand goes to its queues, each copy counted toward the group of its output (R149, R170). -/
def suHeads (m : Module) (core pair : Nat) (e : SuEmit) : Module :=
  let m := foldM e.outs (fun m o =>
    let m := pushPart m core o.1 (!e.restamp) (!e.payload) o.2.2 []
    let m := if e.closing then setOut m core o.1 fun x => { x with sinceClose := 0 }
      else setSu m core pair fun s => { s with sent := if isMarker o.2.2 then {} else s.sent.upd o.2.1 (· + 1) }
    m.setCnt core fun c => { c with suBundles := satAdd c.suBundles 1
                                    suEmptyEmit := satAdd c.suEmptyEmit (b2n (e.closing && isMarker o.2.2)) }) m
  setSu m core pair fun s => if e.payload then { s with pos := 1 } else { s with emits := s.emits.drop 1, pos := 0 }

/-- A payload flit of the bundle in hand goes to its queues; it leaves the inbound queue unless a later copy needs it. -/
def suPayload (m : Module) (core pair q : Nat) (e : SuEmit) (f : Flit) : Module :=
  let run := (m.core core).run
  let m := if e.again then m else popFlit m core q
  let m := foldM e.outs (fun m o => setOut m core o.1 fun x => x.push run x.vc [{ data := f.data, last := f.last }]) m
  setSu m core pair fun s => if f.last then { s with emits := s.emits.drop 1, pos := 0 } else { s with pos := s.pos + 1 }

/-- Forward one flit of the bundle in hand of a pair, when it is there and every queue can take it. -/
def suForward (m : Module) (core pair : Nat) : Option Module :=
  let s := suPair m core pair
  let q := (suRule (planeBytes (m.core core)) pair).inData
  match s.emits with
  | [] => none
  | e :: _ =>
    if s.pos = 0 then
      if e.outs.all (fun o => !(outQ m core o.1).openBundle) && suRoom m core e then some (suHeads m core pair e) else none
    else match (inQ m core q).flits[if e.again then s.pos - 1 else 0]? with
      | some f => if !f.first && suRoom m core e then some (suPayload m core pair q e f) else none
      | none => none

/-- A payload flit at the head of a token input that no route list owns is discarded: the joined bundle has no token payload (R168). -/
def suDropTail (m : Module) (core pair : Nat) : Option Module :=
  let q := (suRule (planeBytes (m.core core)) pair).inToken
  match (inQ m core q).flits with
  | f :: _ => if (inBind m core q).consumer == 5 && !f.first then some (popFlit m core q) else none
  | [] => none

/-- One action of a pair: forward a flit, or decide the next pair. -/
def suPairStep (m : Module) (core pair : Nat) : Option Module :=
  if 3 < (suRule (planeBytes (m.core core)) pair).action then none
  else (suForward m core pair).orElse fun _ => (suDropTail m core pair).orElse fun _ => suDecide m core pair

/-- Pairs of a steering unit in the order in which it serves them: round robin from the one after that served last, and a bundle in
hand before the next (R171). -/
def suOrder (m : Module) (core u : Nat) : List Nat :=
  let ps := (range' 0 4).map fun i => 4 * u + ((m.core core).suTurn.get u + 1 + i) % 4
  (ps.filter fun p => (suPair m core p).pos ≠ 0) ++ ps.filter fun p => (suPair m core p).pos = 0

/-- One action of a steering unit. -/
def suUnitStep (m : Module) (core u : Nat) : Option Module :=
  (suOrder m core u).findSome? fun p => (suPairStep m core p).map fun m =>
    m.setCore core fun c => { c with suTurn := c.suTurn.put u (p % 4) }

/-- The steering units of a core act until neither can: each acts on what is at its inputs and on the room at its outputs (R171). -/
def suPump (core : Nat) : Nat → Module → Module
  | 0, m => m
  | fuel + 1, m =>
    if !inUse m core then m
    else match suUnitStep m core 0 with
      | some m => suPump core fuel m
      | none => match suUnitStep m core 1 with
        | some m => suPump core fuel m
        | none => m

/-- Actions that suffice for what the queues and buffers of a core can hold. -/
def suFuel : Nat := 4096

end Sys2Proof.Machine
end

