-- ==== Sys2Proof/Machine/Streams.lean ====
section
/-! DEFINITION. Shared operations: activating a fold's planes, delivering bundles at an inbound queue, where a tile-mover
stream reads and writes (07 R182, R187, R202; 08 R221 to R228). -/

namespace Sys2Proof.Machine

/-! ### Activating planes (R149, R158, R187, R202) -/

/-- A core as the activation of plane `plane` leaves it: the plane active and any other one READY, queues, pairing buffers
and handler state cleared, vector, mask and scalar registers 0, VL 64, the run list at its start; local store and
accumulator pairs are kept (R202, R203). -/
def Core.fresh (c : Core) (plane : Nat) : Core :=
  let c := c.planesTo .active .ready
  { c with
    planes := c.planes.upd plane fun p => { p with st := .active }
    inq := {}
    outq := c.outq.mapV fun _ q => { inFlight := q.inFlight }
    su := {}, capTab := {}, lastOrd := {}, lists := {}, closings := {}, heads := {}
    ve := {}
    me := { acc := c.me.acc, tile := c.me.tile }
    rings := {}
    drained := false }

/-- Initial credit of an outbound queue: the capacity of its destination queue; an unused queue has none (R158, R185). -/
def initialCredit (m : Module) (core q : Nat) : Nat :=
  let e := outBind m core q
  if e.producer = 0 then 0
  else match globalOf m core e.destCore, activePlane (m.core core) with
    | some g, some (ix, _) => queueDepth + (inEntry ((m.core g).planes.get ix).bytes e.destQ).ext
    | _, _ => 0

/-- Identifier of the fold barrier of a run (log 30). -/
def foldBarrier (p run : Nat) : Nat := p * 64 + run

/-- Activate the planes of one fold of a run: each core fresh, credits set, the fold barrier expecting every core. -/
def activateFold (m : Module) (p run : Nat) (w : Swath) : Module :=
  let m := foldM w.cores (fun m c => m.setCore c fun x => x.fresh w.plane) m
  let m := foldM w.cores (fun m c => foldM (range' 0 16) (fun m q =>
    let n := initialCredit m c q
    setOut m c q fun o => { o with credit := n }) m) m
  { m with barriers := m.barriers.put (foldBarrier p run) { expected := w.cores } }

/-- The planes of a fold return to READY. -/
def retireFold (m : Module) (w : Swath) : Module :=
  foldM w.cores (fun m c => m.setCore c fun x => x.planesTo .active .ready) m

/-! ### Delivery at an inbound queue bound with PROD_KIND 1 (R149) -/

/-- An inbound queue can take the next bundle of a stream: every flit of the one before has found room (R13, R226). -/
def feedFree (m : Module) (core q : Nat) : Bool := (inQ m core q).feed.isEmpty

/-- Deliver a bundle at an inbound queue, its SEQ stamped from the queue's own counter. -/
def deliver (m : Module) (core q : Nat) (h : BitVec 512) (payload : List (BitVec 512)) : Module :=
  let n := (inQ m core q).seq
  let m := setIn m core q fun i => { i with seq := (n + 1) % 4294967296 }
  let h := withWords h fun i => if i = 2 then some n else none
  suPump core suFuel (arrive m core q (bundleFlits h payload))

/-! ### Streams (R221 to R228) -/

/-- Logical cores of a logical cluster, in increasing number (R182). -/
def logicalsOf (w : Swath) (lc : Nat) : List Nat :=
  ((w.need.zip w.lclusters).zip (firstCores w.need 0)).flatMap fun x =>
    if x.1.2 = lc then range' x.2 x.1.1 else []

/-- Cluster in which a swath's logical cluster lies (R190, condition 4). -/
def clusterFor (w : Swath) (lc : Nat) : Option Nat :=
  ((w.groups.zip w.lclusters).find? fun x => x.2 == lc).map fun x => x.1 / 5

/-- Global cores that DEST_MASK names: bit `i` for the `i`-th logical core of LCLUSTER (Table 8.4). -/
def targets (w : Swath) (d : TmDesc) : List Nat :=
  let ls := logicalsOf w d.lcluster
  (range' 0 ls.length).filterMap fun i => if bit d.dest i then w.cores[ls.getD i 0]? else none

/-- The loaded swath and the descriptor of an issued stream. -/
def streamInfo (m : Module) (s : Stream) : Option (Swath × TmDesc) :=
  (swathOf m s.part s.swath).map fun w => (w, tmDesc w.schedule s.entry)

/-- A stream from DEV to DEV: a prefetch stream, no part of a fold (R228). -/
def TmDesc.prefetch (d : TmDesc) : Bool := d.srcLvl == 0 && d.dstLvl == 0

/-- An issued stream that is part of its fold feeds, or reads, a core (R201, R228). -/
def feeds (m : Module) (core : Nat) (k : Nat) (s : Stream) : Bool :=
  match streamInfo m s with
  | some (w, d) =>
    !d.prefetch && (match activePlane (m.core core) with
      | some (_, pl) => pl.part == s.part && pl.swath == s.swath
      | none => false) &&
      (if d.dstLvl = 1 ∨ d.dstLvl = 0 then decide (clusterOf core = k) else (targets w d).contains core)
  | none => false

/-- A schedule entry of the fold that feeds, or reads, a core has not ended its issue of the step in progress (R201, R227). -/
def feedsOpen (m : Module) (core : Nat) : Bool :=
  match activePlane (m.core core) with
  | none => false
  | some (_, pl) =>
    match swathOf m pl.part pl.swath with
    | none => false
    | some w => (range' 0 w.entries).any fun e =>
      let d := tmDesc w.schedule e
      !d.prefetch && decide ((m.part pl.part).issueEnded.get (w.id * 65536 + e) ≤ (m.part pl.part).steps.get w.id) &&
        (if d.dstLvl = 1 ∨ d.dstLvl = 0 then clusterFor w d.lcluster == some (clusterOf core)
         else (targets w d).contains core)

/-- A front-buffer stream of a tag feeds a core and has not ended its issue of the step in progress: blocks of it may still come (R231). -/
def tagOpen (m : Module) (core tag : Nat) : Bool :=
  match activePlane (m.core core) with
  | none => false
  | some (_, pl) =>
    match swathOf m pl.part pl.swath with
    | none => false
    | some w => (range' 0 w.entries).any fun e =>
      let d := tmDesc w.schedule e
      d.dstLvl == 3 && d.dst % 2 ^ 28 == tag && (targets w d).contains core &&
        decide ((m.part pl.part).issueEnded.get (w.id * 65536 + e) ≤ (m.part pl.part).steps.get w.id)

/-- Number of a stall cause (Table 8.9). -/
def StallCause.idx : StallCause → Nat
  | .bw => 0
  | .reg => 1
  | .xlate => 2
  | .migr => 3
  | .maint => 4
  | .issue => 5

/-- Bit address of a position at one end: the base, the alternate-step offset, the strides (R223, R227). -/
def bitAt (d : TmDesc) (base : Nat) (alt : Bool) (stepP1 : Nat) (strides : List Int) (ix : List Nat) : Int :=
  8 * ((base : Int) + (if alt then streamAlt d stepP1 else 0)) + d.bitOff strides ix

/-- Source bit address of a position. -/
def srcBit (d : TmDesc) (stepP1 : Nat) (ix : List Nat) : Int := bitAt d d.src d.altSrc stepP1 d.srcStride ix
/-- Destination bit address of a position, without skew. -/
def dstBit (d : TmDesc) (stepP1 : Nat) (ix : List Nat) : Int := bitAt d d.dst d.altDst stepP1 d.dstStride ix

/-- Tier of the oldest read of a stream, that of its next position; none where it does not read the range, Sward while the page is
unbacked. -/
def sourceTier (m : Module) (p : Nat) (d : TmDesc) (stepP1 pos : Nat) : Option Nat :=
  if d.srcLvl ≠ 0 then none
  else some (match ((m.part p).pages.get ((srcBit d stepP1 (d.indexAt pos)).toNat / 8 / pageSize)).tier with
    | some t => t.idx
    | none => 0)

/-- A cc in which a consumer of a core waits for the data of a stream is charged to one tier and one cause: those of the stream's oldest
outstanding read, or, where the stream is not issued or has nothing outstanding, ISSUE and the tier of its source (R232). `sel` picks
the stream by its descriptor. -/
def chargeStall (m : Module) (core : Nat) (sel : TmDesc → Bool) : Module :=
  match activePlane (m.core core) with
  | none => m
  | some (_, pl) =>
    match swathOf m pl.part pl.swath with
    | none => m
    | some w =>
      let mine (e : Nat) := let d := tmDesc w.schedule e; sel d && (targets w d).contains core
      let issued := (streamsOf m pl.part).find? fun s => s.2.2.swath == w.id && mine s.2.2.entry
      let (tier, cause) := match issued with
        | some s =>
          let d := tmDesc w.schedule s.2.2.entry
          let ended := s.2.2.cancelled || decide (d.positions s.2.2.outer ≤ s.2.2.pos)
          (sourceTier m pl.part d s.2.2.stepP1 (if ended then 0 else s.2.2.pos), if ended then 5 else s.2.2.cause.idx)
        | none => (((range' 0 w.entries).find? mine).bind fun e =>
            sourceTier m pl.part (tmDesc w.schedule e) ((m.part pl.part).steps.get w.id) 0, 5)
      match tier with
      | some t => m.setMemRegs pl.part fun r => { r with stall := r.stall.upd (8 * t + cause) fun n => satAdd n 1 }
      | none => m

/-! ### Bandwidth regulators (12 R351) -/

/-- Lines of 64 bytes that a run of bytes touches in one tier. -/
def linesIn (m : Module) (p a n t : Nat) : Nat :=
  ((pagesOf a n).map fun g =>
    if ((m.part p).pages.get g).tier = some (tierOf t) then
      let lo := max a (g * pageSize)
      let hi := min (a + n) ((g + 1) * pageSize)
      (hi + 63) / 64 - lo / 64
    else 0).sum

/-- A run of bytes lies in a tier whose bucket of the partition is empty: the traffic waits (R351). -/
def tierWaits (m : Module) (p a n : Nat) : Bool :=
  (range' 0 3).any fun t => regEmpty m p t && decide (0 < linesIn m p a n t)

/-- Charge the lines of a run of bytes to the buckets of their tiers (R351, Table 12.3). -/
def tierTake (m : Module) (p a n : Nat) : Module :=
  foldM (range' 0 3) (fun m t => regTake m p t (linesIn m p a n t)) m

/-- Key of a schedule entry in the issue records of a partition. -/
def entryKey (swath entry : Nat) : Nat := swath * 65536 + entry

end Sys2Proof.Machine
end

