-- ==== Sys2Proof/Machine/Items.lean ====
section
/-! DEFINITION. Items: the checks and waits at dispatch, dispatch in SSN order, and the commands ABORT, SYNC and QUERY
(11_host_interface R292, R304 to R307, R315 to R321, R327; 14_firmware R394, R398). -/

namespace Sys2Proof.Machine

/-! ### Format checks (R304, R306 to R315) -/

/-- A reserved field of a descriptor, as (offset, broken). -/
def resv (d : BitVec 512) (off n : Nat) : Nat × Bool := (off, decide (dfield d off n ≠ 0))

/-- Test and calibration codes that Table 17.5 lists. -/
def testCodes (op : Nat) : List Nat :=
  if op = opSelftest then [0x0001, 0x0002, 0x0010, 0x0011, 0x0020, 0x0030, 0x0040] else [0x0001, 0x0002, 0x0003]

/-- Checks of the opcode-specific bytes, as (offset, broken). -/
def opChecks (d : BitVec 512) : List (Nat × Bool) :=
  let op := opOf d
  let f (o n : Nat) := dfield d o n
  let target (arg : Bool) (result : Bool) : List (Nat × Bool) :=
    [(0x18, decide (15 < f 0x18 2)), (0x1A, arg), (0x20, result), resv d 0x28 24]
  if op = opStep then [resv d 0x2C 20]
  else if op = opAdmit then [(0x18, decide (f 0x18 8 % 64 ≠ 0)), resv d 0x20 32]
  else if op = opAbort ∨ op = opPause then target (decide (f 0x1A 2 ≠ 0)) (decide (f 0x20 8 ≠ 0))
  else if op = opResume then target (decide (1 < f 0x1A 2)) (decide (f 0x20 8 ≠ 0))
  else if op = opQuery then target (decide (1 < f 0x1A 2)) (decide (f 0x20 8 % 64 ≠ 0))
  else if op = opLoadSwath then
    [(0x18, decide (f 0x18 8 % 64 ≠ 0)), (0x20, decide (f 0x20 1 < 1 ∨ 4 < f 0x20 1)), resv d 0x21 31]
  else if op = opLoadWeights then
    [(0x20, decide (f 0x20 8 % pageSize ≠ 0)), (0x28, decide (1 < f 0x30 1 ∧ f 0x28 8 ≠ 0)), (0x30, decide (3 < f 0x30 1)),
      (0x31, decide (2 < f 0x31 1 ∧ f 0x31 1 ≠ 0xFF)), resv d 0x32 6, (0x38, decide (f 0x38 8 % 64 ≠ 0))]
  else if op = opSwap then [(0x38, decide (f 0x38 8 % 64 ≠ 0))]
  else if op = opMove then
    let retier := f 0x18 1 = 0
    [(0x18, decide (3 < f 0x18 1)), (0x19, decide (retier ∧ 2 < f 0x19 1)), (0x1A, decide (15 < f 0x1A 1)),
      (0x1B, decide (3 ≤ f 0x1B 1)), resv d 0x1C 4, (0x20, decide (retier ∧ f 0x20 8 % pageSize ≠ 0)),
      (0x28, decide (retier ∧ f 0x28 8 ≠ 0)), (0x30, decide (f 0x30 8 % (if retier then pageSize else 64) ≠ 0)),
      resv d 0x38 8]
  else if op = opEvict then
    [(0x18, decide (3 < f 0x18 1)), resv d 0x19 7, (0x28, decide (f 0x18 1 = 2 ∧ (f 0x28 2 < 1 ∨ 4095 < f 0x28 2))),
      resv d 0x2A 6, (0x30, decide (f 0x18 1 = 3 ∧ f 0x30 8 % pageSize ≠ 0)),
      (0x38, decide (f 0x18 1 = 3 ∧ f 0x38 8 % pageSize ≠ 0))]
  else if op = opRunGraph then [(0x20, decide (f 0x20 4 < 1)), resv d 0x26 26]
  else if op = opSelftest ∨ op = opCalibrate then
    [(0x18, !(testCodes op).contains (f 0x18 2)), resv d 0x1A 2, resv d 0x28 24]
  else if op = opSync then [(0x18, decide (1 < f 0x18 1)), resv d 0x19 39]
  else [(0x04, true)]

/-- Byte offset of the first offending field of a descriptor (R304, Table 11.7). -/
def badOffset (d : BitVec 512) : Option Nat :=
  let flags := dfield d 0x05 1
  let common : List (Nat × Bool) :=
    [(0x05, if opOf d = opAdmit then decide (3 < flags) else decide (flags ≠ 0)), resv d 0x06 2]
  let all := if (opChecks d).any (fun c => c == (0x04, true)) then [(0x04, true)] else common ++ opChecks d
  (all.find? (·.2)).map (·.1)

/-- A VF may issue the item (Table 11.5, R460). -/
def vfMay (fn : Nat) (d : BitVec 512) : Bool :=
  fn = 0 || (if opOf d = opCalibrate then false
    else if opOf d = opSelftest then dfield d 0x18 2 == 0x0001 || dfield d 0x18 2 == 0x0010
    else true)

/-! ### Processors and epochs (R327, R394, R398) -/

/-- Processors that an item needs at dispatch, by FW_SEL number (Table 14.2, Table 17.5). -/
def needs (d : BitVec 512) : List Nat :=
  let op := opOf d
  let code := dfield d 0x18 2
  let target := dfield d 0x1C 4
  if [opStep, opAdmit, opPause, opResume, opRunGraph, opSwap, opEvict].contains op then [0]
  else if op = opQuery then (if dfield d 0x1A 2 = 1 then [0] else [])
  else if op = opLoadSwath then [0, 1]
  else if op = opLoadWeights then [1]
  else if op = opCalibrate then [2]
  else if op = opSelftest then
    if code = 0x0001 then (if target < 160 then [32 + target / 5] else [])
    else if code = 0x0002 then (if target < 2560 then [32 + target / 80] else [])
    else if code = 0x0030 then [2] else [0]
  else []

/-- A processor is absent: it restarts or updates, is past its limit or DOWN (Table 14.5). -/
def absent (m : Module) (p : Nat) : Bool := (m.proc p).st != .running

/-- DETAIL of FAIL_FW for a processor (Table 11.7). -/
def fwDetail (p : Nat) : Nat := min p 3

/-- The function epoch: low bytes of the start count and of the function's resets (R324). -/
def epochOf (m : Module) (fn : Nat) : Nat := m.sec.startCount % 256 * 256 + (m.fn fn).resets % 256

/-- Opcodes that a draining partition answers DRAINED (R352). -/
def drainOps : List Nat := [opStep, opRunGraph, opAdmit, opLoadSwath, opLoadWeights, opSwap]

/-- What happens to an item at dispatch. -/
inductive Gate where
  | go
  | wait
  | answer (st : Status) (detail : Nat)
  | failFw (proc : Nat)
  deriving DecidableEq, Repr

/-- EVSN of the DIE_LOST event of the fabric I/O die in a function's event ring (Table 17.4). -/
def dieLostEvsn (m : Module) (f : Nat) : Nat :=
  match (m.fn f).events.find? fun e => e.code == 0x0405 with
  | some e => e.evsn
  | none => evsnOf m f

/-- The checks of an item at dispatch: binding, format, who may issue it, the target's epoch, a drain, the processors it
needs; every item fails once the fabric I/O die is lost (R292, R304, R327, R352, R394, R398, R459). -/
def gate (m : Module) (i : ItemRef) (x : Item) : Gate :=
  let d := x.desc
  let t := targetOf i d
  if m.ras.lostDies.contains dieF then .answer .failFault (dieLostEvsn m i.fn)
  else match itemPart m i with
  | none => .answer .rejState 0
  | some p =>
    match badOffset d with
    | some o => .answer .rejFormat o
    | none =>
      if !vfMay i.fn d then .answer .rejState 0
      else
        let targeted := [opAbort, opPause, opResume, opQuery].contains x.opcode
        let start := (m.ring t.fn t.ring).epochStart
        if targeted && start.isNone then .answer .rejState 0
        else if targeted && after32 (start.getD 0) (BitVec.ofNat 32 t.ssn) then .answer .lostEpoch (epochOf m i.fn)
        else if drainOps.contains x.opcode && (m.part p).drainSeal then .answer .drained 0
        else match (needs d).find? fun q => absent m q && (m.proc q).limitPassed with
          | some q => .failFw q
          | none => if (needs d).any fun q => absent m q then .wait else .go

/-! ### Dispatch (R305, R315, R394) -/

/-- Dispatch items in order until one waits, or a SYNC holds those behind it. -/
def dispatchList : List ItemRef → Module → Module
  | [], m => m
  | i :: is, m =>
    match findItem m i with
    | none => dispatchList is m
    | some x =>
      if x.st = .fetched then
        match gate m i x with
        | .wait => m
        | .answer st v => dispatchList is (finishV m i st v)
        | .failFw q =>
          dispatchList is (finishV (m.setProc q fun y => { y with failedItems := satAdd y.failedItems 1 })
            i .failFw (fwDetail q))
        | .go =>
          let m := setItem m i fun y => { y with st := .dispatched }
          if x.opcode = opSync then m else dispatchList is m
      else if x.opcode = opSync ∧ x.st ≠ .written then m
      else dispatchList is m

/-- Dispatch what a ring can dispatch. -/
def dispatchRing (m : Module) (fn r : Nat) : Module := dispatchList ((m.ring fn r).items.map (·.ref)) m

/-- Dispatch on every ring of a function. -/
def dispatchFn (m : Module) (fn : Nat) : Module :=
  foldM (m.fn fn).rings.keys (fun m r => dispatchRing m fn r) m

/-- Dispatch on every ring: a processor has returned or has passed its limit. -/
def dispatchAll (m : Module) : Module := foldM m.fns.keys dispatchFn m

/-! ### SYNC (R315) -/

/-- An item no longer holds a SYNC: its terminal completion is written, or it is an ADMIT whose admission is decided. -/
def settled (m : Module) (i : ItemRef) : Bool :=
  match findItem m i with
  | some x => x.st == .written || (x.opcode == opAdmit && (x.st == .running || x.st == .decided))
  | none => true

/-- Complete every running SYNC of a function whose items have settled. -/
def checkSyncs (m : Module) (fn : Nat) : Module :=
  let syncs := (m.fn fn).rings.cells.flatMap fun r => r.2.items.filter fun x => x.opcode == opSync && x.st == .running
  foldM syncs (fun m x => if x.waits.all fun i => settled m i then finishV m x.ref .done x.waitCount else m) m

/-- SYNC: it waits for the earlier-fetched items of its scope. -/
def syncFn (i : ItemRef) (m : Module) : Module :=
  withItem m i .dispatched [opSync] fun x _ =>
    let ws := x.waits.filter fun j => !settled m j
    checkSyncs (setItem m i fun y => { y with st := .running, waits := ws, waitCount := ws.length }) i.fn

/-- Execute SYNC. -/
def execSync (i : ItemRef) (s : State) : Host.Outcome State Fault Refusal := guarded (i.ok) (syncFn i) s

/-! ### ABORT (R317 to R321) -/

/-- Last SSN fetched on a ring. -/
def lastFetched (r : Ringp) : BitVec 32 := r.sqNext - 1

/-- Entries of a submission ring. -/
def sqSize (r : Ringp) : Nat := 2 ^ r.sqLog2
/-- Entries of a completion ring. -/
def cqSize (r : Ringp) : Nat := 2 ^ r.cqLog2

/-- A fetched SSN lies in the window of R319. -/
def inWindow (r : Ringp) (ssn : Nat) : Bool := after32 (BitVec.ofNat 32 ssn) (lastFetched r - 65536)

/-- An SSN that the ring may fetch next: 1 to E after the last one fetched. -/
def toCome (r : Ringp) (ssn : Nat) : Bool :=
  let d := (BitVec.ofNat 32 ssn - lastFetched r).toNat
  decide (1 ≤ d ∧ d ≤ sqSize r)

/-- ABORT: the first case of R319 that applies to the target. -/
def abortFn (i : ItemRef) (m : Module) : Module :=
  withItem m i .dispatched [opAbort] fun x p =>
    let t := targetOf i x.desc
    let r := m.ring t.fn t.ring
    let m := startItem m i
    match findItem m t with
    | some y =>
      if [opAbort, opSync, opQuery].contains y.opcode then finishV m i .rejState 0
      else if y.terminal then
        if inWindow r t.ssn then finishAfter m i .abortLate (.csnOf t) (some t) else finishV m i .rejState 0
      else if unstoppable m p t y then finishAfter m i .abortLate (.csnOf t) (some t)
      else dispatchRing (claimCell m i t p) t.fn t.ring
    | none =>
      if !toCome r t.ssn || !r.sqEn then finishV m i .rejState 0
      else if 64 ≤ (m.fn i.fn).pendAborts.length then finishV m i .rejQuota 0
      else m.setFn i.fn fun f => { f with pendAborts := f.pendAborts ++ [(i.ring, i.ssn, t.ring, t.ssn)] }

/-- Execute ABORT. -/
def execAbort (i : ItemRef) (s : State) : Host.Outcome State Fault Refusal := guarded (i.ok) (abortFn i) s

/-- The pending aborts that name an item, oldest first, with the list of the others. -/
def pendingOn (m : Module) (t : ItemRef) : List ItemRef × List (Nat × Nat × Nat × Nat) :=
  let l := (m.fn t.fn).pendAborts
  let hit (a : Nat × Nat × Nat × Nat) : Bool := a.2.2.1 == t.ring && a.2.2.2 == t.ssn
  ((l.filter hit).map fun a => ⟨t.fn, a.1, a.2.1⟩, l.filter fun a => !hit a)

/-- A fetched item meets the pending aborts that name it: the first claims its cell, later ones complete ABORT_LATE; an ABORT,
SYNC or QUERY runs as usual and its aborts complete REJ_STATE (R319). -/
def meetAborts (m : Module) (t : ItemRef) (p : Nat) : Module :=
  let (as, rest) := pendingOn m t
  if as.isEmpty then m
  else
    let m := m.setFn t.fn fun f => { f with pendAborts := rest }
    foldM as (fun m a =>
      match findItem m t with
      | none => m
      | some y =>
        if [opAbort, opSync, opQuery].contains y.opcode then finishV m a .rejState 0
        else if y.terminal then finishAfter m a .abortLate (.csnOf t) (some t)
        else claimCell m a t p) m

/-! ### QUERY (R307) -/

/-- State code of an item for WHAT 0, and whether its terminal completion is written. -/
def queryState (r : Ringp) (t : ItemRef) : Option Item → Nat
  | some x => if x.st = .written then (if inWindow r t.ssn then 3 else 4) else if x.st = .fetched then 1 else 2
  | none => if toCome r t.ssn then 0 else 4

/-- Result block of WHAT 0. -/
def queryItem (m : Module) (t : ItemRef) : List Byte :=
  let r := m.ring t.fn t.ring
  let o := findItem m t
  let st := queryState r t o
  match o, st with
  | some x, 3 => leBytes 3 1 ++ leBytes (statusCode (x.status.getD .done)) 1 ++ leBytes 0 2 ++ leBytes x.csn 4 ++
      leBytes x.tick 8 ++ leBytes 0 48
  | _, _ => leBytes st 1 ++ leBytes 0 63
where
  /-- Code of a status (Table 11.7). -/
  statusCode : Status → Nat
    | .done => 0x00 | .doneLate => 0x01 | .aborted => 0x10 | .abortLate => 0x11 | .paused => 0x12
    | .failFault => 0x20 | .failTier => 0x21 | .failLink => 0x22 | .failFence => 0x23 | .failPower => 0x24
    | .failFw => 0x25 | .rejQuota => 0x30 | .rejFormat => 0x31 | .rejSignature => 0x32 | .rejState => 0x33
    | .drained => 0x40 | .lostEpoch => 0x41

/-- Code of a request state (Table 10.1). -/
def ReqState.code : ReqState → Nat
  | .waiting => 0
  | .running => 1
  | .paused => 2
  | .ended => 3

/-- Cache pages a request holds: those its list names and its spares. -/
def Cache.held (c : Cache) : Nat := c.pages.cells.length + c.spares.length

/-- Result block of WHAT 1 for an active request. -/
def queryReq (slot : Nat) (q : Request) : List Byte :=
  leBytes (if q.aborted then ReqState.ended.code else q.st.code) 1 ++ leBytes 0 1 ++ leBytes slot 2 ++ leBytes q.main.mark 4 ++ leBytes q.generated.length 4 ++
    leBytes (q.main.held + q.dcache.held) 4 ++ leBytes 0 48

/-- Item data over PCIe waits while the host bucket of the partition is empty (R351): one cc of the wait is counted. -/
def hostWait (m : Module) (p : Nat) : Module :=
  m.setRegs p fun r => { r with waitHost := satAdd r.waitHost 1 }

/-- Move `n` bytes of item data over PCIe, or wait for tokens (R351). -/
def withHost (m : Module) (p n : Nat) (g : Module → Module) : Module :=
  if regEmpty m p 4 then hostWait m p else g (regTake m p 4 ((n + 63) / 64))

/-- QUERY: the result block, then the completion. For an ADMIT without an active request the manual gives no request state:
the block's fields are free values. -/
def queryFn (i : ItemRef) (m : Module) : Module :=
  withItem m i .dispatched [opQuery] fun x p =>
    let t := targetOf i x.desc
    let out := dfield x.desc 0x20 8
    withHost m p 64 fun m =>
      if dfield x.desc 0x1A 2 = 0 then finishV (emitBytes m i.fn out (queryItem m t)) i .done 0
      else match slotOf m t with
        | some slot => match m.slots.get slot with
          | some q => finishV (emitBytes m i.fn out (queryReq slot q)) i .done 0
          | none => m
        | none => match findItem m t with
          | some y =>
            if y.opcode = opAdmit then
              let (v, m) := takeFree m
              finishV (emitBytes m i.fn out (leBytes (v % 4) 1 ++ leBytes 0 1 ++ leBytes (v / 4) 14 ++ leBytes 0 48))
                i .done 0
            else finishV m i .rejState 0
          | none => finishV m i .rejState 0

/-- Execute QUERY. -/
def execQuery (i : ItemRef) (s : State) : Host.Outcome State Fault Refusal := guarded (i.ok) (queryFn i) s

end Sys2Proof.Machine
end

