-- ==== Sys2Proof/Machine/Rings.lean ====
section
/-! DEFINITION. Rings: doorbells, descriptor fetch, completions, ledgers, interrupts, the batches of events and management
responses (11_host_interface R295 to R303, R322, R323, R331, R515). -/

namespace Sys2Proof.Machine

/-! ### Doorbells (R297, R300) -/

/-- A doorbell write reaches its ring: the function is reachable, the module READY, and no reset is in progress
(R491, R325). -/
def bellReaches (m : Module) (fn : Nat) : Bool :=
  reaches m fn && m.start.ready && !m.start.startFail && !(m.fn fn).resetting

/-- BAR2 offset of the doorbell page of a submission ring (Table 11.3). -/
def sqPage (ring : Nat) : Nat := ring * 0x1000

/-- SQ_DOORBELL: judged against the last SSN fetched (R297). -/
def sqDoorbellFn (fn ring : Nat) (value : Word) (m : Module) : Module :=
  let r := m.ring fn ring
  if !bellReaches m fn || !r.sqEn then m
  else
    let d := (value - lastFetched r).toNat
    if d = 0 ∨ 2147483648 ≤ d then m
    else if d ≤ sqSize r then m.setRing fn ring fun r => { r with sqDb := value }
    else raise (m.setRing fn ring fun r => { r with dbOvf := true }) 0x0106 (fnPart m fn) dieH [sqPage ring, 3]

/-- Execute SQ_DOORBELL. -/
def execSqDoorbell (fn ring : Nat) (value : Word) (s : State) : Host.Outcome State Fault Refusal :=
  guarded (fnOk fn && ringOk ring) (sqDoorbellFn fn ring value) s

/-- CQ_DOORBELL: a value after the last one and not after the last CSN written frees room; any other is ignored and sets
BAD_WRITE (R300). -/
def cqDoorbellFn (fn ring : Nat) (value : Word) (m : Module) : Module :=
  let r := m.ring fn ring
  if !bellReaches m fn || !r.cqEn then m
  else if after32 value r.cqDb && !after32 value (r.cqNext - 1) then m.setRing fn ring fun r => { r with cqDb := value }
  else m.setRing fn ring fun r => { r with badWrite := true }

/-- Execute CQ_DOORBELL. -/
def execCqDoorbell (fn ring : Nat) (value : Word) (s : State) : Host.Outcome State Fault Refusal :=
  guarded (fnOk fn && ringOk ring) (cqDoorbellFn fn ring value) s

/-! ### Descriptor fetch (R295, R298, R299, R319) -/

/-- The submission ring fetches (RING_STAT.SQ_RUN). -/
def sqRun (m : Module) (fn ring : Nat) : Bool :=
  let r := m.ring fn ring
  r.sqEn && r.cqEn && !r.stopped && !(m.fn fn).resetting

/-- Items of a ring that count towards the limit of R299. -/
def limitCount (r : Ringp) : Nat := (r.items.filter fun x => x.st != .written && x.opcode != opAdmit).length

/-- A ring has descriptors to read and may read them; a committed shutdown stops fetching (R299, R412). -/
def mayFetch (m : Module) (fn ring : Nat) : Bool :=
  let r := m.ring fn ring
  sqRun m fn ring && r.sqDb != lastFetched r && decide (limitCount r < 4096) && m.start.linkUp &&
    (m.power.loss == .none || m.power.loss == .bad)

/-- Items that a SYNC fetched now would wait for: those of its scope whose terminal completion is not written (R315). -/
def syncScope (m : Module) (i : ItemRef) (scope : Nat) : List ItemRef :=
  let rs := (m.fn i.fn).rings.cells
  (rs.flatMap fun r => if scope = 1 || r.1 = i.ring then r.2.items.filter fun x => x.st != .written else []).map (·.ref)

/-- Take one descriptor: it counts as fetched; with an unexpected SSN it stops the ring and completes REJ_FORMAT (R298). -/
def fetchOne (m : Module) (fn ring : Nat) (d : BitVec 512) : Module :=
  let r := m.ring fn ring
  let ssn := r.sqNext.toNat
  let i : ItemRef := ⟨fn, ring, ssn⟩
  let found := dfield d 0 4
  let old (x : Item) : Bool := x.st == .written && !inWindow { r with sqNext := r.sqNext + 1 } x.ref.ssn
  if found ≠ ssn then
    let x : Item := { ref := i, opcode := opOf d, desc := d, st := .decided, status := some .rejFormat }
    let m := m.setRing fn ring fun r =>
      { r with sqNext := r.sqNext + 1, stopped := true, ssnErr := true, items := r.items.filter (fun x => !old x) ++ [x] }
    let m := pushWaiting m fn ring
      { ref := i, tag := dfield d 0x08 8, status := .rejFormat, detail := .val ssn, echo := some found }
    let m := raise m 0x0106 (fnPart m fn) dieH [sqPage ring, 4]
    meetAborts m i 0
  else
    let waits := if opOf d = opSync then syncScope m i (dfield d 0x18 1) else []
    let x : Item := { ref := i, opcode := opOf d, desc := d, waits := waits }
    let m := m.setRing fn ring fun r =>
      { r with sqNext := r.sqNext + 1, items := r.items.filter (fun x => !old x) ++ [x] }
    meetAborts m i 0

/-- Take descriptors in SSN order while the ring may fetch. -/
def fetchAll (m : Module) (fn ring : Nat) : List (BitVec 512) → Module
  | [] => m
  | d :: ds => if mayFetch m fn ring then fetchAll (fetchOne m fn ring d) fn ring ds else m

/-- DESCRIPTOR_FETCH: the descriptors of one read, checked, counted as fetched and dispatched. -/
def descriptorFetchFn (fn ring : Nat) (descs : List (BitVec 512)) (m : Module) : Module :=
  dispatchRing (fetchAll m fn ring descs) fn ring

/-- Execute DESCRIPTOR_FETCH. -/
def execDescriptorFetch (fn ring : Nat) (descs : List (BitVec 512)) (s : State) : Host.Outcome State Fault Refusal :=
  guarded (fnOk fn && ringOk ring && decide (descs.length ≤ 64)) (descriptorFetchFn fn ring descs) s

/-- FETCH_ERR: the read ends with an error; the ring stops, no descriptor of the read counts as fetched (R298). -/
def fetchErrFn (fn ring : Nat) (m : Module) : Module :=
  if mayFetch m fn ring then
    raise (m.setRing fn ring fun r => { r with stopped := true, fetchErr := true }) 0x0106 (fnPart m fn) dieH
      [sqPage ring, 5]
  else m

/-- Execute FETCH_ERR. -/
def execFetchErr (fn ring : Nat) (s : State) : Host.Outcome State Fault Refusal :=
  guarded (fnOk fn && ringOk ring) (fetchErrFn fn ring) s

/-- The item makes host-memory reads at this point (R515). -/
def readsHost (x : Item) : Bool :=
  (x.opcode == opAdmit && (x.st == .dispatched || x.st == .running)) ||
    (x.opcode == opLoadWeights && x.st == .running && dfield x.desc 0x30 1 == 0) ||
    (x.opcode == opMove && x.st == .running && dfield x.desc 0x18 1 == 2)

/-- HOST_READ: the event, then FAIL_FAULT with its EVSN; the work done stands, as for an ABORT (R515). -/
def hostReadFn (i : ItemRef) (timeout : Bool) (addr : Nat) (m : Module) : Module :=
  match findItem m i, itemPart m i with
  | some x, some p =>
    if !readsHost x || x.terminal then m
    else
      let m := raise m 0x0307 p dieH [b2n timeout, i.ring, i.ssn, addr]
      match slotOf m i with
      | some slot => failRequest m slot .failFault (evsnOf m i.fn)
      | none =>
        let m := finishV m i .failFault (evsnOf m i.fn)
        if x.st = .running then stopWork m i x p else dispatchRing m i.fn i.ring
  | _, _ => m

/-- Execute HOST_READ. -/
def execHostRead (i : ItemRef) (timeout : Bool) (addr : Nat) (s : State) : Host.Outcome State Fault Refusal :=
  guarded (i.ok) (hostReadFn i timeout addr) s

/-! ### Ledgers (R322 to R324) -/

/-- Bytes 0x00 to 0x3B of a ledger block (Table 11.9). -/
def ledgerBytes (l : Ledger) : List Byte :=
  leBytes l.lastFetched 4 ++ leBytes l.lastRetired 4 ++ leBytes l.lastCsn 4 ++ leBytes l.epoch 2 ++ leBytes l.flags 2 ++
    leBytes l.tick 8 ++ leBytes l.seq 4 ++ leBytes l.hostCqDb 4 ++ leBytes l.inFlight 4 ++ leBytes l.startCount 4 ++
    leBytes l.fnResets 4 ++ leBytes 0 16

/-- Items fetched without a terminal completion written (RING_INFLIGHT). -/
def inFlight (r : Ringp) : Nat := (r.items.filter fun x => x.st != .written).length

/-- The ledger block of a ring pair as it stands. -/
def ledgerOf (m : Module) (fn ring : Nat) (final : Bool) : Ledger :=
  let r := m.ring fn ring
  let l : Ledger :=
    { lastFetched := (lastFetched r).toNat, lastRetired := r.lastRetired.toNat, lastCsn := (r.cqNext - 1).toNat
      epoch := epochOf m fn
      flags := b2n (!(r.sqEn && r.cqEn && !r.stopped)) + 2 * b2n r.ssnErr + 4 * b2n final
      tick := m.tick.count, seq := (r.ledgerSeq + 1) % 4294967296, hostCqDb := r.cqDb.toNat, inFlight := inFlight r
      startCount := m.sec.startCount, fnResets := (m.fn fn).resets, check := 0 }
  { l with check := crc32c (ledgerBytes l) }

/-- Write the ledger block of a ring pair. -/
def writeLedger (m : Module) (fn ring : Nat) (final : Bool) : Module :=
  let l := ledgerOf m fn ring final
  let m := emit m (.ledger fn ring (m.ring fn ring).ledgerAddr l)
  m.setRing fn ring fun r => { r with ledgerSeq := l.seq }

/-- Ring pairs of a function with a ring enabled. -/
def enabledRings (m : Module) (fn : Nat) : List Nat :=
  (m.fn fn).rings.cells.filterMap fun c => if c.2.sqEn || c.2.cqEn then some c.1 else none

/-! ### Completions (R300 to R302, R317, R320, R323) -/

/-- Advance LAST_RETIRED over items whose terminal completion is written (R323). -/
def retireFrom (r : Ringp) : Nat → BitVec 32 → BitVec 32
  | 0, s => s
  | n + 1, s =>
    if s = lastFetched r then s
    else
      let open_ := r.items.any fun x => x.ref.ssn == (s + 1).toNat && x.st != .written
      if open_ then s else retireFrom r n (s + 1)

/-- A completion's item is written, or is gone. -/
def afterDone (m : Module) : Option ItemRef → Bool
  | none => true
  | some t => match findItem m t with
    | some x => x.st == .written
    | none => true

/-- The completion that a ring writes next: the ABORT's directly after the ABORTED completion it names, else the oldest whose
order allows it (R317, R320). -/
def nextWaiting (m : Module) (fn ring : Nat) : Option (Nat × Waiting) :=
  let ws := (m.ring fn ring).waiting
  let ix := (range' 0 ws.length).zip ws
  let partner := ix.find? fun w =>
    match w.2.detail with
    | .csnOf t => w.2.status == .done && t.fn == fn && t.ring == ring && afterDone m (some t)
    | _ => false
  match partner with
  | some w => some w
  | none => ix.find? fun w => afterDone m w.2.after

/-- Value of a completion's DETAIL when it is written with CSN `csn`. -/
def detailValue (m : Module) (csn : BitVec 32) : Detail → Nat
  | .val v => v
  | .csnOf t => match findItem m t with
    | some x => x.csn
    | none => 0
  | .ownCsnPlus1 => (csn + 1).toNat

/-- The module still writes towards the host: the final ledgers of a power loss are not written, it is not dark, the link is
up, and the host I/O die stands (R326, R412, R459). -/
def hostAlive (m : Module) : Bool :=
  m.power.loss != .ledgers && !m.power.dark && m.start.linkUp && !m.ras.lostDies.contains dieH

/-- Bits of a request record's DETAIL (Table 10.6). -/
def recFinal : Nat := 2147483648
/-- REASON of a record. -/
def recReason (n : Nat) : Nat := n * 256

/-- A request record that is late: counted, reported in RT mode, and final with REASON 6 where DROP_ON_MISS is set (R273,
R275). The module, and the record as it is written. -/
def lateRecord (m : Module) (slot : Nat) (q : Request) (w : Waiting) : Module × Waiting :=
  let p := q.part
  let m := m.setRegs p fun r => { r with srvMiss := satAdd r.srvMiss 1 }
  let m := if (m.part p).regs.rt then raise m 0x0801 p dieH [slot, w.deadline, m.tick.count] else m
  if w.terminal || !q.dropOnMiss then (m, { w with status := .doneLate })
  else
    let m := m.setRegs p fun r => { r with srvDrop := satAdd r.srvDrop 1 }
    let m := setItem (endRequest m slot) q.item fun x => { x with st := .decided, status := some .doneLate }
    let v := match w.detail with
      | .val v => v
      | _ => 0
    (m, { w with status := .doneLate, terminal := true, detail := .val (v % 256 + recReason 6 + recFinal) })

/-- Status of a completion as it is written: DONE becomes DONE_LATE after its deadline (R51, R304, R276). -/
def lateNow (m : Module) (w : Waiting) : Bool :=
  w.status == .doneLate || (w.status == .done && w.deadline != 0 && decide (w.deadline < m.tick.count))

/-- Write one completion entry, and what follows from it. -/
def putCompletion (m : Module) (fn ring : Nat) (w : Waiting) : Module :=
  let r := m.ring fn ring
  let csn := r.cqNext
  let st := if lateNow m w then .doneLate else w.status
  let e : CplEntry :=
    { csn := csn.toNat, ssn := w.echo.getD w.ref.ssn, tag := w.tag, status := st, detail := detailValue m csn w.detail
      tick := m.tick.count }
  let m := emit m (.completion fn ring e)
  let m := m.setRing fn ring fun r =>
    { r with cqNext := csn + 1, batch := r.batch + 1, batchNs := if r.batch = 0 then m.tick.ns else r.batchNs
             uncovered := r.uncovered + 1, uncovNs := if r.uncovered = 0 then some m.tick.ns else r.uncovNs }
  if w.terminal then
    let m := setItem m w.ref fun x =>
      { x with st := .written, status := some st, csn := csn.toNat, tick := m.tick.count }
    m.setRing fn ring fun r => { r with lastRetired := retireFrom r 65536 r.lastRetired }
  else m

/-- A completion that is a record of a request, not its terminal one (R267). -/
def isRecord (w : Waiting) : Bool := !w.terminal && (w.status == .done || w.status == .doneLate || w.status == .paused)

/-- Another record of the same request waits to be written. -/
def moreRecords (m : Module) (fn ring : Nat) (i : ItemRef) : Bool :=
  (m.ring fn ring).waiting.any fun x => x.ref == i && isRecord x

/-- The terminal-state cell of an item is still open (R273, R318). -/
def cellOpen (m : Module) (i : ItemRef) : Bool :=
  match findItem m i with
  | some x => !x.terminal
  | none => false

/-- COMPLETION_WRITE: a decided completion is written once the ring has room and the open batch has not 64 entries. A record
is written only while the request's terminal-state cell is open, and once (R273, R397). -/
def completionWriteFn (fn ring : Nat) (m : Module) : Module :=
  let r := m.ring fn ring
  if !hostAlive m || (m.fn fn).resetting || !r.cqEn || decide (64 ≤ r.batch) ||
      decide (cqSize r < (r.cqNext - r.cqDb).toNat) then m
  else match nextWaiting m fn ring with
  | none => m
  | some (ix, w) =>
    let m := m.setRing fn ring fun r => { r with waiting := r.waiting.eraseIdx ix }
    match slotOf m w.ref with
    | none => if isRecord w then m else dispatchFn (checkSyncs (putCompletion m fn ring w) fn) fn
    | some slot => match m.slots.get slot with
      | none => m
      | some q =>
        let record := w.status = .done ∨ w.status = .doneLate ∨ w.status = .paused
        let repeated := w.step.isSome && w.step == q.lastStep
        let more := moreRecords m fn ring w.ref
        if record ∧ (repeated = true ∨ (isRecord w && (q.aborted || !cellOpen m w.ref)) = true) then
          setReq m slot fun q => { q with recordPending := more }
        else
          let (m, w) := if record ∧ lateNow m w = true then lateRecord m slot q w else (m, w)
          let m := putCompletion m fn ring w
          let m := setReq m slot fun q =>
            { q with recordPending := more, lastTick := m.tick.count, lastStep := if w.step.isSome then w.step else q.lastStep }
          let m := if w.terminal then { m with slots := m.slots.put slot none } else m
          dispatchFn (checkSyncs m fn) fn

/-- Execute COMPLETION_WRITE. -/
def execCompletionWrite (fn ring : Nat) (s : State) : Host.Outcome State Fault Refusal :=
  guarded (fnOk fn && ringOk ring) (completionWriteFn fn ring) s

/-- Entries that lie after the last completion doorbell. -/
def unconsumed (r : Ringp) : Nat := (r.cqNext - 1 - r.cqDb).toNat

/-- The conditions of R302 under which a batch raises the ring's vector. -/
def batchRaises (m : Module) (r : Ringp) : Bool :=
  r.intEn && (decide (r.modCount = 0) || decide (r.modCount ≤ unconsumed r) ||
    (decide (r.modTime ≠ 0) && (match r.uncovNs with
      | some t => decide (t + 1000 * r.modTime ≤ m.tick.ns)
      | none => false)))

/-- COMPLETION_BATCH_CLOSE: after 64 entries, or 1 µs after the first, the ledger is written, and the vector raised where R302 says
so. -/
def completionBatchCloseFn (fn ring : Nat) (m : Module) : Module :=
  if (m.ring fn ring).batch = 0 ∨ (m.fn fn).resetting = true ∨ hostAlive m = false then m
  else
    let b := m.ring fn ring
    let m := writeLedger (if b.batch < 64 then reachNs m (b.batchNs + 1000) else m) fn ring false
    let m := m.setRing fn ring fun r => { r with batch := 0 }
    let r := m.ring fn ring
    if batchRaises m r then
      (sendMsix m fn ring).setRing fn ring fun r => { r with uncovered := 0, uncovNs := none }
    else m

/-- Execute COMPLETION_BATCH_CLOSE. -/
def execCompletionBatchClose (fn ring : Nat) (s : State) : Host.Outcome State Fault Refusal :=
  guarded (fnOk fn && ringOk ring) (completionBatchCloseFn fn ring) s

/-- COMPLETION_INT_TIMER: TIME_US has passed since the first uncovered entry; the vector is raised. Entries of the open batch,
whose ledger is not written, stay uncovered (R302). -/
def completionIntTimerFn (fn ring : Nat) (m : Module) : Module :=
  let r := m.ring fn ring
  if r.intEn ∧ r.modTime ≠ 0 ∧ 0 < r.uncovered ∧ (m.fn fn).resetting = false ∧ hostAlive m = true then
    (sendMsix (reachNs m (r.uncovNs.getD 0 + 1000 * r.modTime)) fn ring).setRing fn ring fun r =>
      { r with uncovered := r.batch, uncovNs := if r.batch = 0 then none else some r.batchNs }
  else m

/-- Execute COMPLETION_INT_TIMER. -/
def execCompletionIntTimer (fn ring : Nat) (s : State) : Host.Outcome State Fault Refusal :=
  guarded (fnOk fn && ringOk ring) (completionIntTimerFn fn ring) s

/-! ### Batches of events and management responses (R331) -/

/-- EVENT_BATCH_CLOSE: EVT_LAST is updated and one message of vector 17 follows. -/
def eventBatchCloseFn (fn : Nat) (m : Module) : Module :=
  let f := m.fn fn
  if f.evtWritten = f.evtLast ∨ hostAlive m = false then m
  else sendMsix (m.setFn fn fun f => { f with evtLast := f.evtWritten }) fn 17

/-- Execute EVENT_BATCH_CLOSE. -/
def execEventBatchClose (fn : Nat) (s : State) : Host.Outcome State Fault Refusal :=
  guarded (fnOk fn) (eventBatchCloseFn fn) s

/-- MGMT_RESPONSE_BATCH_CLOSE: MRS_LAST is updated and one message of vector 16 follows. -/
def mgmtResponseBatchCloseFn (fn : Nat) (m : Module) : Module :=
  let f := m.fn fn
  if f.respWritten = f.mrsLast ∨ hostAlive m = false then m
  else sendMsix (m.setFn fn fun f => { f with mrsLast := f.respWritten }) fn 16

/-- Execute MGMT_RESPONSE_BATCH_CLOSE. -/
def execMgmtResponseBatchClose (fn : Nat) (s : State) : Host.Outcome State Fault Refusal :=
  guarded (fnOk fn) (mgmtResponseBatchCloseFn fn) s

end Sys2Proof.Machine
end

