-- ==== Sys2Proof/Machine/VeWord.lean ====
section
/-! DEFINITION. The 64-bit instruction word of the vector engine: reading a word, writing one, and the walk over the
instructions that a handler can reach (05_vector_engine R117, R120, R121, Tables 5.1 to 5.3). -/

namespace Sys2Proof.Machine

/-! ### Fields (Tables 5.1 and 5.2) -/

/-- The common fields of a word. -/
def vePlain (w : Nat) : ThreeOps :=
  { msk := .ofNat 3 (bits w 51 3), zm := bit w 50, d := .ofNat 5 (bits w 45 5), a := .ofNat 5 (bits w 40 5)
    b := .ofNat 5 (bits w 35 5) }
/-- FALU and IALU. -/
def veAlu (w : Nat) : AluOps := { toThreeOps := vePlain w, c := .ofNat 5 (bits w 30 5), bs := bit w 29 }
/-- CMP. -/
def veCmp (w : Nat) : CmpOps := { toThreeOps := vePlain w, int := bit w 34, uns := bit w 33, bs := bit w 29 }
/-- CVT. -/
def veCvt (w : Nat) : CvtOps :=
  { toThreeOps := vePlain w, s := .ofNat 5 (bits w 30 5), src := .ofNat 4 (bits w 26 4), dst := .ofNat 4 (bits w 22 4)
    rmode := .ofNat 3 (bits w 19 3), satfin := bit w 18, auto := bit w 17, scale := .ofNat 8 (bits w 9 8)
    part := .ofNat 2 (bits w 7 2), idxreg := .ofNat 5 (bits w 2 5) }
/-- PERM. -/
def vePerm (w : Nat) : PermOps := { toThreeOps := vePlain w, sh := .ofNat 6 (bits w 29 6) }
/-- MEM. -/
def veMem (w : Nat) : MemOps :=
  { toThreeOps := vePlain w, base := .ofNat 5 (bits w 30 5), fmt := .ofNat 4 (bits w 26 4)
    offset := .ofNat 20 (bits w 6 20), part := .ofNat 2 (bits w 0 2) }
/-- QIO. -/
def veQio (w : Nat) : QioOps :=
  { toThreeOps := vePlain w, q := .ofNat 4 (bits w 31 4), nf := .ofNat 2 (bits w 29 2), tag := .ofNat 28 (bits w 1 28)
    last := bit w 0 }
/-- SAMP. -/
def veSamp (w : Nat) : SampOps := { toThreeOps := vePlain w, km1 := .ofNat 6 (bits w 29 6) }
/-- SCTL. -/
def veSctl (w : Nat) : SctlOps := { toThreeOps := vePlain w, strip := bit w 32, imm := .ofNat 32 (bits w 0 32) }

/-- The reserved bits of a class are 0 (Table 5.2). -/
def veReserved (cls w : Nat) : Bool :=
  match cls with
  | 0 => bits w 0 29 == 0
  | 1 => bits w 0 29 == 0
  | 2 => bits w 0 29 == 0 && bits w 30 3 == 0
  | 3 => bits w 0 2 == 0
  | 4 => bits w 0 35 == 0
  | 5 => bits w 0 35 == 0
  | 6 => bits w 0 29 == 0
  | 7 => bits w 2 4 == 0
  | 8 => true
  | 9 => bits w 0 35 == 0
  | 10 => bits w 0 29 == 0
  | 11 => bits w 33 2 == 0
  | _ => false

/-- CLASS of a word. -/
def veClass (w : Nat) : Nat := bits w 60 4
/-- OP of a word. -/
def veOp (w : Nat) : Nat := bits w 54 6

/-! ### Reading a word (Table 5.3) -/

/-- The instruction of a class and an operation, with the operands of a word. -/
def veRow (core cls op w : Nat) : Option Instr :=
  match cls, op with
  | 0, 0 => some (.faluAdd core (veAlu w))
  | 0, 1 => some (.faluSub core (veAlu w))
  | 0, 2 => some (.faluMul core (veAlu w))
  | 0, 3 => some (.faluFma core (veAlu w))
  | 0, 4 => some (.faluMin core (veAlu w))
  | 0, 5 => some (.faluMax core (veAlu w))
  | 0, 6 => some (.faluAbs core (veAlu w))
  | 0, 7 => some (.faluNeg core (veAlu w))
  | 0, 8 => some (.faluMov core (veAlu w))
  | 1, 0 => some (.ialuAdd core (veAlu w))
  | 1, 1 => some (.ialuSub core (veAlu w))
  | 1, 2 => some (.ialuMul core (veAlu w))
  | 1, 3 => some (.ialuAnd core (veAlu w))
  | 1, 4 => some (.ialuOr core (veAlu w))
  | 1, 5 => some (.ialuXor core (veAlu w))
  | 1, 6 => some (.ialuShl core (veAlu w))
  | 1, 7 => some (.ialuShr core (veAlu w))
  | 1, 8 => some (.ialuSra core (veAlu w))
  | 1, 9 => some (.ialuMin core (veAlu w))
  | 1, 10 => some (.ialuMax core (veAlu w))
  | 1, 11 => some (.ialuMinu core (veAlu w))
  | 1, 12 => some (.ialuMaxu core (veAlu w))
  | 2, 0 => some (.cmpEq core (veCmp w))
  | 2, 1 => some (.cmpNe core (veCmp w))
  | 2, 2 => some (.cmpLt core (veCmp w))
  | 2, 3 => some (.cmpLe core (veCmp w))
  | 2, 4 => some (.cmpGt core (veCmp w))
  | 2, 5 => some (.cmpGe core (veCmp w))
  | 2, 6 => some (.cmpUnord core (veCmp w))
  | 2, 7 => some (.cmpOrd core (veCmp w))
  | 3, 0 => some (.cvt core (veCvt w))
  | 4, 0 => some (.exp core (vePlain w))
  | 4, 1 => some (.exp2 core (vePlain w))
  | 4, 2 => some (.log core (vePlain w))
  | 4, 3 => some (.log2 core (vePlain w))
  | 4, 4 => some (.rcp core (vePlain w))
  | 4, 5 => some (.rsqrt core (vePlain w))
  | 4, 6 => some (.sqrt core (vePlain w))
  | 4, 7 => some (.tanh core (vePlain w))
  | 4, 8 => some (.sigmoid core (vePlain w))
  | 4, 9 => some (.sin core (vePlain w))
  | 4, 10 => some (.cos core (vePlain w))
  | 4, 11 => some (.erf core (vePlain w))
  | 5, 0 => some (.rsum core (vePlain w))
  | 5, 1 => some (.rmax core (vePlain w))
  | 5, 2 => some (.rmin core (vePlain w))
  | 5, 3 => some (.ramax core (vePlain w))
  | 5, 4 => some (.rfin core (vePlain w))
  | 5, 5 => some (.risum core (vePlain w))
  | 6, 0 => some (.bcast core (vePerm w))
  | 6, 1 => some (.permv core (vePerm w))
  | 6, 2 => some (.slideup core (vePerm w))
  | 6, 3 => some (.slidedn core (vePerm w))
  | 6, 4 => some (.compress core (vePerm w))
  | 6, 5 => some (.expand core (vePerm w))
  | 6, 6 => some (.iota core (vePerm w))
  | 6, 7 => some (.sel core (vePerm w))
  | 7, 0 => some (.ld core (veMem w))
  | 7, 1 => some (.st core (veMem w))
  | 7, 2 => some (.lds core (veMem w))
  | 7, 3 => some (.sts core (veMem w))
  | 7, 4 => some (.ldx core (veMem w))
  | 7, 5 => some (.stx core (veMem w))
  | 7, 6 => some (.ldm core (veMem w))
  | 7, 7 => some (.stm core (veMem w))
  | 8, 0 => some (.recv core (veQio w))
  | 8, 1 => some (.send core (veQio w))
  | 8, 2 => some (.sende core (veQio w))
  | 9, 0 => some (.mand core (vePlain w))
  | 9, 1 => some (.mor core (vePlain w))
  | 9, 2 => some (.mxor core (vePlain w))
  | 9, 3 => some (.mandn core (vePlain w))
  | 9, 4 => some (.mnot core (vePlain w))
  | 9, 5 => some (.mset core (vePlain w))
  | 9, 6 => some (.mget core (vePlain w))
  | 9, 7 => some (.mpop core (vePlain w))
  | 9, 8 => some (.mfirst core (vePlain w))
  | 9, 9 => some (.mfromv core (vePlain w))
  | 10, 0 => some (.mfill core (veSamp w))
  | 10, 1 => some (.topk core (veSamp w))
  | 10, 2 => some (.scan core (veSamp w))
  | 10, 3 => some (.rand core (veSamp w))
  | 11, 0 => some (.li core (veSctl w))
  | 11, 1 => some (.lih core (veSctl w))
  | 11, 2 => some (.sadd core (veSctl w))
  | 11, 3 => some (.ssub core (veSctl w))
  | 11, 4 => some (.smul core (veSctl w))
  | 11, 5 => some (.saddi core (veSctl w))
  | 11, 6 => some (.setvl core (veSctl w))
  | 11, 7 => some (.loop core (veSctl w))
  | 11, 8 => some (.setsr core (veSctl w))
  | 11, 9 => some (.rdhdr core (veSctl w))
  | 11, 10 => some (.endHandler core (veSctl w))
  | _, _ => none

/-- The instruction that a word spells on a core; none for a reserved class, OP code, field value or bit (R121). -/
def veDecode (core w : Nat) : Option Instr :=
  if veReserved (veClass w) w then (veRow core (veClass w) (veOp w) w).filter Instr.wellFormed else none

/-! ### Writing a word -/

/-- CLASS, OP and the common fields. -/
def veHead (cls op : Nat) (o : ThreeOps) : Nat :=
  cls * 2 ^ 60 + op * 2 ^ 54 + o.msk.toNat * 2 ^ 51 + b2n o.zm * 2 ^ 50 + o.d.toNat * 2 ^ 45 + o.a.toNat * 2 ^ 40 +
    o.b.toNat * 2 ^ 35

/-- XF, RED and MSKOP. -/
def putPlain (cls op : Nat) (o : ThreeOps) : Nat := veHead cls op o
/-- FALU and IALU. -/
def putAlu (cls op : Nat) (o : AluOps) : Nat := veHead cls op o.toThreeOps + o.c.toNat * 2 ^ 30 + b2n o.bs * 2 ^ 29
/-- CMP. -/
def putCmp (cls op : Nat) (o : CmpOps) : Nat :=
  veHead cls op o.toThreeOps + b2n o.int * 2 ^ 34 + b2n o.uns * 2 ^ 33 + b2n o.bs * 2 ^ 29
/-- CVT. -/
def putCvt (cls op : Nat) (o : CvtOps) : Nat :=
  veHead cls op o.toThreeOps + o.s.toNat * 2 ^ 30 + o.src.toNat * 2 ^ 26 + o.dst.toNat * 2 ^ 22 + o.rmode.toNat * 2 ^ 19 +
    b2n o.satfin * 2 ^ 18 + b2n o.auto * 2 ^ 17 + o.scale.toNat * 2 ^ 9 + o.part.toNat * 2 ^ 7 + o.idxreg.toNat * 2 ^ 2
/-- PERM. -/
def putPerm (cls op : Nat) (o : PermOps) : Nat := veHead cls op o.toThreeOps + o.sh.toNat * 2 ^ 29
/-- MEM. -/
def putMem (cls op : Nat) (o : MemOps) : Nat :=
  veHead cls op o.toThreeOps + o.base.toNat * 2 ^ 30 + o.fmt.toNat * 2 ^ 26 + o.offset.toNat * 2 ^ 6 + o.part.toNat
/-- QIO. -/
def putQio (cls op : Nat) (o : QioOps) : Nat :=
  veHead cls op o.toThreeOps + o.q.toNat * 2 ^ 31 + o.nf.toNat * 2 ^ 29 + o.tag.toNat * 2 ^ 1 + b2n o.last
/-- SAMP. -/
def putSamp (cls op : Nat) (o : SampOps) : Nat := veHead cls op o.toThreeOps + o.km1.toNat * 2 ^ 29
/-- SCTL. -/
def putSctl (cls op : Nat) (o : SctlOps) : Nat := veHead cls op o.toThreeOps + b2n o.strip * 2 ^ 32 + o.imm.toNat

/-- The word of a vector-engine instruction, with its core; none for the other commands. -/
def veEncode : Instr → Option (Nat × Nat)
  | .faluAdd core o => some (core, putAlu 0 0 o)
  | .faluSub core o => some (core, putAlu 0 1 o)
  | .faluMul core o => some (core, putAlu 0 2 o)
  | .faluFma core o => some (core, putAlu 0 3 o)
  | .faluMin core o => some (core, putAlu 0 4 o)
  | .faluMax core o => some (core, putAlu 0 5 o)
  | .faluAbs core o => some (core, putAlu 0 6 o)
  | .faluNeg core o => some (core, putAlu 0 7 o)
  | .faluMov core o => some (core, putAlu 0 8 o)
  | .ialuAdd core o => some (core, putAlu 1 0 o)
  | .ialuSub core o => some (core, putAlu 1 1 o)
  | .ialuMul core o => some (core, putAlu 1 2 o)
  | .ialuAnd core o => some (core, putAlu 1 3 o)
  | .ialuOr core o => some (core, putAlu 1 4 o)
  | .ialuXor core o => some (core, putAlu 1 5 o)
  | .ialuShl core o => some (core, putAlu 1 6 o)
  | .ialuShr core o => some (core, putAlu 1 7 o)
  | .ialuSra core o => some (core, putAlu 1 8 o)
  | .ialuMin core o => some (core, putAlu 1 9 o)
  | .ialuMax core o => some (core, putAlu 1 10 o)
  | .ialuMinu core o => some (core, putAlu 1 11 o)
  | .ialuMaxu core o => some (core, putAlu 1 12 o)
  | .cmpEq core o => some (core, putCmp 2 0 o)
  | .cmpNe core o => some (core, putCmp 2 1 o)
  | .cmpLt core o => some (core, putCmp 2 2 o)
  | .cmpLe core o => some (core, putCmp 2 3 o)
  | .cmpGt core o => some (core, putCmp 2 4 o)
  | .cmpGe core o => some (core, putCmp 2 5 o)
  | .cmpUnord core o => some (core, putCmp 2 6 o)
  | .cmpOrd core o => some (core, putCmp 2 7 o)
  | .cvt core o => some (core, putCvt 3 0 o)
  | .exp core o => some (core, putPlain 4 0 o)
  | .exp2 core o => some (core, putPlain 4 1 o)
  | .log core o => some (core, putPlain 4 2 o)
  | .log2 core o => some (core, putPlain 4 3 o)
  | .rcp core o => some (core, putPlain 4 4 o)
  | .rsqrt core o => some (core, putPlain 4 5 o)
  | .sqrt core o => some (core, putPlain 4 6 o)
  | .tanh core o => some (core, putPlain 4 7 o)
  | .sigmoid core o => some (core, putPlain 4 8 o)
  | .sin core o => some (core, putPlain 4 9 o)
  | .cos core o => some (core, putPlain 4 10 o)
  | .erf core o => some (core, putPlain 4 11 o)
  | .rsum core o => some (core, putPlain 5 0 o)
  | .rmax core o => some (core, putPlain 5 1 o)
  | .rmin core o => some (core, putPlain 5 2 o)
  | .ramax core o => some (core, putPlain 5 3 o)
  | .rfin core o => some (core, putPlain 5 4 o)
  | .risum core o => some (core, putPlain 5 5 o)
  | .bcast core o => some (core, putPerm 6 0 o)
  | .permv core o => some (core, putPerm 6 1 o)
  | .slideup core o => some (core, putPerm 6 2 o)
  | .slidedn core o => some (core, putPerm 6 3 o)
  | .compress core o => some (core, putPerm 6 4 o)
  | .expand core o => some (core, putPerm 6 5 o)
  | .iota core o => some (core, putPerm 6 6 o)
  | .sel core o => some (core, putPerm 6 7 o)
  | .ld core o => some (core, putMem 7 0 o)
  | .st core o => some (core, putMem 7 1 o)
  | .lds core o => some (core, putMem 7 2 o)
  | .sts core o => some (core, putMem 7 3 o)
  | .ldx core o => some (core, putMem 7 4 o)
  | .stx core o => some (core, putMem 7 5 o)
  | .ldm core o => some (core, putMem 7 6 o)
  | .stm core o => some (core, putMem 7 7 o)
  | .recv core o => some (core, putQio 8 0 o)
  | .send core o => some (core, putQio 8 1 o)
  | .sende core o => some (core, putQio 8 2 o)
  | .mand core o => some (core, putPlain 9 0 o)
  | .mor core o => some (core, putPlain 9 1 o)
  | .mxor core o => some (core, putPlain 9 2 o)
  | .mandn core o => some (core, putPlain 9 3 o)
  | .mnot core o => some (core, putPlain 9 4 o)
  | .mset core o => some (core, putPlain 9 5 o)
  | .mget core o => some (core, putPlain 9 6 o)
  | .mpop core o => some (core, putPlain 9 7 o)
  | .mfirst core o => some (core, putPlain 9 8 o)
  | .mfromv core o => some (core, putPlain 9 9 o)
  | .mfill core o => some (core, putSamp 10 0 o)
  | .topk core o => some (core, putSamp 10 1 o)
  | .scan core o => some (core, putSamp 10 2 o)
  | .rand core o => some (core, putSamp 10 3 o)
  | .li core o => some (core, putSctl 11 0 o)
  | .lih core o => some (core, putSctl 11 1 o)
  | .sadd core o => some (core, putSctl 11 2 o)
  | .ssub core o => some (core, putSctl 11 3 o)
  | .smul core o => some (core, putSctl 11 4 o)
  | .saddi core o => some (core, putSctl 11 5 o)
  | .setvl core o => some (core, putSctl 11 6 o)
  | .loop core o => some (core, putSctl 11 7 o)
  | .setsr core o => some (core, putSctl 11 8 o)
  | .rdhdr core o => some (core, putSctl 11 9 o)
  | .endHandler core o => some (core, putSctl 11 10 o)
  | _ => none

/-! ### The check of a plane's program (R121) -/

/-- Instruction word at an index of a plane. -/
def veWordAt (b : Mem) (pc : Nat) : Nat := b.rd (8 * pc) 8

/-- BODY of a word that is a LOOP. -/
def loopBody : Instr → Option Nat
  | .loop _ o => some (o.imm.toNat % 4096)
  | _ => none

/-- The word is END. -/
def isEnd : Instr → Bool
  | .endHandler _ _ => true
  | _ => false

/-- The loops that end where instruction `pc` follows. -/
def closeLoops (pc : Nat) : List Nat → List Nat
  | [] => []
  | e :: es => if e = pc then closeLoops pc es else e :: es

/-- Index of the first instruction that breaks R121 among those that can be reached from `pc`; `ends` are the ends of the
loop bodies around it, innermost first. A body whose count is 0 is passed over, so what follows an END inside a body is
reached from the body's end. -/
def veWalk (b : Mem) : Nat → Nat → List Nat → Option Nat
  | 0, pc, _ => some pc
  | fuel + 1, pc, ends =>
    if 4096 ≤ pc then some 4095
    else match veDecode 0 (veWordAt b pc) with
    | none => some pc
    | some i =>
      if isEnd i then
        match ends with
        | [] => none
        | e :: es => veWalk b fuel e (closeLoops e es)
      else match loopBody i with
        | some n =>
          let e := pc + 1 + n
          let ok := match ends with
            | [] => true
            | f :: _ => decide (e ≤ f)
          if 4 ≤ ends.length || !ok then some pc else veWalk b fuel (pc + 1) (e :: ends)
        | none => veWalk b fuel (pc + 1) (closeLoops (pc + 1) ends)

/-- Byte offset, in the plane, of the first instruction that breaks R121. -/
def veBad (b : Mem) : Option Nat :=
  ((handlers b).findSome? fun h => veWalk b 4097 h.start []).map (8 * ·)

end Sys2Proof.Machine
end

