-- ==== Sys2Proof/Machine/ImageCheck.lean ====
section
/-! DEFINITION. The load-time checks of a swath image, its schedule and its serving record: each gives the byte offset of the
first field that breaks its rule (04_matrix_engine R108, 05_vector_engine R121, 06_dataflow R154, R155, R165, R174,
07_swaths R181 to R189, 08_tiers R220, R222, 09_experts R243, 10_serving R260). -/

namespace Sys2Proof.Machine

/-- Offset of the first broken check of a list. -/
def firstBad (l : List (Nat × Bool)) : Option Nat := (l.find? (·.2)).map (·.1)

/-- Reserved bytes that are not all 0, as a check at their offset. -/
def rsvd (b : Mem) (a n : Nat) : Nat × Bool := (a, b.rd a n != 0)

/-! ### Header and group table (R181, R182) -/

/-- Image header. -/
def headerBad' (b : Mem) (bytes : Nat) : Option Nat :=
  let g := b.rd 0x1A 2
  let cores := b.rd 0x1C 4
  let plane := b.rd 0x38 8
  firstBad [(0x00, b.rd 0 4 != 0x5A540C07), (0x04, b.rd 4 2 != 1), rsvd b 0x06 2,
    (0x18, decide (b.rd 0x19 1 ≤ b.rd 0x18 1)), (0x19, decide (b.rd 0x19 1 < 1 ∨ 4 < b.rd 0x19 1)),
    (0x1A, decide (g < 1 ∨ 160 < g)), (0x1C, cores != ((range' 0 g).map fun i => b.rd (0x1000 + 16 * i) 1).sum),
    (0x2C, decide (b.rd 0x2C 4 < 1 ∨ 2048 < b.rd 0x2C 4)), (0x30, b.rd 0x30 8 != 0x1000),
    (0x38, plane % 0x10000 != 0 || decide (plane < 0x1000 + 16 * g) || plane + cores * 0x10000 != bytes),
    rsvd b 0x80 3968]

/-- Group table. -/
def groupsBad (b : Mem) : Option Nat :=
  let g := b.rd 0x1A 2
  let need := (range' 0 g).map fun i => b.rd (0x1000 + 16 * i) 1
  let lcl := (range' 0 g).map fun i => b.rd (0x1000 + 16 * i + 1) 1
  let first := firstCores need 0
  firstBad ((range' 0 g).flatMap fun i =>
    let a := 0x1000 + 16 * i
    [(a, decide (need.getD i 0 < 1 ∨ 16 < need.getD i 0)),
      (a + 1, decide (31 < lcl.getD i 0) || decide (5 < (lcl.filter (· == lcl.getD i 0)).length)), rsvd b (a + 2) 2,
      (a + 4, b.rd (a + 4) 4 % 64 != 0), (a + 8, b.rd (a + 8) 4 != first.getD i 0), rsvd b (a + 12) 4])

/-! ### The matrix-engine section (R104, R108, R189) -/

/-- A matrix-engine descriptor that a plane uses: one that is not all zeros. -/
def meUsed (b : Mem) (d : Nat) : Bool := b.rd (0xA000 + 64 * d) 64 != 0

/-- Descriptors that a plane uses. -/
def meUsedList (b : Mem) : List Nat := (range' 0 64).filter (meUsed b)

/-- FMT_A and FMT_W are a pairing of Table 4.1 for the mode. -/
def pairing (mode a w : Nat) : Bool :=
  (narrowFmt a && narrowFmt w) || (a == w && (a == 1 || a == 2)) || (mode == 0 && a == 0 && w == 0)

/-- One descriptor. -/
def meDescBad (b : Mem) (i : Nat) : Option Nat :=
  let a := 0xA000 + 64 * i
  let d := meDesc b i
  let limit := b.rd 0xB008 4
  firstBad [(a, decide (1 < d.mode)), (a + 1, !pairing d.mode d.fmtA d.fmtW),
    (a + 2, decide (9 < d.outFmt) || decide (4 < d.rmode)), (a + 3, decide (63 < b.rd (a + 3) 1)),
    (a + 4, decide (d.m < 1 ∨ (if d.fmtA = 0 then 64 else 256) < d.m)), (a + 6, decide (d.n < 1 ∨ 64 < d.n)),
    (a + 8, (narrowFmt d.fmtA && d.kFirst % 32 != 0) ||
      (!narrowFmt d.fmtA && decide (0 < d.kFirst) && d.accInit && d.seedQ == 0xFF)),
    (a + 12, d.kLen == 0 || (narrowFmt d.fmtA && !d.kEnd && d.kLen % 32 != 0)),
    (a + 16, d.actAddr % 64 != 0 || decide (limit ≤ d.actAddr)), (a + 20, !d.fromTm && decide (limit ≤ d.wgtAddr)),
    (a + 24, decide (15 < d.mergeId)),
    (a + 26, d.seedQ != 0xFF && (decide (15 < d.seedQ) || (inEntry b d.seedQ).consumer != 2)),
    (a + 27, decide (3 < d.outKind) || (d.outKind == 2 && !narrowFmt d.fmtA)),
    (a + 28, d.outKind == 0 && decide (limit ≤ d.outAddr)), rsvd b (a + 0x2B) 1, rsvd b (a + 0x2E) 2, rsvd b (a + 0x36) 2,
    rsvd b (a + 0x3C) 4]

/-- MERGE_DEPTH of a merge stream of a plane. -/
def depthOf (b : Mem) (stream : Nat) : Nat :=
  (meUsedList b).foldl (fun n d => if (meDesc b d).mergeId = stream then max n (meDesc b d).mergeDepth else n) 0

/-- Producers of a merge stream of logical core `c`: each queue of the merge unit whose sender emits block records of that
stream on it, and the local engine. -/
def mergeProducers (img : Mem) (off c stream : Nat) : Nat :=
  let b := payload img off c
  let remote := (range' 0 16).filter fun q =>
    let e := inEntry b q
    e.consumer == 3 && e.prodKind == 0 && (
      let s := payload img off e.prodCore
      (meUsedList s).any fun d => (meDesc s d).outKind == 2 && (meDesc s d).outAddr % 16 == e.prodQ &&
        (meDesc s d).mergeId == stream)
  remote.length + b2n ((meUsedList b).any fun d => (meDesc b d).outKind != 2 && (meDesc b d).mergeId == stream)

/-- The matrix-engine section of logical core `c`. -/
def meBad (img : Mem) (off c : Nat) : Option Nat :=
  let b := payload img off c
  match (meUsedList b).findSome? (meDescBad b) with
  | some o => some o
  | none =>
    if 256 < ((range' 0 16).map (depthOf b)).sum ∨ (range' 0 16).any (fun s => decide (8 < mergeProducers img off c s)) = true then
      some 0xA018
    else none

/-! ### The steering-unit section (R165, R243) -/

/-- Steering unit of an input pair as a producer of outbound queues (Table 7.7). -/
def suProducer (p : Nat) : Nat := 3 + p / 4

/-- Outputs that a rule names, each an outbound queue, with the offset of the field that names it (R165). -/
def suOutputs (b : Mem) (p : Nat) : List (Nat × Nat) :=
  let a := 0x8000 + 64 * p
  let r := suRule b p
  let mapped := (range' r.mapBase r.mapLen).filterMap fun e =>
    if suMap b e = mapDiscard then none else some (0x8200 + 4 * e, suMap b e % 16)
  match r.action with
  | 0 => [(a + 18, r.outQ)]
  | 1 => mapped
  | 2 => (if r.outQ = 0xFF then [] else [(a + 18, r.outQ)]) ++ mapped
  | 3 => ((range' 0 16).filter (bit r.outMask)).map (a + 16, ·)
  | _ => []

/-- Reserved bits of a rule header, also of a pair that is not used (R165). -/
def suReserved (b : Mem) (p : Nat) : List (Nat × Bool) :=
  let a := 0x8000 + 64 * p
  [(a + 3, decide (7 < b.rd (a + 3) 1)), (a + 7, decide (2 ^ 28 ≤ (suRule b p).keyMask)), rsvd b (a + 11) 1, rsvd b (a + 19) 1,
    (a + 23, decide (1 < b.rd (a + 23) 1)), rsvd b (a + 24) 40]

/-- A rule header. -/
def suRuleBad (b : Mem) (p : Nat) : Option Nat :=
  let a := 0x8000 + 64 * p
  let r := suRule b p
  let sel := r.action == 1
  let disp := r.action == 2
  let others := (range' 0 8).filter fun k => k != p && (suRule b k).action != 0xFF
  if r.action = 0xFF then firstBad (suReserved b p)
  else firstBad ([
    (a, (r.inData == 0xFF && r.inToken == 0xFF) ||
      (r.inData != 0xFF && (decide (15 < r.inData) || (inEntry b r.inData).consumer != 4 ||
        others.any fun k => (suRule b k).inData == r.inData))),
    (a + 1, r.inToken != 0xFF && (decide (15 < r.inToken) || (inEntry b r.inToken).consumer != 5 ||
      others.any fun k => (suRule b k).inToken == r.inToken)),
    (a + 2, decide (3 < r.action) || (disp && others.any fun k => k / 4 == p / 4 && (suRule b k).action == 2)),
    (a + 3, decide (7 < b.rd (a + 3) 1)), (a + 7, decide (2 ^ 28 ≤ r.keyMask)), (a + 8, sel && decide (15 < r.selWord)),
    (a + 9, (sel && decide (31 < r.selShift)) || (disp && decide (11 < r.selShift))),
    (a + 10, sel && decide (r.selBits < 1 ∨ 11 < r.selBits)), rsvd b (a + 11) 1,
    (a + 12, (sel || disp) && decide (1919 < r.mapBase)),
    (a + 14, (sel || disp) && decide (r.mapLen < 1 ∨ 1920 < r.mapBase + r.mapLen)),
    (a + 18, (r.action == 0 || (disp && r.outQ != 0xFF)) && decide (15 < r.outQ)), rsvd b (a + 19) 1,
    (a + 20, disp && r.outQ != 0xFF && r.cap == 0), (a + 22, disp && decide (8 < r.depth)),
    (a + 23, decide (1 < b.rd (a + 23) 1)), rsvd b (a + 24) 40] ++
    (suOutputs b p).map fun x => (x.1, (outEntry b x.2).producer != suProducer p))

/-- The steering-unit section of a plane. -/
def suBad (b : Mem) : Option Nat := (range' 0 8).findSome? (suRuleBad b)

/-! ### The binding section (R154, R155, R174, R189, Tables 7.5 to 7.10) -/

/-- Logical group of a logical core. -/
def groupIndex (need : List Nat) (c : Nat) : Nat :=
  ((firstCores need 0).filter fun f => decide (f ≤ c)).length - 1

/-- Extensions of the cores of one logical group: (logical core, queue, first byte, one past the last). -/
def extsOf (img : Mem) (i : ImgInfo) (g : Nat) : List (Nat × Nat × Nat × Nat) :=
  (range' ((firstCores i.need 0).getD g 0) (i.need.getD g 0)).flatMap fun c =>
    let b := payload img i.planeOff c
    (range' 0 16).filterMap fun q =>
      let e := inEntry b q
      if e.consumer ≠ 0 ∧ 0 < e.ext then some (c, q, e.extOff, e.extOff + 64 * e.ext) else none

/-- Inbound entry `q` of logical core `c`. -/
def inBad (img : Mem) (i : ImgInfo) (c q : Nat) : Option Nat :=
  let b := payload img i.planeOff c
  let a := 0xB040 + 32 * q
  let e := inEntry b q
  let g := groupIndex i.need c
  let source := outEntry (payload img i.planeOff e.prodCore) e.prodQ
  let overlaps := (extsOf img i g).any fun x =>
    !(x.1 == c && x.2.1 == q) && decide (x.2.2.1 < e.extOff + 64 * e.ext) && decide (e.extOff < x.2.2.2)
  let reserved := [rsvd b (a + 14) 2, (a + 0x10, decide (2 ^ 28 ≤ e.tag)), rsvd b (a + 0x14) 12]
  if e.consumer = 0 then firstBad reserved
  else firstBad ([(a, decide (6 < e.consumer)), (a + 1, decide (1 < e.prodKind)),
    (a + 2, e.prodKind == 0 && decide (i.cores ≤ e.prodCore)),
    (a + 4, e.prodKind == 0 && (decide (15 < e.prodQ) || source.producer == 0 || source.destCore != c || source.destQ != q)),
    (a + 5, e.consumer == 6 && (decide (b.rd 0xB005 1 ≤ e.ring) || (ringEntry b e.ring).inQ != q)),
    (a + 6, e.ext % 64 != 0 || decide (1024 < e.ext) || (decide (0 < e.ext) && !([1, 4, 5, 6].contains e.consumer))),
    (a + 8, decide (0 < e.ext) && (e.extOff % 64 != 0 || decide (i.cs.getD g 0 < e.extOff + 64 * e.ext) || overlaps))] ++
    reserved)

/-- Outbound entry `q` of logical core `c`. -/
def outBad (img : Mem) (i : ImgInfo) (c q : Nat) : Option Nat :=
  let b := payload img i.planeOff c
  let a := 0xB240 + 32 * q
  let e := outEntry b q
  let dest := inEntry (payload img i.planeOff e.destCore) e.destQ
  if e.producer = 0 then firstBad [(a + 1, decide (1 < b.rd (a + 1) 1)), rsvd b (a + 5) 27]
  else firstBad [(a, decide (4 < e.producer)), (a + 1, decide (1 < b.rd (a + 1) 1)), (a + 2, decide (i.cores ≤ e.destCore)),
    (a + 4, decide (15 < e.destQ) || dest.consumer == 0 || dest.prodKind != 0 || dest.prodCore != c || dest.prodQ != q),
    rsvd b (a + 5) 27]

/-- Handler entry `h` of a plane. -/
def handlerBad (b : Mem) (h : Nat) : Option Nat :=
  let a := 0xB440 + 16 * h
  let hs := handlers b
  let e := hs.getD h ⟨0, 0, 0, 0⟩
  firstBad [(a, decide (2 ^ 28 ≤ b.rd a 4) || (hs.take h).any fun x => x.inQ == e.inQ && x.tag == e.tag),
    (a + 4, decide (15 < e.inQ)), rsvd b (a + 5) 1, (a + 6, decide (4095 < e.start)), rsvd b (a + 10) 6]

/-- Run-list entry `r` of a plane. -/
def runBad (b : Mem) (r : Nat) : Option Nat :=
  let a := 0xBC40 + 8 * r
  let w := b.rd (a + 1) 1
  firstBad [(a, decide (63 < b.rd a 1) || !meUsed b (b.rd a 1)), (a + 1, decide (1 < w)),
    (a + 2, w == 1 && decide (b.rd 0xB005 1 ≤ b.rd (a + 2) 1)), rsvd b (a + 3) 1, (a + 4, b.rd (a + 4) 2 == 0),
    rsvd b (a + 6) 2]

/-- Deposit ring `r` of a plane. -/
def ringBad (b : Mem) (r : Nat) : Option Nat :=
  let a := 0xBE40 + 32 * r
  let e := ringEntry b r
  firstBad [(a, decide (15 < e.inQ) || (inEntry b e.inQ).consumer != 6 || (inEntry b e.inQ).ring != r), rsvd b (a + 1) 1,
    (a + 2, decide (e.flits < 1 ∨ 4096 < e.flits)), (a + 4, decide (e.slots < 2 ∨ 256 < e.slots)), rsvd b (a + 6) 2,
    (a + 8, e.base % 64 != 0 || decide (b.rd 0xB008 4 < e.base + 64 * e.flits * e.slots)), rsvd b (a + 12) 20]

/-- LS_PRIO is a permutation of the four requesters. -/
def prioOk (v : Nat) : Bool := (range' 0 4).all fun r => (range' 0 4).any fun i => bits v (2 * i) 2 == r

/-- The binding section of logical core `c`. -/
def bindingBad (img : Mem) (i : ImgInfo) (c : Nat) : Option Nat :=
  let b := payload img i.planeOff c
  match firstBad [(0xB000, decide (1 < b.rd 0xB000 1)), (0xB001, !prioOk (b.rd 0xB001 1)),
      (0xB002, decide (128 < b.rd 0xB002 2)), (0xB004, decide (64 < b.rd 0xB004 1)), (0xB005, decide (8 < b.rd 0xB005 1)),
      rsvd b 0xB006 2, (0xB008, decide (0xF0000 < b.rd 0xB008 4)), rsvd b 0xB00C 52] with
  | some o => some o
  | none =>
    match (range' 0 16).findSome? (inBad img i c) with
    | some o => some o
    | none => match (range' 0 16).findSome? (outBad img i c) with
      | some o => some o
      | none => match (range' 0 (b.rd 0xB002 2)).findSome? (handlerBad b) with
        | some o => some o
        | none => match (range' 0 (b.rd 0xB004 1)).findSome? (runBad b) with
          | some o => some o
          | none => match (range' 0 (b.rd 0xB005 1)).findSome? (ringBad b) with
            | some o => some o
            | none => firstBad [rsvd b 0xBF40 192]

/-- The plane payload of logical core `c`: the offset in the image of the first field that breaks a check. -/
def planeBad (img : Mem) (i : ImgInfo) (c : Nat) : Option Nat :=
  let b := payload img i.planeOff c
  let o := match veBad b with
    | some o => some o
    | none => match suBad b with
      | some o => some o
      | none => match meBad img i.planeOff c with
        | some o => some o
        | none => bindingBad img i c
  o.map fun o => i.planeOff + 0x10000 * c + o

/-- The plane payloads of an image (R189). -/
def planesBad (img : Mem) (i : ImgInfo) : Option Nat := (range' 0 i.cores).findSome? (planeBad img i)

/-! ### The schedule (R220, R222) -/

/-- Schedule header, for the SWATH_ID of its image. -/
def scheduleBad (b : Mem) (id : Nat) : Option Nat :=
  firstBad [(0x00, b.rd 0 4 != 0x5A540C08), (0x04, b.rd 4 2 != 1), rsvd b 0x06 2, (0x08, b.rd 8 8 != id),
    (0x10, decide (65535 < b.rd 0x10 4)), rsvd b 0x14 44]

/-- Logical cores of a logical cluster in an image. -/
def logicals (i : ImgInfo) (lc : Nat) : List Nat :=
  ((i.need.zip i.lcl).zip (firstCores i.need 0)).flatMap fun x => if x.1.2 = lc then range' x.2 x.1.1 else []

/-- Logical cores that a descriptor's DEST_MASK names. -/
def destCores (i : ImgInfo) (d : TmDesc) : List Nat :=
  let ls := logicals i d.lcluster
  (range' 0 ls.length).filterMap fun k => if bit d.dest k then ls[k]? else none

/-- The binding of a core matches a stream to it: an FB stream's tag is the WGT_ADDR of a descriptor with WGT_FROM_TM, and a
Q stream's DST_Q is bound to this stream tag (R222). -/
def destMatches (img : Mem) (i : ImgInfo) (d : TmDesc) (c : Nat) : Bool :=
  let b := payload img i.planeOff c
  if d.dstLvl = 3 then
    (meUsedList b).any fun k => (meDesc b k).fromTm && (meDesc b k).wgtAddr == d.dst % 2 ^ 28
  else if d.dstLvl = 4 then
    let e := inEntry b d.dstQ
    decide (d.dstQ ≤ 15) && e.consumer != 0 && e.prodKind == 1 && e.tag % 2 ^ 28 == d.tag % 2 ^ 28
  else true

/-- ORDER is a permutation of 0 to 3. -/
def TmDesc.orderOk (d : TmDesc) : Bool := prioOk d.order

/-- Descriptor `e` of a schedule with `n` entries. An FB stream's DST_ADDR is a tag and a Q stream's is unused, so with SCALES the
destination must be aligned only where it is an address; DEP counts only for an AFTER entry, which it names (R221, R222). -/
def tmDescBad (img : Mem) (i : ImgInfo) (s : Mem) (n e : Nat) : Option Nat :=
  let a := 128 + 128 * e
  let d := tmDesc s e
  let w := fmtWidth d.fmt
  let blk := 4 * w
  let ds := destCores i d
  let toCore := d.dstLvl == 2 || d.dstLvl == 3 || d.dstLvl == 4
  let mult (addr : Nat) (strides : List Int) : Bool := addr % blk == 0 && strides.all fun x => x % (blk : Int) == 0
  let aligned := (d.op == 1 || mult d.src d.srcStride) && (decide (3 ≤ d.dstLvl) || mult d.dst d.dstStride)
  let bits1 := (range' 0 80).filter fun k => bit d.dest k
  firstBad [(a, decide (1 < d.op)),
    (a + 1, decide (2 < d.srcLvl) || decide (4 < d.dstLvl) ||
      (d.dstLvl == 0 && d.srcLvl == 2 && decide (1 < bits1.length))),
    (a + 2, decide (0xA < s.rd (a + 2) 1)),
    (a + 3, decide (15 < s.rd (a + 3) 1) || d.skew == 3 || (d.skew != 0 && d.dstLvl != 2 && d.dstLvl != 3) ||
      (d.skew == 1 && d.dstLvl == 3) || (d.scales && (!narrowFmt d.fmt || d.cnt 0 % 32 != 0 || !aligned))),
    (a + 4, !d.orderOk), (a + 5, decide (3 < s.rd (a + 5) 1) || d.gate == 3),
    (a + 8, d.count.any (· == 0) || (narrowFmt d.fmt && d.cnt 0 * w % 8 != 0)),
    (a + 0x54, decide (2 ^ 28 ≤ d.tag)),
    (a + 0x58, toCore && (ds.isEmpty || ds.any fun c => !destMatches img i d c)), (a + 0x62, decide (31 < d.lcluster)),
    (a + 0x63, d.dstLvl == 4 && decide (15 < d.dstQ)),
    (a + 0x68, d.gate != 0 && !((logicals i d.lcluster).contains d.gateCore)),
    (a + 0x6A, d.gate != 0 && (decide (15 < d.gateQ) ||
      (inEntry (payload img i.planeOff d.gateCore) d.gateQ).consumer == 0)),
    rsvd s (a + 0x6B) 1, (a + 0x6C, decide (127 < s.rd (a + 0x6C) 1) || d.trig == 3 || (d.prev && d.trig != 2)),
    rsvd s (a + 0x6D) 1,
    (a + 0x6E, d.trig == 2 && (d.dep == e || decide (n ≤ d.dep) || (decide (e < d.dep) && !d.prev))),
    (a + 0x74, d.altOff % 64 != 0 || ((d.altSrc || d.altDst) && d.altOff == 0)), rsvd s (a + 0x78) 8]

/-- The descriptors of a schedule. -/
def entriesBad (img : Mem) (i : ImgInfo) (s : Mem) : Option Nat :=
  let n := s.rd 0x10 4
  (range' 0 n).findSome? (tmDescBad img i s n)

/-! ### The serving record (R260, Table 10.2) -/

/-- Read a serving record. -/
def readServing (b : Mem) : Serving :=
  { draft := b.rd 6 1 == 1, draftMax := b.rd 7 1, modelId := b.rd 8 8, tokensMax := b.rd 0x10 4, reqMax := b.rd 0x14 4
    vocab := b.rd 0x18 4, maxContext := b.rd 0x1C 4, pageBytes := b.rd 0x20 4, cachePages := b.rd 0x24 4
    cacheBase := b.rd 0x28 8, draftModel := b.rd 0x30 8, stepTable := b.rd 0x38 8, resultTable := b.rd 0x40 8
    tableBytes := b.rd 0x48 4, eos := (range' 0 4).map fun i => b.rd (0x4C + 4 * i) 4 }

/-- Serving record, for the MODEL_ID of the swath. -/
def servingBad (b : Mem) (model : Nat) : Option Nat :=
  let v := readServing b
  let out (x lo hi : Nat) : Bool := decide (x < lo ∨ hi < x)
  firstBad [(0x00, b.rd 0 4 != 0x5A540C0A), (0x04, b.rd 4 2 != 1), (0x06, decide (1 < b.rd 6 1)),
    (0x07, decide (16 < v.draftMax) || (v.draft && v.draftMax != 0)), (0x08, v.modelId != model),
    (0x10, out v.tokensMax 1 65536), (0x14, out v.reqMax 1 65536), (0x18, out v.vocab 2 1048576),
    (0x1C, out v.maxContext 64 16777216), (0x20, v.pageBytes % 2097152 != 0 || out v.pageBytes 2097152 67108864),
    (0x24, v.cachePages == 0), (0x28, v.cacheBase % 2097152 != 0), (0x38, v.stepTable % 2097152 != 0),
    (0x40, v.resultTable % 2097152 != 0),
    (0x48, v.tableBytes % 64 != 0 || decide (v.tableBytes < 64 + 64 * v.reqMax + 4 * v.tokensMax) ||
      decide (v.tableBytes < 64 + 128 * v.reqMax)), rsvd b 0x5C 164]

end Sys2Proof.Machine
end

