-- ==== Sys2Proof/Machine/Matrix.lean ====
section
/-! DEFINITION. The matrix engine: the run list, one pass of a weight block, outputs, seed chains and the merge unit
(03_numbers R71 to R77, 04_matrix_engine). -/

namespace Sys2Proof.Machine

/-! ### Pairings and layouts (R83 to R87) -/

/-- FP32 multi-pass (R101). -/
def MeDesc.isFp32 (d : MeDesc) : Bool := d.fmtA == 0
/-- A 16-bit mode. -/
def MeDesc.is16 (d : MeDesc) : Bool := d.fmtA == 1 || d.fmtA == 2
/-- FP4 × FP4: two `k` per cell. -/
def MeDesc.isFp44 (d : MeDesc) : Bool := d.fmtA == 7 && d.fmtW == 7
/-- A narrow mode, with scale blocks and windows. -/
def MeDesc.narrow (d : MeDesc) : Bool := narrowFmt d.fmtA

/-- Logical `k` of one weight block (Table 4.1). -/
def MeDesc.depth (d : MeDesc) : Nat := if d.isFp44 then 128 else 64
/-- Bytes of one array-row slot of an activation line (R84). R84 gives the narrow and the 16-bit line; an FP32 line is taken at 4 bytes a
slot, 256 bytes (DESIGN CHOICE, log 16). -/
def MeDesc.slotBytes (d : MeDesc) : Nat := if d.isFp32 then 4 else if d.is16 then 2 else 1
/-- Bytes of the activation tile of one weight block: `M` + 63 lines (R84). -/
def MeDesc.tileBytes (d : MeDesc) : Nat := (d.m + 63) * 64 * d.slotBytes
/-- Weight scale bytes of one block (R86). -/
def MeDesc.scaleBytes (d : MeDesc) : Nat := if d.narrow then (if d.isFp44 then 256 else 128) else 0
/-- Bytes of one weight block in feed order (R86). -/
def MeDesc.blockBytes (d : MeDesc) : Nat := 4096 * d.slotBytes + d.scaleBytes
/-- Weight blocks of a descriptor. -/
def MeDesc.blocks (d : MeDesc) : Nat :=
  if d.mode = 1 then ceilDiv d.m 64 else ceilDiv d.kLen d.depth
/-- Step of the array in cc, all passes of a block together (Table 4.1). -/
def MeDesc.step (d : MeDesc) : Nat := if d.isFp32 then 16 else if d.is16 then 4 else 1

/-- Low or high half of a byte slot in FP4 × FP4, else the low `w` bits of a slot. -/
def slotCode (fp44 : Bool) (fmt half v : Nat) : Nat :=
  if fp44 then bits v (4 * half) 4 else v % 2 ^ fmtWidth fmt

/-- Local-store address of the slot of activation row `m`, array row `r`, in the tile of weight block `blk` (R84). -/
def actSlot (d : MeDesc) (base blk m r : Nat) : Nat :=
  base + blk * d.tileBytes + (m + r) * 64 * d.slotBytes + r * d.slotBytes

/-- Array row and half that hold position `i` of a weight block. -/
def MeDesc.cell (d : MeDesc) (i : Nat) : Nat × Nat := if d.isFp44 then (i / 2, i % 2) else (i, 0)

/-- Activation element at position `i` of a block: padding takes PAD_VALUE where the position's half of the slot is marked and PAD_EN is
set (R87). -/
def actElem (c : Core) (d : MeDesc) (base blk m i : Nat) : Num :=
  let (r, h) := d.cell i
  let a := actSlot d base blk m r
  let pad := d.padEn && (c.side.get a).getLsbD (8 + h)
  decodeFmt d.fmtA (if pad then d.padValue % 2 ^ fmtWidth d.fmtA
    else slotCode d.isFp44 d.fmtA h (c.ls.rd a d.slotBytes))

/-- Scale byte of activation row `m`, scale block `jj` of a weight block (R85). -/
def actScale (c : Core) (d : MeDesc) (base blk m jj : Nat) : Nat :=
  (c.side.get (actSlot d base blk m (d.cell (32 * jj)).1)).toNat % 256

/-- Weight at position `i`, column `n`, of a block in feed order (R86). -/
def wgtElem (w : List Byte) (d : MeDesc) (i n : Nat) : Num :=
  let (r, h) := d.cell i
  let o := (64 * n + (63 - r)) * d.slotBytes
  decodeFmt d.fmtW (slotCode d.isFp44 d.fmtW h (leNat ((w.drop o).take d.slotBytes)))

/-- Weight scale byte of column `n`, scale block `jj`. -/
def wgtScale (w : List Byte) (d : MeDesc) (n jj : Nat) : Nat :=
  (w.getD (4096 * d.slotBytes + n * (d.scaleBytes / 64) + jj) 0).toNat

/-- Position `i` of block `blk` lies inside the logical K of the descriptor (R62). -/
def MeDesc.inK (d : MeDesc) (blk i : Nat) : Bool := decide (blk * d.depth + i < d.kLen)

/-! ### Products and the combine (R71 to R77, R101, R102) -/

/-- The FP32 minus zero. -/
def negZero : F32 := 0x80000000

/-- Enter one (hi, lo) into a pair; `neg` says that what enters is -0 (R74, R77). -/
def Pair.enter (p : Pair) (hi lo : F32) (neg : Bool) : Pair :=
  let r := combineHiLo p.s p.c hi lo
  { s := r.1, c := r.2, neg := p.neg && neg }

/-- Exact sum of a list of products; +0 when there are none. -/
def sumNums : List Num → Num
  | [] => .fin false 0 0
  | [a] => a
  | a :: as => a.add (sumNums as)

/-- A (hi, lo) whose exact value is -0: a smaller negative value leaves lo = -0 (R74, R77). -/
def exactNegZero (hi lo : F32) : Bool := hi == negZero && lo == 0

/-- Block result of row `m`, column `n`, scale block `jj` of a weight block as (hi, lo), and whether it is -0
(R71 to R74). -/
def blockResult (c : Core) (d : MeDesc) (w : List Byte) (base blk m n jj : Nat) : F32 × F32 × Bool :=
  let sa := actScale c d base blk m jj
  let sb := wgtScale w d n jj
  let v := sumNums ((range' (32 * jj) 32).map fun i =>
    if d.inK blk i then (actElem c d base blk m i).mul (wgtElem w d i n) else .fin false 0 0)
  let v := if sa = 255 ∨ sb = 255 then .nan else v.scale ((sa : Int) - 127 + ((sb : Int) - 127))
  let (hi, lo) := hiLo v
  (hi, lo, exactNegZero hi lo)

/-- hi(x) of R101: the low 12 fraction bits cleared; a value that is not finite stays. -/
def splitHi (x : F32) : F32 := if x.num.isNan || x.num.isInf then x else x &&& 0xFFFFF000
/-- lo(x) of R101, exact; +0 for a value that is not finite. -/
def splitLo (x : F32) : Num :=
  if x.num.isNan || x.num.isInf then .fin false 0 0 else x.num.add (splitHi x).num.neg

/-- Product of pass `p` of FP32 multi-pass (R102). -/
def passProduct (p : Nat) (a w : F32) : Num :=
  let special := (splitHi a).num.isNan || (splitHi a).num.isInf || (splitHi w).num.isNan || (splitHi w).num.isInf
  if special && p ≠ 0 then .fin false 0 0
  else match p with
    | 0 => (splitHi a).num.mul (splitHi w).num
    | 1 => (splitHi a).num.mul (splitLo w)
    | 2 => (splitLo a).mul (splitHi w).num
    | _ => (splitLo a).mul (splitLo w)

/-- Key of an accumulator pair of a tile (R93): the tile is a merge stream, 0 to 15, or 16. -/
def accKey (tile pass row col : Nat) : Nat := ((tile * 4 + pass) * 256 + row) * 64 + col
/-- Tile and row of a key. -/
def keyTile (k : Nat) : Nat := k / 65536
def keyRow (k : Nat) : Nat := k / 64 % 256
/-- Tile of descriptors that no merge stream orders. -/
def plainTile : Nat := 16

/-- The combine of a value into a pair carries the sum beyond FP32 although the value and the sum before it are finite: an overflow to
infinity (R81). -/
def Pair.overflows (p : Pair) (v : Num) (hi : F32) : Bool :=
  !v.isInf && !(F32.num p.s).isInf && (F32.num (fadd p.s hi)).isInf

/-- Pairs of a tile and the overflows met in them. -/
abbrev Accum := SMap Pair {} × Nat

/-- Enter an exact value into one pair; an overflow counts where the column is one of the `n` that are output. -/
def Accum.enter (a : Accum) (n col key : Nat) (v : Num) (hi lo : F32) (neg : Bool) : Accum :=
  let p := a.1.get key
  (a.1.put key (p.enter hi lo neg), a.2 + b2n (decide (col < n) && p.overflows v hi))

/-- Accumulate one weight block into the pairs of row `m`, column `n`, in a mode without windows: products in increasing
`k` (R75, R102). A position past the end of K in the last block enters a +0 product (R62, log 14); one past K_LEN of a descriptor that
does not end K is no product of this descriptor. -/
def accumulateK (c : Core) (d : MeDesc) (w : List Byte) (base blk m n : Nat) (acc : Accum) : Accum :=
  (range' 0 64).foldl (fun acc i =>
    if !d.inK blk i && !d.kEnd then acc
    else if d.isFp32 then
      let a := if d.inK blk i then toF32 (actElem c d base blk m i) else 0
      let x := if d.inK blk i then toF32 (wgtElem w d i n) else 0
      (range' 0 4).foldl (fun acc p =>
        let v := passProduct p a x
        let (hi, lo) := hiLo v
        acc.enter d.n n (accKey plainTile p m n) v hi lo (v.isZero && v.isNeg)) acc
    else
      let v := if d.inK blk i then (actElem c d base blk m i).mul (wgtElem w d i n) else .fin false 0 0
      acc.enter d.n n (accKey plainTile 0 m n) v (toF32 v) 0 (v.isZero && v.isNeg)) acc

/-- Element-wise product of row `m`, column `n`; `blk` is the 64-row block of the second tile (R104). -/
def elementwise (c : Core) (d : MeDesc) (w : List Byte) (base blk m n : Nat) (acc : Accum) : Accum :=
  let slot := base + (m + n) * 64 * d.slotBytes + n * d.slotBytes
  let pad := d.padEn && (c.side.get slot).getLsbD 8
  let av := if pad then d.padValue % 2 ^ fmtWidth d.fmtA else c.ls.rd slot d.slotBytes % 2 ^ fmtWidth d.fmtA
  let o := (64 * n + (63 - m % 64)) * d.slotBytes
  let wv := leNat ((w.drop o).take d.slotBytes) % 2 ^ fmtWidth d.fmtW
  let sa := (c.side.get (base + (m + n / 32 * 32) * 64 * d.slotBytes + n / 32 * 32 * d.slotBytes)).toNat % 256
  let sb := wgtScale w d n (m % 64 / 32)
  let v := (decodeFmt d.fmtA av).mul (decodeFmt d.fmtW wv)
  let v := if !d.narrow then v else if sa = 255 ∨ sb = 255 then .nan else v.scale ((sa : Int) - 127 + ((sb : Int) - 127))
  let (hi, lo) := hiLo v
  if m / 64 = blk then acc.enter d.n n (accKey plainTile 0 m n) v hi lo (exactNegZero hi lo) else acc

/-! ### Outputs (R94 to R96, R103) -/

/-- Result of an element: the pairs combined (in FP32 those of the four passes) and rounded once (R94, R103), and whether that overflowed
to infinity (R81). -/
def meResult (d : MeDesc) (acc : SMap Pair {}) (tile m n : Nat) : F32 × Bool :=
  let ps := (range' 0 (if d.isFp32 then 4 else 1)).map fun p => acc.get (accKey tile p m n)
  let r := if d.isFp32 then ps.foldl (fun a p => combineHiLo a.1 a.2 p.s p.c) ((0 : F32), (0 : F32))
    else match ps with
      | p :: _ => (p.s, p.c)
      | [] => (0, 0)
  let v := pairResult r.1 r.2 (ps.all (·.neg))
  (v, (F32.num v).isInf && !ps.any fun p => (F32.num p.s).isInf || (F32.num p.c).isInf)

/-- Stochastic-rounding number of output element (m, n) (R95). -/
def meRandom (d : MeDesc) (m n : Nat) : Nat :=
  srRandom d.srSeed d.srStream ((d.idxBase + m * d.idxStride + n) % 2 ^ 48)

/-- Codes of one output row, its scale bytes, and the exceptions met (R94, R95). The scale bytes of a narrow result follow the payload
whether they were computed or are OUT_SCALE, since the block's byte may become 0xFF (R67; DEDUCED, log 73). -/
def meRow (d : MeDesc) (acc : SMap Pair {}) (tile m : Nat) : List Rounded × List Nat :=
  let res := (range' 0 d.n).map fun n => (meResult d acc tile m n, meRandom d m n)
  let src := res.map fun x => (F32.num x.1.1, x.2)
  let lost := res.map fun x => x.1.2
  let mark (rs : List Rounded) := (rs.zip lost).map fun x => { x.1 with inf := x.1.inf || x.2 }
  if narrowFmt d.outFmt then
    let blocks := (range' 0 (ceilDiv d.n 32)).map fun q =>
      quantiseBlock d.outFmt d.rmode d.satfin (if d.autoScale then none else some d.outScale)
        ((src.drop (32 * q)).take 32)
    (mark (blocks.flatMap (·.2)), blocks.map (·.1))
  else (mark (src.map fun x => convertWide d.outFmt d.rmode x.2 false x.1), [])

/-- Bytes of one output row: payload packed without padding, then its scale bytes. -/
def meRowBytes (d : MeDesc) (codes : List Rounded) (scales : List Nat) : List Byte :=
  let w := fmtWidth d.outFmt
  let n := (codes.foldl (fun (a : Nat × Nat) c => (a.1 + (c.code % 2 ^ w) * 2 ^ a.2, a.2 + w)) (0, 0)).1
  leBytes n ((codes.length * w + 7) / 8) ++ scales.map (BitVec.ofNat 8)

/-- Split bytes into flits, the last one filled with zeros. -/
def flitsOf (b : List Byte) : Nat → List (BitVec 512)
  | 0 => []
  | n + 1 => flitOfBytes (b.take 64) :: flitsOf (b.drop 64) n

/-- Header of a bundle that the matrix engine sends (R151): words 4 to 8 are 0. -/
def meHeader (kind tag cols mergeId m j pass : Nat) : BitVec 512 :=
  flitOfWords fun i =>
    if i = 0 then tagWord kind tag else if i = 3 then cols else if i = 9 then mergeId else if i = 10 then m
    else if i = 11 then j else if i = 12 then pass else 0

/-- Bytes of 64 pairs of words, column by column, the S (or hi) word before the C (or lo) word, little-endian (DESIGN CHOICE, log 77: R96
and R97 give the 512 bytes and no order). -/
def pairBytes (ps : List (F32 × F32)) : List Byte := ps.flatMap fun p => leBytes p.1.toNat 4 ++ leBytes p.2.toNat 4

/-- A pair as a seed carries it: a pair that only -0 entered carries its mark as C = -0 (log 41). -/
def Pair.toSeed (p : Pair) : F32 × F32 := if p.neg && p.s == 0 && p.c == 0 then (0, negZero) else (p.s, p.c)
/-- A pair from a seed. -/
def Pair.ofSeed (s c : F32) : Pair := if s == 0 && c == negZero then { s := 0, c := 0, neg := true }
  else { s := s, c := c, neg := false }

/-- The `i`-th pair of words of a 512-byte payload. -/
def payloadPair (payload : List (BitVec 512)) (i : Nat) : F32 × F32 :=
  let f := (payload.getD (i / 8) 0).toNat
  (BitVec.ofNat 32 (bits f (64 * (i % 8)) 32), BitVec.ofNat 32 (bits f (64 * (i % 8) + 32) 32))

/-- Outbound queue and bundle tag of OUT_ADDR for kinds 1 to 3. -/
def MeDesc.outQ (d : MeDesc) : Nat := d.outAddr % 16
def MeDesc.outTag (d : MeDesc) : Nat := d.outAddr / 16

/-- Last block index of a descriptor. -/
def MeDesc.lastJ (d : MeDesc) : Nat := (d.kFirst + d.kLen - 1) / 32

/-- Bundles that carry one row of a finished tile: in FP32 the seed of a row is four (R96). -/
def MeDesc.rowParts (d : MeDesc) : Nat := if d.outKind = 3 && d.isFp32 then 4 else 1

/-- Output `i` of a finished tile, in increasing row: a row's values to local store or as one bundle (OUT_KIND 0 and 1), or its pairs
unrounded as seeds, one bundle a pass (OUT_KIND 3); none while its queue has no room for the bundle (R94, R96, R155). -/
def meOutput (core : Nat) (d : MeDesc) (tile i : Nat) (m : Module) : Option Module :=
  let r := i / d.rowParts
  let acc := (m.core core).me.acc
  if d.outKind = 3 then
    let x := i % d.rowParts
    let ps := (range' 0 64).map fun n => (acc.get (accKey tile x r n)).toSeed
    if (outQ m core d.outQ).takes 9 then
      some (pushBundle m core d.outQ false (meHeader kSeed d.outTag d.n d.mergeId r d.lastJ x) (flitsOf (pairBytes ps) 8))
    else none
  else
    let (codes, scales) := meRow d acc tile r
    let b := meRowBytes d codes scales
    let count (m : Module) :=
      countAx m core (codes.filter (·.sat)).length (codes.filter (·.nan)).length (codes.filter (·.inf)).length
    if d.outKind = 0 then
      let a := d.outAddr + r * b.length
      some (count (clearPoison (m.setCore core fun c => { c with ls := c.ls.store a b }) core a b.length))
    else
      let fs := flitsOf b (ceilDiv b.length 64)
      if (outQ m core d.outQ).takes (fs.length + 1) then
        some (count (pushBundle m core d.outQ false (meHeader kData d.outTag d.n d.mergeId r d.lastJ 0) fs))
      else none

/-- Output the rows of a tile from output `i` on that are complete, while their bundles find room; the number reached. -/
def meOutputs (core : Nat) (d : MeDesc) (tile total : Nat) (done : Module → Nat → Bool) : Nat → Nat → Module → Module × Nat
  | 0, i, m => (m, i)
  | fuel + 1, i, m =>
    if total ≤ i || !done m (i / d.rowParts) then (m, i)
    else match meOutput core d tile i m with
      | some m => meOutputs core d tile total done fuel (i + 1) m
      | none => (m, i)

/-- The pairs of a tile's rows return to (+0, +0): they are free (R94). -/
def freeRows (me : Me) (tile rows : Nat) : Me :=
  { me with acc := me.acc.mapV fun k p => if keyTile k = tile ∧ keyRow k < rows then {} else p }

/-! ### The merge unit (R97 to R100, R105) -/

/-- Keys of next(m) and of a producer's markers; producer 16 is the local engine. -/
def nextKey (stream row : Nat) : Nat := stream * 256 + row
def skipKey (stream q : Nat) : Nat := stream * 32 + q

/-- Queues bound to the merge unit. -/
def mergeQueues (m : Module) (core : Nat) : List Nat :=
  (range' 0 16).filter fun q => (inBind m core q).consumer == 3

/-- MERGE_DEPTH of a stream: that of the core's descriptors that name it. -/
def mergeDepthOf (b : Mem) (stream : Nat) : Nat :=
  (range' 0 64).foldl (fun n i =>
    let d := meDesc b i
    if d.mergeId = stream then max n d.mergeDepth else n) 0

/-- The descriptors that a plane's run list names. -/
def runDescs (b : Mem) : List MeDesc := (((runList b).map (·.desc)).eraseDups).map (meDesc b)

/-- Block indices that a descriptor computes: first and last. -/
def MeDesc.part (d : MeDesc) : Nat × Nat := (d.kFirst / 32, d.lastJ)

/-- The parts of K that the producer on a queue of the merge unit computes for a stream: those of its descriptors that send block
records of it there (R97, R154; DEDUCED, log 78). -/
def remoteParts (m : Module) (core q stream : Nat) : List (Nat × Nat) :=
  let e := inBind m core q
  match globalOf m core e.prodCore with
  | some g => ((runDescs (planeBytes (m.core g))).filter fun d =>
      d.narrow && d.mode == 0 && d.outKind == 2 && d.mergeId == stream && d.outQ == e.prodQ).map MeDesc.part
  | none => []

/-- The parts of K that the local engine computes for a stream. -/
def localParts (m : Module) (core stream : Nat) : List (Nat × Nat) :=
  ((runDescs (planeBytes (m.core core))).filter fun d =>
    d.narrow && d.mode == 0 && d.outKind != 2 && d.mergeId == stream).map MeDesc.part

/-- The parts of a stream's open tile that can contribute blocks: those of producers that have sent no marker (R105). -/
def openParts (m : Module) (core stream : Nat) : List (Nat × Nat) :=
  let skips (q : Nat) := (m.core core).me.skipped.get (skipKey stream q)
  (if skips 16 = 0 then localParts m core stream else []) ++
    (mergeQueues m core).flatMap fun q => if skips q = 0 then remoteParts m core q stream else []

/-- The lowest block of a row that has still to be combined; none when every part has been (R98, R105). -/
def nextBlock (m : Module) (core stream row : Nat) : Option Nat :=
  let n := (m.core core).me.nextJ.get (nextKey stream row)
  (((openParts m core stream).filter fun p => n ≤ p.2).map fun p => max n p.1).min?

/-- Block `j` of a row is next in canonical order (R98). -/
def inOrder (m : Module) (core stream row j : Nat) : Bool :=
  j == (m.core core).me.nextJ.get (nextKey stream row) || nextBlock m core stream row == some j

/-- Every producer that sent a marker in the open tile has sent one for each of its descriptors. -/
def markersIn (m : Module) (core stream : Nat) : Bool :=
  let skips (q : Nat) := (m.core core).me.skipped.get (skipKey stream q)
  (skips 16 == 0 || decide ((localParts m core stream).length ≤ skips 16)) &&
    (mergeQueues m core).all fun q => skips q == 0 || decide ((remoteParts m core q stream).length ≤ skips q)

/-- Every block of a row of the open tile has been combined. -/
def rowDone (m : Module) (core stream row : Nat) : Bool :=
  (nextBlock m core stream row).isNone && markersIn m core stream

/-- Combine a block record into the pairs of its row; next(m) goes to `j` + 1 (R98). -/
def combineRecord (core : Nat) (x : MergeRec) (m : Module) : Module :=
  let acc := (range' 0 64).foldl (fun (acc : Accum) n =>
    let v := x.pairs.getD n {}
    acc.enter x.cols n (accKey x.stream 0 x.row n) (F32.num v.s) v.s v.c (exactNegZero v.s v.c)) ((m.core core).me.acc, 0)
  let m := m.setMe core fun me =>
    { me with acc := acc.1, nextJ := me.nextJ.put (nextKey x.stream x.row) (x.block + 1) }
  countAx m core 0 0 acc.2

/-- Combine the held records of a row that are now in order. -/
def drainHeld (core stream row : Nat) : Nat → Module → Module
  | 0, m => m
  | fuel + 1, m =>
    match (m.core core).me.held.find? fun x => x.stream == stream && x.row == row && inOrder m core stream row x.block with
    | some x =>
      drainHeld core stream row fuel (combineRecord core x (m.setMe core fun me => { me with held := me.held.erase x }))
    | none => m

/-- Combine the held records of a stream that are now in order. -/
def drainStream (core stream : Nat) (m : Module) : Module :=
  foldM ((((m.core core).me.held.filter fun x => x.stream == stream).map (·.row)).eraseDups)
    (fun m r => drainHeld core stream r 256 m) m

/-- Output what is complete of a stream's tile whose local passes are done; with its last row the tile's rows are free and next(m)
starts again (R94, R98). -/
def flushTile (core stream : Nat) (m : Module) : Module :=
  match (m.core core).me.tiles.get stream with
  | none => m
  | some t =>
    let d := meDesc (planeBytes (m.core core)) t.desc
    let total := t.rows * d.rowParts
    let (m, n) := meOutputs core d stream total (fun m r => rowDone m core stream r) (total + 1) t.sent m
    if total ≤ n && (range' 0 t.rows).all (rowDone m core stream) then
      m.setMe core fun me =>
        { freeRows me stream t.rows with
          tiles := me.tiles.put stream none
          nextJ := me.nextJ.mapV fun k v => if k / 256 = stream then 0 else v
          skipped := me.skipped.mapV fun k v => if k / 32 = stream then 0 else v }
    else m.setMe core fun me => { me with tiles := me.tiles.put stream (some { t with sent := n }) }

/-- Output what is complete of every waiting tile. -/
def flushTiles (core : Nat) (m : Module) : Module := foldM (range' 0 16) (fun m s => flushTile core s m) m

/-- The merge unit takes a block record of a producer, the local engine included: combined at once when it is next, then the held
records now in order; held while the stream has slots; an ME_MERGE_ORDER fault when its block has been combined or is held; none
while it must wait (R98, R100). -/
def takeRecord (core tag : Nat) (x : MergeRec) (m : Module) : Option Module :=
  let me := (m.core core).me
  if x.block < me.nextJ.get (nextKey x.stream x.row) ∨
      me.held.any (fun y => y.stream == x.stream && y.row == x.row && y.block == x.block) = true then
    some (coreFault m core evMeMergeOrder tag)
  else if inOrder m core x.stream x.row x.block then
    some (flushTile core x.stream (drainHeld core x.stream x.row 256 (combineRecord core x m)))
  else if (me.held.filter fun y => y.stream == x.stream).length < mergeDepthOf (planeBytes (m.core core)) x.stream ∧
      me.held.length < 256 then
    let m := m.setMe core fun e => { e with held := e.held ++ [x] }
    some (m.setCnt core fun c => { c with meMergePeak := max c.meMergePeak (me.held.length + 1) })
  else none

/-- A producer's marker belongs to the open tile of a stream: none of its blocks has come in it, and it has not sent a marker for each
of its descriptors; another waits for the next tile. -/
def markerFits (m : Module) (core q stream : Nat) : Bool :=
  let ps := remoteParts m core q stream
  let me := (m.core core).me
  let came := ps.any fun p =>
    (range' 0 256).any (fun r => decide (p.1 < me.nextJ.get (nextKey stream r))) && me.skipped.get (skipKey stream q) == 0 ||
      me.held.any fun x => x.stream == stream && decide (p.1 ≤ x.block) && decide (x.block ≤ p.2)
  !came && (ps.isEmpty || decide (me.skipped.get (skipKey stream q) < ps.length))

/-- A wait of the merge unit is counted (R98), and charged where a stream feeds it (R232). -/
def mergeWait (m : Module) (core : Nat) : Module :=
  let m := chargeStall m core fun x => x.dstLvl == 4 && (mergeQueues m core).contains x.dstQ
  noteStall (m.setCnt core fun c => { c with meMergeWait := satAdd c.meMergeWait 1 }) core

/-- A block record, or a marker in place of a producer's part, at the head of a producer's queue (R98, R100, R105). -/
def meMergeRecord (core : Nat) (queue : BitVec 4) (m : Module) : Module :=
  let q := queue.toNat
  if (inBind m core q).consumer ≠ 3 || !inUse m core then m
  else match headBundle m core q with
  | none => flushTiles core m
  | some (h, payload) =>
    let n := payload.length + 1
    let stream := hword h 9 % 16
    if headerBad h then protocolFault m core q
    else if isMarker h then
      if markerFits m core q stream then
        let m := popFlits (m.setMe core fun e => { e with skipped := e.skipped.upd (skipKey stream q) (· + 1) }) core q n
        flushTile core stream (drainStream core stream m)
      else mergeWait m core
    else if hkind h = kClose then popFlits m core q n
    else
      let x : MergeRec := { stream := stream, row := hword h 10 % 256, block := hword h 11, cols := hword h 3
                            pairs := (range' 0 64).map fun i =>
                              let p := payloadPair payload i
                              { s := p.1, c := p.2, neg := false } }
      match takeRecord core (htag h) x m with
      | some m => popFlits m core q n
      | none => mergeWait m core

/-! ### The front buffer and the moving front (R90, R91) -/

/-- Tag under which the front buffer holds blocks from local store. -/
def lsTag : Nat := 2 ^ 28

/-- Tag of a descriptor's weight blocks. -/
def MeDesc.blockTag (d : MeDesc) : Nat := if d.fromTm then d.wgtAddr % 2 ^ 28 else lsTag

/-- The front buffer takes the next blocks of the descriptor in flight from local store while it has a free slot (R90; log 79). -/
def fillFront (core : Nat) (d : MeDesc) : Nat → Module → Module
  | 0, m => m
  | fuel + 1, m =>
    let c := m.core core
    match c.me.pass with
    | none => m
    | some p =>
      let next := p.blk + b2n p.live + b2n c.me.wNext.isSome + (c.me.front.filter fun x => x.1 == lsTag).length
      if d.fromTm || decide (2 ≤ c.me.front.length) || decide (d.blocks ≤ next) then m
      else fillFront core d fuel (m.setMe core fun me =>
        { me with front := me.front ++ [(lsTag, c.ls.bytes (d.wgtAddr + next * d.blockBytes) d.blockBytes)] })

/-- The chains take the descriptor's next block from the front buffer into W_NEXT, and its slot is free (R90, R91). -/
def loadNext (core : Nat) (d : MeDesc) (m : Module) : Module :=
  let me := (m.core core).me
  let more := match me.pass with
    | some p => decide (p.blk + b2n p.live < d.blocks)
    | none => false
  match me.wNext, me.front.find? fun x => x.1 == d.blockTag with
  | none, some x =>
    if more && d.mode == 0 then
      fillFront core d 2 (m.setMe core fun me => { me with wNext := some x.2, front := me.front.erase x })
    else m
  | _, _ => m

/-- The front bit: every cell copies W_NEXT into W_ACT, the rows of the block are in the array, and the chains go on to the next block
(R91). In element-wise mode the second tile bypasses the weight registers (R104). -/
def frontBit (core : Nat) (d : MeDesc) (m : Module) : Module :=
  let start (p : Pass) : Pass := { p with live := true, sent := 0 }
  let m := if d.mode = 0 then m.setMe core fun me =>
      { me with wAct := me.wNext.getD me.wAct, wNext := none, pass := me.pass.map start }
    else m.setMe core fun me => { me with pass := me.pass.map start }
  loadNext core d (fillFront core d 2 (noteBanks m core lsMe (range' 0 8)))

/-! ### The run list (R187, R105, R106) -/

/-- Go on to the next run of the list. -/
def Me.advance (me : Me) (e : RunEntry) : Me :=
  if me.runRep + 1 < e.times then { me with runRep := me.runRep + 1 }
  else { me with runRep := 0, runIdx := me.runIdx + 1 }

/-- The seed queue of a descriptor, when its rows start from seeds. -/
def MeDesc.seeds (d : MeDesc) : Option Nat := if d.accInit && d.seedQ ≠ 255 then some d.seedQ else none

/-- The merge unit orders this descriptor's own blocks with those of other producers of its stream (R97, R98). -/
def merges (m : Module) (core : Nat) (d : MeDesc) : Bool :=
  d.narrow && d.mode == 0 && d.outKind != 2 && (mergeQueues m core).any fun q => !(remoteParts m core q d.mergeId).isEmpty

/-- Tile whose pairs a descriptor uses. -/
def tileOf (m : Module) (core : Nat) (d : MeDesc) : Nat := if merges m core d then d.mergeId else plainTile

/-- The pairs of a descriptor's rows at its start (R94): with ACC_INIT 1 free of an earlier tile's, but for rows into which the merge
unit has already combined a block of this tile; with ACC_INIT 0 those that the previous descriptor left. -/
def startRows (me : Me) (d : MeDesc) (tile rows : Nat) : Me :=
  let acc :=
    if d.accInit then me.acc.mapV fun k p =>
      if keyTile k = tile ∧ keyRow k < rows ∧ (tile = plainTile ∨ me.nextJ.get (nextKey tile (keyRow k)) = 0) then {} else p
    else if me.tile = tile then me.acc
    else me.acc.cells.foldl (fun a x =>
      if keyTile x.1 = me.tile then (a.put x.1 {}).put (x.1 % 65536 + 65536 * tile) x.2 else a) me.acc
  { me with acc := acc, tile := tile, seeded := if d.accInit then {} else me.seeded }

/-- Row count carried by an activation tile, kept in the side lane at the key beyond the local store for its base
address; 0 when the tile carries none (R106). -/
def rowsKey (a : Nat) : Nat := 2097152 + a

/-- The engine's own part of its stream contributes no blocks in this tile; when the skipped descriptor would have written the tile, the
tile ends without output (R105). -/
def skipLocal (core : Nat) (e : RunEntry) (d : MeDesc) (m : Module) : Module :=
  if !merges m core d then m
  else
    let m := m.setMe core fun me =>
      { me with
        skipped := me.skipped.upd (skipKey d.mergeId 16) (· + 1)
        tiles := if d.writeOut || d.outKind == 3 then
            me.tiles.put d.mergeId (some { desc := e.desc, rows := d.m, sent := d.m * d.rowParts })
          else me.tiles }
    flushTile core d.mergeId (drainStream core d.mergeId m)

/-- Run the next run-list entry's descriptor (R187); a marker in place of the activation skips it (R105). A skipped descriptor with
OUT_KIND 0 sends no marker: its destination is local store, which is no queue (DESIGN CHOICE, log 76: R105 does not say what is
forwarded there). -/
def meRunEntry (core : Nat) (m : Module) : Module :=
  let c := m.core core
  let b := planeBytes c
  match (runList b)[c.me.runIdx]? with
  | none => m
  | some e =>
    let d := meDesc b e.desc
    let begin_ (ring : Option Nat) (addr : Nat) :=
      let n := (c.side.get (rowsKey addr)).toNat
      let rows := if n = 0 then d.m else min d.m n
      let m := m.setMe core fun me =>
        { startRows me d (tileOf m core d) rows with pass := some { desc := e.desc, rows := rows, ring := ring, slotAddr := addr } }
      noteProgress (loadNext core d (fillFront core d 2 m)) core
    if (activePlane c).isNone || !inUse m core || c.halted || c.me.pass.isSome then m
    else if !e.wait then begin_ none d.actAddr
    else
      let r := c.rings.get e.ring
      let re := ringEntry b e.ring
      match r.order with
      | [] => noteStall (chargeStall m core fun x => x.dstLvl == 4 && x.dstQ == re.inQ) core
      | false :: _ => begin_ (some e.ring) (re.base + r.head * re.flits * 64)
      | true :: rest =>
        if d.outKind ≠ 0 && !(outQ m core d.outQ).takes 1 then
          noteStall (m.setCnt core fun c => { c with qCreditWait := satAdd c.qCreditWait 1 }) core
        else
          let m := m.setCore core fun c => { c with rings := c.rings.put e.ring { r with order := rest } }
          let late := d.fromTm && tagOpen m core d.blockTag
          let m := m.setMe core fun me =>
            { me.advance e with
              front := if d.fromTm then me.front.filter (·.1 ≠ d.blockTag) else me.front
              drop := if late && !me.drop.contains d.blockTag then d.blockTag :: me.drop else me.drop }
          let m := m.setCnt core fun c => { c with meSkip := satAdd c.meSkip 1 }
          let h := meHeader kData d.outTag 0 d.mergeId 0 0 0
          let m := if d.outKind = 0 then m
            else pushBundle m core d.outQ false (withWords h fun i => if i = 1 then some 1 else none) []
          noteProgress (skipLocal core e d m) core

/-- A seed bundle is at the head of the seed queue: the next row that waits starts from its pairs; a marker starts every
row that still waits from (+0, +0) (R96, R105). -/
def meSeedArrival (core : Nat) (m : Module) : Module :=
  let c := m.core core
  match c.me.pass with
  | none => m
  | some p =>
    let d := meDesc (planeBytes c) p.desc
    match d.seeds with
    | none => m
    | some q =>
      let np := if d.isFp32 then 4 else 1
      let all := (range' 0 p.rows).flatMap fun r => (range' 0 np).map fun x => (x, r)
      match all.find? fun k => !c.me.seeded.get (k.1 * 256 + k.2), headBundle m core q with
      | some (x, r), some (h, payload) =>
        let n := payload.length + 1
        if headerBad h then protocolFault m core q
        else if isMarker h then
          popFlits (m.setMe core fun me =>
            { me with seeded := all.foldl (fun s k => s.put (k.1 * 256 + k.2) true) me.seeded }) core q n
        else if hkind h = kClose then popFlits m core q n
        else
          popFlits (m.setMe core fun me =>
            { me with
              seeded := me.seeded.put (x * 256 + r) true
              acc := (range' 0 64).foldl (fun a i =>
                let v := payloadPair payload i
                a.put (accKey me.tile x r i) (Pair.ofSeed v.1 v.2)) me.acc }) core q n
      | _, _ => m

/-- Rows of the pass have their seeds. -/
def seedsIn (me : Me) (d : MeDesc) (rows : Nat) : Bool :=
  match d.seeds with
  | none => true
  | some _ => (range' 0 rows).all fun r => (range' 0 (if d.isFp32 then 4 else 1)).all fun x => me.seeded.get (x * 256 + r)

/-! ### One pass (R88 to R92, R99) -/

/-- Scale blocks of a weight block's column (Table 4.1). -/
def MeDesc.windows (d : MeDesc) : Nat := if d.isFp44 then 4 else 2

/-- Results of one weight block in the order in which they leave the array: in the narrow modes one record for each scale block and
row, in increasing block and within it in increasing row (R99); in the others all at once. -/
def MeDesc.results (d : MeDesc) (rows : Nat) : Nat := if d.mode = 0 ∧ d.narrow = true then d.windows * rows else 1

/-- Block record of scale block `jj` of the pass, row `r`, and the overflows among its hi words (R71 to R74, R81). -/
def blockRecord (c : Core) (d : MeDesc) (p : Pass) (w : List Byte) (jj r : Nat) : MergeRec :=
  { stream := d.mergeId, row := r, block := (d.kFirst + p.blk * d.depth + 32 * jj) / 32, cols := d.n
    pairs := (range' 0 64).map fun n =>
      let x := blockResult c d w p.slotAddr p.blk r n jj
      { s := x.1, c := x.2.1, neg := x.2.2 } }

/-- A block record combines into the pairs of a tile that no merge stream orders. -/
def combineHere (core tile : Nat) (x : MergeRec) (m : Module) : Module :=
  let acc := (range' 0 64).foldl (fun (acc : Accum) n =>
    let v := x.pairs.getD n {}
    acc.enter x.cols n (accKey tile 0 x.row n) (F32.num v.s) v.s v.c v.neg) ((m.core core).me.acc, 0)
  countAx (m.setMe core fun me => { me with acc := acc.1 }) core 0 0 acc.2

/-- Result `i` of the pass leaves the array: into the accumulator, through the merge unit, or as a block record on its queue; none
while the merge unit or the queue cannot take it (R88, R94, R97, R98). -/
def passResult (core : Nat) (d : MeDesc) (p : Pass) (w : List Byte) (i : Nat) (m : Module) : Option Module :=
  let c := m.core core
  if d.mode = 1 then
    let a := (range' 0 p.rows).foldl (fun acc r =>
      (range' 0 d.n).foldl (fun acc n => elementwise c d w p.slotAddr p.blk r n acc) acc) (c.me.acc, 0)
    some (countAx (m.setMe core fun me => { me with acc := a.1 }) core 0 0 a.2)
  else if !d.narrow then
    let a := (range' 0 p.rows).foldl (fun acc r =>
      (range' 0 64).foldl (fun acc n => accumulateK c d w p.slotAddr p.blk r n acc) acc) (c.me.acc, 0)
    some (countAx (m.setMe core fun me => { me with acc := a.1 }) core 0 0 a.2)
  else
    let jj := i / p.rows
    let r := i % p.rows
    if !d.inK p.blk (32 * jj) then some m
    else
      let x := blockRecord c d p w jj r
      if d.outKind = 2 then
        if (outQ m core d.outQ).takes 9 then
          some (pushBundle m core d.outQ false (meHeader kRecord d.outTag d.n d.mergeId r x.block 0)
            (flitsOf (pairBytes (x.pairs.map fun v => (v.s, v.c))) 8))
        else none
      else if merges m core d then takeRecord core d.outTag x m
      else some (combineHere core plainTile x m)

/-- The results of the pass leave the array in order, as far as they are taken; true when all have. A fault on the way ends the pass. -/
def passResults (core : Nat) (d : MeDesc) (w : List Byte) : Nat → Module → Module × Bool
  | 0, m => (m, false)
  | fuel + 1, m =>
    match (m.core core).me.pass with
    | none => (m, false)
    | some p =>
      if d.results p.rows ≤ p.sent then (m, true)
      else match passResult core d p w p.sent m with
        | none => (m, false)
        | some m => passResults core d w fuel
            (m.setMe core fun me => { me with pass := me.pass.map fun p => { p with sent := p.sent + 1 } })

/-- The run after this one can start at once: its activations are there (R187). -/
def nextRunReady (c : Core) : Bool :=
  match (runList (planeBytes c))[c.me.runIdx]? with
  | none => false
  | some e =>
    let me := c.me.advance e
    match (runList (planeBytes c))[me.runIdx]? with
    | none => false
    | some f => (meDesc (planeBytes c) f.desc).mode == 0 && (!f.wait || (c.rings.get f.ring).order.head? == some false)

/-- The slot that the pass has read to its last line is free, and DEPOSIT goes on with what waits in its queue (R187, R188). -/
def releaseSlot (core : Nat) (p : Pass) (m : Module) : Module :=
  match p.ring with
  | none => m
  | some r =>
    let re := ringEntry (planeBytes (m.core core)) r
    let m := m.setCore core fun c => { c with rings := c.rings.upd r fun x =>
      { x with full := x.full - 1, head := (x.head + 1) % re.slots, order := x.order.drop 1 } }
    deposit m core re.inQ depositFuel

/-- A weight block has met every row: the counters of R92, where another block follows, and the pass ends (R88, R92). -/
def blockDone (core : Nat) (d : MeDesc) (p : Pass) (m : Module) : Module :=
  let last := decide (d.blocks ≤ p.blk + 1)
  let follows := d.mode == 0 && (!last || nextRunReady (m.core core))
  let m := m.setMe core fun me =>
    { me with
      pass := me.pass.map fun p => { p with blk := p.blk + 1, live := false, sent := 0 }
      front := if d.mode = 0 then me.front else match me.front.find? fun x => x.1 == d.blockTag with
        | some x => me.front.erase x
        | none => me.front }
  let m := m.setCnt core fun c =>
    { c with meBusy := satAdd c.meBusy (p.rows * d.step)
             meShortPass := if follows then satAdd c.meShortPass (64 - p.rows) else c.meShortPass }
  let m := fillFront core d 2 (noteProgress m core)
  if last then releaseSlot core p m else m

/-- The run of a descriptor has issued its last row: the next run of the list may start (R187). -/
def endRun (core : Nat) (m : Module) : Module :=
  let m := m.setMe core fun me => { me with pass := none, seeded := {}, wNext := none }
  match (runList (planeBytes (m.core core)))[(m.core core).me.runIdx]? with
  | some e => noteProgress (m.setMe core fun me => me.advance e) core
  | none => noteProgress m core

/-- After the last block of a descriptor: a tile of a merge stream is left to the merge unit, which outputs each row after its last
block; another is output now, waiting while its queue has no room (R94, R96, R187). -/
def finishDesc (core : Nat) (d : MeDesc) (p : Pass) (m : Module) : Module :=
  if d.outKind = 2 || !(d.writeOut || d.outKind == 3) then endRun core m
  else if merges m core d then
    if ((m.core core).me.tiles.get d.mergeId).isSome then mergeWait m core
    else
      let m := m.setMe core fun me => { me with tiles := me.tiles.put d.mergeId (some { desc := p.desc, rows := p.rows }) }
      flushTile core d.mergeId (endRun core m)
  else
    let total := p.rows * d.rowParts
    let (m, n) := meOutputs core d plainTile total (fun _ _ => true) (total + 1) p.sent m
    if total ≤ n then endRun core (m.setMe core fun me => freeRows me plainTile p.rows)
    else
      let m := m.setMe core fun me => { me with pass := me.pass.map fun p => { p with sent := n } }
      let m := if p.sent < n then noteProgress m core else noteStall m core
      m.setCnt core fun c => { c with qCreditWait := satAdd c.qCreditWait 1 }

/-- First poisoned local-store line that the pass of a weight block reads (R449). -/
def passPoison (m : Module) (core : Nat) (d : MeDesc) (p : Pass) : Option Nat :=
  let lines (a n : Nat) := (range' (a / 64) (ceilDiv n 64)).map (· * 64)
  (lines (p.slotAddr + p.blk * d.tileBytes) ((p.rows + 63) * 64 * d.slotBytes) ++
    (if d.fromTm then [] else lines (d.wgtAddr + p.blk * d.blockBytes) d.blockBytes)).find? (linePoisoned m core)

/-- The weight block that the pass needs, as W_NEXT or, in element-wise mode, the front buffer holds it. -/
def blockReady (me : Me) (d : MeDesc) : Option (List Byte) :=
  if d.mode = 0 then me.wNext else (me.front.find? fun x => x.1 == d.blockTag).map (·.2)

/-- The results of a pass in flight leave the array; when all have, the pass ends, and with the last block the descriptor. -/
def runPass (core : Nat) (d : MeDesc) (w : List Byte) (m : Module) : Module :=
  match (m.core core).me.pass with
  | none => m
  | some p =>
    match passResults core d w (d.results p.rows + 1) m with
    | (m, true) =>
      let m := blockDone core d p m
      if p.blk + 1 < d.blocks then m else finishDesc core d { p with blk := p.blk + 1, live := false, sent := 0 } m
    | (m, false) =>
      match (m.core core).me.pass with
      | none => m
      | some q =>
        let m := if p.sent < q.sent then noteProgress m core else noteStall m core
        if d.outKind = 2 then m.setCnt core fun c => { c with qCreditWait := satAdd c.qCreditWait 1 }
        else m.setCnt core fun c => { c with meMergeWait := satAdd c.meMergeWait 1 }

/-- A pass ends (R88 to R95): one weight block has met every row. A pass whose seeds or weights are not there waits and is counted, and
so does one whose results the merge unit or a queue cannot take. On a halted core the pass in flight ends and no other starts (R109). -/
def mePassComplete (core : Nat) (m : Module) : Module :=
  let m := flushTiles core m
  let c := m.core core
  match c.me.pass with
  | none => m
  | some p =>
    let d := meDesc (planeBytes c) p.desc
    if !seedsIn c.me d p.rows then
      let m := match d.seeds with
        | some q => chargeStall m core fun x => x.dstLvl == 4 && x.dstQ == q
        | none => m
      noteStall (m.setCnt core fun c => { c with meSeedWait := satAdd c.meSeedWait 1 }) core
    else if d.blocks ≤ p.blk then finishDesc core d p m
    else if p.live then
      runPass core d (if d.mode = 0 then c.me.wAct else ((blockReady c.me d).getD [])) m
    else if c.halted then m
    else
      let m := loadNext core d (fillFront core d 2 m)
      match blockReady (m.core core).me d with
      | none =>
        let m := chargeStall m core fun x => x.dstLvl == 3 && x.dst % 2 ^ 28 == d.blockTag
        noteStall (m.setCnt core fun c => { c with meFrontBubble := satAdd c.meFrontBubble 1 }) core
      | some w =>
        match passPoison m core d p with
        | some a => coreUncorrectable m core 0x0304 [0, core, a]
        | none => runPass core d w (frontBit core d m)

/-! ### Meanings -/

def execMeRunEntry (core : Nat) (s : State) : Host.Outcome State Fault Refusal :=
  guarded (coreOk core) (meRunEntry core) s
def execMePassComplete (core : Nat) (s : State) : Host.Outcome State Fault Refusal :=
  guarded (coreOk core) (mePassComplete core) s
def execMeSeedArrival (core : Nat) (s : State) : Host.Outcome State Fault Refusal :=
  guarded (coreOk core) (meSeedArrival core) s
def execMeMergeRecord (core : Nat) (queue : BitVec 4) (s : State) : Host.Outcome State Fault Refusal :=
  guarded (coreOk core) (meMergeRecord core queue) s

end Sys2Proof.Machine
end

