-- ==== Sys2Proof/Machine/Mesh.lean ====
section
/-! DEFINITION. The data path between cores: the fixed route of a queue, the virtual channels, receive buffers and hop credits of the
mesh ports, and one cycle of the module with nothing commanded (01_organisation R16, R18, 06_dataflow R161, R162, R175, R185). -/

namespace Sys2Proof.Machine

/-! ### Routes (R16, R162, R185) -/

/-- Node of the switch of a cluster; a core's node is its own number. -/
def switchNode (cluster : Nat) : Nat := 4096 + cluster
/-- Node of a compute die's spine. -/
def spineNode (die : Nat) : Nat := 8192 + die

/-- The numbers from `x` (left out) to `y`, one step at a time. -/
def stepsFrom (x y : Nat) : List Nat := if x ≤ y then range' (x + 1) (y - x) else (range' y (x - y)).reverse

/-- Cores of the route within a mesh: first along the row, then along the column (R162). -/
def meshPath (a b : Nat) : List Nat :=
  let base := a - a % 80
  a :: (stepsFrom (colOf a) (colOf b)).map (fun c => base + 8 * rowOf a + c) ++
    (stepsFrom (rowOf a) (rowOf b)).map (fun r => base + 8 * r + colOf b)

/-- Core at the edge through which a core reaches its cluster's switch: the nearest one straight along its column or row; of equally
near ones north, south, west, east (DESIGN CHOICE, log 71). -/
def edgeCore (a : Nat) : Nat :=
  let base := a - a % 80
  let r := rowOf a
  let c := colOf a
  let n := edgeHops a
  if n = r then base + c else if n = 9 - r then base + 72 + c else if n = c then base + 8 * r else base + 8 * r + 7

/-- Compute dies from one to another, in order: along the row, then across rows (R16). -/
def dieRoute (a b : Nat) : List Nat :=
  let row := a - a % 4
  let along := a :: (stepsFrom (a % 4) (b % 4)).map fun c => row + c
  if a / 4 = b / 4 then along else along ++ [b]

/-- Nodes of the route from one core to another, both included; the route to a queue with an extension ends through the consumer's
cluster switch (R16, R162, R174, R185). -/
def coreRoute (a b : Nat) (ext : Bool) : List Nat :=
  if clusterOf a = clusterOf b && !ext then meshPath a b
  else
    let far := if clusterOf a = clusterOf b then []
      else (dieRoute (dieOfCluster (clusterOf a)) (dieOfCluster (clusterOf b))).map spineNode ++ [switchNode (clusterOf b)]
    meshPath a (edgeCore a) ++ switchNode (clusterOf a) :: far ++ meshPath (edgeCore b) b

/-- Route of an outbound queue of a core; empty while the queue leads nowhere. -/
def outRoute (m : Module) (core q : Nat) : List Nat :=
  let e := outBind m core q
  match globalOf m core e.destCore with
  | some g => coreRoute core g (decide (0 < (inBind m g e.destQ).ext))
  | none => []

/-! ### Ports, virtual channels and hop credits (R18, R161) -/

/-- A flit in flight: its queue and place in it, the nodes it came over and those it goes over next, its channel and since when it has
stood there. -/
structure Moving where
  core  : Nat
  q     : Nat
  ix    : Nat
  hop   : Nat
  /-- the link crossed last, and the node after the next -/
  back  : Option (Nat × Nat)
  next  : Option (Nat × Nat)
  vc    : Nat
  since : Nat
  /-- no earlier flit of its queue stands at the same node: one queue's flits stay in order (R156) -/
  front : Bool
  deriving DecidableEq, Repr

/-- The flits of one queue, with their places on its route. The last link of the route is left to the flit's arrival. -/
def movingOf (core q : Nat) (route : List Nat) : Nat → List Nat → List Flit → List Moving
  | _, _, [] => []
  | i, seen, f :: r =>
    { core := core, q := q, ix := i, hop := f.hop, vc := f.vc, since := f.since, front := !seen.contains f.hop
      back := if f.hop = 0 then none else some (route.getD (f.hop - 1) 0, route.getD f.hop 0)
      next := if f.hop + 2 < route.length then some (route.getD f.hop 0, route.getD (f.hop + 1) 0) else none } ::
      movingOf core q route (i + 1) (f.hop :: seen) r

/-- Every flit in flight. -/
def allMoving (m : Module) : List Moving :=
  m.cores.cells.flatMap fun c => c.2.outq.cells.flatMap fun x =>
    if x.2.inFlight.isEmpty then [] else movingOf c.1 x.1 (outRoute m c.1 x.1) 0 [] x.2.inFlight

/-- A link is a mesh port: it leaves or enters a core (R11, R18). -/
def isPort (l : Nat × Nat) : Bool := decide (l.1 < 4096 ∨ l.2 < 4096)

/-- A channel of a port has a hop credit: fewer than four flits stand in its buffer at the receiving end (R161). -/
def hopCredit (all : List Moving) (l : Nat × Nat) (vc : Nat) : Bool :=
  decide ((all.filter fun x => x.back == some l && x.vc == vc).length < 4)

/-- The flit of a channel that is sent next over a port: the one that has stood longest, of equal ones that of the lowest core and
queue (DESIGN CHOICE, log 71). -/
def oldest : List Moving → Option Moving
  | [] => none
  | x :: r => match oldest r with
    | none => some x
    | some y => if x.since ≤ y.since then some x else some y

/-- Key of a link in the record of the channels served last. -/
def portKey (l : Nat × Nat) : Nat := 16384 * l.1 + l.2

/-- The flits that cross a link in one cc: one over a mesh port, taken round robin from the channels that have a flit ready and a hop
credit; all that are ready over a spine or a bridge, whose rate is not counted in flits (R18, R161; log 71). -/
def crossing (m : Module) (all : List Moving) (l : Nat × Nat) : List Moving :=
  let ready := all.filter fun x => x.next == some l && x.front
  if !isPort l then ready
  else
    let last := m.ports.get (portKey l)
    let vcs := (range' 0 4).map fun i => (last + 1 + i) % 4
    match vcs.findSome? fun v => if hopCredit all l v then oldest (ready.filter fun x => x.vc == v) else none with
    | some x => [x]
    | none => []

/-- A flit crosses its next link. -/
def cross (m : Module) (l : Nat × Nat) (x : Moving) : Module :=
  let ns := m.tick.ns
  let m := setOut m x.core x.q fun o => { o with
    inFlight := o.inFlight.modify x.ix fun (f : Flit) => { f with hop := f.hop + 1, since := ns } }
  if isPort l then { m with ports := m.ports.put (portKey l) x.vc } else m

/-- One cc of the data path: every link takes what it can from the flits as they stand. -/
def meshCycle (m : Module) : Module :=
  let all := allMoving m
  let links := (all.filterMap (·.next)).eraseDups
  foldM (links.flatMap fun l => (crossing m all l).map (l, ·)) (fun m x => cross m x.1 x.2) m

/-! ### One cycle with nothing commanded -/

/-- Running steps count a cc (R175), and the local-store banks of every core are free again (R12). -/
def coreCycle (m : Module) : Module :=
  let m := foldM m.parts.keys (fun m p => if (m.part p).step.isSome then stallCc m p else m) m
  { m with cores := m.cores.mapV fun _ c => if c.lsUse.isEmpty then c else { c with lsUse := [] } }

/-- One cycle: the time base advances, the flits in flight move, and what counts the cc counts it (log 6, log 71). -/
def idleCycle (m : Module) : Module := coreCycle (meshCycle (timeCycle m))

end Sys2Proof.Machine
end

