-- ==== Sys2Proof/Machine/TileMover.lean ====
section
/-! DEFINITION. Tile-mover streams: issue, the data of reads, gates, cancellation and end; passes of a page migration
(08_tiers R212, R219 to R231). -/

namespace Sys2Proof.Machine

/-! ### Where a position reads and writes (R223 to R225) -/

/-- Cluster-store address of a partition's offset: each partition has its own allocation (log 42). -/
def csAddr (p off : Nat) : Nat := p * 2 ^ 25 + off

/-- Bytes of an array-row slot for an element format (R84). -/
def slotBytesOf (fmt : Nat) : Nat := if fmtWidth fmt = 32 then 4 else if fmtWidth fmt = 16 then 2 else 1

/-- Two FP4 elements share a row slot: dimension 0 runs over 128 positions (R225). -/
def TmDesc.pairs4 (d : TmDesc) : Bool := d.fmt == 7 && d.cnt 0 == 128

/-- Array row and half of reduction position `i`. -/
def TmDesc.rowOf (d : TmDesc) (i : Nat) : Nat × Nat := if d.pairs4 then (i / 2, i % 2) else (i, 0)

/-- Byte address of the scale byte of a position's block. -/
def scaleAt (d : TmDesc) (base : Nat) (strides : List Int) (ix : List Nat) : Nat := (d.scaleOff base strides ix).toNat

/-- Every position of the scale block of a position is padding (R224). -/
def padBlock (d : TmDesc) (ix : List Nat) : Bool :=
  let b := ix.getD 0 0 / 32 * 32
  (range' b 32).all fun i => decide (d.cnt 0 ≤ i) || d.isPad (ix.set 0 i)

/-- Base of the skewed tile, or weight block, that a position belongs to: dimensions 2 and 3 at the destination strides. -/
def tileBase (d : TmDesc) (stepP1 : Nat) (ix : List Nat) : Nat :=
  (bitAt d d.dst d.altDst stepP1 d.dstStride [0, 0, ix.getD 2 0, ix.getD 3 0] / 8).toNat

/-- Bytes of a weight block and the offset of a weight in feed order (R86). -/
def feedOff (d : TmDesc) (ix : List Nat) : Nat := (64 * ix.getD 1 0 + (63 - (d.rowOf (ix.getD 0 0)).1)) * slotBytesOf d.fmt
/-- Offset of a weight block's scale byte of column `i1`, scale block `i0 / 32`. -/
def feedScaleOff (d : TmDesc) (ix : List Nat) : Nat :=
  4096 * slotBytesOf d.fmt + ix.getD 1 0 * (if d.pairs4 then 4 else 2) + ix.getD 0 0 / 32

/-! ### Reading and writing (R209, R224, R236) -/

/-- `w` bits of the stream's source level at a bit address. -/
def readBits (m : Module) (s : Stream) (cl : Nat) (w : Swath) (d : TmDesc) (a wd : Nat) : Nat :=
  match d.srcLvl with
  | 0 => (m.part s.part).range.rdBits a wd
  | 1 => (m.clu cl).cs.rdBits (8 * csAddr s.part 0 + a) wd
  | _ => match (targets w d).head? with
    | some c => (m.core c).ls.rdBits a wd
    | none => 0

/-- The element that a position delivers: PAD_VALUE for a FILL and for padding, else the source's bits (R221, R224). -/
def element (m : Module) (s : Stream) (cl : Nat) (w : Swath) (d : TmDesc) (ix : List Nat) : Nat :=
  if d.op = 1 || d.isPad ix then d.pad % 2 ^ fmtWidth d.fmt
  else readBits m s cl w d (srcBit d s.stepP1 ix).toNat (fmtWidth d.fmt)

/-- The scale byte of a position's block: 0x7F for a block wholly of padding, else the source's (R224). -/
def scaleByte (m : Module) (s : Stream) (cl : Nat) (w : Swath) (d : TmDesc) (ix : List Nat) : Nat :=
  if d.op = 1 || padBlock d ix then 0x7F else readBits m s cl w d (8 * scaleAt d d.srcScale d.srcStride ix) 8

/-- Change the local store and side lane of one core, of which `w` bits from bit address `a` are written and, where a scale byte comes
with them, the byte at `sa`. -/
def writeLs (m : Module) (core a w : Nat) (sc : Option Nat) (sa : Nat) (g : Core → Core) : Module :=
  let m := noteBanks (clearPoisonBits (m.setCore core g) core a w) core lsTm [bankOf (a / 8)]
  if sc.isSome then clearPoison m core sa 1 else m

/-- Write `w` bits into the range through the byte-wise write of the page (R212). -/
def devWriteBits (m : Module) (p a w v : Nat) : Module :=
  let lo := a / 8
  let n := (a % 8 + w + 7) / 8
  devWrite m p lo (((m.part p).range.wrBits a w v).bytes lo n)

/-- Poison key of a cluster-store byte address. -/
def csPoisonKey (cl a : Nat) : Nat := cl * 33554432 + a / 64 % 33554432

/-- The ramp slots of a skewed tile are written with its first position. R84 gives them no content and the engine ignores it, so each
byte is a free value (R84, R225; log 1). -/
def rampSlots (m : Module) (c : Nat) (d : TmDesc) (base rows : Nat) : Module :=
  let sb := slotBytesOf d.fmt
  let v := m.freeCtr
  let m := m.setCore c fun k =>
    { k with ls := (range' 0 ((rows + 63) * 64)).foldl (fun ls i =>
        let t := i / 64
        let r := i % 64
        if r ≤ t ∧ t - r < rows then ls
        else (range' 0 sb).foldl (fun ls j => ls.put (base + i * sb + j) (Config.freeByte v (i * sb + j))) ls) k.ls }
  clearPoison { m with freeCtr := v + 1 } c base ((rows + 63) * 64 * sb)

/-- Deliver one position whose element is `v` and, at the first element of a scale block, scale byte `sc`. -/
def deliverPos (m : Module) (s : Stream) (cl : Nat) (w : Swath) (d : TmDesc) (ix : List Nat) (v : Nat)
    (sc : Option Nat) : Module :=
  let wd := fmtWidth d.fmt
  match d.dstLvl with
  | 0 =>
    let m := devWriteBits m s.part (dstBit d s.stepP1 ix).toNat wd v
    match sc with
    | some b => devWriteBits m s.part (8 * scaleAt d d.dstScale d.dstStride ix) 8 b
    | none => m
  | 1 =>
    let a := 8 * csAddr s.part 0 + (dstBit d s.stepP1 ix).toNat
    let sa := csAddr s.part (scaleAt d d.dstScale d.dstStride ix)
    (m.setRas fun r =>
      let t := coverBits r.poisonCs (cl * 33554432) a wd
      { r with poisonCs := if sc.isSome then coverBits t (cl * 33554432) (8 * sa) 8 else t }).setClu cl fun k =>
    let cs := k.cs.wrBits a wd v
    { k with cs := match sc with
      | some b => cs.put sa (BitVec.ofNat 8 b)
      | none => cs }
  | _ => foldM (targets w d) (fun m c =>
    match d.skew with
    | 1 =>
      let base := tileBase d s.stepP1 ix
      let (r, h) := d.rowOf (ix.getD 0 0)
      let a := base + (ix.getD 1 0 + r) * 64 * slotBytesOf d.fmt + r * slotBytesOf d.fmt
      let rows := if d.dimAt 0 = 1 then s.outer else d.cnt 1
      let m := if ix.getD 0 0 = 0 ∧ ix.getD 1 0 = 0 then rampSlots m c d base rows else m
      let bit := if d.pairs4 then 8 * a + 4 * h else 8 * a
      writeLs m c bit (if d.pairs4 then 4 else 8 * slotBytesOf d.fmt) none 0 fun k =>
        let old := k.side.get a
        let mark : BitVec 16 := BitVec.ofNat 16 (256 * 2 ^ h)
        let pad : BitVec 16 := if d.isPad ix then (old &&& 768) ||| mark else (old &&& 768) &&& ~~~mark
        let low : BitVec 16 := match sc with
          | some b => BitVec.ofNat 16 (b % 256)
          | none => old &&& 255
        { k with
          ls := if d.pairs4 then k.ls.wrBits (8 * a + 4 * h) 4 v else k.ls.wr a (slotBytesOf d.fmt) v
          side := (k.side.put a (low ||| pad)).put (rowsKey base) (BitVec.ofNat 16 rows) }
    | 2 =>
      let base := tileBase d s.stepP1 ix
      let a := base + feedOff d ix
      let bit := if d.pairs4 then 8 * a + 4 * (d.rowOf (ix.getD 0 0)).2 else 8 * a
      writeLs m c bit (if d.pairs4 then 4 else 8 * slotBytesOf d.fmt) sc (base + feedScaleOff d ix) fun k =>
        let ls := if d.pairs4 then k.ls.wrBits (8 * a + 4 * (d.rowOf (ix.getD 0 0)).2) 4 v
          else k.ls.wr a (slotBytesOf d.fmt) v
        { k with ls := match sc with
          | some b => ls.put (base + feedScaleOff d ix) (BitVec.ofNat 8 b)
          | none => ls }
    | _ =>
      let a := (dstBit d s.stepP1 ix).toNat
      writeLs m c a wd sc (scaleAt d d.dstScale d.dstStride ix) fun k =>
        let ls := k.ls.wrBits a wd v
        { k with ls := match sc with
          | some b => ls.put (scaleAt d d.dstScale d.dstStride ix) (BitVec.ofNat 8 b)
          | none => ls }) m

/-! ### Bundles and weight blocks put together (R223, R225, R226; log 43) -/

/-- The last index of a dimension that the stream visits. -/
def lastIx (d : TmDesc) (outer dim : Nat) : Nat := (if d.dimAt 0 = dim then outer else d.cnt dim) - 1

/-- Bytes of a weight block that a plain stream fills, and of the payload before its scale bytes: those of the descriptor that takes the
stream's tag (R86, R90, R225). -/
def plainBlock (m : Module) (w : Swath) (d : TmDesc) : Nat × Nat :=
  let tag := d.dst % 2 ^ 28
  let b := match (targets w d).head? with
    | some c => ((m.core c).planes.get w.plane).bytes
    | none => []
  match ((range' 0 64).map (meDesc b)).find? fun x => x.fromTm && x.wgtAddr % 2 ^ 28 == tag with
  | some x => (x.blockBytes, if d.scales then x.blockBytes - x.scaleBytes else x.blockBytes)
  | none => (4096 * slotBytesOf d.fmt, 4096 * slotBytesOf d.fmt)

/-- Elements of a block that a plain stream fills. -/
def plainElems (m : Module) (w : Swath) (d : TmDesc) : Nat := max 1 ((plainBlock m w d).2 * 8 / fmtWidth d.fmt)

/-- A plain stream to the front buffer: its bytes fill the blocks in the order of the stream, already in feed order. -/
def TmDesc.plainFb (d : TmDesc) : Bool := d.dstLvl == 3 && d.skew == 0

/-- Number of the bundle or weight block that a position belongs to, among those put together at once: a Q stream sends one bundle for
each run of dimension 0, a feed-order stream one block for each run of dimensions 0 and 1 (R225; DEDUCED, log 43). -/
def groupNo (d : TmDesc) (ix : List Nat) : Nat :=
  if d.plainFb then 0
  else (if d.dstLvl = 4 then ix.getD 1 0 else 0) + 65536 * (ix.getD 2 0 + 65536 * ix.getD 3 0)

/-- A position is the last of its bundle or weight block. -/
def groupEnds (m : Module) (s : Stream) (w : Swath) (d : TmDesc) (pos : Nat) : Bool :=
  let ix := d.indexAt pos
  if d.plainFb then (pos + 1) % plainElems m w d == 0
  else ix.getD 0 0 == lastIx d s.outer 0 && (d.dstLvl == 4 || ix.getD 1 0 == lastIx d s.outer 1)

/-- Space of one group in the stream's buffer. -/
def groupSpace : Nat := 1048576

/-- Put one position into its bundle or weight block. -/
def bufferPos (m : Module) (w : Swath) (d : TmDesc) (pos v : Nat) (sc : Option Nat) (b : Mem) : Mem :=
  let ix := d.indexAt pos
  let base := groupNo d ix * groupSpace
  let wd := fmtWidth d.fmt
  if d.dstLvl = 4 then b.wrBits (8 * base + ix.getD 0 0 * wd) wd v
  else if d.plainFb then
    let i := pos % plainElems m w d
    let b := b.wrBits (i * wd) wd v
    match sc with
    | some x => b.put ((plainBlock m w d).2 + i / 32) (BitVec.ofNat 8 x)
    | none => b
  else
    let a := base + feedOff d ix
    let b := if d.pairs4 then b.wrBits (8 * a + 4 * (d.rowOf (ix.getD 0 0)).2) 4 v else b.wr a (slotBytesOf d.fmt) v
    match sc with
    | some x => b.put (base + feedScaleOff d ix) (BitVec.ofNat 8 x)
    | none => b

/-- Header of the bundles of a Q stream: words 3 to 15 from the block at HDR_ADDR (R151, Table 8.4). -/
def qHeader (m : Module) (s : Stream) (cl : Nat) (d : TmDesc) : BitVec 512 :=
  flitOfWords fun i =>
    if i = 0 then tagWord kData d.tag else if i < 3 then 0
    else (m.clu cl).cs.rd (csAddr s.part (d.hdr + 4 * i)) 4

/-- Bundles of at most 255 payload flits from the bytes of a group. -/
def qBundles (b : List Byte) : Nat → List (List (BitVec 512))
  | 0 => []
  | n + 1 =>
    let flits := min 255 (ceilDiv b.length 64)
    if b = [] then [] else flitsOf b flits :: qBundles (b.drop (64 * flits)) n

/-- Bytes of a whole group. -/
def groupBytes (m : Module) (w : Swath) (d : TmDesc) (g : Nat) (b : Mem) : List Byte :=
  b.bytes (g * groupSpace)
    (if d.dstLvl = 4 then ceilDiv (d.cnt 0 * fmtWidth d.fmt) 8
     else if d.plainFb then (plainBlock m w d).1
     else 4096 * slotBytesOf d.fmt + (if d.scales then (if d.pairs4 then 256 else 128) else 0))

/-- The weight block that ends at a position of a stream, read again from the source (04 R109). -/
def blockAgain (m : Module) (s : Stream) (cl : Nat) (w : Swath) (d : TmDesc) (pos : Nat) : List Byte :=
  let g := groupNo d (d.indexAt pos)
  let mine (i : Nat) : Bool := if d.plainFb then i / plainElems m w d == pos / plainElems m w d else groupNo d (d.indexAt i) == g
  let buf := ((range' 0 (pos + 1)).filter mine).foldl (fun b i =>
    let ix := d.indexAt i
    let sc := if d.scales && ix.getD 0 0 % 32 = 0 then some (scaleByte m s cl w d ix) else none
    bufferPos m w d i (element m s cl w d ix) sc b) []
  groupBytes m w d g buf

/-- A whole group goes to every destination: a weight block into the front buffer, unless its tag's blocks are being discarded (R231),
or bundles into the queue. -/
def sendGroup (m : Module) (s : Stream) (cl : Nat) (w : Swath) (d : TmDesc) (bytes : List Byte) : Module :=
  foldM (targets w d) (fun m c =>
    if d.dstLvl = 3 then
      let tag := d.dst % 2 ^ 28
      m.setMe c fun me => if me.drop.contains tag then me else { me with front := me.front ++ [(tag, bytes)] }
    else foldM (qBundles bytes 65536) (fun m p => deliver m c d.dstQ (qHeader m s cl d) p) m) m

/-- Every destination of a group can take it: a free front-buffer slot (R90), or the queue has taken every flit of the bundle before
(R226). -/
def groupRoom (m : Module) (w : Swath) (d : TmDesc) : Bool :=
  (targets w d).all fun c =>
    if d.dstLvl = 3 then (m.core c).me.drop.contains (d.dst % 2 ^ 28) || decide ((m.core c).me.front.length < 2)
    else feedFree m c d.dstQ

/-! ### What a stream reads and writes (R209, R224, R231) -/

/-- Positions at which a scale block starts and its scale byte goes with them. -/
def scaleStarts (d : TmDesc) (ixs : List (List Nat)) : List (List Nat) :=
  if d.scales then ixs.filter fun ix => ix.getD 0 0 % 32 = 0 else []

/-- Bit addresses at the source that a list of positions reads, scale bytes among them. -/
def srcReads (d : TmDesc) (s : Stream) (ixs : List (List Nat)) : List Int :=
  if d.op = 0 then
    (ixs.filter fun ix => !d.isPad ix).map (srcBit d s.stepP1) ++
      ((scaleStarts d ixs).filter fun ix => !padBlock d ix).map fun ix => 8 * d.scaleOff d.srcScale d.srcStride ix
  else []
/-- Bit addresses in the range that a list of positions reads, and those it writes. -/
def devReads (d : TmDesc) (s : Stream) (ixs : List (List Nat)) : List Int :=
  if d.srcLvl = 0 then srcReads d s ixs else []
def devWrites (d : TmDesc) (s : Stream) (ixs : List (List Nat)) : List Int :=
  if d.dstLvl = 0 then ixs.map (dstBit d s.stepP1) ++
    (scaleStarts d ixs).map fun ix => 8 * d.scaleOff d.dstScale d.dstStride ix
  else []

/-- Lines of a list of bit addresses. -/
def linesOf (as : List Int) : List Nat := (as.map fun a => (a / 512).toNat).eraseDups

/-- Source lines that a stream reads for `n` positions from `pos`, without the one that it read last. -/
def freshLines (d : TmDesc) (s : Stream) (pos n : Nat) : Nat :=
  let last := if pos = 0 then [] else linesOf (srcReads d s [d.indexAt (pos - 1)])
  ((linesOf (srcReads d s ((range' pos n).map d.indexAt))).filter fun l => !last.contains l).length

/-! ### Issue (R227, R230, R231) -/

/-- Change the stream on a tile mover. -/
def setTm (m : Module) (cl mv : Nat) (g : Option Stream → Option Stream) : Module :=
  m.setClu cl fun k => { k with tm := k.tm.upd mv g }
/-- Change a cluster's tile-mover counters. -/
def setTmCnt (m : Module) (cl : Nat) (g : TmCnt → TmCnt) : Module :=
  if (m.clu cl).freeze.getLsbD 4 then m else m.setClu cl fun k => { k with tmCnt := g k.tmCnt }

/-- Record the end of an entry's issue; blocks of its tag are no longer discarded. -/
def markEnded (m : Module) (p key step2 : Nat) (cancelled : Bool) : Module :=
  m.setPart p fun x =>
    { x with issueEnded := x.issueEnded.put key step2
             issueCancelled := if cancelled then x.issueCancelled.put key step2 else x.issueCancelled }

/-- The stream of a front-buffer tag has ended: later blocks of the tag are taken again (R231). -/
def clearDrop (m : Module) (w : Swath) (d : TmDesc) : Module :=
  if d.dstLvl = 3 then
    foldM (targets w d) (fun m c => m.setMe c fun me => { me with drop := me.drop.filter (· ≠ d.dst % 2 ^ 28) }) m
  else m

/-- A cancelled Q stream sends one marker with its tag to every destination (R231). -/
def cancelMarker (m : Module) (s : Stream) (cl : Nat) (w : Swath) (d : TmDesc) : Module :=
  if d.dstLvl = 4 then
    foldM (targets w d) (fun m c => deliver m c d.dstQ (markerOf d.tag (qHeader m s cl d)) []) m
  else m

/-- Key of a gate in a step: swath, step (index plus one), core, queue (R230). -/
def gateKey (swath stepP1 core q : Nat) : Nat := ((swath * 2 ^ 64 + stepP1) * 4096 + core) * 16 + q

/-- Gate of an entry in a step. -/
def entryGate (w : Swath) (d : TmDesc) (stepP1 : Nat) : Nat := gateKey w.id stepP1 (w.cores.getD d.gateCore 0) d.gateQ

/-- The model's step in progress runs this swath's model. -/
def modelRuns (m : Module) (p : Nat) (w : Swath) : Option RunStep :=
  (runningStep m p).bind fun st => st.runs.find? fun r => r.model == w.model && !r.finished

/-- The model's step, pre-empted or not, and its fold. -/
def modelStep (m : Module) (p : Nat) (w : Swath) : Option RunStep :=
  (m.part p).step.bind fun st => st.runs.find? fun r => r.model == w.model && !r.finished

/-- Step (index plus two, PRELOAD 1) that an entry is issued for next (R227). -/
def nextIssue (x : Part) (w : Swath) (d : TmDesc) (entry : Nat) : Nat :=
  max (max (x.issued.get (entryKey w.id entry) + 1) (x.issueFloor.get w.id)) (if d.preload then 1 else 2)

/-- The issue of an entry in a step has ended, or there is no such issue (R227; log 18). -/
def issueOver (x : Part) (w : Swath) (entry step2 : Nat) : Bool :=
  decide (step2 ≤ x.issueEnded.get (entryKey w.id entry)) || decide (step2 < x.issueFloor.get w.id) ||
    (step2 == 1 && !(tmDesc w.schedule entry).preload)

/-- The trigger of an entry has come in the step `step2` - 2: its launch, the release that activates the swath's fold, or the end of
DEP's issue. An entry that is part of its fold runs in the step in progress alone (R227, R228). -/
def triggered (m : Module) (p : Nat) (w : Swath) (d : TmDesc) (step2 : Nat) : Bool :=
  let x := m.part p
  let current := decide (x.steps.get w.id + 1 = step2)
  let runs := d.prefetch || (current && (modelRuns m p w).isSome)
  if step2 = 1 then true
  else match d.trig with
    | 0 => runs
    | 1 => runs && (match modelStep m p w with
      | some r => !current || decide (w.foldIndex ≤ r.fold)
      | none => true)
    | _ => runs && issueOver x w d.dep (step2 - b2n d.prev)

/-- An issue whose trigger has come: a free tile mover takes it, or it is cancelled at once; none while it waits for the entry's issue
before it, for its gate count or for a tile mover (R227, R230, R231). -/
def issueNow (m : Module) (part cl : Nat) (w : Swath) (d : TmDesc) (entry : Nat) : Option Module :=
  let x := m.part part
  let key := entryKey w.id entry
  let step2 := nextIssue x w d entry
  let gk := entryGate w d (step2 - 1)
  let taken := x.gateTaken.get gk
  let known := (x.gates.get gk)[taken]?
  let gated := d.gate ≠ 0 && step2 ≠ 1
  let outer0 := d.cnt (d.dimAt 0)
  let outer := match d.gate, known with
    | 2, some c => if gated ∧ 0 < d.gateDiv then min outer0 (ceilDiv c d.gateDiv) else outer0
    | _, _ => outer0
  let s : Stream := { part := part, swath := w.id, entry := entry, stepP1 := step2 - 1, outer := outer
                      gateIx := if gated then some taken else none }
  let depGone := d.trig = 2 && !d.prev && x.issueCancelled.get (entryKey w.id d.dep) = step2
  let note (m : Module) := m.setPart part fun x =>
    { x with issued := x.issued.put key step2
             gateTaken := if gated then x.gateTaken.put gk (taken + 1) else x.gateTaken }
  if (openStreams m part).any fun s => s.swath == w.id && s.entry == entry then none
  else if depGone || (gated && known == some 0) then
    let m := clearDrop (markEnded (note m) part key step2 true) w d
    let m := setTmCnt m cl fun c =>
      { c with streams := satAdd c.streams 1, cancel := satAdd c.cancel 1
               cancelLines := satAdd c.cancelLines (freshLines d s 0 (d.positions outer0)) }
    some (cancelMarker m s cl w d)
  else if gated && d.gate = 2 && known.isNone then none
  else match (range' 0 8).find? fun i => ((m.clu cl).tm.get i).isNone with
    | none => none
    | some mv =>
      let m := setTm (note m) cl mv fun _ => some s
      some (setTmCnt m cl fun c => { c with streams := satAdd c.streams 1 })

/-- Issue an entry whose trigger has come, or let it wait for a gate count or a tile mover. -/
def issueEntry (m : Module) (part : Nat) (w : Swath) (entry : Nat) : Module :=
  let x := m.part part
  let d := tmDesc w.schedule entry
  let key := entryKey w.id entry
  let step2 := nextIssue x w d entry
  if w.entries ≤ entry || !w.ready || (d.prefetch && x.swaps.any fun sw => sw.held && sw.model == w.model) ||
      decide (x.steps.get w.id + 1 < step2) || !triggered m part w d step2 then m
  else match clusterFor w d.lcluster with
  | none => m
  | some cl =>
    match issueNow m part cl w d entry with
    | some m => m.setPart part fun x => { x with tmWait := x.tmWait.erase key }
    | none => m.setPart part fun x => { x with tmWait := if x.tmWait.contains key then x.tmWait else x.tmWait ++ [key] }

/-- A schedule entry's trigger and OFFSET_CC have passed: it is issued, cancelled at once, or waits (R227, R230, R231). -/
def tmStreamIssue (part swath entry : Nat) (m : Module) : Module :=
  match swathOf m part swath with
  | some w => issueEntry m part w entry
  | none => m

/-- Insert a key in increasing entry number, then in increasing key. -/
def insertKey (k : Nat) : List Nat → List Nat
  | [] => [k]
  | a :: as => if (k % 65536, k).1 < a % 65536 || (k % 65536 == a % 65536 && decide (k ≤ a)) then k :: a :: as
      else a :: insertKey k as

/-- The entries that wait try again, the lowest index first (R227). -/
def issueWaiting (m : Module) (p : Nat) : Module :=
  foldM (((m.part p).tmWait).foldl (fun l k => insertKey k l) []) (fun m k =>
    match swathOf m p (k / 65536) with
    | some w => issueEntry m p w (k % 65536)
    | none => m.setPart p fun x => { x with tmWait := x.tmWait.erase k }) m

/-- The entries that wait in any partition try again: a tile mover has become free. -/
def issueAll (m : Module) : Module := foldM m.parts.keys issueWaiting m

/-- One cycle with nothing commanded: that of the data path, and waiting entries take the tile movers that are free (R227; log 6). -/
def blockCycle (m : Module) : Module := issueAll (idleCycle m)

/-- A closing bundle at a gate gives its gate count: that of the oldest closing bundle noted there on arrival, or, where none is noted,
the count named. A count of 0 cancels the stream that takes it, and entries that waited for the count go on (R230, R231; log 18). -/
def tmGateCount (core : Nat) (queue : BitVec 4) (count : Nat) (m : Module) : Module :=
  match activePlane (m.core core) with
  | none => m
  | some (_, pl) =>
    let p := pl.part
    let q := queue.toNat
    let noted := (m.core core).closings.get q
    let n := noted.headD count
    let l := (m.part p).steps.get pl.swath
    let key := gateKey pl.swath l core q
    let ix := ((m.part p).gates.get key).length
    let m := m.setCore core fun c => { c with closings := c.closings.put q noted.tail }
    let m := m.setPart p fun x => { x with gates := x.gates.upd key (· ++ [n]) }
    let takes (t : Stream) : Bool := t.part == p && t.swath == pl.swath && t.stepP1 == l && t.gateIx == some ix &&
      (match streamInfo m t with
        | some (w, d) => d.gate == 1 && entryGate w d l == key
        | none => false)
    let m := if n ≠ 0 then m
      else
        let m := m.setPart p fun x =>
          { x with savedStreams := x.savedStreams.map fun y => if takes y.2 then (y.1, { y.2 with cancelled := true }) else y }
        foldM (streamsOf m p) (fun m y =>
          if takes y.2.2 then setTm m y.1 y.2.1 fun o => o.map fun t => { t with cancelled := true } else m) m
    issueWaiting m p

/-! ### Data (R219, R224 to R226, R228, R231, R236) -/

/-- Poisoned line of the cluster store that positions of a stream read (R449). -/
def csPoisoned (m : Module) (s : Stream) (cl : Nat) (d : TmDesc) (ixs : List (List Nat)) : Option Nat :=
  if d.srcLvl = 1 then
    ((srcReads d s ixs).map fun a => csAddr s.part 0 + (a / 8).toNat).find? fun a =>
      m.ras.poisonCs.get (csPoisonKey cl a) != 0
  else none

/-- Core and poisoned line of its local store that positions of a stream read (R449). -/
def lsPoisoned (m : Module) (s : Stream) (w : Swath) (d : TmDesc) (ixs : List (List Nat)) : Option (Nat × Nat) :=
  match (targets w d).head? with
  | some c =>
    if d.srcLvl = 2 then (((srcReads d s ixs).map fun a => (a / 8).toNat).find? (linePoisoned m c)).map ((c, ·)) else none
  | none => none

/-- Poisoned data of the cluster store reached a stream: UE, and the abort of the task (R449). -/
def csFault (m : Module) (s : Stream) (cl a : Nat) : Module :=
  let m := raise m 0x0304 s.part (dieOfCluster cl) [32, cl, a]
  let m := m.setRas fun r => { r with ue := satAdd r.ue 1, ueBit := true }
  faultTask m s.part .failFault (fun f => evsnOf m f)

/-- The first address outside the range (R209). -/
def outOfRange (m : Module) (p : Nat) (as : List Int) : Option Nat :=
  (as.find? fun a => decide (a < 0 ∨ (8 * rangeEnd m p : Int) ≤ a)).map fun a => (a / 8).toNat

/-- Bucket of the tier that backs a line. -/
def lineTier (m : Module) (p line : Nat) : Option Nat :=
  (((m.part p).pages.get (line * 64 / pageSize)).tier).map Tier.idx

/-- Line of the destination that a position writes; positions of one line are delivered together (R236). -/
def dstLine (d : TmDesc) (s : Stream) (pos : Nat) : Int :=
  let ix := d.indexAt pos
  match d.dstLvl, d.skew with
  | 2, 1 =>
    let r := (d.rowOf (ix.getD 0 0)).1
    ((tileBase d s.stepP1 ix + (ix.getD 1 0 + r) * 64 * slotBytesOf d.fmt + r * slotBytesOf d.fmt) / 64 : Nat)
  | 2, 2 => ((tileBase d s.stepP1 ix + feedOff d ix) / 64 : Nat)
  | _, _ => dstBit d s.stepP1 ix / 512

/-- Go on to the end of the destination line that position `pos` - 1 writes; at most 512 positions share a line. -/
def lineEnd (d : TmDesc) (s : Stream) (total : Nat) : Nat → Nat → Nat
  | 0, pos => pos
  | fuel + 1, pos =>
    if total ≤ pos || pos = 0 || dstLine d s pos ≠ dstLine d s (pos - 1) then pos
    else lineEnd d s total fuel (pos + 1)

/-- Positions of a tile, the loops of the two innermost dimensions: a fold stream stops between two of them (R228; DEDUCED, log 35). -/
def TmDesc.tile (d : TmDesc) : Nat := max 1 (d.cnt (d.dimAt 2) * d.cnt (d.dimAt 3))

/-- A fold stream must stop at its next tile boundary: its step is pre-empted, or is no longer there (R228, R345). -/
def stopping (m : Module) (s : Stream) (d : TmDesc) : Bool :=
  !d.prefetch && (match (m.part s.part).step with
    | some st => st.preempted
    | none => s.stepP1 ≠ 0)

/-- The stream stands at a tile boundary, or has delivered everything. -/
def atTile (s : Stream) (d : TmDesc) : Bool :=
  decide (d.positions s.outer ≤ s.pos) || s.cancelled || (decide (s.pos % d.tile = 0) && s.buf.isEmpty)

/-- Positions that a return of `count` positions delivers: whole lines of the destination, at most one bundle or weight block to its end,
and none beyond the tile boundary at which a pre-empted stream stops (R219, R228, R236). -/
def returnSize (m : Module) (s : Stream) (w : Swath) (d : TmDesc) (count : Nat) : Nat :=
  let total := d.positions s.outer
  let n := min count (total - s.pos)
  let n := if d.dstLvl = 3 ∨ d.dstLvl = 4 then
      match (range' 0 n).find? fun i => groupEnds m s w d (s.pos + i) with
      | some i => i + 1
      | none => n
    else if n = 0 then 0 else lineEnd d s total 512 (s.pos + n) - s.pos
  if stopping m s d then (if atTile s d then 0 else min n (d.tile - s.pos % d.tile)) else n

/-- The data of `count` positions of a stream's reads returns and is written to its destinations; on a cancelled stream it
is discarded (R219, R224 to R226, R231). -/
def tmReadReturn (cluster : Nat) (mover : BitVec 3) (count : Nat) (m : Module) : Module :=
  let mv := mover.toNat
  match (m.clu cluster).tm.get mv with
  | none => m
  | some s =>
    match streamInfo m s with
    | none => m
    | some (w, d) =>
      let n := returnSize m s w d count
      let buffered := decide (d.dstLvl = 3 ∨ d.dstLvl = 4)
      let ends := buffered && groupEnds m s w d (s.pos + n - 1)
      let ixs := (range' s.pos n).map d.indexAt
      let rd := devReads d s ixs
      let wr := devWrites d s ixs
      let lines := linesOf rd ++ linesOf wr
      let tiers := (lines.filterMap (lineTier m s.part)).eraseDups
      let busy := ceilDiv (n * fmtWidth d.fmt) 2048
      if n = 0 then m
      else if s.cancelled then
        let m := setTm m cluster mv fun o => o.map fun s => { s with pos := s.pos + n }
        setTmCnt m cluster fun c =>
          { c with discardLines := satAdd c.discardLines (freshLines d s s.pos n), busy := satAdd c.busy busy }
      else if tiers.any (regEmpty m s.part) then setTm m cluster mv fun o => o.map fun s => { s with cause := .reg }
      else if ends && !groupRoom m w d then m
      else match outOfRange m s.part (rd ++ wr) with
      | some a => rangeFault m s.part a
      | none =>
        match lines.find? fun l => ((m.part s.part).pages.get (l * 64 / pageSize)).poison with
        | some l => tierFault m s.part (l * 64 / pageSize)
        | none => match csPoisoned m s cluster d ixs with
        | some a => csFault m s cluster a
        | none => match lsPoisoned m s w d ixs with
        | some (c, a) => coreUncorrectable m c 0x0304 [0, c, a]
        | none =>
          let m := foldM (linesOf rd) (fun m l => noteRead m s.part (64 * l) 64) m
          let m := foldM tiers (fun m t =>
            regTake m s.part t (lines.filter fun l => lineTier m s.part l == some t).length) m
          let (m, buf) := (range' s.pos n).foldl (fun (a : Module × Mem) pos =>
            let ix := d.indexAt pos
            let v := element a.1 s cluster w d ix
            let sc := if d.scales && ix.getD 0 0 % 32 = 0 then some (scaleByte a.1 s cluster w d ix) else none
            if buffered then (a.1, bufferPos a.1 w d pos v sc a.2) else (deliverPos a.1 s cluster w d ix v sc, a.2)) (m, s.buf)
          let g := groupNo d (d.indexAt (s.pos + n - 1))
          let bytes := if ends then groupBytes m w d g buf else []
          let m := if ends then sendGroup m s cluster w d bytes else m
          let buf := if ends then buf.filter fun c => c.1 / groupSpace ≠ g else buf
          let m := setTm m cluster mv fun o => o.map fun s => { s with pos := s.pos + n, buf := buf, cause := .bw }
          let m := m.setPart s.part fun x => { x with step := x.step.map fun t => { t with stall := 0 } }
          let k := (targets w d).length
          let out := ((range' s.pos n).map (dstLine d s)).eraseDups
          let given := if buffered then ceilDiv bytes.length 64 else out.length
          setTmCnt m cluster fun c =>
            { c with busy := satAdd c.busy busy, rdLines := satAdd c.rdLines (linesOf rd).length
                     wrLines := satAdd c.wrLines (linesOf wr).length
                     mcast := if 2 ≤ d.dstLvl then satAdd c.mcast (given * (k - 1)) else c.mcast
                     padLines := satAdd c.padLines
                       (((range' s.pos n).filter fun i => d.isPad (d.indexAt i)).map fun i =>
                         if buffered then ((i * fmtWidth d.fmt / 512 : Nat) : Int) else dstLine d s i).eraseDups.length }

/-- Every flit that a Q stream delivered has found room in its queue. -/
def delivered (m : Module) (w : Swath) (d : TmDesc) : Bool :=
  d.dstLvl != 4 || (targets w d).all fun c => feedFree m c d.dstQ

/-- A stream that has delivered every position, or is cancelled, ends: its tile mover is free and its entry's issue has
ended; entries that waited go on (R227, R228, R231). -/
def tmStreamEnd (cluster : Nat) (mover : BitVec 3) (m : Module) : Module :=
  let mv := mover.toNat
  match (m.clu cluster).tm.get mv with
  | none => m
  | some s =>
    match streamInfo m s with
    | none => issueAll (setTm m cluster mv fun _ => none)
    | some (w, d) =>
      let left := d.positions s.outer - s.pos
      if (left ≠ 0 && !s.cancelled) || !delivered m w d then m
      else
        let m := setTm m cluster mv fun _ => none
        let m := clearDrop (markEnded m s.part (entryKey s.swath s.entry) (s.stepP1 + 1) s.cancelled) w d
        let m := if s.cancelled then
            let m := setTmCnt m cluster fun c =>
              { c with cancel := satAdd c.cancel 1, cancelLines := satAdd c.cancelLines (freshLines d s s.pos left) }
            cancelMarker m s cluster w d
          else m
        issueAll m

/-! ### Migration (R212) -/

/-- The translation of a migrating page is switched to its new frame; the target frame, held since the copy started, becomes
a backed page of its tier (R212, R311). -/
def migrationSwitch (m : Module) (p page : Nat) (g : Page) (mg : Migration) : Module :=
  let (f, m) := freeFrame m mg.toTier.idx []
  let m := match g.tier with
    | some t => subUsed m p t.idx 1
    | none => m
  let m := setPage m p page fun x =>
    { x with tier := some mg.toTier, place := mg.toPlace, frame := f, mig := none, locked := x.locked || mg.lockAfter }
  let m := addUsed (subRsvd m p mg.toTier.idx 1) p mg.toTier.idx 1
  m.setMemRegs p fun r => { r with migrated := satAdd r.migrated 1 }

/-- A copy pass of a migrating page ends: at most 64 lines left marked, the page is switched; else another pass copies
them. The item that waits for it completes with its last page. The lines copied are charged to the buckets of both tiers
(R212, R311, R351). -/
def migrationPass (part page dirty : Nat) (m : Module) : Module :=
  let g := (m.part part).pages.get page
  match g.mig with
  | none => m
  | some mg =>
    let left := max dirty mg.dirty.length
    let lines := if mg.pass = 1 then pageSize / 64 else left
    let tiers := (match g.tier with
      | some t => [t.idx]
      | none => []) ++ [mg.toTier.idx]
    if tiers.any (regEmpty m part) then m
    else
    let m := foldM tiers (fun m t => regTake m part t lines) m
    if 64 < left then
      setPage m part page fun x => { x with mig := some { mg with dirty := [], pass := mg.pass + 1 } }
    else
      let m := migrationSwitch m part page g mg
      match mg.item with
      | none => m
      | some i =>
        let m := setItem m i fun x => { x with progress := x.progress + 1 }
        if migratingFor m part i then m
        else finishV m i .done 0

/-! ### Meanings -/

def execTmStreamIssue (part swath entry : Nat) (s : State) : Host.Outcome State Fault Refusal :=
  guarded (partOk part && decide (swath < 2 ^ 64) && decide (entry < 65536)) (tmStreamIssue part swath entry) s
def execTmReadReturn (cluster : Nat) (mover : BitVec 3) (count : Nat) (s : State) : Host.Outcome State Fault Refusal :=
  guarded (clusterOk cluster) (tmReadReturn cluster mover count) s
def execTmStreamEnd (cluster : Nat) (mover : BitVec 3) (s : State) : Host.Outcome State Fault Refusal :=
  guarded (clusterOk cluster) (tmStreamEnd cluster mover) s
def execTmGateCount (core : Nat) (queue : BitVec 4) (count : Nat) (s : State) : Host.Outcome State Fault Refusal :=
  guarded (coreOk core) (tmGateCount core queue count) s
def execMigrationPass (part page dirty : Nat) (s : State) : Host.Outcome State Fault Refusal :=
  guarded (partOk part) (migrationPass part page dirty) s

end Sys2Proof.Machine
end

