-- ==== Sys2Proof/Machine/Jobs.lean ====
section
/-! DEFINITION. Multi-module jobs: opening a job, frames, stop, ramp and replay orders, transfers of fabric programs
(13_fabric R358, R374 to R383, R386, 17_faults R455, R456). -/

namespace Sys2Proof.Machine

/-! ### Opening and closing a job (R375) -/

/-- The rank map at its device address: NRANKS entries of 4 bytes, X, Y, Z and a reserved byte. -/
def rankMap (m : Module) (p : Nat) : List Coord :=
  let f := m.fab p
  (range' 0 f.nranks).map fun r =>
    let a := f.mapAddr + 4 * r
    { x := devNum m p a 1, y := devNum m p (a + 1) 1, z := devNum m p (a + 2) 1 }

/-- A coordinate lies in the slice. -/
def inSlice (s : SliceRec) (c : Coord) : Bool := decide (c.x < s.dim.x ∧ c.y < s.dim.y ∧ c.z < s.dim.z)

/-- The rank map lets the job open: it lies in the range, every coordinate lies in the slice, no module is named twice, and
the entry at RANK is this module. -/
def mapOk (m : Module) (p : Nat) : Bool :=
  let f := m.fab p
  let cs := rankMap m p
  match m.fabric.slice with
  | none => false
  | some s => decide (f.mapAddr + 4 * f.nranks ≤ rangeEnd m p) && cs.all (inSlice s) && decide cs.Nodup &&
      cs[f.rank]? == some s.at_

/-- A write of FAB_JOB: JOB_ID and GEN change only while EN is 0; the write of EN = 1 reads the rank map and opens the job,
unless R375 refuses it (R375, Table 13.11). -/
def fabJobWrite (fn : Nat) (value : Word) (m : Module) : Module :=
  regWrite m fn blkFab 0x104 fun m =>
    let p := selPart m fn blkFab
    let f := m.fab p
    let v := value.toNat
    let job := bits v 16 16
    let gen := bits v 8 8
    let en := bit v 0
    if f.en && (job != f.job || gen != f.gen) then refuseFab m p 0x104
    else if en && (decide (job = 0) || !(m.part p).runs.isEmpty || !mapOk m p) then refuseFab m p 0x104
    else (if en then noteRead m p f.mapAddr (4 * f.nranks) else m).setFab p fun f =>
      { f with job := job, gen := gen, fwd := bit v 1, en := en, map := if en then rankMap m p else []
               halted := if en then (f.en && f.halted) else false }

/-- Execute FAB_JOB_EN. -/
def execFabJobEn (fn : Nat) (value : Word) (s : State) : Host.Outcome State Fault Refusal :=
  guarded (fnOk fn) (fabJobWrite fn value) s

/-! ### Stop, ramp and replay orders (R374, R386, R420, R455, R456) -/

/-- Partitions whose open job has an identity. -/
def jobParts (m : Module) (job gen : Nat) : List Nat :=
  m.fabParts.keys.filter fun p => (m.fab p).en && (m.fab p).job == job && (m.fab p).gen == gen

/-- A stop order acts: jobs that use the named link fail FAIL_LINK with the local link on which the order came; a job named
by its identity fails FAIL_FENCE with the fenced core (R386, R455). -/
def actOnStop (m : Module) (link : Nat) (lost : Option (Coord × Nat)) (job gen core : Nat) : Module :=
  match lost with
  | some (c, l) => stopJobsOn m c l link
  | none => foldM (jobParts m job gen) (fun m p => markStopped (abortTask m p .failFence fun _ => core) p) m

/-- A class 2 ramp order is held for its boundary (R420). -/
def actOnRamp (m : Module) (slope boundary : Nat) : Module :=
  m.setPower fun w => { w with rampOrder := some ⟨slope, boundary⟩ }

/-- Core that a rank names in a replay whose fence struck another module. -/
def noCore : Nat := 0xFFFF

/-- The step of a partition that a replay order names: in progress, or finished with its results not yet processed. -/
def stepNamed (m : Module) (p model step : Nat) : Option (List RunStep) :=
  let hit (rs : List RunStep) := rs.any fun r => r.model == model && r.index == step
  match (m.part p).step with
  | some s => if hit s.runs then some s.runs else none
  | none => if hit (m.part p).results then some (m.part p).results else none

/-- A replay order acts on one partition: it abandons the step and relaunches it at the replay boundary; a second order for
the step stops the job (R456). -/
def replayPart (m : Module) (p model step boundary : Nat) : Module :=
  match (m.part p).replay with
  | some r =>
    if !(r.runs.any fun s => s.model == model && s.index == step) then m
    else if r.at?.isSome then jobStop m p r.core
    else m.setPart p fun x => { x with replay := some { r with at? := some boundary, waitRanks := true } }
  | none => match stepNamed m p model step with
    | none => m
    | some rs =>
      (clearStep m p).setPart p fun x =>
        { x with results := [], replay := some { runs := rs, core := noCore, at? := some boundary, waitRanks := true } }

/-- A replay order acts on every partition whose open job it names. -/
def actOnReplay (m : Module) (job gen model step boundary : Nat) : Module :=
  foldM (jobParts m job gen) (fun m p => if (m.fab p).halted then m else replayPart m p model step boundary) m

/-- A message from a link: the first copy is recorded, acts, and is forwarded on every other UP link; later copies are
dropped (R374). -/
def takeHedge (m : Module) (link : Nat) (origin : Coord) (oseq cls : Nat) (payload : List Nat) (act : Module → Module) :
    Module :=
  if (m.link link).st ≠ .up || !firstSeen m origin oseq then m
  else
    let m := m.setFabric fun f => { f with seen := (origin, oseq) :: f.seen }
    act (forwardHedge m (some link) origin oseq cls payload)

/-- What the payload of a message orders. -/
def actOnPayload (link cls : Nat) (payload : List Nat) (m : Module) : Module :=
  match cls, payload with
  | 1, [1, job, gen, core] => actOnStop m link none job gen core
  | 1, [0, x, y, z, l] => actOnStop m link (some (⟨x, y, z⟩, l)) 0 0 0
  | 2, [slope, boundary] => actOnRamp m slope boundary
  | 3, [job, gen, model, step, boundary] => actOnReplay m job gen model step boundary
  | _, _ => m

/-- Payload of a stop order. -/
def stopPayload (lost : Option (Coord × Nat)) (job gen core : Nat) : List Nat :=
  match lost with
  | some (c, l) => stopLinkOrder c l
  | none => stopJobOrder job gen core

/-- JOB_STOP_ORDER. -/
def jobStopOrderFn (link : Nat) (origin : Coord) (oseq : Nat) (lost : Option (Coord × Nat)) (job gen core : Nat)
    (m : Module) : Module :=
  takeHedge m link origin oseq 1 (stopPayload lost job gen core) fun m => actOnStop m link lost job gen core

/-- Execute JOB_STOP_ORDER. -/
def execJobStopOrder (link : Nat) (origin : Coord) (oseq : Nat) (lostLink : Option (Coord × Nat)) (job gen core : Nat)
    (s : State) : Host.Outcome State Fault Refusal :=
  guarded (linkOk link && coreOk core) (jobStopOrderFn link origin oseq lostLink job gen core) s

/-- RAMP_ORDER: forwarded, and held for its boundary (R374, R420). -/
def rampOrderFn (link : Nat) (origin : Coord) (oseq slope boundary : Nat) (m : Module) : Module :=
  takeHedge m link origin oseq 2 [slope, boundary] fun m => actOnRamp m slope boundary

/-- Execute RAMP_ORDER. -/
def execRampOrder (link : Nat) (origin : Coord) (oseq slope boundary : Nat) (s : State) :
    Host.Outcome State Fault Refusal :=
  guarded (linkOk link) (rampOrderFn link origin oseq slope boundary) s

/-- REPLAY_ORDER (R456). -/
def replayOrderFn (job gen model step boundary : Nat) (m : Module) : Module := actOnReplay m job gen model step boundary

/-- Execute REPLAY_ORDER. -/
def execReplayOrder (job gen model step boundary : Nat) (s : State) : Host.Outcome State Fault Refusal :=
  guarded true (replayOrderFn job gen model step boundary) s

/-! ### Routing of data frames (R358, R376) -/

/-- Link and dateline lane of a data frame by dimension order: the link at position CHANNEL mod G of the direction's group; lane 1 from
the hop between coordinates D − 1 and 0 on, 0 on a new axis; none when that link is not UP. `from_` is the axis and lane the frame came
on. -/
def frameLink (m : Module) (from_ : Option (Nat × Nat)) (dest : Coord) (chan : Nat) : Option (Nat × Nat) :=
  match m.fabric.slice with
  | none => none
  | some s => match diffAxis s.at_ dest with
    | none => none
    | some ax =>
      let plus := goPlus s.dim s.at_ dest ax
      let l := (dirLinks s.mode3 ax plus).getD (chan % groupSize s.mode3) 0
      let at_ := coordAx s.at_ ax
      let next := coordAx (neighbour s.dim s.at_ ax plus) ax
      let top := coordAx s.dim ax - 1
      let wraps := (at_ == top && next == 0) || (at_ == 0 && next == top)
      let lane := if wraps then 1 else match from_ with
        | some (a, n) => if a = ax then n else 0
        | none => 0
      if (m.link l).st = .up then some (l, lane) else none

/-- Send or forward a data frame. -/
def routeFrame (m : Module) (from_ : Option (Nat × Nat)) (dest : Coord) (chan : Nat) (mk : Nat → FrameBody) : Module :=
  match frameLink m from_ dest chan with
  | some (l, lane) => sendFrame m l (mk lane)
  | none => m

/-- A frame of a transfer has gone over a link (R383). -/
def noteFrame (m : Module) (p prog idx l : Nat) : Module :=
  { m with xfers := m.xfers.map fun x =>
      if x.part == p && x.prog == prog && x.idx == idx then { x with frames := x.frames.put l (some m.tick.ns) } else x }

/-- Payload of a frame. -/
def frameBytes : Nat := 256

/-- A program's place among those of a partition: by model, then by fold. -/
def progBefore (m : Module) (p a b : Nat) : Bool :=
  match swathOf m p a, swathOf m p b with
  | some v, some w => decide (v.model < w.model ∨ (v.model = w.model ∧ v.foldIndex < w.foldIndex))
  | _, _ => false

/-- Put a program in its place. -/
def insertProg (m : Module) (p a : Nat) : List Nat → List Nat
  | [] => [a]
  | b :: bs => if progBefore m p a b then a :: b :: bs else b :: insertProg m p a bs

/-- The transfers of a channel on this rank, as (program, descriptor): the folds' programs in order, each in descriptor order. The
*k*-th pairs with the *k*-th on every other rank (R379). -/
def chanOrder (m : Module) (p chan : Nat) : List (Nat × Nat) :=
  ((m.part p).fabProgs.foldr (fun g l => insertProg m p g.swath l) []).flatMap fun prog =>
    match (m.part p).fabProgs.find? fun g => g.swath == prog with
    | some g => ((range' 0 (g.bytes.rd 0x10 4)).filter fun i => (xfDesc g.bytes i).chan == chan).map fun i => (prog, i)
    | none => []

/-- Place of a transfer in its channel. -/
def chanPlace (m : Module) (p prog idx chan : Nat) : Nat := (chanOrder m p chan).findIdx fun x => x == (prog, idx)

/-- Send a run of bytes of a transfer to a rank, 256 bytes a frame, from byte `off` of the sender's slot or chunk. -/
def sendRun (p : Nat) (prog idx : Nat) (d : XfDesc) (dest : Coord) (bytes : List Byte) (off0 : Nat) (m : Module) : Module :=
  let f := m.fab p
  let n := max 1 (ceilDiv bytes.length frameBytes)
  let m := match frameLink m none dest d.chan with
    | some (l, _) => noteFrame m p prog idx l
    | none => m
  foldM (range' 0 n) (fun m k =>
    routeFrame m none dest d.chan fun lane =>
      .data f.job f.gen d.chan dest lane (chanPlace m p prog idx d.chan) d.shape f.rank (off0 + frameBytes * k)
        ((bytes.drop (frameBytes * k)).take frameBytes) (decide (k + 1 = n))) m

/-! ### Transfers (R378 to R383) -/

/-- The fabric program of a loaded swath. -/
def fabProgOf (m : Module) (p prog : Nat) : Option FabProg := (m.part p).fabProgs.find? fun g => g.swath == prog

/-- ENTRIES of a fabric program's header. -/
def FabProg.entries (g : FabProg) : Nat := g.bytes.rd 0x10 4

/-- Descriptor `idx` of a program. -/
def descOf (m : Module) (p prog idx : Nat) : Option XfDesc :=
  (fabProgOf m p prog).bind fun g => if idx < g.entries then some (xfDesc g.bytes idx) else none

/-- Bytes of one rank's chunk of a reduction. -/
def chunkLen (f : FabPart) (d : XfDesc) : Nat := d.len / f.nranks

/-- A transfer in progress, or a fresh record of it. -/
def xferOf (m : Module) (p prog idx : Nat) : Xfer :=
  (m.xfers.find? fun x => x.part == p && x.prog == prog && x.idx == idx).getD
    { part := p, prog := prog, idx := idx, step := 0 }

/-- Write the record of a transfer. -/
def putXfer (m : Module) (x : Xfer) : Module :=
  { m with xfers := x :: m.xfers.filter fun y => !(y.part == x.part && y.prog == x.prog && y.idx == x.idx) }

/-- Write landed bytes into the receive region: outside the range or in a poisoned page the task fails (R209, R234). -/
def landAt (m : Module) (p a : Nat) (bs : List Byte) : Module :=
  if rangeEnd m p < a + bs.length then rangeFault m p a
  else match poisonedIn m p a bs.length with
  | some g => tierFault m p g
  | none => tierTake (devWrite m p a bs) p a bs.length

/-- The (S, C) pairs of a contribution. -/
def pairsOf (bs : List Byte) : List (F32 × F32) :=
  (range' 0 (bs.length / 8)).map fun i =>
    (BitVec.ofNat 32 (leNat ((bs.drop (8 * i)).take 4)), BitVec.ofNat 32 (leNat ((bs.drop (8 * i + 4)).take 4)))

/-- Combine one rank's contribution into the owner's sums, hi = S and lo = C (R381). -/
def combineRank (sums : List Pair) (bs : List Byte) : List Pair :=
  (sums.zip (pairsOf bs)).map fun x =>
    let r := combineHiLo x.1.s x.1.c x.2.1 x.2.2
    { s := r.1, c := r.2, neg := false }

/-- Sums that overflowed to infinity: none of the words they came from was infinite (R81). -/
def overflows (old : List Pair) (bs : List Byte) (new : List Pair) : Nat :=
  ((old.zip (pairsOf bs)).zip new).countP fun x =>
    (F32.num x.2.s).isInf && !([x.1.1.s, x.1.1.c, x.1.2.1, x.1.2.2].any fun v => (F32.num v).isInf)

/-- Combine the contributions held, in increasing rank, as far as they have wholly arrived; `inf` counts the overflows. -/
def combineHeld (x : Xfer) (inf : Nat) : Nat → Xfer × Nat
  | 0 => (x, inf)
  | n + 1 =>
    match x.held.find? fun h => h.1 == x.nextRank with
    | some h =>
      if x.landed.contains x.nextRank then
        let new := combineRank x.sums h.2
        combineHeld { x with sums := new, nextRank := x.nextRank + 1
                             held := x.held.filter fun y => y.1 ≠ h.1 } (inf + overflows x.sums h.2 new) n
      else (x, inf)
    | none => (x, inf)

/-- Bytes of a chunk's result (R381). -/
def chunkResult (d : XfDesc) (sums : List Pair) : List Byte :=
  sums.flatMap fun x =>
    if d.outRound then leBytes (fadd x.s x.c).toNat 4 else leBytes x.s.toNat 4 ++ leBytes x.c.toNat 4

/-- NaN results of a chunk, and its roundings of S + C that overflowed to infinity (R81, R381). -/
def chunkCounts (d : XfDesc) (sums : List Pair) : Nat × Nat :=
  let rs := sums.map fun x => (x, if d.outRound then fadd x.s x.c else x.s)
  (rs.countP fun r => (F32.num r.2).isNan,
    rs.countP fun r => (F32.num r.2).isInf && !(F32.num r.1.s).isInf && !(F32.num r.1.c).isInf)

/-- Count NaN results and overflows of a collective in its partition (R81). -/
def countSums (m : Module) (p nan inf : Nat) : Module :=
  m.setRegs p fun r => { r with axNan := satAdd r.axNan nan, axInf := satAdd r.axInf inf }

/-- Key in `landed` of a rank's gathered chunk of ALL_REDUCE. -/
def gatherKey (r : Nat) : Nat := 256 + r

/-- The owner's reduction has taken every rank's contribution: the result is written, and ALL_REDUCE sends it to every other
rank (R381). -/
def finishReduce (m : Module) (p : Nat) (x : Xfer) (d : XfDesc) : Module :=
  let f := m.fab p
  let cs := chunkLen f d
  let out := chunkResult d x.sums
  let n := chunkCounts d x.sums
  let m := landAt (countSums m p n.1 n.2) p (d.recv + f.rank * cs) out
  if d.op = 4 then
    let m := putXfer m { x with landed := gatherKey f.rank :: x.landed }
    foldM ((range' 0 f.nranks).filter fun r => r ≠ f.rank)
      (fun m r => sendRun p x.prog x.idx d (f.map.getD r {}) out cs m) m
  else m

/-- A contribution to the own chunk has come: its bytes are held, and what can be combined is combined. -/
def contribute (m : Module) (p : Nat) (x : Xfer) (d : XfDesc) (src : Nat) (bs : List Byte) (last : Bool) : Module :=
  let f := m.fab p
  let zero : List Pair := List.replicate (chunkLen f d / 8) { s := 0, c := 0, neg := false }
  let x := if x.sums.isEmpty then { x with sums := zero } else x
  let had := ((x.held.find? fun h => h.1 == src).map (·.2)).getD []
  let x := { x with held := (src, had ++ bs) :: x.held.filter fun h => h.1 ≠ src
                    landed := if last then src :: x.landed else x.landed }
  let (y, inf) := combineHeld x 0 f.nranks
  let m := countSums (putXfer m y) p 0 inf
  if x.nextRank < f.nranks ∧ y.nextRank = f.nranks then finishReduce m p y d else m

/-- Bytes of a slot, chunk or contribution from rank `src` land (R380, R381). -/
def landFrame (m : Module) (p prog idx : Nat) (d : XfDesc) (src off : Nat) (bs : List Byte) (last : Bool) : Module :=
  let f := m.fab p
  let x := xferOf m p prog idx
  let mark (k : Nat) : Module := putXfer m { x with landed := if last then k :: x.landed else x.landed }
  match d.op with
  | 0 => landAt (mark src) p (d.recv + src * d.slot + off) bs
  | 1 => landAt (mark src) p (d.recv + off) bs
  | 2 => landAt (mark src) p (d.recv + src * d.len + off) bs
  | _ =>
    let cs := chunkLen f d
    if d.op = 4 ∧ cs ≤ off then landAt (mark (gatherKey src)) p (d.recv + src * cs + (off - cs)) bs
    else contribute m p x d src bs last

/-- Gate of a gated transfer in the step in progress. -/
def xferGate (m : Module) (p : Nat) (w : Swath) (d : XfDesc) : Nat :=
  gateKey w.id ((m.part p).steps.get w.id) (w.cores.getD d.gateCore 0) d.gateQ

/-- Issued transfers of a partition's step that a gate queue triggers. -/
def gatedIssued (m : Module) (p : Nat) (w : Swath) (key : Nat) : Nat :=
  (m.xfers.filter fun x => x.part == p && x.issued && x.prog == w.id && (match descOf m p x.prog x.idx with
    | some d => d.trig == 2 && xferGate m p w d == key
    | none => false)).length

/-- The trigger of a transfer has come in the step in progress (R379). -/
def xferTriggered (m : Module) (p : Nat) (w : Swath) (d : XfDesc) : Bool :=
  match modelRuns m p w with
  | none => false
  | some r => match d.trig with
    | 0 => true
    | 1 => r.fold == w.foldIndex
    | _ =>
      let key := xferGate m p w d
      decide (gatedIssued m p w key < ((m.part p).gates.get key).length)

/-- Bytes of the send region that a transfer reads. -/
def sendBytes (f : FabPart) (d : XfDesc) : Nat :=
  if d.op = 0 then f.nranks * d.slot else if d.op = 1 then d.slot else d.len

/-- Bytes of a descriptor's receive region on a job of `n` ranks (R380, R381). -/
def recvBytes (d : XfDesc) (n : Nat) : Nat :=
  match d.op with
  | 0 => n * d.slot
  | 1 => d.slot
  | 2 => n * d.len
  | _ => d.len

/-- Payload bytes of a slot by its header; a header outside the values of R380 gives none, and what travels is a free value. -/
def slotPayload (m : Module) (d : XfDesc) (b : Nat) : Nat × Module :=
  if b % 64 = 0 ∧ b + 64 ≤ d.slot then (b, m)
  else
    let (v, m) := takeFree m
    (64 * (v % (d.slot / 64)), m)

/-- Send one slot to a rank, or copy it where the rank is the module's own; a slot with no payload travels as its header
(R380). -/
def sendSlot (p prog idx : Nat) (d : XfDesc) (a rank : Nat) (m : Module) : Module :=
  let f := m.fab p
  let (n, m) := slotPayload m d (devNum m p a 4)
  let bs := devRead m p a (64 + n)
  if rank = f.rank then landFrame m p prog idx d f.rank 0 bs true
  else
    let m := if n = 0 then m.setFab p fun f => { f with emptyTx := satAdd f.emptyTx 1 } else m
    sendRun p prog idx d (f.map.getD rank {}) bs 0 (regTake m p 3 (if n = 0 then 1 else bs.length / 64))

/-- Send what a transfer carries. -/
def sendAll (p prog idx : Nat) (d : XfDesc) (m : Module) : Module :=
  let f := m.fab p
  let others := (range' 0 f.nranks).filter fun r => r ≠ f.rank
  match d.op with
  | 0 => foldM (range' 0 f.nranks) (fun m r => sendSlot p prog idx d (d.send + r * d.slot) r m) m
  | 1 => sendSlot p prog idx d d.send ((f.rank + d.shift) % f.nranks) m
  | 2 =>
    let bs := devRead m p d.send d.len
    let m := landFrame m p prog idx d f.rank 0 bs true
    foldM others (fun m r => sendRun p prog idx d (f.map.getD r {}) bs 0 (regTake m p 3 (bs.length / 64))) m
  | _ =>
    let cs := chunkLen f d
    let m := landFrame m p prog idx d f.rank 0 (devRead m p (d.send + f.rank * cs) cs) true
    foldM others (fun m r =>
      sendRun p prog idx d (f.map.getD r {}) (devRead m p (d.send + r * cs) cs) 0 (regTake m p 3 (cs / 64))) m

/-- The transfer may be issued now: its job is open, its step in progress, it was not issued in the step, its trigger has
come, and the earlier descriptors of its channel have been issued (R379). -/
def mayIssue (m : Module) (p prog idx : Nat) (w : Swath) (d : XfDesc) : Bool :=
  let f := m.fab p
  f.en && !f.halted && !(xferOf m p prog idx).issued && xferTriggered m p w d &&
    (range' 0 idx).all fun j => match descOf m p prog j with
      | some e => e.chan != d.chan || (xferOf m p prog j).issued
      | none => true

/-- TRANSFER_ISSUE: the transfer reads its send region and sends it; while the fabric bucket or a tier's is empty it waits
(R351, R379 to R381). -/
def transferIssueFn (part prog idx : Nat) (m : Module) : Module :=
  match swathOf m part prog, descOf m part prog idx with
  | some w, some d =>
    let n := sendBytes (m.fab part) d
    if !mayIssue m part prog idx w d then m
    else if regEmpty m part 3 then m.setRegs part fun r => { r with waitFab := satAdd r.waitFab 1 }
    else if tierWaits m part d.send n then m
    else if rangeEnd m part < d.send + n then rangeFault m part d.send
    else match poisonedIn m part d.send n with
    | some g => tierFault m part g
    | none =>
      let m := tierTake (noteRead m part d.send n) part d.send n
      let x := xferOf m part prog idx
      sendAll part prog idx d (putXfer m { x with issued := true, step := (m.part part).launches.get w.model - 1 })
  | _, _ => m

/-- Execute TRANSFER_ISSUE. -/
def execTransferIssue (part prog idx : Nat) (s : State) : Host.Outcome State Fault Refusal :=
  guarded (partOk part) (transferIssueFn part prog idx) s

/-- Every slot or chunk addressed to this rank has landed (R382). -/
def allLanded (f : FabPart) (d : XfDesc) (x : Xfer) : Bool :=
  match d.op with
  | 1 => x.landed.contains ((f.rank + f.nranks - d.shift % f.nranks) % f.nranks)
  | 3 => decide (f.nranks ≤ x.nextRank)
  | 4 => (range' 0 f.nranks).all fun r => x.landed.contains (gatherKey r)
  | _ => (range' 0 f.nranks).all fun r => x.landed.contains r

/-- Source ranks whose slots the receive stream delivers, in order, with the address of each slot. -/
def slotsIn (f : FabPart) (d : XfDesc) : List Nat :=
  if d.op = 0 then (range' 0 f.nranks).map fun s => d.recv + s * d.slot else [d.recv]

/-- Header of the bundles of a delivered slot: its words 3 to 15 are those of the slot header (R382). -/
def slotHeader (m : Module) (p a tag : Nat) : BitVec 512 :=
  flitOfWords fun i => if i = 0 then tagWord kData tag else if i < 3 then 0 else devNum m p (a + 4 * i) 4

/-- Deliver bundles of the slots in turn, each once the queue has taken every flit of the one before (R13); `fuel` bounds the bundles of one command. -/
def deliverSlots (p : Nat) (d : XfDesc) (core : Nat) : Nat → Xfer → Module → Xfer × Module
  | 0, x, m => (x, m)
  | fuel + 1, x, m =>
    match (slotsIn (m.fab p) d)[x.deliv]? with
    | none => (x, m)
    | some a =>
      let flits := devNum m p a 4 / 64
      let n := min 255 (flits - 255 * x.bundle)
      let h := slotHeader m p a d.tag
      if !feedFree m core d.rxQ then (x, m)
      else if flits = 0 then
        deliverSlots p d core fuel { x with deliv := x.deliv + 1, bundle := 0 }
          (deliver (noteRead m p a 64) core d.rxQ (markerOf d.tag h) [])
      else
        let m := noteRead (noteRead m p a 64) p (a + 64 + 64 * 255 * x.bundle) (64 * n)
        let pay := flitsOf (devRead m p (a + 64 + 64 * 255 * x.bundle) (64 * n)) n
        let m := deliver m core d.rxQ h pay
        let x := if flits ≤ 255 * (x.bundle + 1) then { x with deliv := x.deliv + 1, bundle := 0 }
          else { x with bundle := x.bundle + 1 }
        deliverSlots p d core fuel x m

/-- The CLOSE of a collective: COUNT = NRANKS (R382). -/
def collectiveClose (n : Nat) : BitVec 512 :=
  flitOfWords fun i => if i = 0 then tagWord kClose closeTag else if i = 3 then n else 0

/-- A transfer is complete and delivered: it is counted. -/
def xferDone (m : Module) (p : Nat) (x : Xfer) : Module :=
  (putXfer m { x with done := true }).setFab p fun f => { f with xfer := satAdd f.xfer 1 }

/-- TRANSFER_COMPLETE: everything has landed; the receive stream delivers as its queue takes it (R382). -/
def transferCompleteFn (part prog idx : Nat) (m : Module) : Module :=
  match swathOf m part prog, descOf m part prog idx with
  | some w, some d =>
    let x := xferOf m part prog idx
    let f := m.fab part
    if x.done || !x.issued || !allLanded f d x || (modelRuns m part w).isNone then m
    else if d.rxQ = 0xFF then xferDone m part x
    else match w.cores[d.rxCore]? with
    | none => m
    | some core =>
      if 2 ≤ d.op then
        if feedFree m core d.rxQ then xferDone (deliver m core d.rxQ (collectiveClose f.nranks) []) part x else m
      else
        let (x, m) := deliverSlots part d core 65536 x m
        if (slotsIn f d).length ≤ x.deliv ∧ feedFree m core d.rxQ = true then xferDone m part x else putXfer m x
  | _, _ => m

/-- Execute TRANSFER_COMPLETE. -/
def execTransferComplete (part prog idx : Nat) (s : State) : Host.Outcome State Fault Refusal :=
  guarded (partOk part) (transferCompleteFn part prog idx) s

end Sys2Proof.Machine
end

