-- ==== Sys2Proof/Machine/Hash.lean ====
section
/-! DEFINITION. SHA3-512 of FIPS 202, the hash of every signed content (16_security R425). A digest is the little-endian
number of its 64 bytes. -/

namespace Sys2Proof.Machine

/-- A Keccak lane. -/
abbrev Lane := BitVec 64

/-- Lane (x, y) of a state of 25 lanes, lane 5 y + x. -/
def laneAt (s : List Lane) (x y : Nat) : Lane := s.getD (5 * (y % 5) + x % 5) 0

/-- A state of 25 lanes from a function of x and y. -/
def lanes (f : Nat → Nat → Lane) : List Lane := (range' 0 25).map fun i => f (i % 5) (i / 5)

/-- The five lanes that theta adds to the columns. -/
def thetaD (s : List Lane) : List Lane :=
  let c := (range' 0 5).map fun x => laneAt s x 0 ^^^ laneAt s x 1 ^^^ laneAt s x 2 ^^^ laneAt s x 3 ^^^ laneAt s x 4
  (range' 0 5).map fun x => c.getD ((x + 4) % 5) 0 ^^^ (c.getD ((x + 1) % 5) 0).rotateLeft 1

/-- Rotation of each lane in rho, lane 5 y + x. -/
def rhoOffsets : List Nat :=
  [0, 1, 62, 28, 27, 36, 44, 6, 55, 20, 3, 10, 43, 25, 39, 41, 45, 15, 21, 8, 18, 2, 61, 56, 14]

/-- Round constants of iota. -/
def roundConstants : List Lane :=
  [0x0000000000000001, 0x0000000000008082, 0x800000000000808A, 0x8000000080008000, 0x000000000000808B,
    0x0000000080000001, 0x8000000080008081, 0x8000000000008009, 0x000000000000008A, 0x0000000000000088,
    0x0000000080008009, 0x000000008000000A, 0x000000008000808B, 0x800000000000008B, 0x8000000000008089,
    0x8000000000008003, 0x8000000000008002, 0x8000000000000080, 0x000000000000800A, 0x800000008000000A,
    0x8000000080008081, 0x8000000000008080, 0x0000000080000001, 0x8000000080008008]

/-- One round of Keccak-f[1600]. -/
def keccakRound (s : List Lane) (rc : Lane) : List Lane :=
  let d := thetaD s
  let t := lanes fun x y => laneAt s x y ^^^ d.getD x 0
  let b := lanes fun x y =>
    let x' := (x + 3 * y) % 5
    (laneAt t x' x).rotateLeft (rhoOffsets.getD (5 * x + x') 0)
  lanes fun x y =>
    let v := laneAt b x y ^^^ (~~~(laneAt b (x + 1) y) &&& laneAt b (x + 2) y)
    if x = 0 ∧ y = 0 then v ^^^ rc else v

/-- Keccak-f[1600]. -/
def keccak (s : List Lane) : List Lane := roundConstants.foldl keccakRound s

/-- Rate of SHA3-512 in bytes. -/
def shaRate : Nat := 72

/-- Absorb one block of 72 bytes. -/
def absorb (s : List Lane) (blk : List Byte) : List Lane :=
  keccak (lanes fun x y =>
    let i := 5 * y + x
    if i < 9 then laneAt s x y ^^^ BitVec.ofNat 64 (leNat ((blk.drop (8 * i)).take 8)) else laneAt s x y)

/-- Absorb `n` blocks of a padded message. -/
def absorbAll (s : List Lane) (msg : List Byte) : Nat → List Lane
  | 0 => s
  | n + 1 => absorbAll (absorb s (msg.take shaRate)) (msg.drop shaRate) n

/-- The padding of SHA3: 0x06, zeros, and 0x80 in the last byte of a block. -/
def shaPad (len : Nat) : List Byte :=
  let k := shaRate - len % shaRate
  if k = 1 then [0x86] else 0x06 :: (List.replicate (k - 2) 0 ++ [0x80])

/-- SHA3-512. -/
def sha3 (msg : List Byte) : Nat :=
  let padded := msg ++ shaPad msg.length
  let s := absorbAll (List.replicate 25 0) padded (padded.length / shaRate)
  (s.take 8).foldr (fun l acc => l.toNat + 2 ^ 64 * acc) 0

end Sys2Proof.Machine
end

