-- ==== Sys2Proof/Machine/Signed.lean ====
section
/-! DEFINITION. Signature blocks, their checks, and weight manifests (16_security R425 to R427, R434, R438, Tables 16.2 to
16.4, 16.7). -/

namespace Sys2Proof.Machine

/-- A field of a byte list: `n` bytes at `off`, little-endian. -/
def field (b : List Byte) (off n : Nat) : Nat := leNat ((b.drop off).take n)

/-- Bytes of a signature block. -/
def sigBytes : Nat := 4928

/-- Digest of zeros where a digest of the statement is unused. -/
def noDigest : Nat := 0

/-- The statement of a signature block. -/
def statementOf (b : List Byte) : List Byte := (b.drop 0x10).take 256
/-- KEY_ID of a block. -/
def sigKeyId (b : List Byte) : Nat := field b 0x08 8
/-- OBJECT_ID of a block's statement. -/
def sigObject (b : List Byte) : Nat := field b 0x18 8
/-- DIGEST0, DIGEST1 and DIGEST2 of a block's statement. -/
def sigDigest (b : List Byte) (i : Nat) : Nat := field b (0x20 + 64 * i) 64
/-- First 16 bytes of the digest of a block's statement (Table 16.8). -/
def stmtDigest (b : List Byte) : Nat := sha3 (statementOf b) % 2 ^ 128

/-- The KEY_ID of a public key (R425). -/
def keyIdOf (pk : List Byte) : Nat := sha3 pk % 2 ^ 64

/-- A block has the form of Tables 16.2 and 16.3 for a KIND: magic, version, KIND in block and statement, SVN 0 but for
firmware, reserved bytes 0 (R427). -/
def sigForm (b : List Byte) (kind : Nat) : Bool :=
  field b 0 4 == 0x5A540C10 && field b 4 2 == 1 && field b 6 1 == kind && field b 7 1 == 0 &&
    field b 0x10 4 == kind && (kind == 1 || field b 0x14 4 == 0) && field b (0x10 + 0xD0) 48 == 0 &&
    field b 0x1323 29 == 0

/-- A block passes R427 under a public key, for a KIND and the digests of the content it covers. -/
def sigOk (pk b : List Byte) (kind d0 d1 d2 : Nat) : Bool :=
  sigForm b kind && sigKeyId b == keyIdOf pk && sigDigest b 0 == d0 && sigDigest b 1 == d1 && sigDigest b 2 == d2 &&
    Config.mldsaVerify pk (statementOf b) ((b.drop 0x110).take 4627)

/-- A block passes R427 under the vendor root key. -/
def vendorOk (b : List Byte) (kind d0 : Nat) : Bool := sigOk Config.vendorRoot b kind d0 noDigest noDigest

/-- Trust-list slot of a partition that holds a KEY_ID, with the key (R434, R435). -/
def trustSlot (m : Module) (p id : Nat) : Option (Nat × PubKey) :=
  (range' 0 8).findSome? fun s => match m.sec.keys.get (8 * p + s) with
    | some k => if k.id = id then some (s, k) else none
    | none => none

/-- A block of a partition's content passes R427 under a key of the partition's trust list: what attestation lists of it. -/
def publisherOk (m : Module) (p : Nat) (b : List Byte) (kind d0 d1 d2 : Nat) : Option Attested :=
  match trustSlot m p (sigKeyId b) with
  | some (s, k) =>
    if sigOk k.bytes b kind d0 d1 d2 then
      some { kind := kind, slot := s, obj := sigObject b, digest0 := d0, stmt := stmtDigest b }
    else none
  | none => none

/-- A refused signature of a partition's content is counted (R427). -/
def countSigFail (m : Module) (p : Nat) : Module := m.setSec fun s => { s with sigFail := s.sigFail.upd p fun n => satAdd n 1 }
/-- A refused payload, entry or chunk hash of a partition is counted (Table 16.10). -/
def countHashFail (m : Module) (p : Nat) : Module := m.setSec fun s => { s with hashFail := s.hashFail.upd p fun n => satAdd n 1 }

/-! ### Weight manifests (R438, Table 16.7) -/

/-- A weight manifest's fields. -/
structure Manifest where
  layers : Nat
  model  : Nat
  chunk  : Nat
  chunks : Nat
  total  : Nat
  deriving DecidableEq, Repr

/-- Read a manifest's header at a device address. -/
def manifestAt (m : Module) (p a : Nat) : Manifest :=
  { layers := devNum m p (a + 6) 2, model := devNum m p (a + 8) 8, chunk := devNum m p (a + 0x10) 4
    chunks := devNum m p (a + 0x14) 4, total := devNum m p (a + 0x18) 8 }

/-- Offset of the first field of a manifest that breaks Table 16.7. -/
def manifestBad (m : Module) (p a : Nat) : Option Nat :=
  let g := manifestAt m p a
  let checks : List (Nat × Bool) :=
    [(0x00, devNum m p a 4 != 0x5A540C11), (0x04, devNum m p (a + 4) 2 != 1), (0x06, g.layers == 0),
      (0x10, !(decide (2 ^ 20 ≤ g.chunk ∧ g.chunk ≤ 2 ^ 28) && g.chunk &&& (g.chunk - 1) == 0)),
      (0x14, g.chunks != ceilDiv g.total g.chunk), (0x18, g.total % 64 != 0), (0x20, devNum m p (a + 0x20) 96 != 0)]
  (checks.find? (·.2)).map (·.1)

/-- Bytes of a manifest up to its signature block. -/
def Manifest.bytes (g : Manifest) : Nat := 0x80 + 64 * g.chunks + 8 * g.layers

/-- SHA3-512 of chunk `k` as the manifest gives it. -/
def chunkHash (m : Module) (p a k : Nat) : Nat := devNum m p (a + 0x80 + 64 * k) 64

/-- Bytes of chunk `k`: the last chunk has its actual length. -/
def Manifest.len (g : Manifest) (k : Nat) : Nat := min g.chunk (g.total - k * g.chunk)

/-- First chunk and chunk count of each layer, in layer order. -/
def manifestLayers (m : Module) (p a : Nat) : List (Nat × Nat) :=
  let g := manifestAt m p a
  (range' 0 g.layers).map fun i =>
    let e := a + 0x80 + 64 * g.chunks + 8 * i
    (devNum m p e 4, devNum m p (e + 4) 4)

end Sys2Proof.Machine
end

