-- ==== Sys2Proof/Machine/Weights.lean ====
section
/-! DEFINITION. Weights: LOAD_WEIGHTS from every source, the landing of a chunk, forwarding between ranks, swaps in place
(11_host_interface R309, R310, 13_fabric R384, R385, R392, 16_security R435, R438, R439). -/

namespace Sys2Proof.Machine

/-! ### Fields -/

/-- DST of a LOAD_WEIGHTS. -/
def wDst (x : Item) : Nat := dfield x.desc 0x20 8
/-- MANIFEST of a LOAD_WEIGHTS. -/
def wManifest (x : Item) : Nat := dfield x.desc 0x18 8
/-- SOURCE of a LOAD_WEIGHTS. -/
def wSource (x : Item) : Nat := dfield x.desc 0x30 1

/-- A command met an address outside the range: MEM_RANGE, and FAIL_FAULT with its EVSN (R209, Table 17.6). -/
def itemRange (m : Module) (p : Nat) (i : ItemRef) (a : Nat) : Module :=
  let m := raise m evMemRange p dieH [0xFFFF, 0xFF, a / pageSize % 4294967296]
  finishV m i .failFault (evsnOf m i.fn)

/-- What stops a command that would read or write `n` bytes of the range from `a`: an address outside it, or a poisoned page. -/
def badRun (m : Module) (p : Nat) (i : ItemRef) (a n : Nat) : Option Module :=
  if rangeEnd m p < a + n then some (itemRange m p i a)
  else match poisonedIn m p a n with
  | some g => some (finishV m i .failTier (poisonDetail m p g))
  | none => none

/-! ### Reads over Ethernet (R391, R392) -/

/-- Largest READ request, 1 MiB. -/
def readMax : Nat := 2 ^ 20

/-- Ports that a storage read block names. -/
def ethPorts (e : List Nat) : List Nat :=
  match e.getD 0 0 with
  | 0 => [0]
  | 1 => [1]
  | _ => [0, 1]

/-- QP of a storage read block on a port. -/
def ethQp (e : List Nat) (port : Nat) : Nat := if e.getD 0 0 = 2 ∧ port = 1 then e.getD 2 0 else e.getD 1 0

/-- Byte offset in the weights of the `j`-th READ request on a port. -/
def readOff (g : Manifest) (e : List Nat) (port j : Nat) : Nat :=
  let per := g.chunk / readMax
  let k := j / per
  (if e.getD 0 0 = 2 then 2 * k + port else k) * g.chunk + j % per * readMax

/-- Issue READ requests of a load on a port while its QP has fewer than 64 outstanding and weights remain. -/
def issueReads (i : ItemRef) (g : Manifest) (e : List Nat) (port : Nat) : Nat → Module → Module
  | 0, m => m
  | fuel + 1, m =>
    match findItem m i, (m.eth.get port).qps.get (ethQp e port) with
    | some x, some q =>
      let off := readOff g e port (x.reqs.get port)
      if 64 ≤ q.reads.length ∨ g.total ≤ off then m
      else
        let n := min readMax (g.total - off)
        let m := setItem m i fun y => { y with reqs := y.reqs.upd port (· + 1) }
        let m := m.setEth port fun t =>
          { t with qps := t.qps.put (ethQp e port) (some { q with reads := q.reads ++ [(i, off, n)] }) }
        issueReads i g e port fuel (emitNet m (.readReq port (ethQp e port) (e.getD 3 0 + off) n))
    | _, _ => m

/-- Drop the READ requests of a load that has ended. -/
def dropReads (m : Module) (i : ItemRef) : Module :=
  foldM [0, 1] (fun m port => m.setEth port fun t =>
    { t with qps := t.qps.mapV fun _ o => o.map fun q => { q with reads := q.reads.filter fun r => r.1 != i } }) m

/-- The storage read block at a device address: PORT, the two QPs, the remote address (R392). -/
def ethBlock (m : Module) (p a : Nat) : List Nat :=
  [devNum m p (a + 6) 1, devNum m p (a + 4) 2, devNum m p (a + 0x18) 2, devNum m p (a + 0x10) 8]

/-- The block has the form of R392. -/
def ethBlockOk (m : Module) (p a : Nat) : Bool :=
  a % 64 == 0 && devNum m p a 4 == 0x5A540C0E && decide (devNum m p (a + 6) 1 ≤ 2) && devNum m p (a + 7) 1 == 0 &&
    devNum m p (a + 12) 4 == 0 && devNum m p (a + 0x1A) 38 == 0 && decide (devNum m p (a + 4) 2 < 1024) &&
    decide (devNum m p (a + 0x18) 2 < 1024)

/-- Every QP that a block names is connected. -/
def ethConnected (m : Module) (e : List Nat) : Bool :=
  (ethPorts e).all fun port => ((m.eth.get port).qps.get (ethQp e port)).isSome

/-- A load over a port fails: ETH_READ, and FAIL_FAULT with its EVSN (R392). -/
def ethFail (m : Module) (p : Nat) (i : ItemRef) (port qp : Nat) : Module :=
  let m := raise m evEthRead p dieF [port, qp]
  dropReads (finishV m i .failFault (evsnOf m i.fn)) i

/-! ### Landing (R309, R384) -/

/-- Send chunk `k` to the next rank on channel 255 (R384). -/
def forwardChunk (m : Module) (p : Nat) (x : Item) (g : Manifest) (k : Nat) : Module :=
  let f := m.fab p
  let bs := devRead m p (wDst x + k * g.chunk) (g.len k)
  let m := noteRead m p (wDst x + k * g.chunk) (g.len k)
  let dest := f.map.getD (f.rank + 1) {}
  let n := ceilDiv bs.length frameBytes
  foldM (range' 0 n) (fun m j => routeFrame m none dest 255 fun lane =>
    .data f.job f.gen 255 dest lane k [x.fwdId] f.rank (frameBytes * j) ((bs.drop (frameBytes * j)).take frameBytes)
      (decide (j + 1 = n))) (regTake m p 3 (bs.length / 64))

/-- Forward the chunks that have passed and have not gone, in manifest order, once the next rank's matching command has started
(R384). -/
def forwardDue (i : ItemRef) (p : Nat) (g : Manifest) : Nat → Module → Module
  | 0, m => m
  | fuel + 1, m =>
    match findItem m i with
    | none => m
    | some x =>
      if forwards (m.fab p) x && (m.fab p).fwdReady.contains x.fwdId && decide (x.fwdNext < x.progress) then
        forwardDue i p g fuel (setItem (forwardChunk m p x g x.fwdNext) i fun y => { y with fwdNext := y.fwdNext + 1 })
      else m

/-- Chunks that have wholly landed count in manifest order (R309). -/
def countChunks (i : ItemRef) (g : Manifest) : Nat → Module → Module
  | 0, m => m
  | fuel + 1, m =>
    match findItem m i with
    | none => m
    | some x =>
      if x.progress < g.chunks ∧ x.landed.get x.progress = g.len x.progress then
        countChunks i g fuel (setItem m i fun y => { y with progress := y.progress + 1 })
      else m

/-- A load goes on: chunks are counted and forwarded; after the last of both the manifest is recorded as loaded and the command is
DONE (R309, R384, R439). -/
def advance (i : ItemRef) (p : Nat) (g : Manifest) (m : Module) : Module :=
  let m := forwardDue i p g (g.chunks + 1) (countChunks i g (g.chunks + 1) m)
  match findItem m i with
  | none => m
  | some x =>
    if g.chunks ≤ x.progress ∧ (forwards (m.fab p) x = false ∨ g.chunks ≤ x.fwdNext) then
      let m := m.setPart p fun y => { y with attested := y.attested ++ x.att.toList }
      let m := m.setFab p fun f => { f with fwdReady := f.fwdReady.erase x.fwdId }
      dropReads (finishV m i .done 0) i
    else m

/-- The matching command of this rank has started: the rank before may forward (R384). -/
def tellReady (m : Module) (p id : Nat) : Module :=
  let f := m.fab p
  let dest := f.map.getD (f.rank - 1) {}
  routeFrame m none dest 255 fun lane => .data f.job f.gen 255 dest lane 0 [id] f.rank 0 [] true

/-- Chunk `k` has landed at the destination: it is checked against the manifest's hash (R309). -/
def chunkLanded (m : Module) (i : ItemRef) (x : Item) (p : Nat) (g : Manifest) (k : Nat) : Module :=
  let bs := devRead m p (wDst x + k * g.chunk) (g.len k)
  if sha3 bs ≠ chunkHash m p (wManifest x) k then
    dropReads (finishV (countHashFail m p) i .rejSignature k) i
  else
    advance i p g (setItem m i fun y => { y with landed := y.landed.put k (g.len k) })

/-- CHUNK_LAND: the next chunk lands from host memory; with SOURCE 2 it lies at its destination already (R309). Over Ethernet the READ
responses bring it, and from the rank before the frames of channel 255. -/
def chunkLandFn (i : ItemRef) (data : List Byte) (m : Module) : Module :=
  withItem m i .running [opLoadWeights] fun x p =>
    let g := manifestAt m p (wManifest x)
    let k := x.progress
    let a := wDst x + k * g.chunk
    let n := g.len k
    if wSource x = 1 ∨ wSource x = 3 ∨ g.chunks ≤ k then m
    else if wSource x = 2 then
      if tierWaits m p a n then m
      else match badRun m p i a n with
      | some m => m
      | none => chunkLanded (tierTake (noteRead m p a n) p a n) i x p g k
    else if data.length ≠ n ∨ tierWaits m p a n = true then m
    else match badRun m p i a n with
    | some m => m
    | none => withHost m p n fun m => chunkLanded (tierTake (devWrite m p a data) p a n) i x p g k

/-- Execute CHUNK_LAND. -/
def execChunkLand (i : ItemRef) (data : List Byte) (s : State) : Host.Outcome State Fault Refusal :=
  guarded (i.ok) (chunkLandFn i data) s

/-! ### LOAD_WEIGHTS (R309, R439) -/

/-- Manifests recorded as loaded in a partition. -/
def manifestsOf (m : Module) (p : Nat) : List Attested := (m.part p).attested.filter fun a => a.kind == 4

/-- LOAD_WEIGHTS past the signature check: the destination is backed, and the source begins. -/
def beginLoad (m : Module) (i : ItemRef) (x : Item) (p : Nat) (g : Manifest) (att : Attested) : Module :=
  let d := x.desc
  let src := dfield d 0x28 8
  let source := wSource x
  let first := if dfield d 0x31 1 = 0xFF then firstTierOf m p else dfield d 0x31 1
  let f := m.fab p
  let e := if source = 1 then ethBlock m p src else []
  if rangeEnd m p < wDst x + g.total then itemRange m p i (wDst x)
  else if source = 1 ∧ rangeEnd m p < src + 64 then itemRange m p i src
  else if source = 1 ∧ ethBlockOk m p src = false then rejFormat m i 0 0x28
  else if source = 1 ∧ ethConnected m e = false then finishV m i .rejState 0
  else match (if source = 1 then (ethPorts e).find? fun port => heldOff m (2649 + port) else none) with
  | some port => finishV m i .failPower (2649 + port)
  | none =>
  if source = 3 ∧ (f.en = false ∨ f.rank = 0) then finishV m i .rejState 0
  else match (if source = 2 then (m, none) else backForWrite m p first (wDst x) g.total) with
  | (m, some (st, v)) => finishV m i st v
  | (m, none) =>
    let m := noteRead m p (wManifest x) (g.bytes + sigBytes)
    let m := if source = 1 then noteRead m p src 64 else m
    let m := setItem m i fun y => { y with st := .running, att := some { att with obj := g.model }, eth := e }
    if source = 1 then
      match (ethPorts e).find? fun port => !(m.eth.get port).linkUp with
      | some port => ethFail m p i port (ethQp e port)
      | none => foldM (ethPorts e) (fun m port => issueReads i g e port 64 m) (advance i p g m)
    else advance i p g (if source = 3 then tellReady m p (att.digest0 % 2 ^ 64) else m)

/-- LOAD_WEIGHTS: the manifest's form and signature are checked before any byte is written. -/
def loadWeightsFn (i : ItemRef) (m : Module) : Module :=
  withItem m i .dispatched [opLoadWeights] fun x p =>
    let a := wManifest x
    let g := manifestAt m p a
    let b := devRead m p (a + g.bytes) sigBytes
    if 256 ≤ (manifestsOf m p).length then finishV m i .rejQuota 0
    else match badRun m p i a 0x80 with
    | some m => m
    | none => match manifestBad m p a with
      | some o => rejFormat m i 6 o
      | none =>
        if dfield x.desc 0x38 8 ≠ g.total then rejFormat m i 0 0x38
        else match badRun m p i a (g.bytes + sigBytes) with
        | some m => m
        | none =>
          match publisherOk m p b 4 (sha3 (devRead m p a g.bytes)) noDigest noDigest with
          | none => finishV (countSigFail m p) i .rejSignature 0
          | some att => beginLoad m i x p g att

/-- Execute LOAD_WEIGHTS. -/
def execLoadWeights (i : ItemRef) (s : State) : Host.Outcome State Fault Refusal :=
  guarded (i.ok) (loadWeightsFn i) s

/-! ### Frames of channel 255 (R384) -/

/-- The running load of a partition, with the manifest named by the first 8 bytes of its digest, that takes its chunks from the rank
before (`source` true) or that forwards. -/
def fwdLoad (m : Module) (p id : Nat) (source : Bool) : Option Item :=
  (m.fns.keys.flatMap fun f => if (m.fn f).bound && (m.fn f).part == p then
      (m.fn f).rings.cells.flatMap fun r => r.2.items else []).find? fun x =>
    x.opcode == opLoadWeights && x.st == .running && x.fwdId == id &&
      (if source then wSource x == 3 else forwards (m.fab p) x)

/-- A frame of channel 255 from rank `src` at its destination: with no bytes the next rank's matching command has started; else bytes of
chunk `k` land, and a whole chunk is checked. -/
def takeForward (m : Module) (p id k src off : Nat) (bs : List Byte) : Module :=
  let f := m.fab p
  if bs.isEmpty then
    if src ≠ f.rank + 1 then m
    else
      let m := m.setFab p fun f => { f with fwdReady := if f.fwdReady.contains id then f.fwdReady else id :: f.fwdReady }
      match fwdLoad m p id false with
      | some x => advance x.ref p (manifestAt m p (wManifest x)) m
      | none => m
  else if src + 1 ≠ f.rank then m
  else match fwdLoad m p id true with
  | none => m
  | some x =>
    let g := manifestAt m p (wManifest x)
    let a := wDst x + k * g.chunk + off
    if g.chunks ≤ k ∨ g.len k < off + bs.length then m
    else match badRun m p x.ref a bs.length with
    | some m => m
    | none =>
      let m := tierTake (devWrite m p a bs) p a bs.length
      let m := setItem m x.ref fun y => { y with landed := y.landed.upd k (· + bs.length) }
      if x.landed.get k + bs.length = g.len k then chunkLanded m x.ref x p g k else m

/-! ### The forwarding chain breaks (R385) -/

/-- FWD_ABORT: the rank before ended other than DONE, so this command fails with the EVSN of its own event; or the next rank
ended early, and nothing more is forwarded. The link and value of the events are free. -/
def fwdAbortFn (i : ItemRef) (broken : Bool) (m : Module) : Module :=
  withItem m i .running [opLoadWeights] fun x p =>
    let f := m.fab p
    let (v, m1) := takeFree m
    if broken then
      if f.en && f.fwd && decide (f.rank + 1 < f.nranks) && !x.fwdBroken then
        raise (setItem m1 i fun y => { y with fwdBroken := true }) evFwdBroken p dieF [v % 12, v / 12]
      else m
    else if wSource x ≠ 3 then m
    else
      let m := raise (setItem m1 i fun y => { y with fwdBroken := true }) evFwdAbort p dieF [v % 12, v / 12]
      finishV m i .failFault (evsnOf m i.fn)

/-- Execute FWD_ABORT. -/
def execFwdAbort (i : ItemRef) (broken : Bool) (s : State) : Host.Outcome State Fault Refusal :=
  guarded (i.ok) (fwdAbortFn i broken) s

/-! ### Swaps in place (R310) -/

/-- SWAP_WEIGHTS: the manifest must be recorded as loaded and be the model's; the model is held from the next seal. -/
def swapWeightsFn (i : ItemRef) (m : Module) : Module :=
  withItem m i .dispatched [opSwap] fun x p =>
    let d := x.desc
    let f (o : Nat) := dfield d o 8
    let a := f 0x20
    match badRun m p i a 0x80 with
    | some m => m
    | none =>
      let g := manifestAt m p a
      let d0 := sha3 (devRead m p a g.bytes)
      if !((manifestsOf m p).any fun t => t.digest0 == d0) || g.model != f 0x18 then finishV m i .rejState 0
      else if rangeEnd m p < f 0x28 + f 0x38 then itemRange m p i (f 0x28)
      else if rangeEnd m p < f 0x30 + f 0x38 then itemRange m p i (f 0x30)
      else
        (startItem (noteRead m p a g.bytes) i).setPart p fun y =>
          { y with swaps := y.swaps ++
              [{ item := i, model := f 0x18, manifest := a, stage := f 0x28, target := f 0x30, bytes := f 0x38 }] }

/-- Execute SWAP_WEIGHTS. -/
def execSwapWeights (i : ItemRef) (s : State) : Host.Outcome State Fault Refusal :=
  guarded (i.ok) (swapWeightsFn i) s

/-- A step of the model is in flight or awaits its replay, or a prefetch stream of the model has not ended. -/
def modelBusy (m : Module) (p model : Nat) : Bool :=
  let inRuns (rs : List RunStep) := rs.any fun r => r.model == model && !r.finished
  (match (m.part p).step with
    | some s => inRuns s.runs
    | none => false) ||
  (match (m.part p).replay with
    | some s => inRuns s.runs
    | none => false) ||
  (streamsOf m p).any fun s => match streamInfo m s.2.2 with
    | some (w, d) => w.model == model && d.prefetch
    | none => false

/-- The swap of an item leaves the partition: the model is released. -/
def endSwap (m : Module) (p : Nat) (i : ItemRef) : Module :=
  m.setPart p fun y => { y with swaps := y.swaps.filter fun s => !(s.item == i) }

/-- SWAP_COPY_START: the held model is quiet; its target pages are backed and the copy starts. -/
def swapCopyStartFn (i : ItemRef) (m : Module) : Module :=
  withItem m i .running [opSwap] fun _ p =>
    match (m.part p).swaps.find? fun s => s.item == i with
    | none => m
    | some s =>
      if !s.held || s.copying || modelBusy m p s.model then m
      else match backForWrite m p (firstTierOf m p) s.target s.bytes with
      | (m, some (st, v)) => finishV (endSwap m p i) i st v
      | (m, none) => m.setPart p fun y =>
          { y with swaps := y.swaps.map fun t => if t.item = i then { t with copying := true } else t }

/-- Execute SWAP_COPY_START. -/
def execSwapCopyStart (i : ItemRef) (s : State) : Host.Outcome State Fault Refusal :=
  guarded (i.ok) (swapCopyStartFn i) s

/-- SWAP_COPY_DONE: the weights stand at the target, the model is released, and DETAIL names the step index of its next
launch. -/
def swapCopyDoneFn (i : ItemRef) (m : Module) : Module :=
  withItem m i .running [opSwap] fun _ p =>
    match (m.part p).swaps.find? fun s => s.item == i with
    | none => m
    | some s =>
      if !s.copying || tierWaits m p s.stage s.bytes || tierWaits m p s.target s.bytes then m
      else match poisonedIn m p s.stage s.bytes with
      | some g => finishV (endSwap m p i) i .failTier (poisonDetail m p g)
      | none => match poisonedIn m p s.target s.bytes with
        | some g => finishV (endSwap m p i) i .failTier (poisonDetail m p g)
        | none =>
          let m := tierTake (noteRead m p s.stage s.bytes) p s.stage s.bytes
          let m := tierTake (devWrite m p s.target (devRead m p s.stage s.bytes)) p s.target s.bytes
          finishV (endSwap m p i) i .done ((m.part p).launches.get s.model % 4294967296)

/-- Execute SWAP_COPY_DONE. -/
def execSwapCopyDone (i : ItemRef) (s : State) : Host.Outcome State Fault Refusal :=
  guarded (i.ok) (swapCopyDoneFn i) s

end Sys2Proof.Machine
end

