-- ==== Sys2Proof/Machine/Swaths.lean ====
section
/-! DEFINITION. LOAD_SWATH: the checks of images, schedules, serving records and signatures, placement group by group, the
pages a load backs, and the end of its streaming (07_swaths R189 to R197, 08_tiers R217, R220, 11_host_interface R308,
14_firmware R394, 16_security R436). -/

namespace Sys2Proof.Machine

/-- Bytes of the range as a memory counted from 0. -/
def devSlice (m : Module) (p a n : Nat) : Mem := (m.part p).range.slice a n

/-! ### Undoing a load (R196, R316) -/

/-- The swaths that an item is loading. -/
def loading (m : Module) (p : Nat) (i : ItemRef) : List Swath :=
  (m.part p).swaths.filter fun w => w.loader == some i && !w.ready

/-- A load is refused or fails: its planes are EMPTY, its swath store is free, what is left of its reservation is released, and
the pages it backed are unbacked, unless something else holds them. -/
def undoLoad (m : Module) (p : Nat) (i : ItemRef) : Module :=
  let (back, resv) := match findItem m i with
    | some x => (x.backed, x.resv)
    | none => ([], {})
  let m := foldM (loading m p i) (fun m w => dropSwath m p w) m
  let m := setItem (release m p resv) i fun y => { y with resv := {} }
  foldM back (fun m g => if ((m.part p).pages.get g).heldBy = 0 then unbackPage m p g else m) m

/-- A load ends with a refusal. -/
def failLoad (m : Module) (p : Nat) (i : ItemRef) (st : Status) (v : Nat) : Module := finishV (undoLoad m p i) i st v

/-! ### Pages a load backs (R192, R217) -/

/-- Pages that a schedule entry can write in the range: payload and scale bytes, at both addresses that ALT_DST selects. -/
def entryPages (d : TmDesc) : List Nat :=
  if d.dstLvl ≠ 0 then []
  else
    let bases := if d.altDst then [0, d.altOff] else [0]
    let payload := bases.flatMap fun o => endPages d (d.dst + o) d.dstStride
    let scales := if !d.scales then [] else
      (range' 0 (d.cnt 1)).flatMap fun i1 => (range' 0 (d.cnt 2)).flatMap fun i2 => (range' 0 (d.cnt 3)).flatMap fun i3 =>
        pagesOf (scaleAt d d.dstScale d.dstStride [0, i1, i2, i3]) ((d.cnt 0 + 31) / 32)
    (payload ++ scales).eraseDups

/-- Pages that a swath keeps backed: what its schedule can write, and both copies of its step and result tables. -/
def heldPages (w : Swath) : List Nat :=
  let ofEntries := (range' 0 w.entries).flatMap fun e => entryPages (tmDesc w.schedule e)
  let ofTables := match w.serving with
    | some v => pagesOf v.stepTable (2 * v.tableBytes) ++ pagesOf v.resultTable (2 * v.tableBytes)
    | none => []
  (ofEntries ++ ofTables).eraseDups

/-- Pages of a swath store: the image, its schedule's header and descriptors (R192, R220). -/
def Swath.store (w : Swath) : Nat :=
  ceilDiv (w.image.rd 0x38 8 + w.info.cores * 0x10000 + 128 + 128 * w.entries) pageSize

/-- In RESERVE mode, the worst case of a load: its swath stores in Sward, the pages that its swaths keep backed from
MEM_MODE.FIRST_TIER downward; the reservation, or the tier named in REJ_QUOTA (R192, R214, R217). -/
def reserveLoad (m : Module) (p : Nat) (ws : List Swath) : Except Nat (SMap Nat 0 × Module) :=
  if (m.part p).mem.pool then .ok ({}, m)
  else
    let n := (ws.map Swath.store).sum
    let need := (ws.flatMap heldPages).eraseDups.filter fun g => ((m.part p).pages.get g).tier.isNone
    if quotaRoom m p 0 < n ∨ freeIn m 0 < n then .error 0
    else match reserve (addRsvd m p 0 n) p (firstTierOf m p) need.length with
      | none => .error (firstTierOf m p)
      | some (r, m) => .ok (r.upd 0 (· + n), m)

/-- Pages outside the range leave a partition's Sward again, and are reserved as before in RESERVE mode. -/
def uncharge (m : Module) (p n : Nat) : Module :=
  if (m.part p).mem.pool then subUsed m p 0 n else addRsvd (subUsed m p 0 n) p 0 n

/-- Charge `n` pages outside the range to a partition's Sward, from its reservation, or with evictions in POOL mode: what is left of
the reservation. On failure none stays charged, and the evictions stand (R192, R214, R215). -/
def chargeSward (m : Module) (p : Nat) (resv : SMap Nat 0) : Nat → Module × Option (SMap Nat 0)
  | 0 => (m, some resv)
  | n + 1 =>
    let taken :=
      if (m.part p).mem.pool then (poolRoom m p 0).map fun m => (m, resv)
      else if 0 < resv.get 0 then some (subRsvd m p 0 1, resv.upd 0 (· - 1))
      else none
    match taken with
    | none => (m, none)
    | some (m, resv) => match chargeSward (addUsed m p 0 1) p resv n with
      | (m, some r) => (m, some r)
      | (m, none) => (uncharge m p 1, none)

/-- The swath stores of a load are charged and its pages of R217 backed: what is left of the reservation, and the pages backed. -/
def backLoad (m : Module) (p : Nat) (ws : List Swath) (resv : SMap Nat 0) : Module × Option (SMap Nat 0 × List Nat) :=
  match chargeSward m p resv (ws.map Swath.store).sum with
  | (m, none) => (m, none)
  | (m1, some resv) =>
    match backAll m1 p (firstTierOf m p) resv (ws.flatMap heldPages).eraseDups with
    | (m2, some r) => (m2, some r)
    | (m2, none) => (uncharge m2 p (ws.map Swath.store).sum, none)

/-- Every group is placed: the swath stores are charged, the pages of R217 backed and held, and the images stream. -/
def beginStream (m : Module) (p : Nat) (i : ItemRef) : Module :=
  let ws := loading m p i
  let resv := match findItem m i with
    | some x => x.resv
    | none => {}
  match backLoad m p ws resv with
  | (m, none) => failLoad m p i .rejQuota (firstTierOf m p)
  | (m, some (left, done)) =>
    let m := setItem (release m p left) i fun y => { y with backed := done, progress := 1, resv := {} }
    foldM ws (fun m w => setSwath (holdPages m p (heldPages w)) p w.id fun w =>
      { w with held := heldPages w, storePages := w.store }) m

/-! ### Placement (R190, R195, R394) -/

/-- The swath belongs to a draft model. -/
def isDraftSwath (m : Module) (p : Nat) (w : Swath) : Bool :=
  match servingOf m p w.model with
  | some v => v.draft
  | none => false

/-- The load would have been placed with condition 3 of R190 left out. -/
def fitsWithout3 (m : Module) (p : Nat) (i : ItemRef) : Bool :=
  let ws := loading m p i
  let m := foldM ws (fun m w => setSwath m p w.id fun w => { w with groups := [] }) m
  (ws.foldl (fun (o : Option Module) w => o.bind fun m =>
    match placeFrom m p w.info (routesOf w.image w.info) w.plane (isDraftSwath m p w) true w.need [] with
    | .ok gs => some (setSwath m p w.id fun w => { w with groups := gs })
    | .error _ => none) (some m)).isSome

/-- Take a core group for the next logical group of a swath: its cores' planes are LOADING. -/
def takeGroup (m : Module) (p : Nat) (w : Swath) (k : Nat) (waits : Option Nat) : Module :=
  let g := w.groups.length
  let cs := (liveIn m k).take (w.need.getD g 0)
  let first := (firstCores w.need 0).getD g 0
  let m := foldM (range' 0 cs.length) (fun m j =>
    m.setCore (cs.getD j 0) fun c =>
      { c with planes := c.planes.put w.plane { st := .loading, part := p, swath := w.id, logical := some (first + j) } }) m
  setSwath m p w.id fun w => { w with groups := w.groups ++ [k], cores := w.cores ++ cs, waitsFor := waits }

/-- Give back the group chosen last. -/
def dropGroup (m : Module) (p : Nat) (w : Swath) : Module :=
  let n := w.groups.length - 1
  let keep := (firstCores w.need 0).getD n 0
  let m := emptyPlanes m w.plane (w.cores.drop keep)
  setSwath m p w.id fun w => { w with groups := w.groups.take n, cores := w.cores.take keep, waitsFor := none }

/-- Place the groups of an item's images in order, until one waits for an absent control core, none fits, or all are placed. -/
def placeLoop (p : Nat) (i : ItemRef) : Nat → Module → Module
  | 0, m => m
  | fuel + 1, m =>
    match (loading m p i).find? fun w => w.waitsFor.isSome || decide (w.groups.length < w.need.length) with
    | none => beginStream m p i
    | some w =>
      match w.waitsFor with
      | some k =>
        if (m.proc (32 + k)).limitPassed then placeLoop p i fuel (dropGroup m p w)
        else if absent m (32 + k) then m
        else placeLoop p i fuel (setSwath m p w.id fun w => { w with waitsFor := none })
      | none =>
        match (range' 0 160).find? fun k =>
            fits m p w.info (routesOf w.image w.info) w.plane (isDraftSwath m p w) false w.groups k with
        | some k => placeLoop p i fuel (takeGroup m p w k (if absent m (32 + k / 5) then some (k / 5) else none))
        | none => failLoad m p i (if fitsWithout3 m p i then .rejState else .rejQuota) w.groups.length

/-- Placement steps that suffice: each group chosen, waited for and chosen again. -/
def placeFuel : Nat := 4000

/-- The loads of a partition that wait at placement for a control core go on (R394). -/
def resumeLoads (m : Module) : Module :=
  foldM m.parts.cells (fun m c =>
    foldM ((c.2.swaths.filter fun w => w.waitsFor.isSome).filterMap (·.loader)).eraseDups
      (fun m i => placeLoop c.1 i placeFuel m) m) m

/-! ### LOAD_SWATH (R189, R196, R220, R308, R436) -/

/-- Offset of the first field of a load list that breaks R308. -/
def listBad (es : List LoadEntry) : Option Nat :=
  firstBad (((range' 0 es.length).zip es).flatMap fun x =>
    [(64 * x.1 + 0x20, decide (3 < x.2.plane)), (64 * x.1 + 0x21, x.2.reserved)])

/-- What the checks of one entry of the load list find. -/
inductive EntryCheck where
  | ends (m : Module)
  | good (w : Swath)

/-- Check one entry before anything is placed: the addresses, the headers, the serving record, the SWATH_ID (log 46). -/
def checkEntry (m : Module) (p : Nat) (i : ItemRef) (k : Nat) (e : LoadEntry) (before : List Swath) : EntryCheck :=
  let img := devSlice m p e.image e.bytes
  let sBytes := scheduleBytes m p e.schedule
  let sched := devSlice m p e.schedule sBytes
  let info := imgInfo img
  let srv := devSlice m p e.serving 256
  match badRun m p i e.image e.bytes with
  | some m => .ends m
  | none =>
    if e.bytes != info.planeOff + info.cores * 0x10000 && (headerBad' img (info.planeOff + info.cores * 0x10000)).isNone then
      .ends (rejFormat m i 5 (64 * k + 0x28))
    else match headerBad' img e.bytes with
    | some o => .ends (rejFormat m i 2 o)
    | none => match groupsBad img with
      | some o => .ends (rejFormat m i 2 o)
      | none => match badRun m p i e.schedule sBytes with
        | some m => .ends m
        | none => match scheduleBad sched info.id with
          | some o => .ends (rejFormat m i 3 o)
          | none => match (if e.serving = 0 then none else badRun m p i e.serving 256) with
            | some m => .ends m
            | none => match (if e.serving = 0 then none else servingBad srv info.model) with
              | some o => .ends (rejFormat m i 4 o)
              | none =>
                if (m.part p).swaths.any (fun w => w.id == info.id) || before.any (fun w => w.id == info.id) then
                  .ends (finishV m i .rejState 0)
                else .good
                  { id := info.id, model := info.model, foldIndex := info.fold, foldCount := info.folds
                    wcStep := info.wcStep, plane := e.plane, lclusters := info.lcl, need := info.need, csBytes := info.cs
                    image := img, schedule := sched, entries := sched.rd 0x10 4
                    serving := if e.serving = 0 then none else some (readServing srv), loader := some i }

/-- Check the entries of a load list in order. -/
def checkEntries (m : Module) (p : Nat) (i : ItemRef) : List (Nat × LoadEntry) → List Swath → Except Module (List Swath)
  | [], ws => .ok ws
  | (k, e) :: es, ws =>
    match checkEntry m p i k e ws with
    | .ends m => .error m
    | .good w => checkEntries m p i es (ws ++ [w])

/-- Verify the signature block of one image (R436): the swath with what attestation lists of it. -/
def checkSignature (m : Module) (p : Nat) (e : LoadEntry) (w : Swath) : Option Swath :=
  let srv := if e.serving = 0 then List.replicate 256 0 else devRead m p e.serving 256
  let b := devRead m p e.signature sigBytes
  let d1 := sha3 (w.schedule.bytes 0 128)
  (publisherOk m p b 3 (sha3 (w.image.bytes 0 0x1000)) d1 (sha3 (srv ++ List.replicate 128 0))).map fun a =>
    { w with att := some { a with obj := w.id }, digest1 := d1 }

/-- Planes that a LOAD_SWATH names. -/
def namedPlanes (m : Module) (p : Nat) (x : Item) : List Nat := (loadList m p x.desc).map (·.plane)

/-- An earlier LOAD_SWATH of the ring that names one of the planes has not ended (R195). -/
def earlierLoad (m : Module) (p : Nat) (x : Item) : Bool :=
  (m.ring x.ref.fn x.ref.ring).items.any fun y =>
    y.opcode == opLoadSwath && (y.st == .dispatched || y.st == .running) &&
      after32 (BitVec.ofNat 32 x.ref.ssn) (BitVec.ofNat 32 y.ref.ssn) &&
      (namedPlanes m p y).any fun k => (namedPlanes m p x).contains k

/-- A checked load is admitted: what its schedules write must lie in the range, its worst case is reserved, its reads are noted,
and its images are placed. -/
def admitLoad (m : Module) (p : Nat) (i : ItemRef) (x : Item) (ws : List Swath) : Module :=
  match (ws.flatMap heldPages).find? fun g => decide ((m.part p).mem.rangePages ≤ g) with
  | some g => itemRange m p i (g * pageSize)
  | none => match reserveLoad m p ws with
    | .error t => finishV m i .rejQuota t
    | .ok (resv, m1) =>
      let reads := (dfield x.desc 0x18 8, 64 * dfield x.desc 0x20 1) :: (loadList m p x.desc).flatMap fun e =>
        [(e.image, 0x1000), (e.schedule, scheduleBytes m p e.schedule), (e.signature, sigBytes)] ++
          (if e.serving = 0 then [] else [(e.serving, 256)])
      let m := foldM reads (fun m r => noteRead m p r.1 r.2) m1
      let m := setItem (startItem m i) i fun y => { y with resv := resv }
      placeLoop p i placeFuel (m.setPart p fun y => { y with swaths := y.swaths ++ ws })

/-- LOAD_SWATH: headers and signatures are checked before any plane is touched, then the images are placed. -/
def loadSwathFn (i : ItemRef) (m : Module) : Module :=
  withItem m i .dispatched [opLoadSwath] fun x p =>
    let n := dfield x.desc 0x20 1
    if earlierLoad m p x then m
    else match badRun m p i (dfield x.desc 0x18 8) (64 * n) with
    | some m => m
    | none =>
      let es := loadList m p x.desc
      match listBad es with
      | some o => rejFormat m i 5 o
      | none => match checkEntries m p i ((range' 0 n).zip es) [] with
        | .error m => m
        | .ok ws =>
          match es.findSome? fun e => badRun m p i e.signature sigBytes with
          | some m => m
          | none =>
            let signed := (es.zip ws).map fun x => checkSignature m p x.1 x.2
            if signed.any (·.isNone) then finishV (countSigFail m p) i .rejSignature 0
            else admitLoad m p i x (signed.filterMap id)

/-- Execute LOAD_SWATH. -/
def execLoadSwath (i : ItemRef) (s : State) : Host.Outcome State Fault Refusal := guarded (i.ok) (loadSwathFn i) s

/-- First broken load-time check of the images and schedules of a load, as (structure, offset). -/
def streamBad (ws : List Swath) : Option (Nat × Nat) :=
  ws.findSome? fun w =>
    match planesBad w.image w.info with
    | some o => some (2, o)
    | none => (entriesBad w.image w.info w.schedule).map fun o => (3, o)

/-- PAYLOAD_HASH and ENTRY_HASH match (R189, R220). -/
def hashesOk (w : Swath) : Bool :=
  let i := w.info
  sha3 (w.image.bytes 0x1000 (i.planeOff + i.cores * 0x10000 - 0x1000)) == w.image.rd 0x40 64 &&
    sha3 (w.schedule.bytes 128 (128 * w.entries)) == w.schedule.rd 0x40 64

/-- A checked image takes its planes: payloads and constants are written, and the planes are READY (R184, R196). -/
def readyPlanes (m : Module) (p : Nat) (w : Swath) : Module :=
  let off := w.info.planeOff
  let m := foldM (range' 0 w.cores.length) (fun m l =>
    loadPlane m p (w.cores.getD l 0) w.plane l w.id .ready (payload w.image off l)) m
  let m := setSwath m p w.id fun w => { w with ready := true }
  m.setPart p fun y => { y with launches := y.launches.put w.model 0, attested := y.attested ++ w.att.toList }.forget w.id

/-- LOAD_SWATH_STREAM_END: the images have streamed; the checks of the payloads decide, then the hashes. -/
def loadSwathStreamEndFn (i : ItemRef) (m : Module) : Module :=
  withItem m i .running [opLoadSwath] fun x p =>
    let ws := loading m p i
    let es := loadList m p x.desc
    if x.progress ≠ 1 ∨ es.any (fun e => tierWaits m p e.image e.bytes) = true then m
    else
      let m := foldM es (fun m e => tierTake (noteRead m p e.image e.bytes) p e.image e.bytes) m
      match streamBad ws with
      | some (s, o) => rejFormat (undoLoad m p i) i s o
      | none =>
        if !ws.all hashesOk then failLoad (countHashFail m p) p i .rejSignature 0
        else finishV (foldM ws (fun m w => readyPlanes m p w) m) i .done 0

/-- Execute LOAD_SWATH_STREAM_END. -/
def execLoadSwathStreamEnd (i : ItemRef) (s : State) : Host.Outcome State Fault Refusal :=
  guarded (i.ok) (loadSwathStreamEndFn i) s

end Sys2Proof.Machine
end

