-- ==== Sys2Proof/Machine/Moves.lean ====
section
/-! DEFINITION. MOVE in its four kinds and EVICT (08_tiers R211 to R214, R234, 11_host_interface R311, R312, Table 11.8). -/

namespace Sys2Proof.Machine

/-! ### Fields of a MOVE (R311) -/

/-- KIND. -/
def mvKind (x : Item) : Nat := dfield x.desc 0x18 1
/-- SRC. -/
def mvSrc (x : Item) : Nat := dfield x.desc 0x20 8
/-- DST. -/
def mvDst (x : Item) : Nat := dfield x.desc 0x28 8
/-- LEN. -/
def mvLen (x : Item) : Nat := dfield x.desc 0x30 8
/-- PLACE of a RETIER. -/
def mvPlace (x : Item) : Placement :=
  let b := dfield x.desc 0x1A 1
  if b % 2 = 1 then .home (b / 2 % 8) else .stripe

/-! ### RETIER (R212 to R214, R311) -/

/-- One frame of a tier for a migration, as a reserved page, with an eviction in POOL mode: the module, or none (R214, R215). -/
def takeFrame (m : Module) (p t : Nat) : Option Module :=
  if (m.part p).mem.pool then (poolRoom m p t).map fun m => addRsvd m p t 1
  else if 0 < quotaRoom m p t ∧ 0 < freeIn m t then some (addRsvd m p t 1)
  else none

/-- One frame from a list of tiers, the first that has one to give. -/
def takeFrom (m : Module) (p : Nat) : List Nat → Option (Nat × Module)
  | [] => none
  | t :: ts => match takeFrame m p t with
    | some m => some (t, m)
    | none => takeFrom m p ts

/-- Frames for `n` pages from tier `t` downward, as reserved pages: the tier of each, in page order. When Heath cannot take the
rest none stays taken; evictions stand (R214, R215). -/
def takeFrames (m : Module) (p t n : Nat) : Module × Option (List Nat) :=
  match n with
  | 0 => (m, some [])
  | n + 1 => match takeFrom m p (tiersFrom t) with
    | none => (m, none)
    | some (u, m) => match takeFrames m p t n with
      | (m, some us) => (m, some (u :: us))
      | (m, none) => (subRsvd m p u 1, none)

/-- The page already stands where a RETIER sends it. -/
def inPlace (m : Module) (g : Page) (t : Nat) (pl : Placement) : Bool :=
  g.tier == some (tierOf t) &&
    (g.place == pl || (decide (t = 2) && pl == .stripe && decide (heathStripe m = 0)))

/-- The placement a MOVE's page gets in the tier that took it: HOME(k) where that tier has a unit k with a frame, else STRIPE. -/
def placeAt (m : Module) (t : Nat) (pl : Placement) : Placement :=
  match pl with
  | .home k => if t = 2 ∧ homeFree m k = 0 then placeIn m t .stripe else .home k
  | .stripe => placeIn m t .stripe

/-- The page takes the lock of its RETIER. -/
def lockPage (m : Module) (p page : Nat) (lock : Bool) : Module :=
  if lock then setPage m p page fun x => { x with locked := true } else m

/-- Send one page on its way to tier `t`, with a frame taken in tier `took`: an unbacked page is backed there, a backed one starts
its migration. A page for which only its own tier or a lower one had a frame stays, and the frame is given back (log 31). -/
def sendPage (i : ItemRef) (p t : Nat) (pl : Placement) (lock : Bool) (m : Module) (x : Nat × Nat) : Module :=
  let (page, took) := x
  let g := (m.part p).pages.get page
  match g.tier with
  | none => lockPage (placeFrame (subRsvd m p took 1) p page took (placeAt m took pl)) p page lock
  | some u =>
    if took ≠ t ∧ u.idx ≤ took then lockPage (subRsvd m p took 1) p page lock
    else
      setPage m p page fun x =>
        { x with mig := some { toTier := tierOf took, toPlace := placeAt m took pl, item := some i, lockAfter := lock } }

/-- A RETIER may not send the page to a lower tier: it is locked, or it holds a PROVISIONAL or PINNED cache page (R213). -/
def keptUp (m : Module) (p page t : Nat) : Bool :=
  let g := (m.part p).pages.get page
  (match g.tier with
    | some u => decide (u.idx < t)
    | none => false) && (g.locked || (fixedPages m p).contains page)

/-- MOVE with KIND 0: UNLOCK, the test of R213, a frame for every page, then every page's migration starts. -/
def moveRetierFn (i : ItemRef) (m : Module) : Module :=
  withItem m i .dispatched [opMove] fun x p =>
    if mvKind x ≠ 0 then m
    else
    let t := dfield x.desc 0x19 1
    let pl := mvPlace x
    let flags := dfield x.desc 0x1B 1
    let pages := range' (mvSrc x / pageSize) (mvLen x / pageSize)
    let away := pages.filter fun g => !inPlace m ((m.part p).pages.get g) t pl
    let noHome := match pl with
      | .home k => decide (t = 2 ∧ homeFree m k < away.length)
      | .stripe => false
    if t = 2 ∧ (match pl with
      | .home k => decide (3 < k)
      | .stripe => false) = true then rejFormat m i 0 0x1A
    else match badRun m p i (mvSrc x) (mvLen x) with
    | some m => m
    | none =>
      if pages.any fun g => ((m.part p).pages.get g).mig.isSome then m
      else
        let m1 := if bit flags 1 then foldM pages (fun m g =>
            if ((m.part p).pages.get g).locked then setPage m p g fun y => { y with locked := false } else m) m
          else m
        if pages.any fun g => keptUp m1 p g t then finishV m i .rejState 0
        else if noHome then finishV m i .rejQuota t
        else match takeFrames m1 p t away.length with
        | (_, none) => finishV (takeFrames m p t away.length).1 i .rejQuota t
        | (m2, some us) =>
          let m2 := foldM (pages.filter fun g => !away.contains g) (fun m g => lockPage m p g (bit flags 0)) m2
          let m3 := foldM (away.zip us) (sendPage i p t pl (bit flags 0)) m2
          if migratingFor m3 p i then startItem m3 i else finishV m3 i .done 0

/-- Execute MOVE_RETIER. -/
def execMoveRetier (i : ItemRef) (s : State) : Host.Outcome State Fault Refusal := guarded (i.ok) (moveRetierFn i) s

/-! ### Copies (R311, R209, R211, R234) -/

/-- Begin a copying MOVE: the pages it reads and writes are checked, those it writes are backed. -/
def beginMove (m : Module) (i : ItemRef) (x : Item) (p : Nat) : Module :=
  let reads := if mvKind x = 2 then none else badRun m p i (mvSrc x) (mvLen x)
  match reads with
  | some m => m
  | none =>
    if mvKind x = 1 then startItem m i
    else if rangeEnd m p < mvDst x + mvLen x then itemRange m p i (mvDst x)
    else match backForWrite m p (firstTierOf m p) (mvDst x) (mvLen x) with
    | (m, some (st, v)) => finishV m i st v
    | (m, none) => startItem m i

/-- Bytes that a copy within the range moves: where the source overlaps the destination the manual gives no value. -/
def rangeCopy (m : Module) (p : Nat) (x : Item) (off n : Nat) : List Byte × Module :=
  let (v, m1) := takeFree m
  let clash (a : Nat) : Bool := decide (mvDst x ≤ a ∧ a < mvDst x + mvLen x)
  let bs := (range' (mvSrc x + off) n).map fun a => if clash a then Config.freeByte v a else (m.part p).range.get a
  (bs, if (range' (mvSrc x + off) n).any clash then m1 else m)

/-- The next `n` bytes of a running copy: host data, or bytes of the range. -/
def moveLines (m : Module) (i : ItemRef) (x : Item) (p : Nat) (data : List Byte) : Module :=
  let n := data.length
  let off := x.progress
  let s := mvSrc x + off
  let d := mvDst x + off
  let step (m : Module) := setItem m i fun y => { y with progress := y.progress + n }
  if n % 64 ≠ 0 ∨ mvLen x < off + n then m
  else match (if mvKind x = 2 then none else badRun m p i s n).orElse
      fun _ => if mvKind x = 1 then none else badRun m p i d n with
  | some m => m
  | none =>
  if mvKind x = 1 then
    if tierWaits m p s n then m
    else withHost m p n fun m =>
      step (emitBytes (tierTake (noteRead m p s n) p s n) i.fn d (devRead m p s n))
  else if mvKind x = 2 then
    if tierWaits m p d n then m
    else withHost m p n fun m => step (tierTake (devWrite m p d data) p d n)
  else if tierWaits m p s n || tierWaits m p d n then m
  else
    let (bs, m) := rangeCopy m p x off n
    let m := tierTake (noteRead m p s n) p s n
    step (tierTake (devWrite m p d bs) p d n)

/-- MOVE with KIND 1 to 3: it begins when dispatched, and copies the lines of one command at a time. -/
def moveCopyFn (i : ItemRef) (data : List Byte) (m : Module) : Module :=
  match findItem m i, itemPart m i with
  | some x, some p =>
    if x.opcode ≠ opMove ∨ mvKind x = 0 then m
    else if x.st = .dispatched then
      let m := beginMove m i x p
      match findItem m i with
      | some y => if y.st = .running then moveLines m i y p data else m
      | none => m
    else if x.st = .running then moveLines m i x p data
    else m
  | _, _ => m

/-- Execute MOVE_COPY. -/
def execMoveCopy (i : ItemRef) (data : List Byte) (s : State) : Host.Outcome State Fault Refusal :=
  guarded (i.ok) (moveCopyFn i data) s

/-- The last line of a copying MOVE has landed. -/
def moveCopyDoneFn (i : ItemRef) (m : Module) : Module :=
  withItem m i .running [opMove] fun x _ =>
    if mvKind x ≠ 0 ∧ x.progress = mvLen x then finishV m i .done 0 else m

/-- Execute MOVE_COPY_DONE. -/
def execMoveCopyDone (i : ItemRef) (s : State) : Host.Outcome State Fault Refusal :=
  guarded (i.ok) (moveCopyDoneFn i) s

/-! ### EVICT (R312) -/

/-- The model has an open run. -/
def hasRun (m : Module) (p model : Nat) : Bool := (m.part p).runs.any fun r => r.model == model

/-- A plane of the swath is in use: it loads, it is active or in a sealed set, a step of its model is unfinished or awaits
replay, or saved state names it. -/
def swathBusy (m : Module) (p : Nat) (w : Swath) : Bool :=
  !w.ready || modelBusy m p w.model || (m.part p).saved.any (fun s => s.swath == w.id) ||
    (match (m.part p).sealedSet with
      | some rs => rs.any fun r => r.model == w.model
      | none => false) ||
    w.cores.any fun c =>
      let pl := (m.core c).planes.get w.plane
      pl.part == p && pl.swath == w.id && pl.st == .active

/-- Release a prefix: its pages that no request and no other prefix holds are FREE (R286). -/
def dropPrefix (m : Module) (p : Nat) (x : Prefix) : Module :=
  let m := m.setPart p fun y => { y with prefixes := y.prefixes.filter fun z => !(z.model == x.model && z.num == x.num) }
  let inUse := cacheInUse m p x.model 65536
  freeCache m p x.srv (x.pages.filter fun c => !inUse.contains c)

/-- EVICT of a list of swaths and prefixes, and, for a model, of the manifests recorded as loaded for it. -/
def evictAll (m : Module) (p : Nat) (i : ItemRef) (ws : List Swath) (ps : List Prefix) (model : Option Nat) : Module :=
  if ws.isEmpty && ps.isEmpty then finishV m i .rejState 0
  else if ws.any (fun w => swathBusy m p w || hasRun m p w.model) || ps.any (fun x => hasRun m p x.model) then
    finishV m i .rejState 0
  else
    let m := foldM ws (fun m w => dropSwath m p w) m
    let m := foldM ps (fun m x => dropPrefix m p x) m
    let m := match model with
      | some k => m.setPart p fun y => { y with attested := y.attested.filter fun a => !(a.kind == 4 && a.obj == k) }
      | none => m
    finishV m i .done 0

/-- EVICT frees a swath, a model, a prefix or pages. -/
def evictFn (i : ItemRef) (m : Module) : Module :=
  withItem m i .dispatched [opEvict] fun x p =>
    let kind := dfield x.desc 0x18 1
    let id := dfield x.desc 0x20 8
    let y := m.part p
    if kind = 0 then evictAll m p i (y.swaths.filter fun w => w.id == id) [] none
    else if kind = 1 then
      evictAll m p i (y.swaths.filter fun w => w.model == id) (y.prefixes.filter fun z => z.model == id) (some id)
    else if kind = 2 then
      evictAll m p i [] (y.prefixes.filter fun z => z.model == id && z.num == dfield x.desc 0x28 2) none
    else
      let a := dfield x.desc 0x30 8
      let n := dfield x.desc 0x38 8
      let pages := range' (a / pageSize) (n / pageSize)
      if rangeEnd m p < a + n then itemRange m p i a
      else if pages.any fun g => (y.pages.get g).mig.isSome then m
      else if pages.any fun g =>
          (y.pages.get g).locked || (fixedPages m p).contains g || decide (0 < (y.pages.get g).heldBy) then
        finishV m i .rejState 0
      else finishV (foldM pages (fun m g => unbackPage m p g) m) i .done 0

/-- Execute EVICT. -/
def execEvict (i : ItemRef) (s : State) : Host.Outcome State Fault Refusal := guarded (i.ok) (evictFn i) s

end Sys2Proof.Machine
end

