-- ==== Sys2Proof/Machine/Serving.lean ====
section
/-! DEFINITION. Runs and requests: STEP, RUN_GRAPH, ADMIT, PAUSE, RESUME (07_swaths R197, 09_experts R248, 10_serving R256 to
R264, R272, R277 to R280, R286, 11_host_interface R313). -/

namespace Sys2Proof.Machine

/-! ### Models (R197, R200, R260) -/

/-- The load of a swath has completed and its completion is written, so that a seal may use its planes (R197). -/
def usable (m : Module) (w : Swath) : Bool :=
  w.ready && (match w.loader with
    | none => true
    | some i => match findItem m i with
      | some x => x.st == .written
      | none => true)

/-- Swaths of a model that are READY. -/
def readyOf (m : Module) (p model : Nat) : List Swath :=
  (m.part p).swaths.filter fun w => w.model == model && w.ready

/-- The READY swaths of a model agree in FOLD_COUNT and WC_STEP_CC, and no two have one FOLD_INDEX (R197). -/
def foldsAgree (ws : List Swath) : Bool :=
  match ws with
  | [] => true
  | w :: _ =>
    (ws.all fun x => x.foldCount == w.foldCount && x.wcStep == w.wcStep) &&
      (range' 0 w.foldCount).all fun f => decide ((ws.filter fun x => x.foldIndex == f).length ≤ 1)

/-- Every FOLD_INDEX of a list of swaths is present. -/
def foldsWhole (ws : List Swath) : Bool :=
  match ws with
  | [] => false
  | w :: _ => (range' 0 w.foldCount).all fun f => ws.any fun x => x.foldIndex == f

/-- Stream tags that the schedule of a swath and its fabric program provide. -/
def tagsProvided (m : Module) (p : Nat) (w : Swath) : List Nat :=
  let ofSchedule := (range' 0 w.entries).filterMap fun e =>
    let d := tmDesc w.schedule e
    if d.dstLvl = 4 then some (d.tag % 2 ^ 28) else none
  let ofProgram := match (m.part p).fabProgs.find? fun g => g.swath == w.id with
    | some g => (range' 0 (g.bytes.rd 0x10 4)).filterMap fun e =>
        let d := xfDesc g.bytes e
        if d.rxQ ≠ 0xFF then some d.tag else none
    | none => []
  ofSchedule ++ ofProgram

/-- Every inbound queue of a READY swath that a stream fills names a tag that its schedule or its program provides (R378). -/
def tagsWhole (m : Module) (p : Nat) (w : Swath) : Bool :=
  let tags := tagsProvided m p w
  (range' 0 w.info.cores).all fun l =>
    let b := payload w.image w.info.planeOff l
    (range' 0 16).all fun q =>
      let e := inEntry b q
      e.consumer == 0 || e.prodKind != 1 || tags.contains (e.tag % 2 ^ 28)

/-- A STEP or RUN_GRAPH of the model completes REJ_STATE: nothing is loaded or loading, its READY swaths disagree, a FOLD_INDEX is
lacking, or a queue names a stream that nothing provides (R197, R378). -/
def modelBroken (m : Module) (p model : Nat) : Bool :=
  let ws := (m.part p).swaths.filter fun w => w.model == model
  !foldsAgree (readyOf m p model) || !foldsWhole ws || (readyOf m p model).any fun w => !tagsWhole m p w

/-- The serving record of a model whose swath of FOLD_INDEX 0 is READY (R260). -/
def servingReady (m : Module) (p model : Nat) : Option Serving :=
  (readyOf m p model).findSome? fun w => if w.foldIndex = 0 then w.serving else none

/-! ### Opening a run (R248, R264, R313, R341) -/

/-- Open run of a model. -/
def runOf (m : Module) (p model : Nat) : Option Run := (m.part p).runs.find? fun r => r.model == model

/-- A capacity override exceeds a non-zero compiled CAP of some dispatch pair of the model, in a swath that is READY or LOADING
(R197, R248). -/
def capTooHigh (m : Module) (p model cap : Nat) : Bool :=
  ((m.part p).swaths.filter fun w => w.model == model).any fun w =>
    (range' 0 w.info.cores).any fun l =>
      let b := payload w.image w.info.planeOff l
      (range' 0 8).any fun pr =>
        let r := suRule b pr
        r.action == 2 && r.cap != 0 && decide (r.cap < cap)

/-- Lowest free run number of a partition, 0 to 63. -/
def freeRun (m : Module) (p : Nat) : Option Nat :=
  (range' 0 64).find? fun n => !((m.part p).runs.any fun r => r.num == n)

/-- Open a run for an item, or refuse it. -/
def openRun (m : Module) (i : ItemRef) (p : Nat) (mk : Nat → Run) (model cap : Nat) : Module :=
  if (runOf m p model).isSome || modelBroken m p model then finishV m i .rejState 0
  else if cap ≠ 0 ∧ capTooHigh m p model cap = true then rejFormat m i 0 0x24
  else match freeRun m p with
    | none => finishV m i .rejState 0
    | some n => (startItem m i).setPart p fun x => { x with runs := x.runs ++ [mk n] }

/-- STEP: a serving run of a model opens; while its swaths are LOADING it waits for a later launch set (R197, R264). -/
def stepFn (i : ItemRef) (m : Module) : Module :=
  withItem m i .dispatched [opStep] fun x p =>
    let f (o n : Nat) := dfield x.desc o n
    let model := f 0x18 8
    match servingOf m p model with
    | none => finishV m i .rejState 0
    | some v =>
      if v.reqMax < f 0x26 2 then rejFormat m i 0 0x26
      else if v.tokensMax < f 0x28 4 then rejFormat m i 0 0x28
      else openRun m i p (fun n =>
        { num := n, graph := false, model := model, item := i, count := f 0x20 4, capOvr := f 0x24 2
          reqLim := f 0x26 2, tokLim := f 0x28 4 }) model (f 0x24 2)

/-- Execute STEP. -/
def execStep (i : ItemRef) (s : State) : Host.Outcome State Fault Refusal := guarded (i.ok) (stepFn i) s

/-- RUN_GRAPH: a run of COUNT steps of a model opens. -/
def runGraphFn (i : ItemRef) (m : Module) : Module :=
  withItem m i .dispatched [opRunGraph] fun x p =>
    let f (o n : Nat) := dfield x.desc o n
    let model := f 0x18 8
    openRun m i p (fun n =>
      { num := n, graph := true, model := model, item := i, count := f 0x20 4, capOvr := f 0x24 2 }) model (f 0x24 2)

/-- Execute RUN_GRAPH. -/
def execRunGraph (i : ItemRef) (s : State) : Host.Outcome State Fault Refusal := guarded (i.ok) (runGraphFn i) s

/-! ### The request block (R261, Table 10.3) -/

/-- FP32 bits of 1.0. -/
def oneF32 : Nat := 0x3F800000
/-- FP32 bits of infinity: the finite positive patterns lie below. -/
def infF32 : Nat := 0x7F800000

/-- Offset of the first field of a request block that is out of its range; `v` is the model's serving record. -/
def blockBad (m : Module) (p : Nat) (b : List Byte) (v : Option Serving) : Option Nat :=
  let f (o n : Nat) := leNat ((b.drop o).take n)
  let maxCtx := (v.map fun v => v.maxContext).getD 16777216
  let drafts := (v.map fun v => v.draftMax).getD 16
  let vocab := v.map fun v => v.vocab
  firstBad [(0x18, decide (f 0x18 4 < 1 ∨ maxCtx < f 0x18 4)), (0x1C, decide (f 0x1C 4 < 1 ∨ maxCtx < f 0x1C 4)),
    (0x20, f 0x20 8 % 64 != 0), (0x28, f 0x28 8 % 64 != 0),
    (0x38, f 0x38 4 != 0x80000000 && decide (infF32 ≤ f 0x38 4)),
    (0x3C, decide (f 0x3C 4 < 1 ∨ oneF32 < f 0x3C 4)), (0x40, decide (f 0x40 1 < 1 ∨ 64 < f 0x40 1)),
    (0x41, decide (2 < f 0x41 1)), (0x42, decide (drafts < f 0x42 1)), (0x43, decide (7 < f 0x43 1)),
    (0x48, f 0x48 8 % 64 != 0 || (f 0x41 1 == 2 && vocab.isSome && vocab != some (devNum m p (f 0x48 8 + 12) 4))),
    (0x54, decide (4095 < f 0x54 2)), (0x56, decide (4095 < f 0x56 2)), (0x5C, f 0x5C 4 != 0), (0x68, f 0x68 24 != 0)]

/-- The prefix of a model with a number. -/
def prefixOf (m : Module) (p model num : Nat) : Option Prefix :=
  (m.part p).prefixes.find? fun x => x.model == model && x.num == num

/-- Entries of a page list (R282). -/
def listLen (v : Serving) : Nat := ceilDiv v.maxContext 64

/-- What an ADMIT asks for: the request it would create, its number of new cache pages. -/
structure Asked where
  q      : Request
  pages  : Nat
  deriving DecidableEq, Repr

/-- A cache that starts from a prefix, or empty (R286). -/
def Cache.from_ (x : Option Prefix) : Cache :=
  match x with
  | none => {}
  | some x =>
    { pages := ((range' 0 x.pages.length).zip x.pages).foldl (fun s e => s.put e.1 (some e.2)) {}
      pinned := x.pages.length, mark := 64 * x.pages.length }

/-- The request of a block that R262 does not refuse for its form, or none where its state refuses it. -/
def askedOf (m : Module) (i : ItemRef) (x : Item) (p : Nat) (b : List Byte) (prompt : List Nat) (v : Serving) :
    Option Asked :=
  let f (o n : Nat) := leNat ((b.drop o).take n)
  let model := f 0 8
  let ctr := (m.part p).admitCtr
  let seq := if f 8 8 = 0 then ctr + 1 else f 8 8
  let oldest := (reqsOf m p).foldl (fun (o : Option Nat) r => some (min r.2.admitNo (o.getD r.2.admitNo))) none
  let drafts := f 0x42 1
  let dv := if drafts = 0 then none else (servingReady m p v.draftModel).filter fun d => d.draft
  let use := if f 0x54 2 = 0 then none else prefixOf m p model (f 0x54 2)
  let duse := if f 0x54 2 = 0 ∨ drafts = 0 then none else
    (prefixOf m p v.draftModel (f 0x54 2)).filter fun d => d.pages.length == (use.map fun u => u.pages.length).getD 0
  let w := 64 * (use.map fun u => u.pages.length).getD 0
  let pin := f 0x56 2
  if decide (seq ≤ ctr) || (match oldest with
      | some o => decide (o + 2147483648 ≤ seq)
      | none => false) ||
      (f 0x54 2 != 0 && use.isNone) || decide (f 0x18 4 ≤ w) ||
      (pin != 0 && ((prefixOf m p model pin).isSome || (drafts != 0 && (prefixOf m p v.draftModel pin).isSome))) ||
      (drafts != 0 && (v.draftModel == 0 || dv.isNone)) then none
  else
    let total := ceilDiv (f 0x18 4 + f 0x1C 4 + drafts) 64
    let mine := (total - w / 64) * (v.pageBytes / pageSize)
    let theirs := match dv with
      | some d => (total - (duse.map fun u => u.pages.length).getD 0) * (d.pageBytes / pageSize)
      | none => 0
    let main := Cache.from_ use
    let dcache := Cache.from_ duse
    let flags := dfield x.desc 5 1
    some
      { pages := mine + theirs
        q := { part := p, fn := i.fn, ring := i.ring, ssn := i.ssn, itemTag := dfield x.desc 8 8, model := model
               draftModel := if drafts = 0 then 0 else v.draftModel, admitNo := seq
               st := if bit flags 1 then .paused else .waiting, startPaused := bit flags 1, dropOnMiss := bit flags 0
               deadline := deadlineOf x.desc, pace := f 0x44 4, prio := f 0x43 1, prompt := prompt, maxNew := f 0x1C 4
               outAddr := f 0x20 8, pageList := f 0x28 8, draftPageList := f 0x60 8, seed := f 0x30 8
               temp := BitVec.ofNat 32 (f 0x38 4), topP := BitVec.ofNat 32 (f 0x3C 4), topK := f 0x40 1
               selMode := f 0x41 1, selAddr := f 0x48 8, gstate := f 0x50 4, drafts := drafts, prefixUse := f 0x54 2
               prefixPin := pin, pinPages := f 0x58 4, main := main, dcache := dcache
               phase := if drafts ≠ 0 ∧ dcache.mark < main.mark then .draftPrefill else .prefill
               lastTick := m.tick.count, srv := some v, dsrv := dv } }

/-- Write a page list as a request starts: its prefix's pages, and 0xFFFF_FFFF for an entry with no page (R282, R286). -/
def startList (m : Module) (p a : Nat) (v : Serving) (c : Cache) : Module :=
  devWrite m p a ((range' 0 (listLen v)).flatMap fun k => leBytes ((c.pages.get k).getD 0xFFFFFFFF) 4)

/-- Back and write the page lists of a request that is admitted: the module, or how the ADMIT ends. -/
def startLists (m : Module) (i : ItemRef) (p : Nat) (q : Request) : Module × Bool :=
  let one (m : Module) (a : Nat) (v : Option Serving) (c : Cache) : Module × Bool :=
    match v with
    | none => (m, true)
    | some v =>
      if rangeEnd m p < a + 4 * listLen v then (itemRange m p i a, false)
      else match backForWrite m p (firstTierOf m p) a (4 * listLen v) with
        | (m, some (st, d)) => (finishV m i st d, false)
        | (m, none) => (startList m p a v c, true)
  match one m q.pageList q.srv q.main with
  | (m, false) => (m, false)
  | (m, true) => one m q.draftPageList q.dsrv q.dcache

/-- The request takes a slot, or REJ_QUOTA (R256, R262, R263). -/
def admitRequest (m : Module) (i : ItemRef) (p : Nat) (a : Asked) : Module :=
  if (m.part p).regs.srvQuota ≤ (reqsOf m p).length then finishV m i .rejQuota 0
  else match lowestFree m 0 65536 with
  | none => finishV m i .rejQuota 0
  | some slot => match reserve m p (firstTierOf m p) a.pages with
    | none => finishV m i .rejQuota (firstTierOf m p)
    | some (resv, m1) => match startLists m1 i p a.q with
      | (m2, false) => release m2 p resv
      | (m2, true) =>
        let m := { m2 with slots := m2.slots.put slot (some { a.q with resv := resv }) }
        let m := if a.q.selMode = 2 then noteRead m p a.q.selAddr 64 else m
        let m := m.setPart p fun x => { x with admitCtr := a.q.admitNo }
        checkSyncs (startItem m i) i.fn

/-- An earlier ADMIT of the ring has not been decided: the admission sequences of a ring follow its SSNs (R257, R305). -/
def earlierAdmit (m : Module) (x : Item) : Bool :=
  (m.ring x.ref.fn x.ref.ring).items.any fun y =>
    y.opcode == opAdmit && y.st == .dispatched && after32 (BitVec.ofNat 32 x.ref.ssn) (BitVec.ofNat 32 y.ref.ssn)

/-- ADMIT: the request block is read and checked; the request takes a slot and has no completion until its first record. -/
def admitFn (i : ItemRef) (block : List Byte) (prompt : List Nat) (m : Module) : Module :=
  withItem m i .dispatched [opAdmit] fun x p =>
    let model := leNat (block.take 8)
    let v := servingReady m p model
    if earlierAdmit m x then m
    else withHost m p (128 + 4 * prompt.length) fun m =>
      match blockBad m p block v, v with
      | some o, _ => rejFormat m i 1 o
      | none, none => finishV m i .rejState 0
      | none, some v =>
        match askedOf m i x p block prompt v with
        | none => finishV m i .rejState 0
        | some a => if prompt.length = leNat ((block.drop 0x18).take 4) then admitRequest m i p a else m

/-- Execute ADMIT. -/
def execAdmitReq (i : ItemRef) (block : List Byte) (prompt : List Nat) (s : State) : Host.Outcome State Fault Refusal :=
  guarded (i.ok && decide (block.length = 128)) (admitFn i block prompt) s

/-! ### PAUSE and RESUME (R277 to R280) -/

/-- PAUSE: the request is marked, to leave later launch sets from the next seal. -/
def pauseFn (i : ItemRef) (m : Module) : Module :=
  withItem m i .dispatched [opPause] fun x _ =>
    match slotOf m (targetOf i x.desc) with
    | none => finishV m i .rejState 0
    | some slot => match m.slots.get slot with
      | none => m
      | some q =>
        if q.st = .paused ∨ q.st = .ended then finishV m i .rejState 0
        else setReq (startItem m i) slot fun q => { q with pauseBy := q.pauseBy ++ [(i.ring, i.ssn)] }

/-- Execute PAUSE. -/
def execPause (i : ItemRef) (s : State) : Host.Outcome State Fault Refusal := guarded (i.ok) (pauseFn i) s

/-- Range pages of a request's caches, those of its spare pages among them. -/
def Request.tierPages (q : Request) : List Nat :=
  cacheTierPages q.srv (q.main.pages.cells.filterMap (·.2) ++ q.main.spares) ++
    cacheTierPages q.dsrv (q.dcache.pages.cells.filterMap (·.2) ++ q.dcache.spares)

/-- Migrate the pages of a request that rest below the first tier back to it, as far as that tier has frames (R280). -/
def promote (m : Module) (q : Request) : Module :=
  let t := firstTierOf m q.part
  foldM q.tierPages (fun m g =>
    let x := (m.part q.part).pages.get g
    let below := match x.tier with
      | some u => decide (t < u.idx)
      | none => false
    if !below || x.mig.isSome || x.poison then m
    else match takeFrame m q.part t with
      | none => m
      | some m => setPage m q.part g fun y =>
          { y with mig := some { toTier := tierOf t, toPlace := placeIn m t .stripe } }) m

/-- A page of the request still migrates. -/
def Request.moving (q : Request) (m : Module) : Bool :=
  q.tierPages.any fun g => ((m.part q.part).pages.get g).mig.isSome

/-- RESUME: the paused request is to run again from the next seal; with PROMOTE its pages first migrate up. -/
def resumeFn (i : ItemRef) (m : Module) : Module :=
  withItem m i .dispatched [opResume] fun x _ =>
    match slotOf m (targetOf i x.desc) with
    | none => finishV m i .rejState 0
    | some slot => match m.slots.get slot with
      | none => m
      | some q =>
        if q.st ≠ .paused then finishV m i .rejState 0
        else
          let up := bit (dfield x.desc 0x1A 2) 0
          let m := setReq (startItem m i) slot fun q =>
            { q with resumeBy := q.resumeBy ++ [(i.ring, i.ssn)], promoting := q.promoting || up }
          if up then promote m q else m

/-- Execute RESUME. -/
def execResume (i : ItemRef) (s : State) : Host.Outcome State Fault Refusal := guarded (i.ok) (resumeFn i) s

end Sys2Proof.Machine
end

