-- ==== Sys2Proof/Machine/Seal.lean ====
section
/-! DEFINITION. The seal of a boundary's launch sets: pauses, drains and their ends, the launch sets of the runs, cache pages,
step tables, contention, pre-emption, automatic pauses (02_tick R46, R47, 10_serving R264 to R266, R274, R277 to R281, R284,
R288, R289, 12_partitions R340 to R346, R352 to R354, 14_firmware R401, R402, 17_faults R454). -/

namespace Sys2Proof.Machine

/-! ### Sorting -/

/-- Insert in increasing order of a key, after equals. -/
def insertBy {α : Type} (key : α → Nat) (x : α) : List α → List α
  | [] => [x]
  | y :: ys => if key x < key y then x :: y :: ys else y :: insertBy key x ys

/-- Sort by a key; equals keep their order. -/
def sortBy {α : Type} (key : α → Nat) (l : List α) : List α := l.foldl (fun acc x => insertBy key x acc) []

/-! ### Requests (R258, R266, R272, R288, R289) -/

/-- Token at a position: of the prompt, then generated. -/
def Request.tokenAt (q : Request) (pos : Nat) : Nat :=
  match q.prompt[pos]? with
  | some t => t
  | none => q.generated.getD (pos - q.prompt.length) 0

/-- Tokens at `n` positions from one. -/
def Request.tokens (q : Request) (pos n : Nat) : List Nat := (range' pos n).map q.tokenAt

/-- Deadline of the request's next record: the smaller of DEADLINE and PACE after its last record, 0 for none (R272). -/
def Request.recordDeadline (q : Request) : Nat :=
  if q.pace = 0 then q.deadline
  else if q.deadline = 0 then q.lastTick + q.pace
  else min q.deadline (q.lastTick + q.pace)

/-- The request may join a launch set, but for its phase and its pages (R266). -/
def Request.eligible (q : Request) : Bool :=
  (q.st == .running || q.st == .waiting) && q.inStep.isNone && !q.recordPending && !q.aborted && !q.orphan && !q.promoting

/-- Drafts that a draft step proposes (R289). -/
def Request.proposes (q : Request) : Nat :=
  let ctx := (q.srv.map fun v => v.maxContext).getD 0
  min q.drafts (min (q.maxNew - q.generated.length - 1) (ctx - 1 - q.main.mark))

/-- The request's next step posts a record: it is no step of the draft model alone (R288). -/
def Request.postsRecord (q : Request) : Bool := q.phase != .draft && q.phase != .draftPrefill

/-! ### Pauses and resumptions (R277 to R281, R352, R354) -/

/-- Post the PAUSED record of a request, abandoning a round between its draft and verify steps; its PAUSE items are DONE. -/
def postPaused (m : Module) (slot : Nat) : Module :=
  match m.slots.get slot with
  | none => m
  | some q =>
    let m := if q.phase = .verify then
        setReq (settleModel m slot q.draftModel q.dcache.mark) slot fun q => { q with phase := .draft, proposals := [] }
      else m
    let m := pushWaiting m q.fn q.ring
      { ref := q.item, tag := q.itemTag, status := .paused, terminal := false
        detail := .val (if q.pause = .byHost then 0 else 4096) }
    let m := q.pauseBy.foldl (fun m r => finishV m ⟨q.fn, r.1, r.2⟩ .done 0) m
    setReq m slot fun q => { q with recordPending := true, pauseBy := [], pauseDue := false }

/-- A pause takes effect: the PAUSED record follows now, or after the step in flight. -/
def takePause (m : Module) (slot : Nat) (kind : PauseKind) : Module :=
  match m.slots.get slot with
  | none => m
  | some q =>
    let m := setReq m slot fun q => { q with st := .paused, pause := kind, pauseDue := true }
    if q.inStep.isSome then m else postPaused m slot

/-- The request runs again: its RESUME items are DONE. -/
def takeResume (m : Module) (slot : Nat) : Module :=
  match m.slots.get slot with
  | none => m
  | some q =>
    let m := q.resumeBy.foldl (fun m r => finishV m ⟨q.fn, r.1, r.2⟩ .done 0) m
    setReq m slot fun q => { q with st := .running, resumeBy := [], promoting := false }

/-- Requests of a partition that have not ended, as (slot, request). -/
def liveReqs (m : Module) (p : Nat) : List (Nat × Request) :=
  (reqsOf m p).filter fun r => r.2.st != .ended && !r.2.aborted && !r.2.orphan

/-- The pauses and resumptions of a partition that wait for this seal take effect. -/
def sealPauses (m : Module) (p : Nat) : Module :=
  let rs := liveReqs m p
  let m := foldM (rs.filter fun r => r.2.st != .paused && !r.2.pauseBy.isEmpty) (fun m r => takePause m r.1 .byHost) m
  foldM (rs.filter fun r => r.2.st == .paused && !r.2.resumeBy.isEmpty) (fun m r =>
    let m := if r.2.promoting && !r.2.moving m then promote m r.2 else m
    if r.2.promoting && r.2.moving m then m else takeResume m r.1) m

/-- A run that has launched nothing completes with a refusal when its model's READY swaths turn out not to agree, or to lack a fold,
or to have a CAP below its override (R197, R248; log 46). -/
def refuseRuns (m : Module) (p : Nat) : Module :=
  foldM ((m.part p).runs.filter fun r => r.launched == 0 && !r.ending) (fun m r =>
    let drop (m : Module) := m.setPart p fun x => { x with runs := x.runs.filter fun y => y.num ≠ r.num }
    if modelBroken m p r.model then completeRun m p r .rejState 0
    else if r.capOvr ≠ 0 ∧ capTooHigh m p r.model r.capOvr = true then rejFormat (drop m) r.item 0 0x24
    else m) m

/-- Items of a partition's functions that a drain answers: fetched or dispatched and not started (R352). -/
def drainItems (m : Module) (p : Nat) : List ItemRef :=
  m.fns.cells.flatMap fun f =>
    if f.2.bound && f.2.part == p then
      f.2.rings.cells.flatMap fun r => (r.2.items.filter fun x =>
        drainOps.contains x.opcode && (x.st == .fetched || x.st == .dispatched)).map (·.ref)
    else []

/-- A drain begins at a seal, or ends at one (R352, R354). -/
def sealDrain (m : Module) (p : Nat) : Module :=
  let x := m.part p
  if x.regs.drain && !x.drainSeal then
    let m := m.setPart p fun x => { x with drainSeal := true }
    let m := foldM (drainItems m p) (fun m i => finishV m i .drained 0) m
    let m := foldM (m.part p).runs (fun m r => stopRun m p r .done) m
    let m := foldM (liveReqs m p) (fun m r => if r.2.st = .paused then m else takePause m r.1 .drain) m
    dispatchAll m
  else if !x.regs.drain && x.drainSeal then
    let m := m.setPart p fun x => { x with drainSeal := false }
    foldM (liveReqs m p) (fun m r =>
      if r.2.st = .paused ∧ r.2.pause = .drain then
        setReq m r.1 fun q => { q with st := .running, pauseDue := false }
      else m) m
  else m

/-! ### Cores held and free (R341, R344) -/

/-- Pooled core group of a core. -/
def pooledCore (m : Module) (core : Nat) : Bool := m.pool.getLsbD (groupOf core)

/-- All cores of the models of a list of run steps, where they are placed now. -/
def coresOfRuns (m : Module) (p : Nat) (rs : List RunStep) : List Nat :=
  (rs.flatMap fun r => coresOfModel m p r.model).eraseDups

/-- Partitions whose unfinished step runs on a core, other than `p`. -/
def holdersOf (m : Module) (p core : Nat) : List Nat :=
  m.parts.keys.filter fun q => q != p && (match (m.part q).step with
    | some s => !s.preempted && s.cores.contains core
    | none => false)

/-- The scheduler may pre-empt the step of `q` for a ready run of `p` that needs the core (R344); a pre-empted step of a draining
partition wins every contention (R352). -/
def mayPreempt (m : Module) (p q core : Nat) (wins : Bool) : Bool :=
  let x := (m.part q).regs
  pooledCore m core && !x.drain && (match (m.part q).step with
    | some s => s.preemptAt.isNone && (wins || (decide ((m.part p).regs.vtime < x.vtime) && decide (x.minRun ≤ s.held)))
    | none => false)

/-- What a seal has granted so far: cores granted, and steps pre-empted with the partition each was claimed for. -/
structure Grants where
  cores : List Nat := []
  victims : List (Nat × Nat) := []
  deriving DecidableEq, Repr

/-- The cores can be granted to partition `p`: the steps it must pre-empt for them, or none. -/
def canTake (m : Module) (g : Grants) (p : Nat) (wins : Bool) (cores : List Nat) : Option (List Nat) :=
  if cores.any g.cores.contains then none
  else
    let qs := cores.flatMap fun c => (holdersOf m p c).map fun q => (q, c)
    if qs.all fun x => g.victims.contains (x.1, p) ||
        (!(g.victims.any fun v => v.1 == x.1) && mayPreempt m p x.1 x.2 wins) then
      some ((qs.map (·.1)).eraseDups)
    else none

/-- The scheduler pre-empts a step: the order goes out and takes effect at boundary `n` (R345). -/
def orderPreempt (m : Module) (n q : Nat) : Module :=
  let m := m.setPart q fun x => { x with step := x.step.map fun s => { s with preemptAt := some n } }
  hedgeSend m dieH 1 1 (orderPayload 0 q)

/-! ### Ready runs (R197, R266, R310, R341, R401) -/

/-- The planes of a model may launch at this seal: every swath usable, none of its cores fenced, under test, or in a cluster
whose control core is absent or still serves its holding queue. -/
def launchable (m : Module) (p model : Nat) : Bool :=
  let ws := (m.part p).swaths.filter fun w => w.model == model
  ws.all (usable m) && foldsAgree ws && foldsWhole ws &&
    !((m.part p).swaps.any fun s => s.held && s.model == model) &&
    (coresOfModel m p model).all fun c =>
      m.live c && (m.ras.testing.get (groupOf c)).isNone && !(m.clu (clusterOf c)).held

/-- Some request could give the run an entry. -/
def hasWork (m : Module) (p : Nat) (r : Run) : Bool :=
  if r.graph then true
  else (liveReqs m p).any fun x =>
    let q := x.2
    q.eligible && (if q.model = r.model then
        q.phase == .decode || q.phase == .verify ||
          (q.phase == .prefill && (q.drafts == 0 || (runOf m p q.draftModel).isSome))
      else q.drafts != 0 && q.draftModel == r.model &&
        (q.phase == .draft || q.phase == .draftPrefill || (q.phase == .prefill && (runOf m p q.model).isSome)))

/-- Runs of a partition that could launch at this seal, by engine time and run number (R341). -/
def readyRuns (m : Module) (p : Nat) : List Run :=
  sortBy (fun r => r.engineCc * 64 + r.num) ((m.part p).runs.filter fun r =>
    !r.ending && (r.count == 0 || decide (r.launched < r.count)) && launchable m p r.model && hasWork m p r)

/-- What a partition asks of a seal. -/
inductive Ask where
  | nothing
  | resume (cores : List Nat)
  | replay (cores : List Nat)
  | runs (rs : List Run)
  deriving DecidableEq, Repr

/-- What a partition asks of the seal of boundary `n`: to resume its pre-empted step, to replay its abandoned step, or to launch
its ready runs (R340, R345, R454, R456). -/
def askOf (m : Module) (n p : Nat) : Ask :=
  let x := m.part p
  let free (cs : List Nat) : Bool := cs.all fun c =>
    m.live c && (m.ras.testing.get (groupOf c)).isNone && !(m.clu (clusterOf c)).held
  if !x.regs.en || (m.fab p).halted then .nothing
  else match x.step, x.replay with
    | some s, _ =>
      let cs := coresOfRuns m p s.runs
      if s.preempted && free cs then .resume cs else .nothing
    | none, some r =>
      let cs := coresOfRuns m p r.runs
      let due := match r.at? with
        | some t => decide (t ≤ n)
        | none => false
      if due && free cs then .replay cs else .nothing
    | none, none =>
      if x.drainSeal then .nothing
      else match readyRuns m p with
        | [] => .nothing
        | rs => .runs rs

/-! ### Forming launch sets (R264 to R266, R274, R284, R288, R289) -/

/-- The launch set of one serving run as it is formed. -/
structure Build where
  run    : Nat
  model  : Nat
  srv    : Serving
  reqs   : Nat
  room   : Nat
  entries : List SetEntry := []
  deriving DecidableEq, Repr

/-- The build of a model. -/
def buildOf (bs : List Build) (model : Nat) : Option Build := bs.find? fun b => b.model == model

/-- Entries that a request would take, with the model of each; none when it does not fit (R266, R288, R289). -/
def entriesFor (bs : List Build) (slot : Nat) (q : Request) : List (Nat × SetEntry) :=
  let w := q.main.mark
  let v := q.dcache.mark
  let main := (buildOf bs q.model).filter fun b => decide (0 < b.reqs)
  let dr := if q.drafts = 0 then none else (buildOf bs q.draftModel).filter fun b => decide (0 < b.reqs)
  let mk (kind first n produce : Nat) (toks : List Nat) : SetEntry :=
    { slot := slot, kind := kind, firstPos := first, npos := n, produce := produce, tokens := toks }
  match q.phase with
  | .prefill =>
    let left := q.prompt.length - w
    let done (n : Nat) := if w + n = q.prompt.length then 1 else 0
    match main, dr with
    | some b, d =>
      let n := min left (if q.drafts = 0 then b.room else min b.room ((d.map fun d => d.room).getD 0))
      if n = 0 then []
      else (q.model, mk 0 w n (done n) (q.tokens w n)) ::
        (if q.drafts = 0 then [] else [(q.draftModel, mk 0 w n 0 (q.tokens w n))])
    | none, _ => []
  | .draftPrefill => match dr with
    | some d =>
      let n := min (w - v) d.room
      if n = 0 then [] else [(q.draftModel, mk 0 v n 0 (q.tokens v n))]
    | none => []
  | .decode => match main with
    | some b => if b.room = 0 then [] else [(q.model, mk 1 w 1 1 (q.tokens w 1))]
    | none => []
  | .draft => match dr with
    | some d =>
      let n := w - v + 1
      if d.room < n then [] else [(q.draftModel, mk 3 v n q.proposes (q.tokens v n))]
    | none => []
  | .verify => match main with
    | some b =>
      let n := q.proposals.length + 1
      if b.room < n then [] else [(q.model, mk 2 w n n (q.tokenAt w :: q.proposals))]
    | none => []

/-- Pages of a model's pool that are taken: listed, spare, or held by a prefix. -/
def takenPages (m : Module) (p model : Nat) : List Nat :=
  cacheInUse m p model 65536 ++ (reqsOf m p).flatMap fun q =>
    (if q.2.model = model then q.2.main.spares else []) ++ (if q.2.draftModel = model then q.2.dcache.spares else [])

/-- Pages for the list entries of a cache that have none: its spares first, then the lowest FREE pages of the pool; none when
the pool has no page left. The cache with them, the entries filled, and the pages taken from the pool (R284). -/
def planPages (v : Serving) (taken : List Nat) :
    List Nat → Cache → List (Nat × Nat) → List Nat → Option (Cache × List (Nat × Nat) × List Nat)
  | [], c, filled, new => some (c, filled, new)
  | k :: ks, c, filled, new =>
    if (c.pages.get k).isSome then planPages v taken ks c filled new
    else match c.spares with
      | s :: ss => planPages v taken ks { c with pages := c.pages.put k (some s), spares := ss } (filled ++ [(k, s)]) new
      | [] =>
        let n := lowestNotIn (taken ++ new) 0 (taken.length + new.length + 1)
        if v.cachePages ≤ n then none
        else planPages v taken ks { c with pages := c.pages.put k (some n) } (filled ++ [(k, n)]) (new ++ [n])

/-- Make ready every page that a request's entries will write: taken, backed, and written into its page lists; none of them
when some page cannot be backed (R216, R284). -/
def readyPages (m : Module) (p slot : Nat) (q : Request) (es : List (Nat × SetEntry)) : Module × Bool :=
  let plan (model : Nat) (v : Option Serving) (c : Cache) : Option (Cache × List (Nat × Nat) × List Nat) :=
    match es.find? fun e => e.1 == model, v with
    | some e, some v => planPages v (takenPages m p model) e.2.pages c [] []
    | _, _ => some (c, [], [])
  let dplan := if q.drafts = 0 then some (q.dcache, [], []) else plan q.draftModel q.dsrv q.dcache
  match plan q.model q.srv q.main, dplan with
  | some (c, filled, new), some (dc, dfilled, dnew) =>
    let tier := cacheTierPages q.srv new ++ cacheTierPages q.dsrv dnew
    if tier.any fun g => decide ((m.part p).mem.rangePages ≤ g) then (m, false)
    else match backAll m p (firstTierOf m p) q.resv tier with
      | (m, none) => (m, false)
      | (m, some (resv, _)) =>
        let m := setReq m slot fun q => { q with main := c, dcache := dc, resv := resv }
        let m := foldM filled (fun m e => devWrite m p (q.pageList + 4 * e.1) (leBytes e.2 4)) m
        (foldM dfilled (fun m e => devWrite m p (q.draftPageList + 4 * e.1) (leBytes e.2 4)) m, true)
  | _, _ => (m, false)

/-- A request is removed at the seal on a missed deadline: a final record without tokens (R274, R275). -/
def dropRequest (m : Module) (slot : Nat) (q : Request) : Module :=
  let m := m.setRegs q.part fun r => { r with srvDrop := satAdd r.srvDrop 1 }
  let m := setItem m q.item fun x => { x with st := .decided, status := some .doneLate }
  endRequest (pushWaiting m q.fn q.ring
    { ref := q.item, tag := q.itemTag, status := .doneLate, detail := .val (recReason 6 + recFinal)
      deadline := q.recordDeadline }) slot

/-- Put a request's entries into the builds of their models. -/
def joinBuilds (bs : List Build) (es : List (Nat × SetEntry)) : List Build :=
  bs.map fun b => match es.find? fun e => e.1 == b.model with
    | some e => { b with reqs := b.reqs - 1, room := b.room - e.2.npos, entries := b.entries ++ [e.2] }
    | none => b

/-- A launch set of the model whose phase the request is in is being formed at this seal. -/
def Request.hasBuild (q : Request) (bs : List Build) : Bool :=
  (buildOf bs (if q.postsRecord then q.model else q.draftModel)).isSome

/-- One eligible request at the seal of boundary `n`: it is dropped, waits for room or for pages, or joins. -/
def joinOne (n p : Nat) (acc : Module × List Build) (slot : Nat) : Module × List Build :=
  let (m, bs) := acc
  match m.slots.get slot with
  | none => acc
  | some q =>
    let d := q.recordDeadline
    if q.dropOnMiss ∧ q.postsRecord = true ∧ q.hasBuild bs = true ∧ d ≠ 0 ∧ d < n then (dropRequest m slot q, bs)
    else match entriesFor bs slot q with
    | [] => if q.waited = 0 || !q.hasBuild bs then acc else (setReq m slot fun q => { q with waited := 0 }, bs)
    | es =>
      match readyPages m p slot q es with
        | (m, false) =>
          let m := setReq m slot fun q => { q with waited := q.waited + 1 }
          (m.setMemRegs p fun r => { r with allocWait := true, allocWaits := satAdd r.allocWaits 1 }, bs)
        | (m, true) =>
          (setReq m slot fun q =>
            { q with waited := 0, st := .running
                     inStep := (es.head?).map fun e =>
                       (e.1, (m.part p).launches.get e.1, e.2.firstPos, e.2.npos) }, joinBuilds bs es)

/-- The builds of the granted serving runs, filled in decreasing PRIO, then increasing admission sequence. -/
def fillBuilds (m : Module) (n p : Nat) (bs : List Build) : Module × List Build :=
  let cands := (liveReqs m p).filter fun r => r.2.eligible
  (sortBy (fun r => (7 - r.2.prio) * 18446744073709551616 + r.2.admitNo) cands).foldl
    (fun acc r => joinOne n p acc r.1) (m, bs)

/-- An empty build of a serving run. -/
def emptyBuild (m : Module) (p : Nat) (r : Run) : Option Build :=
  if r.graph then none
  else (servingReady m p r.model).map fun v =>
    { run := r.num, model := r.model, srv := v, reqs := if r.reqLim = 0 then v.reqMax else r.reqLim
      room := if r.tokLim = 0 then v.tokensMax else r.tokLim }

/-! ### Step tables (R265, Table 10.4) -/

/-- One entry of a step table. -/
def entryBytes (q : Request) (main : Bool) (e : SetEntry) (tokOff : Nat) : List Byte :=
  leBytes e.slot 2 ++ leBytes e.kind 1 ++ leBytes q.selMode 1 ++ leBytes q.admitNo 4 ++ leBytes e.firstPos 4 ++
    leBytes e.npos 4 ++ leBytes tokOff 4 ++ leBytes q.gstate 4 ++
    leBytes (if main then q.pageList else q.draftPageList) 8 ++ leBytes q.seed 8 ++ leBytes q.temp.toNat 4 ++
    leBytes q.topP.toNat 4 ++ leBytes q.topK 1 ++ leBytes e.produce 1 ++ leBytes 0 2 ++ leBytes 0 4 ++ leBytes q.selAddr 8

/-- The step table of a launch set: header, entries, token array. -/
def stepTable (m : Module) (n index model : Nat) (es : List SetEntry) : List Byte :=
  let offs := es.foldl (fun (acc : List (SetEntry × Nat) × Nat) e => (acc.1 ++ [(e, acc.2)], acc.2 + e.npos)) ([], 0)
  leBytes n 8 ++ leBytes index 8 ++ leBytes es.length 4 ++ leBytes offs.2 4 ++ leBytes 0 40 ++
    (offs.1.flatMap fun x => match m.slots.get x.1.slot with
      | some q => entryBytes q (q.model == model) x.1 x.2
      | none => leBytes 0 64) ++
    es.flatMap fun e => e.tokens.flatMap fun t => leBytes t 4

/-- Seal one serving run's set: canonical order, its step table written (R265). -/
def sealBuild (m : Module) (n p : Nat) (b : Build) : Module × RunStep :=
  let index := (m.part p).launches.get b.model
  let admitOf (e : SetEntry) := match m.slots.get e.slot with
    | some q => q.admitNo
    | none => 0
  let es := sortBy admitOf b.entries
  (devWrite m p (b.srv.stepTable + index % 2 * b.srv.tableBytes) (stepTable m n index b.model es),
    { run := b.run, model := b.model, index := index, entries := es })

/-! ### The seal (R47, R266, R341) -/

/-- Grant the runs of a list in order, while their cores can be taken: those granted, and the grants. -/
def grantRuns (m : Module) (p : Nat) : List Run → Grants → List Run → Grants × List Run
  | [], g, acc => (g, acc)
  | r :: rs, g, acc =>
    let cs := coresOfModel m p r.model
    match canTake m g p false cs with
    | none => grantRuns m p rs g acc
    | some qs => grantRuns m p rs { cores := g.cores ++ cs, victims := g.victims ++ qs.map fun q => (q, p) } (acc ++ [r])

/-- Take cores for a whole step that resumes or is replayed. -/
def grantCores (m : Module) (g : Grants) (p : Nat) (wins : Bool) (cs : List Nat) : Option Grants :=
  (canTake m g p wins cs).map fun qs =>
    { cores := g.cores ++ cs, victims := (g.victims ++ qs.map fun q => (q, p)).eraseDups }

/-- Requests of a partition that wait for pages, in the order of their admission (R216). -/
def pageWaiters (m : Module) (p : Nat) : List (Nat × Request) :=
  (sortBy (fun (r : Nat × Request) => r.2.admitNo) (liveReqs m p)).filter fun r => decide (0 < r.2.waited) && r.2.st != .paused

/-- With AUTO_PAUSE, a request that has waited for pages for WAIT_LIMIT seals, this one among them, pauses the RUNNING request of the
lowest priority below its own; `before` is the module before the launch sets of this seal were formed (R281). -/
def autoPause (before m : Module) (p : Nat) : Module :=
  let late (r : Nat × Request) : Bool := decide ((m.part p).regs.waitLimit ≤ r.2.waited) && (match before.slots.get r.1 with
    | some q => decide (q.waited < r.2.waited)
    | none => false)
  match sortBy (fun (r : Nat × Request) => 7 - r.2.prio) ((pageWaiters m p).filter late) with
  | w :: _ =>
    if !(m.part p).regs.autoPause then m
    else
      let below := (sortBy (fun (r : Nat × Request) => r.2.admitNo) (liveReqs m p)).filter fun r =>
        r.2.st == .running && decide (r.2.prio < w.2.prio) && r.1 != w.1
      match (sortBy (fun (r : Nat × Request) => r.2.prio) below.reverse).head? with
      | some r => takePause m r.1 .auto
      | none => m
  | [] => m

/-- At a seal with no request waiting for pages, the earliest-admitted request that was paused automatically runs again (R281). -/
def autoResume (m : Module) (p : Nat) : Module :=
  if !(pageWaiters m p).isEmpty then m
  else match (sortBy (fun (r : Nat × Request) => r.2.admitNo) (liveReqs m p)).find? fun r =>
      r.2.st == .paused && r.2.pause == .auto with
    | some r => setReq m r.1 fun q => { q with st := .running }
    | none => m

/-- Form and seal what one partition is granted at the seal of boundary `n`. -/
def sealPart (n : Nat) (acc : Module × Grants) (p : Nat) : Module × Grants :=
  let (m, g) := acc
  match askOf m n p with
  | .nothing => acc
  | .resume cs => match grantCores m g p (m.part p).regs.drain cs with
    | none => acc
    | some g' => (m.setPart p fun x => { x with step := x.step.map fun s => { s with resumeAt := some n } }, g')
  | .replay cs => match grantCores m g p false cs with
    | none => acc
    | some g' => (m.setPart p fun x => { x with replay := x.replay.map fun r => { r with sealedNow := true } }, g')
  | .runs rs =>
    let granted := (grantRuns m p rs g []).2
    let before := m
    let (m, bs) := fillBuilds m n p (granted.filterMap (emptyBuild m p))
    let m := autoPause before m p
    let full := bs.filter fun b => !b.entries.isEmpty
    let kept := granted.filter fun r => r.graph || full.any fun b => b.run == r.num
    let g' := (grantRuns m p kept g []).1
    let (m, steps) := full.foldl (fun (a : Module × List RunStep) b =>
      let (m, s) := sealBuild a.1 n p b
      (m, a.2 ++ [s])) (m, [])
    let graphs := (kept.filter fun r => r.graph).map fun r =>
      ({ run := r.num, model := r.model, index := (m.part p).launches.get r.model } : RunStep)
    if kept.isEmpty then (m, g)
    else (m.setPart p fun x => { x with sealedSet := some (steps ++ graphs) }, { g' with victims := g'.victims.eraseDups })

/-- A partition needs a pooled core for what it asks (R343). -/
def asksPooled (m : Module) (p : Nat) : Ask → Bool
  | .nothing => false
  | .resume cs => cs.any (pooledCore m)
  | .replay cs => cs.any (pooledCore m)
  | .runs rs => rs.any fun r => (coresOfModel m p r.model).any (pooledCore m)

/-- A pooled core stays with the partition that used it last (R349). -/
def holdsPooled (m : Module) (p : Nat) : Bool :=
  m.cores.cells.any fun c => pooledCore m c.1 && c.2.lastPart == some p

/-- A partition that has held no pooled core for a whole tick and now needs one sets V to the smallest V of those that hold
one, unless its own is larger (R343). -/
def raiseV (m : Module) (n p : Nat) : Module :=
  if 1 ≤ (m.part p).regs.idlePool ∧ asksPooled m p (askOf m n p) = true then
    let vs := (m.parts.keys.filter (holdsPooled m)).map fun q => (m.part q).regs.vtime
    match vs.foldl (fun (o : Option Nat) v => some (min v (o.getD v))) none with
    | some v => m.setRegs p fun r => { r with vtime := max r.vtime v }
    | none => m
  else m

/-- Reserve work that does not fit the reserve (Table 2.3, R46). -/
def reserveNs (m : Module) : Nat := m.tick.period - m.tick.period * (100 - m.tick.pct) / 100

/-- Length of a piece of reserve work, ns (Table 2.3). -/
def ReserveWork.length : ReserveWork → Nat
  | .leyCal _ => 2000
  | .leyPhy _ => 2000
  | .safeFall => 0
  | .setPoint _ => 20000

/-- A change that the power-management core orders keeps one change per tick, while boundaries are raised, and one per 1 ms (R407,
R514): it may be made at time `ns` of tick `n`. -/
def changeAllowed (m : Module) (ns n : Nat) : Bool :=
  (match m.power.lastChangeNs with
    | some t => decide (t + 1000000 ≤ ns)
    | none => true) && (noBoundary m || m.power.lastChangeTick != some n)

/-- Reserve work that is due may run at time `ns` of tick `n`. -/
def mayRun (m : Module) (ns n : Nat) : ReserveWork → Bool
  | .setPoint _ => changeAllowed m ns n
  | _ => true

/-- Boundary that this seal precedes is a calibration hold: work that falls due is longer than the reserve, or work of a time
without boundaries still runs (R46, R514). -/
def holdDue (m : Module) : Bool :=
  (m.tick.due.any fun w => decide (reserveNs m < w.length) && mayRun m (nextBoundaryNs m) (m.tick.count + 1) w) ||
    decide (nextBoundaryNs m < m.tick.workEnds)

/-- Order of the partitions at a seal: a pre-empted step of a draining partition first, then increasing V, then the number
(R341, R352). -/
def sealOrder (m : Module) : List Nat :=
  sortBy (fun p =>
    let x := m.part p
    let first := x.regs.drain && (match x.step with
      | some s => s.preempted
      | none => false)
    if first then p else (x.regs.vtime + 1) * 64 + p) m.parts.keys

/-- The seal of boundary `n` by the scheduler. -/
def doSeal (n : Nat) (m : Module) : Module :=
  let ps := m.parts.keys
  let m := { m with clusters := m.clusters.mapV fun k c =>
    if c.held && (m.proc (32 + k)).st == .running && c.holding.isEmpty then { c with held := false } else c }
  let m := foldM ps (fun m p => refuseRuns (sealPauses (sealDrain m p) p) p) m
  let m := foldM ps (fun m p => m.setPart p fun x =>
    { x with swaps := x.swaps.map fun s => { s with held := true }
             sealedSet := none, mem := { x.mem with allocWait := false } }) m
  let hold := holdDue m
  let m := m.setTick fun t => { t with sealedFor := some n, holdNext := hold }
  if hold then foldM ps autoResume m
  else
    let m := foldM ps (fun m p => raiseV m n p) m
    let (m, g) := (sealOrder m).foldl (sealPart n) (m, {})
    let m := foldM (g.victims.map (·.1)).eraseDups (fun m q => orderPreempt m n q) m
    foldM ps autoResume m

/-- SEAL_LAUNCH_SET: 5,000 ns before an armed boundary, on a LOCKED module, the scheduler seals. While both feeds are bad no set is
sealed, and the seal instant is counted (R47, R402, R412). -/
def sealLaunchSetFn (m : Module) : Module :=
  let n := m.tick.count + 1
  if !m.start.ready || m.start.startFail || m.tick.sync ≠ .locked || decide (m.tick.armed < n) || m.tick.sealedFor = some n then m
  else
    let m := reachNs m (nextBoundaryNs m - 5000)
    if m.power.loss = .bad then m.setPower fun w => { w with lossSeals := w.lossSeals + 1 }
    else if m.power.loss ≠ .none ∨ absent m 0 = true then m
    else doSeal n m

/-- Execute SEAL_LAUNCH_SET. -/
def execSealLaunchSet (s : State) : Host.Outcome State Fault Refusal := guarded true sealLaunchSetFn s

end Sys2Proof.Machine
end

