-- ==== Sys2Proof/Machine/Launch.lean ====
section
/-! DEFINITION. Partition steps: engine time, switches between partitions, pre-emption and resumption, the launch of a sealed set,
the end of a step, a drained partition (02_tick R41, R43, 07_swaths R202, 10_serving R284, 12_partitions R340 to R353,
16_security R446, 17_faults R454). -/

namespace Sys2Proof.Machine

/-! ### Engine time (R342) -/

/-- Cycles of the core clock in a time: 600 MHz and 25 MHz for each step of the set-point (14 R407). -/
def ccOf (m : Module) (ns : Nat) : Nat := ns * (600 + 25 * m.power.setPoint) / 1000

/-- Cores that hold an ACTIVE plane of a partition, with the swath. -/
def activeOf (m : Module) (p : Nat) : List (Nat × Nat) :=
  m.cores.cells.filterMap fun c => match activePlane c.2 with
    | some x => if x.2.part = p then some (c.1, x.2.swath) else none
    | none => none

/-- Count the engine time of a partition's step up to now: every cc in which a core holds one of its ACTIVE planes or switches for
it, for the partition and for each run. -/
def accrue (m : Module) (p : Nat) : Module :=
  match (m.part p).step with
  | none => m
  | some st =>
    let cc := ccOf m (m.tick.ns - st.accNs)
    let act := activeOf m p
    let mine (model : Nat) : Nat := (act.filter fun a => match swathOf m p a.2 with
      | some w => w.model == model
      | none => false).length
    m.setPart p fun x =>
      { x with regs := { x.regs with tickCc := x.regs.tickCc + cc * (act.length + st.switching.length) }
               runs := x.runs.map fun r => { r with engineCc := r.engineCc + cc * mine r.model }
               step := x.step.map fun s => { s with accNs := m.tick.ns } }

/-! ### Live state of a core (R347 to R349, R446) -/

/-- Swath and logical core that name a core's state in a partition: those of its active plane, else of its first plane. -/
def stateKey (c : Core) (p : Nat) : Option (Nat × Nat) :=
  let mine := (c.planes.cells.map (·.2)).filter fun pl => pl.part == p && pl.st != .empty
  match (mine.find? fun pl => pl.st == .active).orElse fun _ => mine.head? with
  | some pl => pl.logical.map fun l => (pl.swath, l)
  | none => none

/-- Bytes of the live state of a core (Table 12.2). -/
def liveBytes (c : Core) : Nat :=
  1048576 + 512 * (min 256 ((c.me.acc.keys.map (· / 64)).eraseDups.length)) + 512 * c.me.held.length + 79232

/-- Streams of a partition's folds on a cluster, as (tile mover, stream). -/
def foldStreams (m : Module) (p k : Nat) : List (Nat × Stream) :=
  (m.clu k).tm.cells.filterMap fun t => match t.2 with
    | some s => if s.part = p && (match streamInfo m s with
        | some (_, d) => !d.prefetch
        | none => true) then some (t.1, s) else none
    | none => none

/-- Write the live state of a core and of its cluster, 64 bytes for each stream, to the context area of the partition that leaves it
(R345, R347). -/
def saveCore (m : Module) (p core : Nat) : Module :=
  let c := m.core core
  let k := clusterOf core
  let ss := foldStreams m p k
  let m := foldM ss (fun m s => m.setClu k fun y => { y with tm := y.tm.put s.1 none }) m
  let m := m.setPart p fun x =>
    { x with savedStreams := x.savedStreams ++ ss.map fun s => (k, s.2)
             step := x.step.map fun s => { s with cores := s.cores.filter (· ≠ core) } }
  let m := regTake m p 0 ss.length
  match stateKey c p with
  | none => m
  | some (w, l) =>
    let kept := { c with planes := c.planes.mapV fun _ pl => { pl with bytes := [] } }
    let m := m.setPart p fun x =>
      { x with saved := x.saved.filter (fun s => !(s.swath == w && s.logical == l)) ++
                 [{ swath := w, logical := l, core := kept }] }
    regTake m p 0 (liveBytes c / 64)

/-- The saved state of a partition that belongs on a core under its placement now (R339). -/
def savedFor (m : Module) (p core : Nat) : Option Saved :=
  (m.part p).saved.find? fun s => match swathOf m p s.swath with
    | some w => w.cores[s.logical]? == some core
    | none => false

/-- A core's storage as a partition without saved state finds it: cleared, but for the constants of its own planes (R349, R446). -/
def Core.blank (c : Core) (p : Nat) : Core :=
  let c := c.planesTo .active .ready
  { planes := c.planes, cnt := c.cnt, run := c.run, lastPart := some p
    dispLists := c.dispLists, dispAssign := c.dispAssign, dispMoved := c.dispMoved, dispDrop := c.dispDrop
    dispExamined := c.dispExamined, dispRenorm := c.dispRenorm
    ls := c.planes.cells.foldl (fun ls x =>
      if x.2.part = p ∧ x.2.st = .ready then ls.overlay (0xF0000 + x.1 * 0x4000) 0x4000 (x.2.bytes.slice 0xC000 0x4000)
      else ls) [] }

/-- A core whose partition has left it for good: its storage is cleared, but for the constants of the planes that stay READY
(R446). -/
def Core.wiped (c : Core) : Core :=
  { planes := c.planes, cnt := c.cnt, run := c.run
    dispLists := c.dispLists, dispAssign := c.dispAssign, dispMoved := c.dispMoved, dispDrop := c.dispDrop
    dispExamined := c.dispExamined, dispRenorm := c.dispRenorm
    ls := c.planes.cells.foldl (fun ls x =>
      if x.2.st = .ready then ls.overlay (0xF0000 + x.1 * 0x4000) 0x4000 (x.2.bytes.slice 0xC000 0x4000) else ls) [] }

/-- Weight blocks of one tag that a core held when it was saved, as they are fetched again: the last blocks that the tag's stream had
delivered, read anew from its source. A block whose stream cannot be told stays as it was (R109; log 35). -/
def refetch (m : Module) (p : Nat) (w : Swath) (core tag : Nat) (held : List (List Byte)) : List (List Byte) :=
  let x := m.part p
  let mine (e : Nat) : Bool := let d := tmDesc w.schedule e; d.dstLvl == 3 && d.dst % 2 ^ 28 == tag && (targets w d).contains core
  match (range' 0 w.entries).filter mine with
  | [e] =>
    let d := tmDesc w.schedule e
    let last := x.issueEnded.get (entryKey w.id e)
    let s := match (openStreams m p).find? fun t => t.swath == w.id && t.entry == e with
      | some t => t
      | none => { part := p, swath := w.id, entry := e, stepP1 := last - 1, outer := d.cnt (d.dimAt 0)
                  pos := d.positions (d.cnt (d.dimAt 0)) }
    let ends := (range' 0 s.pos).filter (groupEnds m s w d)
    let known := (openStreams m p).any (fun t => t.swath == w.id && t.entry == e) || d.gate == 0
    match clusterFor w d.lcluster, known && decide (held.length ≤ ends.length) with
    | some cl, true => (ends.drop (ends.length - held.length)).map (blockAgain m s cl w d)
    | _, _ => held
  | _ => held

/-- The front buffer and the weight registers of a core whose state has been restored: discarded, and fetched again (R109; log 35). -/
def refetchAll (m : Module) (p : Nat) (w : Swath) (core : Nat) : Module :=
  let c := m.core core
  match c.me.pass with
  | none => m.setMe core fun me => { me with wAct := [], wNext := none, front := refetchFront me.front }
  | some q =>
    let d := meDesc (planeBytes c) q.desc
    let next := match c.me.wNext with
      | some b => [(d.blockTag, b)]
      | none => []
    let m := m.setMe core fun me => { me with wAct := [], wNext := none, front := refetchFront (next ++ me.front) }
    loadNext core d (fillFront core d 2 m)
where
  /-- The blocks of the front buffer fetched again; those from local store are read from there as the descriptor goes on. -/
  refetchFront (bs : List (Nat × List Byte)) : List (Nat × List Byte) :=
    ((bs.map (·.1)).eraseDups.filter (· ≠ lsTag)).flatMap fun t =>
      (refetch m p w core t ((bs.filter fun b => b.1 = t).map (·.2))).map (t, ·)

/-- A core's storage as it was saved; the plane that was ACTIVE is so again. -/
def Core.restored (c : Core) (p : Nat) (s : Core) : Core :=
  let c := c.planesTo .active .ready
  { s with
    planes := c.planes.mapV fun k pl =>
      if pl.part = p ∧ pl.st = .ready ∧ (s.planes.get k).st = .active then { pl with st := .active } else pl
    lastPart := some p, cnt := c.cnt, halted := false
    dispLists := c.dispLists, dispAssign := c.dispAssign, dispMoved := c.dispMoved, dispDrop := c.dispDrop
    dispExamined := c.dispExamined, dispRenorm := c.dispRenorm }

/-- Poison marks of a core's local store are gone: it has been written whole. -/
def clearMarks (m : Module) (core : Nat) : Module :=
  m.setRas fun r => { r with poisonLs := ⟨r.poisonLs.cells.filter fun c => c.1 / 16384 ≠ core⟩ }

/-- A core comes to a partition: its saved state is restored, or it is cleared. -/
def bringCore (m : Module) (p core : Nat) : Module :=
  match savedFor m p core with
  | some s =>
    let m := m.setPart p fun x => { x with saved := x.saved.filter fun y => !(y.swath == s.swath && y.logical == s.logical) }
    let m := regTake m p 0 (liveBytes s.core / 64)
    let m := clearMarks (m.setCore core fun c => c.restored p s.core) core
    match swathOf m p s.swath with
    | some w => refetchAll m p w core
    | none => m
  | none => clearMarks (m.setCore core fun c => c.blank p) core

/-- Saved fold streams of a partition take free tile movers of their clusters again, where every core of the step there has
switched. -/
def restoreStreams (m : Module) (p : Nat) : Module :=
  let busy := match (m.part p).step with
    | some s => s.switching.map clusterOf
    | none => []
  foldM (m.part p).savedStreams (fun m s =>
    if busy.contains s.1 then m
    else match (range' 0 8).find? fun i => ((m.clu s.1).tm.get i).isNone with
      | none => m
      | some mv =>
        let m := regTake (m.setClu s.1 fun y => { y with tm := y.tm.put mv (some s.2) }) p 0 1
        m.setPart p fun x => { x with savedStreams := x.savedStreams.erase s }) m

/-! ### Taking cores at a boundary (R345, R346) -/

/-- Another partition's planes stand on the core it used last: a switch must save that state. -/
def needsSwitch (m : Module) (p core : Nat) : Bool :=
  let c := m.core core
  match c.lastPart with
  | some q => q != p && c.planes.cells.any fun x => x.2.part == q && x.2.st != .empty
  | none => false

/-- Take the cores of a step: those that another partition's state occupies wait for their switch. -/
def takeCores (m : Module) (p : Nat) (cs : List Nat) : Module × List Nat :=
  let sw := cs.filter (needsSwitch m p)
  let m := foldM (cs.filter fun c => !sw.contains c) (fun m c =>
    let last := (m.core c).lastPart
    if (savedFor m p c).isSome || (last.isSome && last != some p) then bringCore m p c
    else m.setCore c fun y => { y with lastPart := some p }) m
  (m, sw)

/-- A core starts work in a fold: its plane active, its queues empty, its credits set (R202). -/
def startCore (m : Module) (w : Swath) (core : Nat) : Module :=
  let m := m.setCore core fun x => x.fresh w.plane
  foldM (range' 0 16) (fun m q =>
    let n := initialCredit m core q
    setOut m core q fun o => { o with credit := n }) m

/-- Start the first fold of a run on the cores that need no switch. -/
def startFold (m : Module) (p run : Nat) (w : Swath) (sw : List Nat) : Module :=
  let m := foldM (w.cores.filter fun c => !sw.contains c) (fun m c => startCore m w c) m
  { m with barriers := m.barriers.put (foldBarrier p run) { expected := w.cores } }

/-- The issues of a step that is launched again count as not made (R227, R454). -/
def forgetIssues (m : Module) (p : Nat) (rs : List RunStep) : Module :=
  let ws := rs.flatMap fun r => readyOf m p r.model
  let x := m.part p
  let mine (key : Nat) : Option Nat := if ws.any fun w => w.id == key / 65536 then some (x.steps.get (key / 65536) + 1) else none
  let back (s : SMap Nat 0) : SMap Nat 0 := s.mapV fun k v => if mine k = some v then v - 1 else v
  m.setPart p fun x =>
    { x with issued := back x.issued, issueEnded := back x.issueEnded
             issueCancelled := x.issueCancelled.mapV fun k v => if mine k = some v then 0 else v
             issueFloor := ws.foldl (fun f w => f.put w.id (x.steps.get w.id + 1)) x.issueFloor }

/-- Count the launch for the schedules of the models that it runs: their next step (R227). Gate counts of steps before the last are
forgotten, but for a swath whose entries still wait (R230). -/
def countSteps (m : Module) (p : Nat) (rs : List RunStep) : Module :=
  let ws := rs.flatMap fun r => readyOf m p r.model
  m.setPart p fun x =>
    let steps := ws.foldl (fun s w => s.upd w.id (· + 1)) x.steps
    let keep (k : Nat) : Bool :=
      decide (steps.get (k / 65536 / 2 ^ 64) < k / 65536 % 2 ^ 64 + 2) || x.tmWait.any fun e => e / 65536 == k / 65536 / 2 ^ 64
    { x with steps := steps, gates := ⟨x.gates.cells.filter fun c => keep c.1⟩
             gateTaken := ⟨x.gateTaken.cells.filter fun c => keep c.1⟩ }

/-- Launch a list of run steps of a partition at the boundary now raised (R47, R157, R284, R340). -/
def launchStep (m : Module) (p : Nat) (rs : List RunStep) (replayOf : Option Nat) : Module :=
  let rs := rs.map fun r => { r with fold := 0, foldDone := false, finished := false }
  let cs := coresOfRuns m p rs
  let run := (cs.foldl (fun n c => max n (m.core c).run) 0 + 1) % 256
  let (m, sw) := takeCores m p cs
  let m := foldM (cs.filter fun c => !sw.contains c) (fun m c => m.setCore c fun y =>
    { y with run := run, halted := y.haltNs == some m.tick.ns }) m
  let m := if replayOf.isSome then forgetIssues m p rs else countSteps m p rs
  let m := { m with xfers := m.xfers.filter fun x => !(x.part == p && x.issued) }
  let m := m.setPart p fun x =>
    { x with
      sealedSet := none
      launches := if replayOf.isSome then x.launches else rs.foldl (fun l r => l.upd r.model (· + 1)) x.launches
      runs := if replayOf.isSome then x.runs else x.runs.map fun r =>
        if rs.any fun s => s.run == r.num then { r with launched := r.launched + 1 } else r
      step := some { tick := m.tick.count, launchNs := m.tick.ns, runs := rs, cores := cs.filter fun c => !sw.contains c
                     switching := sw, accNs := m.tick.ns, switchNs := m.tick.ns, runNo := run, replayOf := replayOf } }
  let m := foldM rs (fun m r => foldM r.entries (fun m e => markProv m r.model e) m) m
  foldM rs (fun m r => match foldSwath m p r.model 0 with
    | some w => startFold m p r.run w sw
    | none => m) m

/-- The replay of an abandoned step launches: the event, the counts, the end of the recovery (R454, R457). -/
def launchReplay (m : Module) (p : Nat) (r : Replay) : Module :=
  let m := m.setPart p fun x => { x with replay := none }
  let m := m.setRas fun y => { y with replays := satAdd y.replays 1, replayCnt := y.replayCnt.upd p (· + 1) }
  let index := match r.runs.head? with
    | some s => s.index
    | none => 0
  let m := raise m 0x0402 p dieH [index, m.ras.replayCnt.get p]
  endRecovery (launchStep m p r.runs (some r.core)) p

/-- The run number of a core's task advances at a pre-emption; the flits that its queues have in flight are still to land, so they take
the new number with it (R157, R345; log 34). -/
def Core.renumber (c : Core) (run : Nat) : Core :=
  let again (fs : List Flit) : List Flit := fs.map fun f => { f with run := run }
  { c with run := run
           outq := c.outq.mapV fun _ q => { q with staging := again q.staging, inFlight := again q.inFlight } }

/-- A pre-emption order takes effect at its boundary: every core of the step halts at its next tile boundary, and the run number of its
task advances (R157, R345). -/
def preemptNow (m : Module) (p : Nat) : Module :=
  match (m.part p).step with
  | none => m
  | some st =>
    if st.preemptAt ≠ some m.tick.count then m
    else
      let m := accrue m p
      let run := (st.runNo + 1) % 256
      let m := foldM st.cores (fun m c => m.setCore c fun y => { y.renumber run with halted := true }) m
      let m := m.setRegs p fun r => { r with preempt := satAdd r.preempt 1 }
      m.setPart p fun x => { x with step := x.step.map fun s => { s with preempted := true, preemptAt := none, runNo := run } }

/-- A pre-empted step resumes at its boundary: cores that kept their state go on, the others switch (R346). -/
def resumeNow (m : Module) (p : Nat) : Module :=
  match (m.part p).step with
  | none => m
  | some st =>
    if st.resumeAt ≠ some m.tick.count then m
    else
      let m := accrue m p
      let cs := coresOfRuns m p st.runs
      let (m, sw) := takeCores m p cs
      let m := foldM (cs.filter fun c => !sw.contains c) (fun m c => m.setCore c fun y =>
        { y with halted := y.haltNs == some m.tick.ns, run := st.runNo }) m
      let m := m.setPart p fun x => { x with step := x.step.map fun s =>
        { s with preempted := false, resumeAt := none, held := 0, cores := cs.filter (fun c => !sw.contains c)
                 switching := sw, switchNs := m.tick.ns } }
      restoreStreams m p

/-- The cores of a step stand at tile boundaries: no matrix engine has a pass in flight and no handler runs, every flit sent has landed
and every credit has come back, and the fold streams of their clusters stand between two tiles (R109, R143, R228, R345, R349). -/
def quiet (m : Module) (p : Nat) (cs : List Nat) : Bool :=
  (cs.all fun c =>
    let k := m.core c
    !(k.me.pass.any (·.live)) && k.ve.handler.isNone &&
      k.outq.cells.all fun q => q.2.inFlight.isEmpty && q.2.creditsBack == 0) &&
  (cs.map clusterOf).eraseDups.all fun k => (foldStreams m p k).all fun s => match streamInfo m s.2 with
    | some (_, d) => atTile s.2 d
    | none => true

/-- SWITCH_COMPLETE: the state of the partition that leaves the core is saved, that of the incoming one restored or the core
cleared, and the core starts work (R346, R349, R446). -/
def switchCompleteFn (core part : Nat) (m : Module) : Module :=
  match (m.part part).step with
  | none => m
  | some st =>
    let last := (m.core core).lastPart
    let leaving := match last with
      | some q => match (m.part q).step with
        | some s => s.cores
        | none => []
      | none => []
    if !st.switching.contains core || !quiet m (last.getD part) leaving then m
    else
      let m := accrue m part
      let m := match last with
        | some q => if q = part then m else saveCore m q core
        | none => m
      let m := bringCore m part core
      let m := m.setCore core fun y => { y with halted := false, run := st.runNo }
      let m := m.setPart part fun x => { x with step := x.step.map fun s =>
        { s with switching := s.switching.filter (· ≠ core), cores := s.cores ++ [core] } }
      let m := if (activePlane (m.core core)).isSome then m
        else match st.runs.findSome? fun r => (foldSwath m part r.model r.fold).filter fun w => w.cores.contains core with
          | some w => startCore m w core
          | none => m
      let m := if (st.switching.filter (· ≠ core)).isEmpty then
          m.setRegs part fun r => { r with switchCc := satAdd r.switchCc (ccOf m (m.tick.ns - st.switchNs)) }
        else m
      restoreStreams m part

/-- Execute SWITCH_COMPLETE. -/
def execSwitchComplete (core : Nat) (part : Nat) (s : State) : Host.Outcome State Fault Refusal :=
  guarded (coreOk core && partOk part) (switchCompleteFn core part) s

/-! ### A drained partition (R353) -/

/-- A draining partition without a step saves its state on pooled cores and holds none of them; with nothing left running it is
drained. -/
def checkDrained (m : Module) (p : Nat) : Module :=
  let x := m.part p
  if !x.drainSeal || x.regs.drained || x.step.isSome || x.replay.isSome then m
  else
    let held := m.cores.cells.filterMap fun c => if pooledCore m c.1 && c.2.lastPart == some p then some c.1 else none
    let m := foldM held (fun m c => clearMarks ((saveCore m p c).setCore c Core.wiped) c) m
    if ((runningItems m p).any fun i => i.opcode != opAdmit) || !(streamsOf m p).isEmpty then m
    else raise (m.setRegs p fun r => { r with drained := true }) 0x0802 p dieH []

/-! ### The end of a step (R41, R43, R264, R313) -/

/-- The last fold of a run step has drained. -/
def runDone (m : Module) (p : Nat) (r : RunStep) : Bool :=
  r.foldDone && (foldSwath m p r.model (r.fold + 1)).isNone

/-- An open run has finished one more launch, and ends after its last (R264, R313, R352). -/
def runFinished (m : Module) (p : Nat) (r : Run) : Module :=
  let n := r.finished + 1
  let m := m.setPart p fun x => { x with runs := x.runs.map fun y => if y.num = r.num then { y with finished := n } else y }
  if r.ending then completeRun m p r .done n
  else if r.count ≠ 0 ∧ r.count ≤ n then completeRun m p r .done (if r.graph then n else 0)
  else m

/-- Step budget B of a tick, ns (R36). DESIGN CHOICE (log 70): where P × (100 − R) is no multiple of 100, B is rounded down to a
whole ns and the reserve has the rest; the spec gives no rounding. -/
def budgetNs (m : Module) : Nat := m.tick.period * (100 - m.tick.pct) / 100

/-- STEP_FINISH: every core of the step has drained; a finish after the budget and before the next boundary that the module raises
intrudes into the reserve, also while boundaries stop (R43). -/
def stepFinishFn (part : Nat) (m : Module) : Module :=
  match runningStep m part with
  | none => m
  | some st =>
    if !(st.runs.all (runDone m part)) || !st.switching.isEmpty then m
    else
      let m := accrue m part
      let late := st.raised = 0 ∧ (m.tick.inReserve = true ∨ st.launchNs + budgetNs m < m.tick.ns)
      let m := if late then m.setTick fun t => { t with intrude := satAdd t.intrude 1 } else m
      let m := foldM st.cores (fun m c => m.setCore c fun y => { y.planesTo .active .ready with drained := false }) m
      let nums := st.runs.map (·.run)
      let m := m.setPart part fun x =>
        { x with step := none
                 results := x.results ++ st.runs.filter fun r => !r.entries.isEmpty }
      let m := m.setRas fun r => { r with replayCnt := r.replayCnt.put part 0 }
      let m := foldM ((m.part part).runs.filter fun r => nums.contains r.num) (fun m r => runFinished m part r) m
      checkDrained m part

/-- Execute STEP_FINISH. -/
def execStepFinish (part : Nat) (s : State) : Host.Outcome State Fault Refusal := guarded (partOk part) (stepFinishFn part) s

end Sys2Proof.Machine
end

