-- ==== Sys2Proof/Machine/SelfTest.lean ====
section
/-! DEFINITION. Self-tests and calibrations: the conditions of each code, what it takes out of service, and how it ends
(11_host_interface R314, 17_faults R452, R460 to R463). -/

namespace Sys2Proof.Machine

/-- CODE of a test. -/
def testCode (x : Item) : Nat := dfield x.desc 0x18 2
/-- TARGET of a test. -/
def testTarget (x : Item) : Nat := dfield x.desc 0x1C 4

/-- A core group holds saved live state of a partition (R347, R461). -/
def groupSaved (m : Module) (g : Nat) : Bool :=
  m.parts.cells.any fun c => c.2.saved.any fun sv =>
    c.2.swaths.any fun w => w.id == sv.swath && (match w.cores[sv.logical]? with
      | some k => groupOf k == g
      | none => false)

/-- A core group is in a sealed launch set. -/
def groupSealed (m : Module) (g : Nat) : Bool :=
  m.parts.cells.any fun c => match c.2.sealedSet with
    | some rs => rs.any fun r => (coresOfModel m c.1 r.model).any fun k => groupOf k == g
    | none => false

/-- A core group is idle (R461). -/
def groupIdle (m : Module) (g : Nat) : Bool :=
  (coresOfGroup g).all (fun k => (m.core k).planes.cells.all fun x => x.2.st != .active && x.2.st != .loading) &&
    !groupSealed m g && !groupSaved m g

/-- A partition is drained (R353). -/
def isDrainedPart (m : Module) (p : Nat) : Bool := (m.part p).regs.drained

/-- Partitions affected by a disruptive test of a core group: its owner, and those whose planes or saved state lie there. -/
def groupUsers (m : Module) (g : Nat) : List Nat :=
  m.parts.keys.filter fun p => (m.part p).regs.owned.getLsbD g ||
    (coresOfGroup g).any fun k => (concerned m k).contains p

/-- A partition has a backed page on a unit of a tier (R462). -/
def hasPageOn (m : Module) (p t unit : Nat) : Bool := (m.part p).pages.cells.any fun g => onUnit g.2 t unit

/-- Some partition has a backed page on the unit. -/
def unitInUse (m : Module) (t unit : Nat) : Bool := m.parts.keys.any fun p => hasPageOn m p t unit

/-- A test takes up its work; the tick of its start is kept with the item. -/
def startTest (m : Module) (i : ItemRef) : Module :=
  setItem m i fun y => { y with st := .running, progress := m.tick.count }

/-- Run a test whose code, target and conditions hold; an absent target is REJ_FORMAT, or REJ_STATE on a VF, and a broken
condition REJ_STATE (R460, R462). -/
def testRow (i : ItemRef) (op code : Nat) (exists_ : Nat → Bool) (may : Module → Nat → Nat → Bool)
    (go : Nat → Nat → Module → Module) (m : Module) : Module :=
  withItem m i .dispatched [op] fun x p =>
    let t := testTarget x
    if testCode x ≠ code then m
    else if !exists_ t then (if i.fn = 0 then rejFormat m i 0 0x1C else finishV m i .rejState 0)
    else if !may m p t then finishV m i .rejState 0
    else go p t m

/-- The 256-byte result block (R463). -/
def resultBlock (m : Module) (x : Item) (failed : Nat) (specific : Nat) : List Byte :=
  leBytes (testCode x) 2 ++ leBytes (min failed 1) 2 ++ leBytes (testTarget x) 4 ++ leBytes x.progress 8 ++
    leBytes m.tick.count 8 ++ leBytes failed 4 ++ leBytes specific 228

/-- A test ends: its result block, unless its address is 0, then DONE with the number of failed units. -/
def endTest (m : Module) (x : Item) (p failed specific : Nat) (mapOut : Module → Module) : Module :=
  let out := dfield x.desc 0x20 8
  let done (m : Module) : Module := finishV (mapOut m) x.ref .done failed
  if out = 0 then done m
  else withHost m p 256 fun m => done (emitBytes m x.ref.fn out (resultBlock m x failed specific))

/-! ### Codes (Table 17.5) -/

/-- CORE_BIST: a VF tests an idle core group of its own; a group that is not idle needs its partitions drained. The group
leaves placement, and the local stores of its live cores are overwritten (R460, R461, R462). -/
def coreBistFn (i : ItemRef) (m : Module) : Module :=
  testRow i opSelftest 0x0001 (fun t => decide (t < 160))
    (fun m p t => (m.ras.testing.get t).isNone &&
      (if i.fn = 0 then groupIdle m t || (groupUsers m t).all (isDrainedPart m)
        else (m.part p).regs.owned.getLsbD t && groupIdle m t))
    (fun _ t m =>
      match (liveIn m t).find? (heldOff m) with
      | some c => finishV m i .failPower c
      | none =>
      let m := (startTest m i).setRas fun r => { r with testing := r.testing.put t (some i) }
      foldM (liveIn m t) (fun m c =>
        let k := m.freeCtr
        let ls : Mem := (range' 0 0x100000).filterMap fun a =>
          let b := Config.freeByte k a
          if b = unlistedByte then none else some (a, b)
        { (clearLines m c 0 0x100000).setCore c fun x => { x with ls := ls } with freeCtr := k + 1 }) m) m

/-- Execute CORE_BIST. -/
def execCoreBist (i : ItemRef) (s : State) : Host.Outcome State Fault Refusal := guarded (i.ok) (coreBistFn i) s

/-- CORE_RETEST: a core fenced in service whose LIVE_MAP bit is set is powered alone; a domain that cannot turn on, under the coolant
clamp or below a domain that is off, fails the test FAIL_POWER (R415, R452, R461). -/
def coreRetestFn (i : ItemRef) (m : Module) : Module :=
  testRow i opSelftest 0x0002 (fun t => decide (t < 2560))
    (fun m _ t => !m.live t && m.flash.liveMap.getLsbD t)
    (fun _ t m =>
      if !m.power.domains.getLsbD (2560 + clusterOf t) then finishV m i .failPower (2560 + clusterOf t)
      else if heldOff m t then finishV m i .failPower t
      else (startTest m i).setPower fun w => { w with domains := w.domains ||| BitVec.twoPow 2662 t }) m

/-- Execute CORE_RETEST. -/
def execCoreRetest (i : ItemRef) (s : State) : Host.Outcome State Fault Refusal :=
  guarded (i.ok) (coreRetestFn i) s

/-- SCRUB_STAT: the patrol-scrub progress of a Sward stack or Ley channel in lines; a VF needs a backed page there (R460). -/
def scrubStatFn (i : ItemRef) (m : Module) : Module :=
  testRow i opSelftest 0x0010 (fun t => decide (t < 72))
    (fun m p t => i.fn = 0 || (if t < 8 then hasPageOn m p 0 t else hasPageOn m p 1 (t - 8)))
    (fun p t m =>
      match findItem m i with
      | some x => endTest m { x with progress := m.tick.count } p 0 (m.ras.scrub.get t) id
      | none => m) m

/-- Execute SCRUB_STAT. -/
def execScrubStat (i : ItemRef) (s : State) : Host.Outcome State Fault Refusal := guarded (i.ok) (scrubStatFn i) s

/-- A test starts, unless the coolant clamp holds off the domain it needs: FAIL_POWER (R415). -/
def startOn (m : Module) (i : ItemRef) (dom : Nat) : Module :=
  if heldOff m dom then finishV m i .failPower dom else startTest m i

/-- A disruptive test of a memory unit that must hold no backed page (R462); `dom` is the unit's power domain. -/
def unitTest (i : ItemRef) (code units tier : Nat) (dom : Nat → Nat) (m : Module) : Module :=
  testRow i opSelftest code (fun t => decide (t < units)) (fun m _ t => !unitInUse m tier t) (fun _ t m => startOn m i (dom t)) m

/-- SWARD_MARCH: a Sward stack without a backed page. -/
def swardMarchFn (i : ItemRef) (m : Module) : Module := unitTest i 0x0011 8 0 (2608 + ·) m

/-- Execute SWARD_MARCH. -/
def execSwardMarch (i : ItemRef) (s : State) : Host.Outcome State Fault Refusal := guarded (i.ok) (swardMarchFn i) s

/-- LEY_MARCH: a Ley channel without a backed page. -/
def leyMarchFn (i : ItemRef) (m : Module) : Module := unitTest i 0x0020 64 1 (fun c => 2616 + c / 4) m

/-- Execute LEY_MARCH. -/
def execLeyMarch (i : ItemRef) (s : State) : Host.Outcome State Fault Refusal := guarded (i.ok) (leyMarchFn i) s

/-- HEATH_PORT: a CXL port without a backed page. -/
def heathPortFn (i : ItemRef) (m : Module) : Module := unitTest i 0x0040 4 2 (2632 + ·) m

/-- Execute HEATH_PORT. -/
def execHeathPort (i : ItemRef) (s : State) : Host.Outcome State Fault Refusal := guarded (i.ok) (heathPortFn i) s

/-- A disruptive test of a fabric link: every partition with an open job that uses it is drained (R462). -/
def linkTest (i : ItemRef) (op code : Nat) (m : Module) : Module :=
  testRow i op code (fun t => decide (t < 12)) (fun m _ t => (jobsOn m (ownCoord m) t).all (isDrainedPart m))
    (fun _ t m => startOn m i (2637 + t)) m

/-- LINK_LOOPBACK. -/
def linkLoopbackFn (i : ItemRef) (m : Module) : Module := linkTest i opSelftest 0x0030 m

/-- Execute LINK_LOOPBACK. -/
def execLinkLoopback (i : ItemRef) (s : State) : Host.Outcome State Fault Refusal :=
  guarded (i.ok) (linkLoopbackFn i) s

/-- LEY_PHY: a PHY group, or all of them, is calibrated in the next reserve that holds the work (R461). -/
def leyPhyFn (i : ItemRef) (m : Module) : Module :=
  testRow i opCalibrate 0x0001 (fun t => decide (t < 16) || t == 0xFFFF) (fun _ _ _ => true)
    (fun _ _ m => (startTest m i).setTick fun t => { t with due := t.due ++ [.leyPhy i] }) m

/-- Execute LEY_PHY. -/
def execLeyPhy (i : ItemRef) (s : State) : Host.Outcome State Fault Refusal := guarded (i.ok) (leyPhyFn i) s

/-- FABRIC_LANES. -/
def fabricLanesFn (i : ItemRef) (m : Module) : Module := linkTest i opCalibrate 0x0002 m

/-- Execute FABRIC_LANES. -/
def execFabricLanes (i : ItemRef) (s : State) : Host.Outcome State Fault Refusal :=
  guarded (i.ok) (fabricLanesFn i) s

/-- SENSORS: TARGET is 0. -/
def sensorsFn (i : ItemRef) (m : Module) : Module :=
  testRow i opCalibrate 0x0003 (fun t => t == 0) (fun _ _ _ => true) (fun _ _ m => startTest m i) m

/-- Execute SENSORS. -/
def execSensors (i : ItemRef) (s : State) : Host.Outcome State Fault Refusal := guarded (i.ok) (sensorsFn i) s

/-! ### The end of a test (R452, R463) -/

/-- A fenced core returns to service (R452). -/
def returnCore (m : Module) (core : Nat) : Module :=
  if m.live core then m
  else
    let m := { m with flash := { m.flash with fences := m.flash.fences.filter (· ≠ core) } }
    let m := m.setRas fun r => { r with liveMap := r.liveMap ||| BitVec.twoPow 2560 core, liveCount := r.liveCount + 1 }
    let m := m.setClu (clusterOf core) fun k => { k with live := k.live + 1 }
    m.setCore core fun c => { c with halted := false }

/-- A mask with one bit set for each number of a list. -/
def maskOf (l : List Nat) : Nat := l.eraseDups.foldl (fun n b => n + 2 ^ b) 0

/-- The reserve work of a LEY_PHY command is running. -/
def phyRunning (m : Module) (i : ItemRef) : Bool := m.tick.running.contains (.leyPhy i)

/-- TEST_COMPLETE: `failed` lists the failing cores of a core code, the failing lanes of a link code, and the failing units of
the others; those that the test did not cover count for nothing. -/
def testCompleteFn (i : ItemRef) (failed : List Nat) (m : Module) : Module :=
  withItem m i .running [opSelftest, opCalibrate] fun x p =>
    let t := testTarget x
    let any_ := min failed.length 1
    if x.opcode = opSelftest then
      match testCode x with
      | 0x0001 =>
        let bad := (liveIn m t).filter fun c => failed.contains c
        endTest m x p bad.length (maskOf (bad.map (· % 16))) fun m =>
          foldM bad (fun m c => fence m c 3) (m.setRas fun r => { r with testing := r.testing.put t none })
      | 0x0002 =>
        let bad := failed.contains t
        endTest m x p (b2n bad) (if bad then 2 ^ (t % 16) else 0) fun m => if bad then coreDark m t else returnCore m t
      | 0x0011 => endTest m x p any_ 0 fun m => if any_ = 0 then m else loseSward m t
      | 0x0020 => endTest m x p any_ 0 fun m => if any_ = 0 then m else loseLeyChannel m t
      | 0x0030 => endLink m x p t any_ failed
      | _ => endTest m x p any_ 0 fun m => if any_ = 0 then m else loseHeath m t
    else
      match testCode x with
      | 0x0001 =>
        if !phyRunning m i then m
        else
          let bad := (range' 0 16).filter fun g => failed.contains g && (t == 0xFFFF || g == t)
          endTest m x p bad.length (maskOf bad) fun m =>
            foldM bad loseLeyGroup (m.setTick fun k => { k with running := k.running.filter (· ≠ .leyPhy i) })
      | 0x0002 => endLink m x p t any_ failed
      | _ => endTest m x p any_ 0 id
where
  /-- A link test: a failed link goes DOWN; the cause that its event carries is free (R463). -/
  endLink (m : Module) (x : Item) (p t any_ : Nat) (lanes : List Nat) : Module :=
    endTest m x p any_ (maskOf (lanes.filter (· < 16))) fun m =>
      if any_ = 0 then m
      else
        let (v, m) := takeFree m
        loseLink m t v

/-- Execute TEST_COMPLETE. -/
def execTestComplete (i : ItemRef) (failed : List Nat) (s : State) : Host.Outcome State Fault Refusal :=
  guarded (i.ok && failed.all coreOk) (testCompleteFn i failed) s

end Sys2Proof.Machine
end

