-- ==== Sys2Proof/Machine/Staging.lean ====
section
/-! DEFINITION. Tick-applied fields: the check of a TA write on arrival, the stage of its block, the application at a boundary; the
power limit in force (02_tick R36 to R40, R48 to R50, 15_power R416, R418). -/

namespace Sys2Proof.Machine

/-! ### The power limit L (R416, R418) -/

/-- L from the terms that apply; while a fall of the budget waits for its boundary, the budget term is the L in force. -/
def Power.terms (w : Power) : Nat :=
  let l := min (if w.fallPending then w.limitW else w.budgetW) w.capW
  let l := if w.leaseExpired || w.safe then min l (w.budgetW * 4 / 10) else l
  if w.coolant then min l (w.budgetW * 3 / 10) else l

/-- L follows its terms. -/
def setLimit (m : Module) : Module := m.setPower fun w => { w with limitW := w.terms }

/-! ### TA writes -/

/-- What a TA register does with a value on arrival. -/
inductive TaJudge where
  | stage
  /-- out of range: refused under R37 and R472 -/
  | refused
  /-- a period written on a module that is not the manager (R38) -/
  | dropped
  deriving DecidableEq, Repr

/-- The offset of a block is a register with TA fields. -/
def isTa (block off : Nat) : Bool :=
  (block == blkTick && (off == 0x4 || off == 0x8)) ||
  (block == blkPwr && off == 0xC) ||
  (block == blkPart && (off == 0x10 || off == 0x14 || (decide (0x80 ≤ off ∧ off < 0xA8) && off % 4 == 0)
    || off == 0x200 || off == 0x204)) ||
  (block == blkLark && (off == 0x4 || off == 0x8 || off == 0x20))

/-- A value lies within inclusive bounds. -/
def inRange (lo hi v : Nat) : Bool := decide (lo ≤ v) && decide (v ≤ hi)

/-- The range check of a TA write (Tables 2.5, 2.6, 6.12, 6.15, 10.9, 12.7, 12.9, 15.5). -/
def taJudge (m : Module) (block off v : Nat) : TaJudge :=
  let ok (b : Bool) : TaJudge := if b then .stage else .refused
  if block = blkTick then
    if off = 0x8 then ok (inRange 4 50 (v % 64))
    else if m.tick.role ≠ .manager then .dropped
    else ok (inRange 20000 200000000 v)
  else if block = blkPwr then ok (inRange 1000 3600 (v % 65536))
  else if block = blkLark then
    if off = 0x8 then ok (decide (256 ≤ v % 16777216))
    else if off = 0x20 then ok (decide (4096 ≤ v % 16777216))
    else .stage
  else if off = 0x10 ∨ off = 0x204 then ok (v % 65536 != 0)
  else if off = 0x14 then ok (v % 256 != 0)
  else if 0x80 ≤ off ∧ off < 0xA8 ∧ off % 8 = 4 then ok (v != 0)
  else .stage

/-- BAD_WRITE of the block that owns a TA register. -/
def taBad (p block off : Nat) (m : Module) : Module :=
  if block = blkTick then m.setTick fun t => { t with badWrite := true }
  else if block = blkPwr then m.setPower fun w => { w with badWrite := true }
  else if block = blkLark then m.setLark p fun l => { l with badWrite := true }
  else if 0x200 ≤ off then m.setRegs p fun r => { r with srvBadWrite := true }
  else m.setRegs p fun r => { r with badWrite := true }

/-- Partition that events about a TA register name. -/
def taPart (p block : Nat) : Nat := if block = blkTick ∨ block = blkPwr then noPart else p

/-- A TA value takes effect (R39, R40, R48). -/
def applyTa (m : Module) (w : TaWrite) : Module :=
  let block := w.offset / 0x100000
  let off := w.offset % 0x100000
  let v := w.value
  let p := w.part
  if block = blkTick then
    if off = 0x4 then
      let m := m.setTick fun t => { t with nextPeriod := some v }
      m.setFabric fun f => { f with announce := some (v, m.tick.count + 1) }
    else m.setTick fun t => { t with pct := v % 64 }
  else if block = blkPwr then setLimit (m.setPower fun w => { w with capW := v % 65536 })
  else if block = blkLark then
    if off = 0x4 then m.setLark p fun l => { l with en := v % 2 == 1, wrap := v / 2 % 2 == 1 }
    else if off = 0x8 then m.setLark p fun l => { l with interval := v % 16777216 }
    else m.setLark p fun l => { l with stallLimit := v % 16777216 }
  else if off = 0x10 then m.setRegs p fun r => { r with share := v % 65536 }
  else if off = 0x14 then m.setRegs p fun r => { r with minRun := v % 256 }
  else if off = 0x200 then m.setRegs p fun r => { r with rt := v % 2 == 1, autoPause := v / 2 % 2 == 1 }
  else if off = 0x204 then m.setRegs p fun r => { r with waitLimit := v % 65536 }
  else
    let b := (off - 0x80) / 8
    if off % 8 = 0 then m.setRegs p fun r => { r with rate := r.rate.put b v }
    else m.setRegs p fun r => { r with burst := r.burst.put b v }

/-- Stage a TA write in its block, or drop it with TA_OVF when 64 writes wait there (R49). A PWR_CAP_W write on a module that
raises no boundary is applied at once (R418). -/
def stageTa (m : Module) (p block off v : Nat) : Module :=
  let w : TaWrite := { offset := barOff block off, part := p, value := v }
  if block = blkPwr && noBoundary m then applyTa m w
  else if 64 ≤ (m.tick.staged.get block).length then
    configRefused (m.setTick fun t => { t with taOvf := true }) (taPart p block) (barOff block off) 1
  else m.setTick fun t => { t with staged := t.staged.upd block (· ++ [w]) }

/-- The partition's registers in PART and MEM refuse writes while a reset of it is in progress (R355). -/
def partBusy (m : Module) (p block : Nat) : Bool := (block == blkPart || block == blkMem) && (m.part p).regs.busy

/-- A VF writes these PART registers as bus errors (R333). -/
def pf0Only (block off : Nat) : Bool := block == blkPart && decide (off < 0x200)

/-- A TA write that reaches its register. -/
def taArrives (m : Module) (fn block off v : Nat) : Module :=
  let p := selPart m fn block
  if fn ≠ 0 && pf0Only block off then busError m fn 1 (barOff block off)
  else
    let judge := if partBusy m p block then .refused else taJudge m block off v
    match judge with
    | .stage => stageTa m p block off v
    | .refused => refuse m (taPart p block) block off (taBad p block off)
    | .dropped => taBad p block off m

/-- TA_WRITE: a 4-byte write to a register with TA fields (R48). -/
def taWriteFn (fn offset : Nat) (value : Word) (m : Module) : Module :=
  let block := offset / 0x100000
  let off := offset % 0x100000
  if !isTa block off then m
  else regWrite m fn block off fun m => taArrives m fn block off value.toNat

/-- Execute TA_WRITE. -/
def execTaWrite (fn : Nat) (offset : Nat) (value : Word) (s : State) : Host.Outcome State Fault Refusal :=
  guarded (fnOk fn && decide (offset % 4 = 0) && decide (offset < 67108864)) (taWriteFn fn offset value) s

/-- Apply every staged write, block by block, each block's in arrival order (R47, R48). -/
def applyStaged (m : Module) : Module :=
  let ws := m.tick.staged.cells.flatMap (·.2)
  let m := m.setTick fun t => { t with staged := {} }
  foldM ws applyTa m

end Sys2Proof.Machine
end

