-- ==== Sys2Proof/Machine/Boundary.lean ====
section
/-! DEFINITION. The tick boundary and the reserve: halts, staged writes, charges, launches, slips, calibration holds, reserve work
(02_tick R34 to R55, R514, 12_partitions R342 to R351, 14_firmware R401, R402). -/

namespace Sys2Proof.Machine

/-! ### Reserve work (R45, R46, R407, R514) -/

/-- The set-point changes: engine time counted so far ran at the old clock. -/
def changeClock (m : Module) (v : Nat) : Module :=
  (foldM m.parts.keys accrue m).setPower fun w => { w with setPoint := v }

/-- Run a piece of reserve work. -/
def runWork (m : Module) (w : ReserveWork) : Module :=
  let gone (m : Module) : Module := m.setTick fun t => { t with due := t.due.erase w }
  match w with
  | .leyCal _ => gone m
  | .leyPhy _ => gone (m.setTick fun t => { t with running := t.running ++ [w] })
  | .safeFall => gone (changeClock m 0)
  | .setPoint v =>
    if changeAllowed m m.tick.ns m.tick.count then
      (gone (changeClock m v)).setPower fun x =>
        { x with lastChangeNs := some m.tick.ns, lastChangeTick := some m.tick.count }
    else m

/-- While no boundary is raised, the fall to the safe operating point that is due is made at once (R403, R514). -/
def fallNow (m : Module) : Module :=
  if noBoundary m && m.tick.due.contains .safeFall then runWork m .safeFall else m

/-- Work of a reserve, or of a calibration hold, ends before the next boundary: a PHY calibration that runs is complete, nothing having
failed in it, unless it began while no boundary was raised and still runs (R45, R46, R514). -/
def endReserve (m : Module) (t : Nat) : Module :=
  if t < m.tick.workEnds then m
  else foldM m.tick.running (fun m w => match w with
    | .leyPhy i => testCompleteFn i [] m
    | _ => m) m

/-! ### SYNC on a tick that stops (R54, R371) -/

/-- Execute SYNC_WORD_RECEIVE. -/
def execSyncWordReceive (link : Nat) (word : SyncWord) (s : State) : Host.Outcome State Fault Refusal :=
  guarded (linkOk link) (fun m => fallNow (syncWordReceiveFn link word m)) s

/-- Execute SYNC_STOP. -/
def execSyncStop (s : State) : Host.Outcome State Fault Refusal := guarded true (fun m => fallNow (syncStopFn m)) s

/-! ### The boundary -/

/-- The counter, the time of the boundary and the period that governs the tick it opens (R34, R39, R371). -/
def advanceTick (m : Module) : Module :=
  let n := m.tick.count + 1
  let p := match m.tick.nextPeriod, m.fabric.announce with
    | some p, _ => p
    | none, some (p, f) => if f ≤ n then p else m.tick.period
    | none, none => m.tick.period
  let t := max m.tick.ns (nextBoundaryNs m)
  let m := m.setTick fun k =>
    { k with ns := t, count := n, boundaryNs := t, period := p, nextPeriod := none, nextAt := none
             raisedNs := t, wasStopped := false, inReserve := false }
  let m := m.setFabric fun f =>
    { f with takeover := false, announce := f.announce.filter fun a => decide (n < a.2) }
  { m with nodes := (range' 0 18).foldl (fun ns d => ns.upd d fun h =>
      if h.planes = .lost then h
      else { h with
        replica := if h.reload.isSome then n else h.replica + 1, reload := none
        replicaB := if h.reloadB.isSome then n else h.replicaB + 1, reloadB := none }) m.nodes }

/-- Charge a partition its engine time of the tick just ended (R342). -/
def chargeTick (m : Module) (p : Nat) : Module :=
  (accrue m p).setRegs p fun r =>
    { r with engineCc := (r.engineCc + r.tickCc) % 2 ^ 64
             vtime := (r.vtime + r.tickCc * 65536 / r.share) % 2 ^ 64
             tickCc := 0 }

/-- Each bucket of a partition gains its rate, up to its burst (R351). -/
def fillBuckets (m : Module) (p : Nat) : Module :=
  m.setRegs p fun r =>
    { r with level := (range' 0 5).foldl (fun l b => l.put b (min (r.burst.get b) (l.get b + r.rate.get b))) r.level }

/-- A ramp order reaches its boundary, and a fall of L that waited takes effect (R418, R420). -/
def powerBoundary (m : Module) : Module :=
  let m := match m.power.rampOrder with
    | some o => if o.boundary ≤ m.tick.count then
        m.setPower fun w => { w with slope := o.slope, rampOrder := none } else m
    | none => m
  setLimit (m.setPower fun w => { w with fallPending := false })

/-- A step that is unfinished when a boundary arrives, in progress or pre-empted: it slips (R44, R345; log 68), and, in progress, has
held its cores for one boundary more (R344). -/
def countSlip (m : Module) (p : Nat) : Module :=
  match (m.part p).step with
  | none => m
  | some _ =>
    let m := m.setRegs p fun r => { r with slip := satAdd r.slip 1 }
    let m := m.setTick fun t => { t with slipTotal := satAdd t.slipTotal 1 }
    let m := m.setPart p fun x => { x with step := x.step.map fun s =>
      { s with raised := s.raised + 1, held := if s.preempted then s.held else s.held + 1 } }
    raise m 0x0101 p dieF [m.tick.count]

/-- A core of a list that is no longer live. -/
def firstDead (m : Module) (cs : List Nat) : Option Nat := cs.find? fun c => !m.live c

/-- What the seal decided for a partition happens: a step resumes, is replayed, or launches (R47, R346, R454). A core fenced since
the seal does not begin work: the step is abandoned with it, to be replayed (R31, R451). -/
def launchPart (m : Module) (p : Nat) : Module :=
  let x := m.part p
  match x.step, x.replay, x.sealedSet with
  | some s, _, _ =>
    if (firstDead m (coresOfRuns m p s.runs)).isSome then
      m.setPart p fun y => { y with step := y.step.map fun s => { s with resumeAt := none } }
    else resumeNow m p
  | none, some r, _ =>
    if !r.sealedNow then m
    else if (firstDead m (coresOfRuns m p r.runs)).isSome then
      m.setPart p fun y => { y with replay := some { r with sealedNow := false, at? := none } }
    else launchReplay m p r
  | none, none, some rs =>
    match firstDead m (coresOfRuns m p rs) with
    | none => launchStep m p rs none
    | some c =>
      let m := clearStep (launchStep m p rs none) p
      m.setPart p fun y => { y with replay := some { runs := rs, core := c } }
  | none, none, none => m

/-- Take back what was sealed for a boundary that launches nothing. -/
def unsealPart (m : Module) (p : Nat) : Module :=
  let m := match (m.part p).sealedSet with
    | some rs => foldM rs (fun m r => takeBack m p r.run) m
    | none => m
  m.setPart p fun x =>
    { x with sealedSet := none
             step := x.step.map fun s => { s with resumeAt := none }
             replay := x.replay.map fun r => { r with sealedNow := false } }

/-- Boundaries held for absent processors: without the scheduler no set was sealed for this boundary; a held cluster was passed over
by its seal (R401, R402). -/
def countHolds (m : Module) (n : Nat) : Module :=
  let m := if (m.proc 0).st ≠ .running ∧ m.tick.sealedFor ≠ some n then
      m.setProc 0 fun y => { y with holdTicks := satAdd y.holdTicks 1 } else m
  foldM ((range' 0 32).filter fun k => (m.clu k).held && decide ((m.proc (32 + k)).edgeNs + 5000 ≤ m.tick.ns)) (fun m k =>
    m.setProc (32 + k) fun y => { y with holdTicks := satAdd y.holdTicks 1 }) m

/-- The reserve work that takes this whole tick: the oldest that does not fit the reserve and may run (R46, R407). -/
def holdWork (m : Module) : Option ReserveWork :=
  m.tick.due.find? fun w => decide (reserveNs m < w.length) && mayRun m m.tick.ns m.tick.count w

/-- The tick that a boundary opens is a calibration hold: it was so sealed; or nothing was sealed and work does not fit the reserve,
or work that began while no boundary was raised still runs (R46, R514). -/
def isHold (m : Module) (n : Nat) : Bool :=
  (if m.tick.sealedFor = some n then m.tick.holdNext else (holdWork m).isSome) || decide (m.tick.ns < m.tick.workEnds)

/-- TICK_BOUNDARY: in the order of Table 2.4. -/
def tickBoundaryFn (m : Module) : Module :=
  if noBoundary m || decide (m.tick.armed < m.tick.count + 1) || m.ras.lostDies.contains dieF then m
  else
    let stopped := m.tick.wasStopped
    let last := m.tick.raisedNs + m.tick.period
    let m := endReserve m (nextBoundaryNs m)
    let m := advanceTick m
    let n := m.tick.count
    let gap := m.tick.ns - last
    let m := hedgeSend m dieF 0 0 (BitVec.ofNat 96 n)
    let m := if stopped then raise m 0x0102 noPart dieF [gap] else m
    let ps := m.parts.keys
    let m := foldM ps preemptNow m
    let m := foldM ps chargeTick m
    let m := powerBoundary (applyStaged m)
    let ps := m.parts.keys
    let m := foldM ps fillBuckets m
    let m := foldM ps countSlip m
    let hold := isHold m n
    let m := m.setTick fun t => { t with holdNext := hold }
    let m := if hold then
        let m := m.setTick fun t => { t with calHold := satAdd t.calHold 1 }
        match holdWork m with
        | some w => runWork m w
        | none => m
      else m
    let goes := !hold && m.tick.sealedFor == some n && m.tick.sync == .locked &&
      (m.power.loss == .none || m.power.loss == .bad)
    let m := foldM ps (if goes then launchPart else unsealPart) m
    let m := foldM ps (fun m p =>
      let h := holdsPooled m p
      m.setRegs p fun r => { r with idlePool := if h then 0 else r.idlePool + 1 }) m
    foldM ps checkDrained (countHolds m n)

/-- Execute TICK_BOUNDARY. -/
def execTickBoundary (s : State) : Host.Outcome State Fault Refusal := guarded true tickBoundaryFn s

/-! ### The reserve -/

/-- RESERVE_START: the budget ends; the reserve work that is due and fits runs, and the ledgers of the tick are flushed (R36, R45,
R46). -/
def reserveStartFn (m : Module) : Module :=
  if noBoundary m || m.tick.inReserve then m
  else
    let m := m.setTick fun t => { t with inReserve := true, ns := max t.ns (t.boundaryNs + budgetNs m) }
    let m := foldM (m.tick.due.filter fun w => decide (w.length ≤ reserveNs m)) runWork m
    if !m.start.ready || m.power.loss ≠ .none then m
    else foldM m.fns.keys (fun m f => if (m.fn f).resetting then m
      else foldM (enabledRings m f) (fun m r => writeLedger m f r false) m) m

/-- Execute RESERVE_START. -/
def execReserveStart (s : State) : Host.Outcome State Fault Refusal := guarded true reserveStartFn s

/-- LEY_CALIBRATION_DUE: calibration of all PHY groups is due; within a second of the last one that the timer made due, it is a
temperature step that makes it so (R45, R46; log 69). -/
def leyCalibrationDueFn (m : Module) : Module :=
  if m.power.dark || m.start.tripped then m
  else
    let timer := match m.tick.lastCalNs with
      | some t => decide (t + secondNs ≤ m.tick.ns)
      | none => true
    m.setTick fun t =>
      { t with due := t.due ++ [.leyCal (!timer)], lastCalNs := if timer then some t.ns else t.lastCalNs }

/-- Execute LEY_CALIBRATION_DUE. -/
def execLeyCalibrationDue (s : State) : Host.Outcome State Fault Refusal := guarded true leyCalibrationDueFn s

/-- DEFERRED_RESERVE_WORK: while no boundary is raised, work that is due runs once no step is in progress (R514). -/
def deferredReserveWorkFn (m : Module) : Module :=
  if !noBoundary m || m.tick.due.isEmpty || (m.parts.keys.any fun p => (runningStep m p).isSome) then m
  else
    let ends := (m.tick.due.filter (mayRun m m.tick.ns m.tick.count)).foldl (fun n w => max n w.length) 0 + m.tick.ns
    let m := m.setTick fun t => { t with workEnds := max t.workEnds ends }
    foldM m.tick.due runWork m

/-- Execute DEFERRED_RESERVE_WORK. -/
def execDeferredReserveWork (s : State) : Host.Outcome State Fault Refusal := guarded true deferredReserveWorkFn s

end Sys2Proof.Machine
end

