-- ==== Sys2Proof/Machine/Clusters.lean ====
section
/-! DEFINITION. The cluster windows: freezing and clearing groups of counters (18_registers R469, R473, R483, Tables 18.9 to
18.11). -/

namespace Sys2Proof.Machine

/-- A write of PF0 to the window of a cluster at a window offset: dropped before READY with cause 1, and with cause 4 while the
cluster-common domain is off (R479, R483, R491). A VF's BAR0 ends before the windows. -/
def windowWrite (m : Module) (fn k off : Nat) (g : Module → Module) : Module :=
  let a := 0x1000000 + k * 0x80000 + off
  if fn ≠ 0 || !reaches m fn then m
  else if !m.start.ready || m.start.startFail then busError m fn 1 a
  else if !m.power.domains.getLsbD (2560 + k) then busError m fn 4 a
  else g m

/-- CLU_CNT_CTRL: FREEZE bit i takes written bit i where mask bit 16 + i is 1. -/
def cluCntCtrlFn (fn cluster : Nat) (value : Word) (m : Module) : Module :=
  windowWrite m fn cluster 0x8 fun m =>
    let new := value.extractLsb' 0 5
    let mask := value.extractLsb' 16 5
    m.setClu cluster fun k => { k with freeze := (k.freeze &&& ~~~mask) ||| (new &&& mask) }

/-- Execute CLU_CNT_CTRL. -/
def execCluCntCtrl (fn : Nat) (cluster : Nat) (value : Word) (s : State) : Host.Outcome State Fault Refusal :=
  guarded (fnOk fn && clusterOk cluster) (cluCntCtrlFn fn cluster value) s

/-- CLU_CNT_CLR: the groups are posted and BUSY sets; a write while BUSY is 1 is a bus error with cause 3. -/
def cluCntClrFn (fn cluster : Nat) (value : Word) (m : Module) : Module :=
  windowWrite m fn cluster 0xC fun m =>
    if (m.clu cluster).busy then busError m fn 3 (0x1000000 + cluster * 0x80000 + 0xC)
    else m.setClu cluster fun k => { k with busy := true, clr := value.extractLsb' 0 5 }

/-- Execute CLU_CNT_CLR. -/
def execCluCntClr (fn : Nat) (cluster : Nat) (value : Word) (s : State) : Host.Outcome State Fault Refusal :=
  guarded (fnOk fn && clusterOk cluster) (cluCntClrFn fn cluster value) s

/-- Counters of a core once the groups of a set are cleared. `left` gives what a clear leaves in a counter of its group: 0 for a
frozen group, a free value for one that counts. -/
def clearCore (clr : BitVec 5) (left : Nat → Nat → Nat) (c : Core) : Core :=
  let n := c.cnt
  let n := if clr.getLsbD 0 then
    { n with meBusy := left 0 0, meFrontBubble := left 0 1, meShortPass := left 0 2, meSeedWait := left 0 3
             meMergeWait := left 0 4, meMergePeak := left 0 5, meSkip := left 0 6 } else n
  let n := if clr.getLsbD 1 then
    { n with veBusy := left 1 7, veIssue := left 1 8, veDepStall := left 1 9, veBankStall := left 1 10
             veQueueWait := left 1 11, veSkip := left 1 12, veLong := left 1 13 } else n
  let n := if clr.getLsbD 2 then
    { n with qCreditWait := left 2 14, qSpill := left 2 15, qExtPeak := left 2 16, suBundles := left 2 17
             suPairWait := left 2 18, suBufFull := left 2 19, suEmptyEmit := left 2 20, suDiscard := left 2 21 } else n
  let c := { c with cnt := n }
  if clr.getLsbD 3 then
    { c with dispLists := left 3 22, dispAssign := left 3 23, dispMoved := left 3 24, dispDrop := left 3 25
             dispExamined := left 3 26, dispRenorm := left 3 27 } else c

/-- Counters of the tile movers once their group is cleared. -/
def clearTm (clr : BitVec 5) (left : Nat → Nat → Nat) (t : TmCnt) : TmCnt :=
  if clr.getLsbD 4 then
    { busy := left 4 28, rdLines := left 4 29, wrLines := left 4 30, mcast := left 4 31, streams := left 4 32
      cancel := left 4 33, cancelLines := left 4 34, discardLines := left 4 35, padLines := left 4 36 } else t

/-- PB_WRITE_APPLIED: the posted groups are cleared in the 80 cores and the cluster, and BUSY clears. A group that counts while it
is cleared is left with uncertain counts (free values). -/
def pbWriteAppliedFn (cluster : Nat) (m : Module) : Module :=
  let k := m.clu cluster
  if !k.busy then m
  else
    let (seed, m) := takeFree m
    let left (unit group i : Nat) : Nat := if k.freeze.getLsbD group then 0 else Config.clearCount seed unit i % 4294967296
    let m := foldM (range' (80 * cluster) 80) (fun m c => m.setCore c (clearCore k.clr (left c))) m
    m.setClu cluster fun x => { x with busy := false, clr := 0, tmCnt := clearTm k.clr (left 4096) x.tmCnt }

/-- Execute PB_WRITE_APPLIED. -/
def execPbWriteApplied (cluster : Nat) (s : State) : Host.Outcome State Fault Refusal :=
  guarded (clusterOk cluster) (pbWriteAppliedFn cluster) s

end Sys2Proof.Machine
end

