-- ==== Sys2Proof/Machine/VectorData.lean ====
section
/-! DEFINITION. PERM, MEM, QIO, MSKOP, SAMP and SCTL instructions of the vector engine, and the start of a handler
(05_vector_engine R116 to R119, R127, R131 to R141, R144). -/

namespace Sys2Proof.Machine

/-! ### Permutation (R131) -/

/-- A PERM operation that writes active lanes and counts no exception. -/
def permOp (core : Nat) (o : PermOps) (srcs : List Nat) (interval latency : Nat) (f : Ve → Nat → BitVec 32)
    (m : Module) : Module :=
  issueVe m core (mskKey o.toThreeOps ++ srcs) [keyV o.d.toNat] interval latency fun v =>
    v.writeLanes o.toThreeOps (f v)

/-- Rank of lane `l` among the active lanes. -/
def activeRank (v : Ve) (msk l : Nat) : Nat := ((v.actives msk).filter fun x => x < l).length

/-- COMPRESS: active lanes of A to the low lanes; lanes from their number to VL - 1 follow ZM. -/
def compress (v : Ve) (o : PermOps) : Ve :=
  let as := v.actives o.msk.toNat
  v.belowVl.foldl (fun w l =>
    match as[l]? with
    | some a => w.setLane o.d.toNat l (v.lane o.a.toNat a)
    | none => if o.zm then w.setLane o.d.toNat l 0 else w) v

/-! ### Local store (R132 to R134) -/

/-- Bytes of an element of a lane-form format. -/
def laneSize (fmt : Nat) : Nat := fmtWidth fmt / 8

/-- LD and ST move packed bytes: a narrow format, INT8 or E8M0 scale bytes (R132). -/
def packedFmt (fmt : Nat) : Bool := narrowFmt fmt || decide (fmt = 10)

/-- Byte addresses of a packed access that hold bits of active lanes. -/
def packedAddrs (v : Ve) (o : MemOps) : List Nat :=
  let w := fmtWidth o.fmt.toNat
  (v.actives o.msk.toNat).flatMap fun l =>
    (range' (w * l / 8) ((w * l + w - 1) / 8 - w * l / 8 + 1)).map (v.base o + ·)

/-- Addresses of the active lanes of a lane-form access. -/
def laneAddrs (v : Ve) (o : MemOps) (off : Nat → Nat) : List (Nat × Nat) :=
  (v.actives o.msk.toNat).map fun l => (l, (v.base o + off l) % 2 ^ 64)

/-- Offsets of the three lane-form accesses: unit stride, strided, indexed (R132). -/
def offUnit (o : MemOps) (l : Nat) : Nat := l * laneSize o.fmt.toNat
def offStride (v : Ve) (o : MemOps) (l : Nat) : Nat := l * (v.scalar o.b.toNat).toNat
def offIndex (v : Ve) (o : MemOps) (l : Nat) : Nat := (v.lane o.b.toNat l).toNat

/-- Issue a memory instruction, after the cc it waits for its banks (R134): its addresses are checked first (R133); a load that meets a
poisoned line in bytes of an active lane raises VE_ECC and follows R449 to R451 (R115). `size` is the element size of the alignment
check: a packed access, whose elements are no whole bytes, is taken at 1 byte, so it never raises VE_ALIGN (DESIGN CHOICE, log 75:
R133 does not give that size). -/
def memOp (core : Nat) (o : ThreeOps) (srcs dsts : List Nat) (size : Nat) (load : Bool) (addrs : Ve → List Nat)
    (body : Ve → Module → Module) (m : Module) : Module :=
  let cc := bankCycles (addrs (m.core core).ve)
  let m := if handling m core then veBankWait m core (addrs (m.core core).ve) else m
  issue m core (mskKey o ++ srcs) dsts cc (cc + 7) fun m =>
    let v := (m.core core).ve
    match addrFault size (addrs v) with
    | some (code, a) => coreFault m core code (a % 4294967296)
    | none =>
      match (if load then (addrs v).find? fun a => linePoisoned m core a else none) with
      | some a => coreUncorrectable m core 0x0303 [core, a]
      | none => body v m

/-- Load lane-form elements into the active lanes of D (R112, R132). -/
def loadLanes (core : Nat) (o : MemOps) (srcs : List Nat) (off : Ve → Nat → Nat) (m : Module) : Module :=
  let size := laneSize o.fmt.toNat
  memOp core o.toThreeOps (keyS o.base.toNat :: srcs) [keyV o.d.toNat] size true
    (fun v => (laneAddrs v o (off v)).map (·.2))
    (fun v m =>
      let ls := (m.core core).ls
      m.setVe core fun w => w.writeLanes o.toThreeOps fun l =>
        BitVec.ofNat 32 (ls.rd ((v.base o + off v l) % 2 ^ 64) size)) m

/-- Store the active lanes of A as lane-form elements, in lane order: where two lanes store to the same bytes the higher lane's value
stays (DESIGN CHOICE, log 75: R132 does not order them). -/
def storeLanes (core : Nat) (o : MemOps) (srcs : List Nat) (off : Ve → Nat → Nat) (m : Module) : Module :=
  let size := laneSize o.fmt.toNat
  memOp core o.toThreeOps (keyS o.base.toNat :: keyV o.a.toNat :: srcs) [] size false
    (fun v => (laneAddrs v o (off v)).map (·.2))
    (fun v m =>
      let las := laneAddrs v o (off v)
      let m := m.setCore core fun c =>
        { c with ls := las.foldl (fun s x => s.wr x.2 size (v.lane o.a.toNat x.1).toNat) c.ls }
      las.foldl (fun m x => clearPoison m core x.2 size) m) m

/-- Load packed elements of the active lanes into group PART of D. -/
def loadPacked (core : Nat) (o : MemOps) (m : Module) : Module :=
  let w := fmtWidth o.fmt.toNat
  memOp core o.toThreeOps [keyS o.base.toNat] [keyV o.d.toNat] 1 true (fun v => packedAddrs v o)
    (fun v m =>
      let ls := (m.core core).ls
      m.setVe core fun x =>
        let n := v.belowVl.foldl (fun n l =>
          if v.active o.msk.toNat l then
            setBits n (packedAt o.part.toNat w l) w (ls.rdBits (8 * v.base o + w * l) w)
          else if o.zm then setBits n (packedAt o.part.toNat w l) w 0 else n) (v.regNat o.d.toNat)
        x.setRegNat o.d.toNat n) m

/-- Store packed elements of the active lanes: the bits of active elements alone (R132). -/
def storePacked (core : Nat) (o : MemOps) (m : Module) : Module :=
  let w := fmtWidth o.fmt.toNat
  memOp core o.toThreeOps [keyS o.base.toNat, keyV o.a.toNat] [] 1 false (fun v => packedAddrs v o)
    (fun v m =>
      let r := v.regNat o.a.toNat
      let m := m.setCore core fun c =>
        { c with ls := (v.actives o.msk.toNat).foldl (fun s l =>
            s.wrBits (8 * v.base o + w * l) w (bits r (packedAt o.part.toNat w l) w)) c.ls }
      (v.actives o.msk.toNat).foldl (fun m l => clearPoisonBits m core (8 * v.base o + w * l) w) m) m

/-! ### Queues (R135, R153) -/

/-- A QIO instruction that cannot go on waits one cc (R135). -/
def queueWait (m : Module) (core : Nat) : Module :=
  noteStall (m.setCnt core fun c => { c with veQueueWait := satAdd c.veQueueWait 1, veBusy := satAdd c.veBusy 1 }) core

/-- Payload flits at the head of a queue that RECV takes: up to `n` of the current bundle; none while they have not all
arrived. -/
def recvTake : List Flit → Nat → Option (List Flit)
  | _, 0 => some []
  | [], _ + 1 => none
  | f :: r, n + 1 => if f.first then some [] else if f.last then some [f] else (recvTake r n).map (f :: ·)

/-- Flits that a RECV finds: those to pop, and those among them that are payload; none while it waits. -/
def recvFlits (m : Module) (core q n : Nat) : Option (List Flit × List Flit) :=
  let v := (m.core core).ve
  let trig := match v.handler with
    | some h => h.inQ == q
    | none => false
  let done := match v.handler with
    | some h => h.inQ == q && h.ended
    | none => false
  if done then some ([], [])
  else
    match (inQ m core q).flits with
    | [] => none
    | f :: r =>
      if f.first && !trig then
        if f.last then some ([f], [])
        else (recvTake r n).map fun p => (f :: p, p)
      else (recvTake (f :: r) n).map fun p => (p, p)

/-- RECV (R135, R153). -/
def recvOp (core : Nat) (o : QioOps) (m : Module) : Module :=
  if !handling m core then m
  else
    let q := o.q.toNat
    match recvFlits m core q (o.nf.toNat + 1) with
    | none =>
      queueWait (if (inBind m core q).prodKind = 1 then chargeStall m core fun d => d.dstLvl == 4 && d.dstQ == q else m)
        core
    | some (pop, pay) =>
      let bad := match pop with
        | f :: _ => f.first && headerBad f.data
        | [] => false
      if bad then protocolFault m core q
      else
        issue m core [] (keyV o.d.toNat :: (if o.b = 0 then [] else [keyS o.b.toNat])) (max 1 pay.length) 4 fun m =>
          let m := popFlits m core q pop.length
          let ends := pay.any (·.last)
          m.setVe core fun v =>
            let v := if pay = [] then v
              else v.setRegNat o.d.toNat ((range' 0 pay.length).foldl (fun n i =>
                setBits n (512 * i) 512 ((pay.map (·.data.toNat)).getD i 0)) (v.regNat o.d.toNat))
            let v := v.setScalar o.b.toNat (BitVec.ofNat 64 pay.length)
            { v with handler := v.handler.map fun h => if h.inQ = q && ends then { h with ended := true } else h }

/-- Header of a bundle that the vector engine sends: words 3 to 15 of the triggering header (R151). -/
def sendHeader (m : Module) (core kind tag : Nat) : BitVec 512 :=
  let t := match (m.core core).ve.handler with
    | some h => h.header
    | none => 0
  withWords t fun i => if i = 0 then some (tagWord kind tag) else if i = 1 then some 0 else none

/-- The first `n` flits of register A. -/
def regFlits (v : Ve) (r n : Nat) : List (BitVec 512) :=
  (range' 0 n).map fun i => BitVec.ofNat 512 (v.regNat r / 2 ^ (512 * i))

/-- Header of a TOKEN bundle: bytes 16 to 63 of the payload flit are header words 4 to 15 (R151). -/
def tokenHeader (h : BitVec 512) (d : BitVec 512) : BitVec 512 :=
  withWords h fun i =>
    if i = 0 then some (tagWord kToken (htag h)) else if 4 ≤ i then some (hword d i) else none

/-- What one SEND puts on its queue, and the queue's state after it (R135, R150, R151, R155). -/
def sendStep (m : Module) (core : Nat) (o : QioOps) : Module :=
  let q := o.q.toNat
  let v := (m.core core).ve
  let qs := outQ m core q
  let tag := o.tag.toNat
  let h := sendHeader m core kData tag
  let fs := regFlits v o.a.toNat (o.nf.toNat + 1)
  let run := (m.core core).run
  let vc := vcOf m core q kData
  let mark (m : Module) (drops : Bool) := setOut m core q fun x =>
    { x with openBundle := !o.last, openDrops := drops && !o.last }
  if qs.openBundle then
    if qs.openDrops then mark m true
    else mark (setOut m core q fun x => x.push run x.vc ((range' 0 fs.length).map fun i =>
      { data := fs.getD i 0, last := o.last && decide (i + 1 = fs.length) })) false
  else if tag = closeTag then mark (pushClose m core q h) true
  else if (outBind m core q).tokenQ then
    mark (pushBundle m core q false (tokenHeader h (fs.getD 0 0)) []) true
  else
    let m := setOut m core q fun x =>
      let h := withWords h fun i => if i = 2 then some x.seq else none
      let x := x.push run vc ({ data := h, first := true } :: (range' 0 fs.length).map fun i =>
        { data := fs.getD i 0, last := o.last && decide (i + 1 = fs.length) })
      { x with seq := (x.seq + 1) % 4294967296, sinceClose := x.sinceClose + 1 }
    mark m false

/-- Flits that a SEND stages. -/
def sendCount (m : Module) (core : Nat) (o : QioOps) : Nat :=
  let q := outQ m core o.q.toNat
  if q.openBundle then (if q.openDrops then 0 else o.nf.toNat + 1)
  else if o.tag.toNat = closeTag || (outBind m core o.q.toNat).tokenQ then 1
  else o.nf.toNat + 2

/-- SEND (R135). -/
def sendOp (core : Nat) (o : QioOps) (m : Module) : Module :=
  if !handling m core then m
  else if !(outQ m core o.q.toNat).room (sendCount m core o) then
    queueWait (m.setCnt core fun c => { c with qCreditWait := satAdd c.qCreditWait 1 }) core
  else issue m core [keyV o.a.toNat] [] (o.nf.toNat + 1) 4 fun m => noteProgress (sendStep m core o) core

/-- SENDE (R135, R150, R152). -/
def sendeOp (core : Nat) (o : QioOps) (m : Module) : Module :=
  let q := o.q.toNat
  if !handling m core then m
  else if !(outQ m core q).takes 1 then
    queueWait (m.setCnt core fun c => { c with qCreditWait := satAdd c.qCreditWait 1 }) core
  else issue m core [] [] 1 4 fun m =>
    let h := sendHeader m core kData o.tag.toNat
    noteProgress (if o.tag.toNat = closeTag then pushClose m core q h
      else pushBundle m core q false (markerOf o.tag.toNat h) []) core

/-! ### Handlers (R116 to R119, R144, R186) -/

/-- Table entry of the handler that a bundle triggers (R186). -/
def handlerFor (m : Module) (core q tag : Nat) : Option HandlerEntry :=
  (handlers (planeBytes (m.core core))).find? fun e => e.inQ == q && e.tag == tag

/-- Outbound queues of a mask. -/
def maskQueues (mask : Nat) : List Nat := (range' 0 16).filter fun i => bit mask i

/-- Another vector-engine queue whose triggering bundle reached its head before that of queue `q`, or on the same cc with a lower
number: its handler goes first (R118). -/
def handlerBefore (m : Module) (core q : Nat) : Bool :=
  let since (x : Nat) := ((m.core core).heads.get x).getD 0
  (range' 0 16).any fun x => x != q && (inBind m core x).consumer == 1 &&
    decide (since x < since q ∨ (since x = since q ∧ x < q)) && (match headHeader m core x with
      | some h => (handlerFor m core x (htag h)).isSome
      | none => false)

/-- A triggering bundle at the head of a VE queue starts its handler, in the order in which such bundles reached their heads; is skipped
as a marker; or raises VE_NO_HANDLER (R118, R119, R186). The markers of a skip carry the stream tag of the triggering bundle, and a cc
in which they wait for credit counts in VE_QUEUE_WAIT_CC (DESIGN CHOICE, log 76: R119 gives neither). -/
def handlerStart (core : Nat) (queue : BitVec 4) (m : Module) : Module :=
  let q := queue.toNat
  if handling m core || (m.core core).halted || !inUse m core || (inBind m core q).consumer ≠ 1 || handlerBefore m core q then m
  else match (inQ m core q).flits with
  | [] => m
  | f :: _ =>
    if !f.first then m
    else if headerBad f.data then protocolFault m core q
    else match handlerFor m core q (htag f.data) with
    | none => coreFault m core evVeNoHandler (htag f.data)
    | some e =>
      if isMarker f.data then
        let outs := maskQueues e.outMask
        if !outs.all fun x => (outQ m core x).takes 1 then
          m.setCnt core fun c => { c with veQueueWait := satAdd c.veQueueWait 1, qCreditWait := satAdd c.qCreditWait 1 }
        else
          let m := popFlit m core q
          let m := outs.foldl (fun m x => pushBundle m core x false (markerOf (htag f.data) f.data) []) m
          m.setCnt core fun c => { c with veSkip := satAdd c.veSkip 1 }
      else
        let m := popFlit m core q
        m.setVe core fun v =>
          { v with vl := 64, pc := e.start, loops := []
                   handler := some { inQ := q, header := f.data, outMask := e.outMask, startCc := v.cc, ended := f.last } }

/-- LOOP (R117). -/
def loopOp (core : Nat) (o : SctlOps) (m : Module) : Module :=
  if !handling m core then m
  else
    let m := noteProgress (issueTime m core [keyS o.a.toNat] [] 1 1) core
    m.setVe core fun v =>
      let n := (v.scalar o.a.toNat).toNat
      let body := o.imm.toNat % 4096
      let total := if o.strip then ceilDiv n 64 else n
      if total = 0 then v.goTo (v.pc + 1 + body)
      else
        { v with pc := v.pc + 1, vl := if o.strip then min 64 n else v.vl
                 loops := { bodyStart := v.pc + 1, bodyEnd := v.pc + 1 + body, total := total, iter := 0
                            strip := o.strip, count := n, savedVl := v.vl } :: v.loops }

/-- END: the handler ends; one that ran more than 4,096 cc is counted (R118, R144). -/
def endOp (core : Nat) (m : Module) : Module :=
  match (m.core core).ve.handler with
  | none => m
  | some h =>
    let m := noteProgress (issueTime m core [] [] 1 1) core
    let long := decide (4096 < (m.core core).ve.cc - h.startCc)
    let m := m.setVe core fun v => { v with handler := none, loops := [] }
    if long then m.setCnt core fun c => { c with veLong := satAdd c.veLong 1 } else m

/-! ### Sampling (R137 to R140) -/

/-- Entry `a` stands before entry `b` in a top-k list: greater value, or equal and lower index (R138). -/
def topBefore (a b : F32 × BitVec 32) : Bool :=
  let c := a.1.num.cmp b.1.num
  decide (0 < c) || (c == 0 && decide (a.2 < b.2))

/-- Insert an entry into a list in top-k order. -/
def topInsert (e : F32 × BitVec 32) : List (F32 × BitVec 32) → List (F32 × BitVec 32)
  | [] => [e]
  | x :: r => if topBefore e x then e :: x :: r else x :: topInsert e r

/-- TOPK: the list of registers D and D + 1 after the active lanes of A (R138). -/
def topkList (v : Ve) (o : SampOps) : List (F32 × BitVec 32) :=
  let k := o.km1.toNat + 1
  let d := o.d.toNat
  let old := (range' 0 k).map fun l => (v.lane d l, v.lane (d + 1) l)
  ((v.actives o.msk.toNat).foldl (fun acc l =>
    let x := v.lane o.a.toNat l
    if F32.num x |>.isNan then acc
    else (topInsert (x, v.low o.b.toNat + BitVec.ofNat 32 l) acc).take k) old)

/-- Running sums of SCAN: the sum after each lane below VL, and the carry out (R139). -/
def scanSums (v : Ve) (o : SampOps) : List F32 × F32 :=
  v.belowVl.foldl (fun p l =>
    let s := if v.active o.msk.toNat l then fadd p.2 (v.lane o.a.toNat l) else p.2
    (p.1 ++ [s], s)) ([], v.low o.b.toNat)

/-- RAND of a lane: an FP32 value of 24 bits in [0, 1) (R140). -/
def randLane (seed stream idx : Nat) : F32 := toF32 (.fin false (srMix seed stream idx / 2 ^ 40) (-24))

/-! ### Mask and scalar operations (R136, R141) -/

/-- A MSKOP that writes a mask. -/
def mskOp (core : Nat) (o : ThreeOps) (srcs : List Nat) (f : Ve → BitVec 64) (m : Module) : Module :=
  issueVe m core srcs [keyM o.d.toNat] 1 1 fun v => v.setMask o.d.toNat (f v)

/-- An instruction that writes scalar D. -/
def sclOp (core d : Nat) (srcs : List Nat) (f : Ve → BitVec 64) (m : Module) : Module :=
  issueVe m core srcs [keyS d] 1 1 fun v => v.setScalar d (f v)

/-- Set bits of a mask below VL. -/
def maskBelow (v : Ve) (x : BitVec 64) : List Nat := v.belowVl.filter fun l => x.getLsbD l

/-- MFROMV: bit `i` set when lane `i` is below VL and not zero. -/
def maskFrom (v : Ve) (a : Nat) : BitVec 64 :=
  v.belowVl.foldl (fun acc l => if v.lane a l = 0 then acc else acc ||| BitVec.twoPow 64 l) 0

/-! ### Meanings: PERM (R131) -/

def execBcast (core : Nat) (o : PermOps) (s : State) : Host.Outcome State Fault Refusal :=
  guarded (coreOk core) (permOp core o [keyS o.a.toNat] 1 3 fun v _ => v.low o.a.toNat) s
def execPermv (core : Nat) (o : PermOps) (s : State) : Host.Outcome State Fault Refusal :=
  guarded (coreOk core) (permOp core o [keyV o.a.toNat, keyV o.b.toNat] 2 4 fun v l =>
    let i := (v.lane o.b.toNat l).toNat
    if i < 64 then v.lane o.a.toNat i else 0) s
def execSlideup (core : Nat) (o : PermOps) (s : State) : Host.Outcome State Fault Refusal :=
  guarded (coreOk core) (permOp core o [keyV o.a.toNat] 1 3 fun v l =>
    if l < o.sh.toNat then 0 else v.lane o.a.toNat (l - o.sh.toNat)) s
def execSlidedn (core : Nat) (o : PermOps) (s : State) : Host.Outcome State Fault Refusal :=
  guarded (coreOk core) (permOp core o [keyV o.a.toNat] 1 3 fun v l =>
    if 63 < l + o.sh.toNat then 0 else v.lane o.a.toNat (l + o.sh.toNat)) s
def execCompress (core : Nat) (o : PermOps) (s : State) : Host.Outcome State Fault Refusal :=
  guarded (coreOk core) (fun m => issueVe m core (mskKey o.toThreeOps ++ [keyV o.a.toNat]) [keyV o.d.toNat] 2 4
    fun v => compress v o) s
def execExpand (core : Nat) (o : PermOps) (s : State) : Host.Outcome State Fault Refusal :=
  guarded (coreOk core) (permOp core o [keyV o.a.toNat] 2 4 fun v l =>
    v.lane o.a.toNat (activeRank v o.msk.toNat l)) s
def execIota (core : Nat) (o : PermOps) (s : State) : Host.Outcome State Fault Refusal :=
  guarded (coreOk core) (permOp core o [keyS o.a.toNat] 1 3 fun v l => v.low o.a.toNat + BitVec.ofNat 32 l) s
def execSel (core : Nat) (o : PermOps) (s : State) : Host.Outcome State Fault Refusal :=
  guarded (coreOk core) (fun m => issueVe m core (mskKey o.toThreeOps ++ [keyV o.a.toNat, keyV o.b.toNat])
    [keyV o.d.toNat] 1 3 fun v =>
      v.belowVl.foldl (fun w l => w.setLane o.d.toNat l
        (if (v.maskOf o.msk.toNat).getLsbD l then v.lane o.a.toNat l else v.lane o.b.toNat l)) v) s

/-! ### Meanings: MEM (R132) -/

def execLd (core : Nat) (o : MemOps) (s : State) : Host.Outcome State Fault Refusal :=
  guarded (coreOk core && o.anyFmt) (if packedFmt o.fmt.toNat then loadPacked core o
    else loadLanes core o [] fun _ => offUnit o) s
def execSt (core : Nat) (o : MemOps) (s : State) : Host.Outcome State Fault Refusal :=
  guarded (coreOk core && o.anyFmt) (if packedFmt o.fmt.toNat then storePacked core o
    else storeLanes core o [] fun _ => offUnit o) s
def execLds (core : Nat) (o : MemOps) (s : State) : Host.Outcome State Fault Refusal :=
  guarded (coreOk core && o.wideFmt) (loadLanes core o [keyS o.b.toNat] fun v => offStride v o) s
def execSts (core : Nat) (o : MemOps) (s : State) : Host.Outcome State Fault Refusal :=
  guarded (coreOk core && o.wideFmt) (storeLanes core o [keyS o.b.toNat] fun v => offStride v o) s
def execLdx (core : Nat) (o : MemOps) (s : State) : Host.Outcome State Fault Refusal :=
  guarded (coreOk core && o.wideFmt) (loadLanes core o [keyV o.b.toNat] fun v => offIndex v o) s
def execStx (core : Nat) (o : MemOps) (s : State) : Host.Outcome State Fault Refusal :=
  guarded (coreOk core && o.wideFmt) (storeLanes core o [keyV o.b.toNat] fun v => offIndex v o) s
def execLdm (core : Nat) (o : MemOps) (s : State) : Host.Outcome State Fault Refusal :=
  guarded (coreOk core && o.maskD) (memOp core { o.toThreeOps with msk := 0 } [keyS o.base.toNat] [keyM o.d.toNat] 8 true
    (fun v => [v.base o]) fun v m =>
      let x := (m.core core).ls.rd (v.base o) 8
      m.setVe core fun w => w.setMask o.d.toNat (BitVec.ofNat 64 x)) s
def execStm (core : Nat) (o : MemOps) (s : State) : Host.Outcome State Fault Refusal :=
  guarded (coreOk core && o.maskA) (memOp core { o.toThreeOps with msk := 0 } [keyS o.base.toNat, keyM o.a.toNat] [] 8 false
    (fun v => [v.base o]) fun v m =>
      clearPoison (m.setCore core fun c => { c with ls := c.ls.wr (v.base o) 8 (v.maskOf o.a.toNat).toNat }) core (v.base o) 8) s

/-! ### Meanings: QIO (R135) -/

def execRecv (core : Nat) (o : QioOps) (s : State) : Host.Outcome State Fault Refusal :=
  guarded (coreOk core) (recvOp core o) s
def execSend (core : Nat) (o : QioOps) (s : State) : Host.Outcome State Fault Refusal :=
  guarded (coreOk core) (sendOp core o) s
def execSende (core : Nat) (o : QioOps) (s : State) : Host.Outcome State Fault Refusal :=
  guarded (coreOk core) (sendeOp core o) s

/-! ### Meanings: MSKOP (R136) -/

/-- Scoreboard keys of masks A and B. -/
def maskAB (o : ThreeOps) : List Nat := [keyM o.a.toNat, keyM o.b.toNat]

def execMand (core : Nat) (o : ThreeOps) (s : State) : Host.Outcome State Fault Refusal :=
  guarded (coreOk core && o.noMask && o.maskD && o.maskA && o.maskB) (mskOp core o (maskAB o) fun v => v.maskOf o.a.toNat &&& v.maskOf o.b.toNat) s
def execMor (core : Nat) (o : ThreeOps) (s : State) : Host.Outcome State Fault Refusal :=
  guarded (coreOk core && o.noMask && o.maskD && o.maskA && o.maskB) (mskOp core o (maskAB o) fun v => v.maskOf o.a.toNat ||| v.maskOf o.b.toNat) s
def execMxor (core : Nat) (o : ThreeOps) (s : State) : Host.Outcome State Fault Refusal :=
  guarded (coreOk core && o.noMask && o.maskD && o.maskA && o.maskB) (mskOp core o (maskAB o) fun v => v.maskOf o.a.toNat ^^^ v.maskOf o.b.toNat) s
def execMandn (core : Nat) (o : ThreeOps) (s : State) : Host.Outcome State Fault Refusal :=
  guarded (coreOk core && o.noMask && o.maskD && o.maskA && o.maskB) (mskOp core o (maskAB o) fun v => v.maskOf o.a.toNat &&& ~~~(v.maskOf o.b.toNat)) s
def execMnot (core : Nat) (o : ThreeOps) (s : State) : Host.Outcome State Fault Refusal :=
  guarded (coreOk core && o.noMask && o.maskD && o.maskA) (mskOp core o [keyM o.a.toNat] fun v => ~~~(v.maskOf o.a.toNat)) s
def execMset (core : Nat) (o : ThreeOps) (s : State) : Host.Outcome State Fault Refusal :=
  guarded (coreOk core && o.noMask && o.maskD) (mskOp core o [keyS o.a.toNat] fun v => v.scalar o.a.toNat) s
def execMget (core : Nat) (o : ThreeOps) (s : State) : Host.Outcome State Fault Refusal :=
  guarded (coreOk core && o.noMask && o.maskA) (sclOp core o.d.toNat [keyM o.a.toNat] fun v => v.maskOf o.a.toNat) s
def execMpop (core : Nat) (o : ThreeOps) (s : State) : Host.Outcome State Fault Refusal :=
  guarded (coreOk core && o.noMask && o.maskA) (sclOp core o.d.toNat [keyM o.a.toNat] fun v =>
    BitVec.ofNat 64 (maskBelow v (v.maskOf o.a.toNat)).length) s
def execMfirst (core : Nat) (o : ThreeOps) (s : State) : Host.Outcome State Fault Refusal :=
  guarded (coreOk core && o.noMask && o.maskA) (sclOp core o.d.toNat [keyM o.a.toNat] fun v =>
    BitVec.ofNat 64 (((maskBelow v (v.maskOf o.a.toNat)).head?).getD 64)) s
def execMfromv (core : Nat) (o : ThreeOps) (s : State) : Host.Outcome State Fault Refusal :=
  guarded (coreOk core && o.noMask && o.maskD) (mskOp core o [keyV o.a.toNat] fun v => maskFrom v o.a.toNat) s

/-! ### Meanings: SAMP (R137 to R140) -/

def execMfill (core : Nat) (o : SampOps) (s : State) : Host.Outcome State Fault Refusal :=
  guarded (coreOk core) (fun m => issueVe m core (mskKey o.toThreeOps ++ [keyV o.a.toNat]) [keyV o.d.toNat] 1 3 fun v =>
    v.belowVl.foldl (fun w l => w.setLane o.d.toNat l
      (if (v.maskOf o.msk.toNat).getLsbD l then v.lane o.a.toNat l else 0xFF800000)) v) s
def execTopk (core : Nat) (o : SampOps) (s : State) : Host.Outcome State Fault Refusal :=
  guarded (coreOk core && o.evenD) (fun m => issueVe m core
    (mskKey o.toThreeOps ++ [keyV o.a.toNat, keyS o.b.toNat, keyV o.d.toNat, keyV (o.d.toNat + 1)])
    [keyV o.d.toNat, keyV (o.d.toNat + 1)] 8 14 fun v =>
      let l := topkList v o
      (range' 0 (o.km1.toNat + 1)).foldl (fun w i =>
        (w.setLane o.d.toNat i (l.getD i (0, 0)).1).setLane (o.d.toNat + 1) i (l.getD i (0, 0)).2) v) s
def execScan (core : Nat) (o : SampOps) (s : State) : Host.Outcome State Fault Refusal :=
  guarded (coreOk core) (fun m => issue m core (mskKey o.toThreeOps ++ [keyV o.a.toNat, keyS o.b.toNat])
    [keyV o.d.toNat, keyS o.b.toNat] 8 12 fun m =>
      let v := (m.core core).ve
      let r := scanSums v o
      let m := m.setVe core fun v =>
        (v.belowVl.foldl (fun w l => w.setLane o.d.toNat l (r.1.getD l 0)) v).setScalar o.b.toNat (r.2.setWidth 64)
      countOuts m core ((v.actives o.msk.toNat).map fun l => fpOut
        [v.lane o.a.toNat l, if l = 0 then v.low o.b.toNat else r.1.getD (l - 1) 0] (r.1.getD l 0))) s
def execRand (core : Nat) (o : SampOps) (s : State) : Host.Outcome State Fault Refusal :=
  guarded (coreOk core) (fun m => issueVe m core (mskKey o.toThreeOps ++ [keyS o.a.toNat]) [keyV o.d.toNat] 1 6 fun v =>
    v.writeLanes o.toThreeOps fun l =>
      randLane v.seed.toNat v.stream.toNat (((v.scalar o.a.toNat).toNat + l) % 2 ^ 48)) s

/-! ### Meanings: SCTL (R116, R117, R127, R141) -/

def execLi (core : Nat) (o : SctlOps) (s : State) : Host.Outcome State Fault Refusal :=
  guarded (coreOk core) (sclOp core o.d.toNat [] fun _ => o.imm.signExtend 64) s
def execLih (core : Nat) (o : SctlOps) (s : State) : Host.Outcome State Fault Refusal :=
  guarded (coreOk core) (sclOp core o.d.toNat [keyS o.d.toNat] fun v => o.imm ++ v.low o.d.toNat) s
def execSadd (core : Nat) (o : SctlOps) (s : State) : Host.Outcome State Fault Refusal :=
  guarded (coreOk core) (sclOp core o.d.toNat [keyS o.a.toNat, keyS o.b.toNat] fun v =>
    v.scalar o.a.toNat + v.scalar o.b.toNat) s
def execSsub (core : Nat) (o : SctlOps) (s : State) : Host.Outcome State Fault Refusal :=
  guarded (coreOk core) (sclOp core o.d.toNat [keyS o.a.toNat, keyS o.b.toNat] fun v =>
    v.scalar o.a.toNat - v.scalar o.b.toNat) s
def execSmul (core : Nat) (o : SctlOps) (s : State) : Host.Outcome State Fault Refusal :=
  guarded (coreOk core) (sclOp core o.d.toNat [keyS o.a.toNat, keyS o.b.toNat] fun v =>
    v.scalar o.a.toNat * v.scalar o.b.toNat) s
def execSaddi (core : Nat) (o : SctlOps) (s : State) : Host.Outcome State Fault Refusal :=
  guarded (coreOk core) (sclOp core o.d.toNat [keyS o.a.toNat] fun v =>
    v.scalar o.a.toNat + o.imm.signExtend 64) s
def execSetvl (core : Nat) (o : SctlOps) (s : State) : Host.Outcome State Fault Refusal :=
  guarded (coreOk core) (fun m => issueVe m core [keyS o.a.toNat] [keyS o.d.toNat] 1 1 fun v =>
    let n := min 64 (v.scalar o.a.toNat).toNat
    { v.setScalar o.d.toNat (BitVec.ofNat 64 n) with vl := n }) s
def execLoop (core : Nat) (o : SctlOps) (s : State) : Host.Outcome State Fault Refusal :=
  guarded (coreOk core && o.bodyOk) (loopOp core o) s
def execSetsr (core : Nat) (o : SctlOps) (s : State) : Host.Outcome State Fault Refusal :=
  guarded (coreOk core) (fun m => issueVe m core [keyS o.a.toNat, keyS o.b.toNat] [] 1 1 fun v =>
    { v with seed := v.scalar o.a.toNat, stream := (v.scalar o.b.toNat).setWidth 16 }) s
def execRdhdr (core : Nat) (o : SctlOps) (s : State) : Host.Outcome State Fault Refusal :=
  guarded (coreOk core) (sclOp core o.d.toNat [] fun v =>
    match v.handler with
    | some h => BitVec.ofNat 64 (hword h.header (o.imm.toNat % 16))
    | none => 0) s
def execEndHandler (core : Nat) (_o : SctlOps) (s : State) : Host.Outcome State Fault Refusal :=
  guarded (coreOk core) (endOp core) s
def execHandlerStart (core : Nat) (queue : BitVec 4) (s : State) : Host.Outcome State Fault Refusal :=
  guarded (coreOk core) (handlerStart core queue) s

end Sys2Proof.Machine
end

