-- ==== Sys2Proof/Machine/Dataflow.lean ====
section
/-! DEFINITION. Dataflow commands: flits and credits on their way, steering units with expert dispatch, drained cores and
barriers, the stall detector and Lark (06_dataflow, 07 R201, R202, 09_experts). -/

namespace Sys2Proof.Machine

/-! ### Flits and credits (R156 to R158, R174) -/

/-- The oldest flit in flight of an outbound queue crosses what is left of its route and reaches its destination (log 71); one of another
run is discarded and its credit does not return (R156, R157). A flit for which its destination has no room stays in flight: credits
keep that from happening (R158, R163). -/
def flitArrival (core : Nat) (queue : BitVec 4) (m : Module) : Module :=
  let q := queue.toNat
  match (outQ m core q).inFlight with
  | [] => m
  | f :: r =>
    let e := outBind m core q
    let leave (m : Module) := setOut m core q fun o => { o with inFlight := r }
    if f.run ≠ (m.core core).run then leave m
    else match globalOf m core e.destCore with
      | some g =>
        if (m.core g).run ≠ f.run || (activePlane (m.core g)).isNone then leave m
        else if inRoom m g e.destQ = 0 then m
        else suPump g suFuel (arrive (leave m) g e.destQ [f])
      | none => leave m

/-- A credit returns; a staged flit that waited for it is sent, and a steering unit that waited for room goes on (R158, R171). -/
def creditReturn (core : Nat) (queue : BitVec 4) (m : Module) : Module :=
  let q := queue.toNat
  if (outQ m core q).creditsBack = 0 then m
  else
    let run := (m.core core).run
    let m := if (outQ m core q).staging = [] then m else noteProgress m core
    let m := setOut m core q fun o => { o with creditsBack := o.creditsBack - 1, credit := o.credit + 1 }.send run
    suPump core suFuel m

/-- The head of an elastic extension moves into the core's queue while it has room (R174). -/
def extensionMove (core : Nat) (queue : BitVec 4) (m : Module) : Module :=
  let q := queue.toNat
  let i := inQ m core q
  match i.ext with
  | [] => m
  | f :: r =>
    if queueDepth ≤ i.flits.length then m
    else
      let m := fillIn (noteProgress m core) core q fun i => { i with flits := i.flits ++ [f], ext := r }
      let m := if i.flits = [] then noteHead m core q else m
      suPump core suFuel (if (inBind m core q).consumer = 6 then deposit m core q depositFuel else m)

/-! ### Headers at the steering units (R165 to R167) -/

/-- The payload of a route list stands behind its header: its flits, two of them or all there are; none while they have not arrived. -/
def routePayload : List Flit → Option (List (BitVec 512))
  | [] => none
  | h :: r =>
    if h.last then some []
    else match r with
      | a :: b :: _ => if a.last then some [a.data] else some [a.data, b.data]
      | [a] => if a.last then some [a.data] else none
      | [] => none

/-- The waiting header is held: the entry in the pairing buffer, and the payload of a route list with it (R166; log 72). -/
def suTake (m : Module) (core pr q : Nat) (token : Bool) (e : PairEntry) : Module :=
  let m := popFlits m core q (e.route.length + 1)
  setSu m core pr fun s => if token then { s with tokens := s.tokens ++ [e] } else { s with data := s.data ++ [e] }

/-- A header at the head of one input of a pair is matched, held or refused; then the steering units go on (R166, R167, R171). -/
def suHeaderMatch (core : Nat) (pair : BitVec 3) (token : Bool) (m : Module) : Module :=
  let pr := pair.toNat
  let b := planeBytes (m.core core)
  let r := suRule b pr
  let q := if token then r.inToken else r.inData
  let fs := (inQ m core q).flits
  match fs with
  | [] => m
  | f :: _ =>
    let h := f.data
    let s := suPair m core pr
    let e : PairEntry := { key := htag h &&& (r.keyMask % 2 ^ 28), seq := hword h 2, header := h, payload := !f.last }
    let same := if token then s.tokens else s.data
    let other := if token then s.data else s.tokens
    let alone := decide (if token then r.inData = 255 else r.inToken = 255)
    let paired := if alone then s.emits.isEmpty && s.data.isEmpty && s.tokens.isEmpty else other.any (partners e)
    let route := token && r.action == 2 && hkind h != kClose && !isMarker h
    let list := if route then routePayload fs else some []
    if !inUse m core || decide (3 < r.action) || q = 255 || !f.first then m
    else if headerBad h then protocolFault m core q
    else if same.any (partners e) then coreFault m core evSuTagDup (htag h)
    else if !paired && decide (16 ≤ s.data.length + s.tokens.length) then
      noteStall (m.setCnt core fun c => { c with suBufFull := satAdd c.suBufFull 1 }) core
    else match list with
      | none => m
      | some ps =>
        match if route then routeFault r ((m.core core).lastOrd.get pr) h ps else .ok (0, 0) with
        | .error code => coreFault m core code (htag h)
        | .ok at_ =>
          let m := if token && isClosing h then m.setCore core fun c => { c with lastOrd := c.lastOrd.put pr none }
            else if route then m.setCore core fun c => { c with lastOrd := c.lastOrd.put pr (some at_) } else m
          let m := suPump core suFuel (suTake m core pr q token { e with route := ps })
          match (suPair m core pr).data with
          | d :: _ => if (suPair m core pr).tokens.any (partners d) || decide (r.inToken = 255) then m
            else m.setCnt core fun c => { c with suPairWait := satAdd c.suPairWait 1 }
          | [] => m

/-! ### Drained cores and barriers (01 R28, 07 R201, R202) -/

/-- The queue holds nothing and every flit it sent has been credited. -/
def outDrained (m : Module) (core q : Nat) : Bool :=
  let o := outQ m core q
  o.staging.isEmpty && o.inFlight.isEmpty && o.creditsBack == 0 && o.credit == initialCredit m core q

/-- The core is drained (R201). -/
def isDrained (m : Module) (core : Nat) : Bool :=
  let c := m.core core
  (!inUse m core || decide ((runList (planeBytes c)).length ≤ c.me.runIdx)) && c.me.pass.isNone && c.me.seeded.cells.isEmpty &&
    c.me.held.isEmpty && (range' 0 16).all (fun t => (c.me.tiles.get t).isNone) && c.ve.handler.isNone &&
    c.inq.cells.all (fun x => x.2.flits.isEmpty && x.2.ext.isEmpty && x.2.feed.isEmpty) &&
    (range' 0 16).all (outDrained m core) &&
    c.su.cells.all (fun x => x.2.data.isEmpty && x.2.tokens.isEmpty && x.2.emits.isEmpty) &&
    !feedsOpen m core

/-- A core of the running fold becomes drained and sends its arrival at the fold barrier. -/
def coreDrained (core : Nat) (m : Module) : Module :=
  match corePart m core with
  | some p =>
    if (runningStep m p).isSome && isDrained m core && !(m.core core).drained then
      m.setCore core fun c => { c with drained := true }
    else m
  | none => m

/-- An arrival goes out on both planes and reaches the root of each plane that serves its die: the last expected one releases the
barrier, and a fold barrier's run is then due its release (R27, R28, Table 7.12). -/
def barrierArrival (id node : Nat) (m : Module) : Module :=
  let b := m.barriers.get id
  let die := dieOfCluster (clusterOf node)
  let u := (m.nodes.get die).planes
  if b.released || !b.expected.contains node || b.arrived.contains node || b.arrivedB.contains node ||
      !(m.core node).drained || u == .lost then m
  else
    let b := { b with
      arrived := if u = PlaneUse.onlyB then b.arrived else b.arrived ++ [node]
      arrivedB := if u = PlaneUse.onlyA then b.arrivedB else b.arrivedB ++ [node] }
    let all := b.expected.all fun n => b.arrived.contains n || b.arrivedB.contains n
    let m := hedgeSend m die 2 2 (BitVec.ofNat 96 id)
    let m := { m with barriers := m.barriers.put id { b with released := all } }
    if all then
      let m := hedgeSend m dieF 2 2 (BitVec.ofNat 96 id)
      m.setPart (id / 64) fun x => { x with step := x.step.map fun s =>
        { s with runs := s.runs.map fun r => if r.run = id % 64 then { r with foldDone := true } else r } }
    else m

/-- The release reaches the cores: the next fold's planes become ACTIVE (R202); after the last fold nothing is left to
activate. -/
def barrierRelease (part run : Nat) (m : Module) : Module :=
  match runningStep m part with
  | none => m
  | some st =>
    match st.runs.find? fun r => r.run == run && r.foldDone with
    | none => m
    | some r =>
      match foldSwath m part r.model r.fold, foldSwath m part r.model (r.fold + 1) with
      | some old, some new =>
        if new.cores.any st.switching.contains || old.cores.any (fun c => (m.core c).halted) then m
        else
        let m := retireFold m old
        let m := m.setPart part fun x => { x with step := x.step.map fun s =>
          { s with runs := s.runs.map fun y =>
              if y.run = run then { y with fold := y.fold + 1, foldDone := false } else y } }
        activateFold m part run new
      | _, _ => m

/-! ### The stall detector (R175 to R177) -/

/-- Insert in increasing order. -/
def insertNat (n : Nat) : List Nat → List Nat
  | [] => [n]
  | a :: as => if n ≤ a then n :: a :: as else a :: insertNat n as

/-- Outbound queue for which the vector engine waits with a SEND or SENDE. -/
def veWaits (m : Module) (core : Nat) : List Nat :=
  let c := m.core core
  if c.ve.handler.isNone then []
  else match veDecode core (veWordAt (planeBytes c) c.ve.pc) with
    | some (.send _ o) => if (outQ m core o.q.toNat).room (sendCount m core o) then [] else [o.q.toNat]
    | some (.sende _ o) => if (outQ m core o.q.toNat).takes 1 then [] else [o.q.toNat]
    | _ => []

/-- The pass in flight or a tile that waits for its output cannot hand on its next result. -/
def meBlocked (m : Module) (core : Nat) : Bool :=
  let c := m.core core
  match c.me.pass with
  | none => false
  | some p =>
    let d := meDesc (planeBytes c) p.desc
    if d.blocks ≤ p.blk then true
    else p.live && decide (p.sent < d.results p.rows) &&
      (passResult core d p (if d.mode = 0 then c.me.wAct else ((blockReady c.me d).getD [])) p.sent m).isNone

/-- Outbound queues for which the matrix engine waits. -/
def meWaits (m : Module) (core : Nat) : List Nat :=
  let b := planeBytes (m.core core)
  let own := match (m.core core).me.pass with
    | some p =>
      let d := meDesc b p.desc
      if meBlocked m core && decide (d.outKind ≠ 0) && !merges m core d then [d.outQ] else []
    | none => []
  own ++ (range' 0 16).filterMap fun t =>
    match (m.core core).me.tiles.get t with
    | some x =>
      let d := meDesc b x.desc
      if d.outKind ≠ 0 ∧ x.sent < x.rows * d.rowParts ∧ rowDone m core t (x.sent / d.rowParts) = true then some d.outQ
      else none
    | none => none

/-- Outbound queues for which a steering unit waits with the bundle in hand of one of its pairs. -/
def suWaits (m : Module) (core pair : Nat) : List Nat :=
  match (suPair m core pair).emits with
  | e :: _ => if suRoom m core e then [] else e.outs.map (·.1)
  | [] => []

/-- Outbound queues whose flits, or whose producer, wait for credit (R176). -/
def creditless (m : Module) (core : Nat) : List Nat :=
  (((m.core core).outq.cells.filterMap fun x => if x.2.staging ≠ [] ∧ x.2.credit = 0 then some x.1 else none) ++
    veWaits m core ++ meWaits m core ++ (range' 0 8).flatMap (suWaits m core)).eraseDups

/-- Blocked queues of a core: outbound queues that wait for credit, the inbound queues and extensions whose credit it is, and full
pairing buffers (R176; log 71). -/
def blockedOf (m : Module) (core : Nat) : List Nat :=
  ((creditless m core).flatMap fun q =>
    let e := outBind m core q
    queueId core true q 0 :: match globalOf m core e.destCore with
      | some g => queueId g false e.destQ 0 :: if 0 < (inBind m g e.destQ).ext then [queueId g false e.destQ 2] else []
      | none => []) ++
  ((m.core core).su.cells.filterMap fun x =>
    if 16 ≤ x.2.data.length + x.2.tokens.length then some (queueId core false x.1 1) else none)

/-- The stall counter of a task reaches LARK_STALL_LIMIT: the stall record, the event, the abort (R175, R176). -/
def stallCycle (part : Nat) (m : Module) : Module :=
  match runningStep m part with
  | none => m
  | some st =>
    if st.stall < (m.part part).lark.stallLimit || xferMoves m part then m
    else
    let ids := (((st.cores.flatMap (blockedOf m)).eraseDups).foldl (fun l n => insertNat n l) [])
    let m := m.setLark part fun k =>
      { k with stallCount := satAdd k.stallCount 1, stallNq := ids.length
               stallQid := (range' 0 8).map fun i => ids.getD i 0xFFFFFFFF }
    let m := raise m 0x0201 part dieF [ids.headD 0xFFFFFFFF, ids.length]
    faultTask m part .failFault fun f => evsnOf m f

/-! ### Lark (R178 to R180) -/

/-- Depth byte of an inbound queue (R179). -/
def depthByte (m : Module) (core q : Nat) : Nat :=
  if (inBind m core q).consumer = 0 then 255
  else
    let i := inQ m core q
    if i.ext = [] then i.flits.length else 32 + ceilDiv i.ext.length 8

/-- Flits of an outbound queue sent and not yet credited. -/
def uncredited (m : Module) (core q : Nat) : Nat :=
  if (outBind m core q).producer = 0 then 255 else min 254 (initialCredit m core q - (outQ m core q).credit)

/-- Byte of a pairing buffer in a core record. -/
def pairByte (m : Module) (core pair : Nat) : Nat :=
  if (suRule (planeBytes (m.core core)) pair).action = 255 then 255
  else
    let s := suPair m core pair
    (s.data.length + s.tokens.length) % 32 + 32 * (b2n (!s.data.isEmpty) + 2 * b2n (!s.tokens.isEmpty))

/-- State of VE, ME, SU0 and SU1 (Table 6.8). -/
def engineBytes (m : Module) (core : Nat) : List Nat :=
  let c := m.core core
  let ve := match c.ve.handler with
    | none => 0
    | some _ => match veDecode core (veWordAt (planeBytes c) c.ve.pc) with
      | some (.recv _ o) => if (recvFlits m core o.q.toNat (o.nf.toNat + 1)).isNone then 2 else 1
      | _ => if (veWaits m core).isEmpty then 1 else 3
  let me := match c.me.pass with
    | some p =>
      let d := meDesc (planeBytes c) p.desc
      if !seedsIn c.me d p.rows then 5
      else if meBlocked m core then (if merges m core d then 5 else 3)
      else if decide (p.blk < d.blocks) && !p.live && (blockReady c.me d).isNone &&
          !(c.me.front.any fun x => x.1 == d.blockTag) && d.fromTm then 4
      else 1
    | none =>
      if (meWaits m core) ≠ [] then 3
      else if (range' 0 16).any fun t => (c.me.tiles.get t).isSome then 5
      else match (runList (planeBytes c))[c.me.runIdx]? with
      | none => 0
      | some e => if e.wait && (c.rings.get e.ring).order.isEmpty then 2 else 1
  let su (u : Nat) :=
    let ps := range' (4 * u) 4
    if ps.any fun p => (suForward m core p).isSome then 1
    else if ps.any fun p => !(suWaits m core p).isEmpty then 3
    else if ps.any fun p => !(suPair m core p).data.isEmpty || !(suPair m core p).tokens.isEmpty ||
        !(suPair m core p).emits.isEmpty then 2
    else 0
  [ve, me, su 0, su 1]

/-- Core record (Table 6.8). -/
def larkRecord (m : Module) (core : Nat) : List Byte :=
  let ns := (range' 0 16).map (depthByte m core) ++ (range' 0 16).map (uncredited m core) ++
    (range' 0 8).map (pairByte m core) ++ engineBytes m core
  ns.map (BitVec.ofNat 8) ++ leBytes 0 4 ++ leBytes core 2 ++ leBytes 0 14

/-- Write a sample into the Lark ring, around its end. -/
def larkStore (m : Module) (part base off len : Nat) (bs : List Byte) : Module :=
  let first := bs.take (len - off)
  devWrite (devWrite m part (base + off) first) part base (bs.drop (len - off))

/-- The cores of a running task latch records into the partition's Lark ring, or the sample is dropped; a sample falls every
LARK_INTERVAL cc from the launch (R178, R180). -/
def larkSample (part offset : Nat) (m : Module) : Module :=
  let k := (m.part part).lark
  match runningStep m part with
  | none => m
  | some st =>
    if !k.en || k.ringPages = 0 || !k.committed || offset % k.interval ≠ 0 then m
    else
      let cores := (st.cores.filter m.live).foldl (fun l n => insertNat n l) []
      let len := k.ringPages * pageSize
      let n := 64 * (cores.length + 1)
      let used := (k.wrOff + len - k.rdOff % len) % len
      if !k.wrap && decide (len ≤ used + n) then
        m.setLark part fun k => { k with dropped := true, drop := satAdd k.drop 1
                                         sampleSeq := (k.sampleSeq + 1) % 4294967296 }
      else
        let hdr := leBytes st.tick 8 ++ leBytes offset 4 ++ leBytes k.sampleSeq 4 ++ leBytes part 2 ++
          leBytes cores.length 2 ++ leBytes 0 44
        let m := larkStore m part k.base k.wrOff len (hdr ++ cores.flatMap (larkRecord m))
        m.setLark part fun k => { k with wrOff := (k.wrOff + n) % len, sampleSeq := (k.sampleSeq + 1) % 4294967296 }

/-! ### Meanings -/

def execFlitArrival (core : Nat) (queue : BitVec 4) (s : State) : Host.Outcome State Fault Refusal :=
  guarded (coreOk core) (flitArrival core queue) s
def execCreditReturn (core : Nat) (queue : BitVec 4) (s : State) : Host.Outcome State Fault Refusal :=
  guarded (coreOk core) (creditReturn core queue) s
def execExtensionMove (core : Nat) (queue : BitVec 4) (s : State) : Host.Outcome State Fault Refusal :=
  guarded (coreOk core) (extensionMove core queue) s
def execSuHeaderMatch (core : Nat) (pair : BitVec 3) (token : Bool) (s : State) : Host.Outcome State Fault Refusal :=
  guarded (coreOk core) (suHeaderMatch core pair token) s
def execCoreDrained (core : Nat) (s : State) : Host.Outcome State Fault Refusal :=
  guarded (coreOk core) (coreDrained core) s
def execBarrierArrival (id node : Nat) (s : State) : Host.Outcome State Fault Refusal :=
  guarded (decide (node < 4096)) (barrierArrival id node) s
def execBarrierRelease (part run : Nat) (s : State) : Host.Outcome State Fault Refusal :=
  guarded (partOk part && decide (run < 64)) (barrierRelease part run) s
def execStallCycle (part : Nat) (s : State) : Host.Outcome State Fault Refusal :=
  guarded (partOk part) (stallCycle part) s
def execLarkSample (part offset : Nat) (s : State) : Host.Outcome State Fault Refusal :=
  guarded (partOk part) (larkSample part offset) s

end Sys2Proof.Machine
end

