-- ==== Sys2Proof/Machine/Mgmt.lean ====
section
/-! DEFINITION. Management messages: how a processor takes one and answers it (11_host_interface R328 to R330). -/

namespace Sys2Proof.Machine

/-- Write a response: the response ring's next MSN, the request's MSN and TAG, a status, a DETAIL and a body (R329). -/
def respond (m : Module) (fn : Nat) (msg : MgmtMsg) (st : Status) (detail : Nat) (body : List Byte) : Module :=
  m.setFn fn fun f =>
    let n := (f.respWritten + 1) % 4294967296
    { f with respWritten := n
             resps := { msn := n, reqMsn := msg.msn, tag := msg.tag, status := st, detail := detail, body := body }
               :: f.resps }

/-- Answer a message DONE. -/
def respondDone (m : Module) (fn : Nat) (msg : MgmtMsg) (body : List Byte) : Module := respond m fn msg .done 0 body
/-- Answer a message with a refusal. -/
def respondRej (m : Module) (fn : Nat) (msg : MgmtMsg) (st : Status) : Module := respond m fn msg st 0 []
/-- Answer a message REJ_FORMAT with the offset of the field of its body. -/
def respondBad (m : Module) (fn : Nat) (msg : MgmtMsg) (off : Nat) : Module := respond m fn msg .rejFormat off []

/-- The request ring of a function holds the message as its next one: its window is up, its MSN follows the last one taken, and the
doorbell has covered it (R328, R329). -/
def msgRung (m : Module) (fn : Nat) (msg : MgmtMsg) : Bool :=
  reaches m fn && m.start.ready && !m.start.startFail && !(m.fn fn).resetting &&
    msg.msn == ((m.fn fn).mrqHead + 1) % 4294967296 &&
    !after32 (BitVec.ofNat 32 msg.msn) (BitVec.ofNat 32 (m.fn fn).mrqTail)

/-- Give a message to its processor: it waits while the processor is absent, and behind an earlier message of its target; it is answered
FAIL_FW once the processor's limit has passed (R329, R330, R398). -/
def toProc (m : Module) (fn : Nat) (msg : MgmtMsg) (proc : Nat) (act : Module → Module) : Module :=
  let behind := (m.fn fn).mgmtWait.any fun w => w.target = msg.target
  if !absent m proc && !behind then act m
  else if absent m proc && (m.proc proc).limitPassed then respond m fn msg .failFw (fwDetail proc) []
  else m.setFn fn fun f => { f with mgmtWait := f.mgmtWait ++ [msg] }

/-- Processors that a message needs: that of its target, and, for FAB_LOAD, the security core (R404). -/
def msgNeeds (msg : MgmtMsg) : List Nat := if msg.mcode = 0x0210 then [msg.target, 1] else [msg.target]

/-- A message of one MCODE and TARGET is taken from the request ring. -/
def mgmtRow (fn : Nat) (msg : MgmtMsg) (code target : Nat) (act : Module → Module) (m : Module) : Module :=
  if msg.mcode ≠ code || !msgRung m fn msg then m
  else
    let m := m.setFn fn fun f => { f with mrqHead := msg.msn }
    if msg.target ≠ target then respondBad m fn msg 4 else toProc m fn msg target act

/-- A field of a message's body. -/
def bodyField (msg : MgmtMsg) (off n : Nat) : Nat := field msg.body off n

end Sys2Proof.Machine
end

