-- ==== Sys2Proof/Machine/Ethernet.lean ====
section
/-! DEFINITION. Ethernet ports, queue pairs and READ responses; cables (13_fabric R389 to R392). -/

namespace Sys2Proof.Machine

/-! ### Ports and queue pairs (R390, R391) -/

/-- A connected QP of a port that is up. -/
def liveQp (m : Module) (port qp : Nat) : Option Qp :=
  if (m.eth.get port).en && (m.eth.get port).linkUp then (m.eth.get port).qps.get qp else none

/-- Change a connected QP. -/
def setQp (m : Module) (port qp : Nat) (g : Qp → Qp) : Module :=
  m.setEth port fun t => { t with qps := t.qps.upd qp fun o => o.map g }

/-- Largest payload of a packet for an MTU code. -/
def mtuBytes (code : Nat) : Nat := 1024 * 2 ^ code

/-- ETH_READ_RESPONSE: the payload of one packet lands in the chunk that the oldest READ request asked for; a chunk that is
whole is checked (R309, R390 to R392). -/
def ethReadResponseFn (port qp : Nat) (data : List Byte) (m : Module) : Module :=
  match (liveQp m port qp).bind fun q => q.reads.head?.map fun r => (q, r) with
  | none => m
  | some (q, i, off, left) =>
    let n := data.length
    if n = 0 ∨ left < n ∨ mtuBytes q.mtu < n then m
    else
      let retire (m : Module) := (setQp m port qp fun q =>
          { q with retries := 0, reads := (if left = n then [] else [(i, off + n, left - n)]) ++ q.reads.drop 1 }).setEth
            port fun t => { t with rxLines := satAdd t.rxLines (ceilDiv n 64) }
      match findItem m i, itemPart m i with
      | some x, some p =>
        if x.st ≠ .running then retire m
        else
          let g := manifestAt m p (wManifest x)
          let k := off / g.chunk
          let a := wDst x + off
          if regEmpty m p 3 then m.setRegs p fun r => { r with waitFab := satAdd r.waitFab 1 }
          else if tierWaits m p a n then m
          else
            let m := regTake (retire m) p 3 (ceilDiv n 64)
            match badRun m p i a n with
            | some m => dropReads m i
            | none =>
              let m := tierTake (devWrite m p a data) p a n
              let m := setItem m i fun y => { y with landed := y.landed.upd k (· + n) }
              let m := issueReads i g x.eth port 64 m
              if x.landed.get k + n = g.len k then chunkLanded m i x p g k else m
      | _, _ => retire m

/-- Execute ETH_READ_RESPONSE. -/
def execEthReadResponse (port qp : Nat) (data : List Byte) (s : State) : Host.Outcome State Fault Refusal :=
  guarded (decide (port < 2) && decide (qp < 1024)) (ethReadResponseFn port qp data) s

/-- ETH_CNP: counted, and the QP's request rate falls. -/
def ethCnpFn (port qp : Nat) (m : Module) : Module :=
  match liveQp m port qp with
  | none => m
  | some _ => (setQp m port qp fun q => { q with slow := q.slow + 1 }).setEth port fun t => { t with cnp := satAdd t.cnp 1 }

/-- Execute ETH_CNP. -/
def execEthCnp (port qp : Nat) (s : State) : Host.Outcome State Fault Refusal :=
  guarded (decide (port < 2) && decide (qp < 1024)) (ethCnpFn port qp) s

/-- ETH_INBOUND_REQUEST: answered with a NAK for an invalid request. -/
def ethInboundRequestFn (port qp : Nat) (m : Module) : Module :=
  if (m.eth.get port).en && (m.eth.get port).linkUp then
    emitNet (m.setEth port fun t => { t with nak := satAdd t.nak 1 }) (.nak port qp)
  else m

/-- Execute ETH_INBOUND_REQUEST. -/
def execEthInboundRequest (port qp : Nat) (s : State) : Host.Outcome State Fault Refusal :=
  guarded (decide (port < 2) && decide (qp < 1024)) (ethInboundRequestFn port qp) s

/-- The oldest READ request of a QP is sent again; after 7 retries the load it belongs to fails (R391, R392). -/
def retryRead (m : Module) (port qp : Nat) : Module :=
  match (liveQp m port qp).bind fun q => q.reads.head?.map fun r => (q, r) with
  | none => m
  | some (q, i, off, left) =>
    if 7 ≤ q.retries then
      let m := setQp m port qp fun q => { q with retries := 0 }
      match findItem m i, itemPart m i with
      | some x, some p => if x.st = .running then ethFail m p i port qp else dropReads m i
      | _, _ => dropReads m i
    else
      let base := match findItem m i with
        | some x => x.eth.getD 3 0
        | none => 0
      let m := setQp m port qp fun q => { q with retries := q.retries + 1 }
      emitNet (m.setEth port fun t => { t with retry := satAdd t.retry 1 }) (.readReq port qp (base + off) left)

/-- ETH_QP_TIMEOUT. -/
def ethQpTimeoutFn (port qp : Nat) (m : Module) : Module := retryRead m port qp

/-- Execute ETH_QP_TIMEOUT. -/
def execEthQpTimeout (port qp : Nat) (s : State) : Host.Outcome State Fault Refusal :=
  guarded (decide (port < 2) && decide (qp < 1024)) (ethQpTimeoutFn port qp) s

/-- ETH_ACK_RECEIVE: a NAK is counted and leads to a retry. -/
def ethAckReceiveFn (port qp : Nat) (nak : Bool) (m : Module) : Module :=
  match liveQp m port qp with
  | none => m
  | some _ => if nak then retryRead (m.setEth port fun t => { t with nak := satAdd t.nak 1 }) port qp else m

/-- Execute ETH_ACK_RECEIVE. -/
def execEthAckReceive (port qp : Nat) (nak : Bool) (s : State) : Host.Outcome State Fault Refusal :=
  guarded (decide (port < 2) && decide (qp < 1024)) (ethAckReceiveFn port qp nak) s

/-- Running loads that read over a port, with their partition and the port's QP. -/
def loadsOver (m : Module) (port : Nat) (f : Nat → Bool) : List (ItemRef × Nat × Nat) :=
  m.fns.cells.flatMap fun c => c.2.rings.cells.flatMap fun r => r.2.items.filterMap fun x =>
    let qp := ethQp x.eth port
    if x.opcode == opLoadWeights && x.st == .running && wSource x == 1 && (ethPorts x.eth).contains port && f qp then
      some (x.ref, c.2.part, qp) else none

/-- ETH_LINK_DOWN: LINK_UP clears, and every load that reads over the port fails (R392). -/
def ethLinkDownFn (port : Nat) (m : Module) : Module :=
  if (m.eth.get port).linkUp then
    let m := m.setEth port fun t => { t with linkUp := false }
    foldM (loadsOver m port fun _ => true) (fun m x => ethFail m x.2.1 x.1 port x.2.2) m
  else m

/-- Execute ETH_LINK_DOWN. -/
def execEthLinkDown (port : Nat) (s : State) : Host.Outcome State Fault Refusal :=
  guarded (decide (port < 2)) (ethLinkDownFn port) s

/-- ETH_LINK_UP: the link of an enabled port comes up. -/
def ethLinkUpFn (port : Nat) (m : Module) : Module :=
  if (m.eth.get port).en && m.power.domains.getLsbD (2649 + port) then m.setEth port fun t => { t with linkUp := true } else m

/-- Execute ETH_LINK_UP. -/
def execEthLinkUp (port : Nat) (s : State) : Host.Outcome State Fault Refusal :=
  guarded (decide (port < 2)) (ethLinkUpFn port) s

/-- Service of ETH_QP_SET: u8 port, u16 QP, u32 remote QPN, 16-byte GID, u32 send PSN, u32 receive PSN, u8 MTU code and u8
timeout exponent, one after another (Table 13.8). -/
def qpSet (fn : Nat) (msg : MgmtMsg) (m : Module) : Module :=
  let port := bodyField msg 0 1
  let qp := bodyField msg 1 2
  let mtu := bodyField msg 31 1
  if 2 ≤ port then respondBad m fn msg 0
  else if 1024 ≤ qp then respondBad m fn msg 1
  else if 3 ≤ mtu then respondBad m fn msg 31
  else
    let old := match (m.eth.get port).qps.get qp with
      | some q => q.reads
      | none => []
    let q : Qp :=
      { remote := bodyField msg 3 4, gid := (msg.body.drop 7).take 16, sendPsn := bodyField msg 23 4
        recvPsn := bodyField msg 27 4, mtu := mtu, timeout := bodyField msg 32 1, reads := old }
    respondDone (m.setEth port fun t => { t with qps := t.qps.put qp (some q) }) fn msg []

/-- ETH_QP_SET. -/
def ethQpSetFn (fn : Nat) (msg : MgmtMsg) (m : Module) : Module := mgmtRow fn msg 0x0220 0 (qpSet fn msg) m

/-- Execute ETH_QP_SET. -/
def execEthQpSet (fn : Nat) (msg : MgmtMsg) (s : State) : Host.Outcome State Fault Refusal :=
  guarded (fnOk fn && msg.ok) (ethQpSetFn fn msg) s

/-- Service of ETH_QP_CLEAR: a load that still reads over the QP fails as when its retries are exhausted. -/
def qpClear (fn : Nat) (msg : MgmtMsg) (m : Module) : Module :=
  let port := bodyField msg 0 1
  let qp := bodyField msg 1 2
  if 2 ≤ port then respondBad m fn msg 0
  else if 1024 ≤ qp then respondBad m fn msg 1
  else
    let m := foldM (loadsOver m port fun q => q == qp) (fun m x => ethFail m x.2.1 x.1 port qp) m
    respondDone (m.setEth port fun t => { t with qps := t.qps.put qp none }) fn msg []

/-- ETH_QP_CLEAR. -/
def ethQpClearFn (fn : Nat) (msg : MgmtMsg) (m : Module) : Module := mgmtRow fn msg 0x0221 0 (qpClear fn msg) m

/-- Execute ETH_QP_CLEAR. -/
def execEthQpClear (fn : Nat) (msg : MgmtMsg) (s : State) : Host.Outcome State Fault Refusal :=
  guarded (fnOk fn && msg.ok) (ethQpClearFn fn msg) s

/-! ### Cables (R389) -/

/-- A monitor alarm: CABLE_ALARM, whose value is free (Table 17.6). -/
def cableAlarm (m : Module) (link : Nat) : Module :=
  let (v, m) := takeFree m
  raise m evCableAlarm noPart dieF [link, v]

/-- CABLE_INTERRUPT: serviced by the power-management core; loss of signal or lock takes the link down, an alarm leaves it as
it is. -/
def cableInterruptFn (link : Nat) (loss alarm : Bool) (m : Module) : Module :=
  if absent m 2 then m
  else
    let m := if loss then loseLink m link 0 else m
    if alarm then cableAlarm m link else m

/-- Execute CABLE_INTERRUPT. -/
def execCableInterrupt (link : Nat) (loss alarm : Bool) (s : State) : Host.Outcome State Fault Refusal :=
  guarded (linkOk link) (cableInterruptFn link loss alarm) s

/-- CMIS_MONITOR_POLL. -/
def cmisMonitorPollFn (link : Nat) (alarm : Bool) (m : Module) : Module :=
  if absent m 2 || !alarm then m else cableAlarm m link

/-- Execute CMIS_MONITOR_POLL. -/
def execCmisMonitorPoll (link : Nat) (alarm : Bool) (s : State) : Host.Outcome State Fault Refusal :=
  guarded (linkOk link) (cmisMonitorPollFn link alarm) s

/-- Offset of the first bad field of a CMIS message: link, page, offset, length up to 128. -/
def cmisBad (msg : MgmtMsg) : Option Nat :=
  if 12 ≤ bodyField msg 0 1 then some 0 else if 128 < bodyField msg 3 1 then some 3 else none

/-- Service of CMIS_READ: `data` is what the cable answers. -/
def cmisReadServe (fn : Nat) (msg : MgmtMsg) (data : List Byte) (m : Module) : Module :=
  match cmisBad msg with
  | some o => respondBad m fn msg o
  | none => respondDone m fn msg (data.take (bodyField msg 3 1))

/-- CMIS_READ. -/
def cmisReadFn (fn : Nat) (msg : MgmtMsg) (data : List Byte) (m : Module) : Module :=
  mgmtRow fn msg 0x0310 2 (cmisReadServe fn msg data) m

/-- Execute CMIS_READ. -/
def execCmisRead (fn : Nat) (msg : MgmtMsg) (data : List Byte) (s : State) : Host.Outcome State Fault Refusal :=
  guarded (fnOk fn && msg.ok) (cmisReadFn fn msg data) s

/-- Service of CMIS_WRITE: page 10h or 11h of a cable whose link is not UP. -/
def cmisWriteServe (fn : Nat) (msg : MgmtMsg) (m : Module) : Module :=
  let link := bodyField msg 0 1
  let page := bodyField msg 1 1
  match cmisBad msg with
  | some o => respondBad m fn msg o
  | none =>
    if page ≠ 0x10 ∧ page ≠ 0x11 then respondBad m fn msg 1
    else if (m.link link).st = .up then respondRej m fn msg .rejState
    else
      let data := (msg.body.drop 4).take (bodyField msg 3 1)
      respondDone (emitNet m (.cable (link / 3) link page (bodyField msg 2 1) data)) fn msg []

/-- CMIS_WRITE. -/
def cmisWriteFn (fn : Nat) (msg : MgmtMsg) (m : Module) : Module := mgmtRow fn msg 0x0311 2 (cmisWriteServe fn msg) m

/-- Execute CMIS_WRITE. -/
def execCmisWrite (fn : Nat) (msg : MgmtMsg) (s : State) : Host.Outcome State Fault Refusal :=
  guarded (fnOk fn && msg.ok) (cmisWriteFn fn msg) s

end Sys2Proof.Machine
end

