-- ==== Sys2Proof/Machine/Losses.lean ====
section
/-! DEFINITION. Loss of units, of Hedgerow planes and of dies (01_organisation R16, R27, 08_tiers R234, 17_faults R459,
Table 17.4). -/

namespace Sys2Proof.Machine

/-! ### Routes that cross a die (R15, R16) -/

/-- Row of the compute grid beside or in which a die stands; none for the two I/O dies. -/
def rowOfDie (d : Nat) : Option Nat := if d < 16 then some (d % 8 / 4) else none

/-- Compute die at which a die's traffic joins the grid in a row: a compute die itself, the die beside a memory-side die, C0 or C4
for the host I/O die, C3 or C7 for the fabric I/O die (R15, R16, Table 1.3). -/
def gridDie (d row : Nat) : Nat := if d < 16 then d % 8 else 4 * row + if d = dieH then 0 else 3

/-- Compute dies on the fixed route of data from one die to another, in order. Traffic for an I/O die leaves the grid in the row
where it starts, traffic from one enters it in the row of its destination (R16). -/
def dieCrossing (a b : Nat) : List Nat :=
  let row := (rowOfDie a).getD ((rowOfDie b).getD (Config.ioRow % 2))
  dieRoute (gridDie a row) (gridDie b row)

/-- Dies that hold a page: the memory-side dies of its units, the host I/O die for Heath (Table 8.2). -/
def pageDies (pg : Page) : List Nat :=
  match pg.tier, pg.place with
  | some .heath, _ => [dieH]
  | some _, .stripe => range' 8 8
  | some _, .home k => [8 + k]
  | none, _ => []

/-- Routes of data from the pages of a partition to a die. -/
def routesFrom (m : Module) (p die : Nat) (pages : List Nat) : List (Nat × Nat) :=
  (pages.flatMap fun g => pageDies ((m.part p).pages.get g)).eraseDups.map fun e => (e, die)

/-- Routes of data from a die to the pages of a partition. -/
def routesTo (m : Module) (p die : Nat) (pages : List Nat) : List (Nat × Nat) :=
  (routesFrom m p die pages).map Prod.swap

/-- Routes between cores of a loaded swath, as pairs of dies. -/
def swathRoutes (w : Swath) : List (Nat × Nat) :=
  (range' 0 w.cores.length).flatMap fun l =>
    let pl := payload w.image w.info.planeOff l
    (range' 0 16).filterMap fun q =>
      let e := inEntry pl q
      match w.cores[e.prodCore]? with
      | some a => if e.consumer ≠ 0 ∧ e.prodKind = 0 then
          some (dieOfCluster (clusterOf a), dieOfCluster (clusterOf (w.cores.getD l 0))) else none
      | none => none

/-- Routes of a stream's data, from the tier to its cluster and from its cluster to the tier. -/
def streamRoutes (m : Module) (p cluster : Nat) (s : Stream) : List (Nat × Nat) :=
  let d := dieOfCluster cluster
  routesFrom m p d (streamEnds m s).1 ++ routesTo m p d (streamEnds m s).2

/-- Routes of a fabric transfer in progress: its send region to the fabric I/O die, from there to its receive region, and from that to
the core that takes its bundles (R380, R382). -/
def xferRoutes (m : Module) (x : Xfer) : List (Nat × Nat) :=
  match descOf m x.part x.prog x.idx with
  | none => []
  | some d =>
    let recv := pagesOf d.recv (recvBytes d (m.fab x.part).nranks)
    let core := (swathOf m x.part x.prog).bind fun w => w.cores[d.rxCore]?
    routesFrom m x.part dieF (pagesOf d.send (sendBytes (m.fab x.part) d)) ++ routesTo m x.part dieF recv ++
      match core with
      | some c => if d.rxQ = 0xFF then [] else routesFrom m x.part (dieOfCluster (clusterOf c)) recv
      | none => []

/-- The step in progress of a partition has a route that crosses a compute die: between its cores, of its streams, or of its fabric
transfers (Table 17.4). -/
def crosses (m : Module) (p die : Nat) : Bool :=
  match runningStep m p with
  | none => false
  | some s =>
    let between := ((m.part p).swaths.filter fun w => s.runs.any fun r => r.model == w.model).flatMap swathRoutes
    let streams := (streamsOf m p).flatMap fun t => streamRoutes m p t.1 t.2.2
    let xfers := (m.xfers.filter fun x => x.part == p && x.issued && !x.done).flatMap (xferRoutes m)
    (between ++ streams ++ xfers).any fun r => (dieCrossing r.1 r.2).contains die

/-! ### Loss of a die (R459) -/

/-- Memory-side die k: Sward stack k and Ley groups 2k and 2k + 1. -/
def loseMemoryDie (m : Module) (k : Nat) : Module := loseLeyGroup (loseLeyGroup (loseSward m k) (2 * k)) (2 * k + 1)

/-- Compute die k: 320 fences, and the abort of every task whose route crosses it. The cause that the FENCE events carry is a
free value: no position of R450's list is a lost die. -/
def loseComputeDie (m : Module) (k : Nat) : Module :=
  let ps := m.parts.keys.filter fun p => crosses m p k
  let m := foldM ps (fun m p => faultTask m p .failFault fun f => evsnOf m f) m
  let (v, m) := takeFree m
  foldM (range' (320 * k) 320) (fun m c => fence m c (v % 6)) m

/-- A step, its runs and everything that waits in a partition are gone, without a completion. -/
def dropWork (m : Module) (p : Nat) : Module :=
  (clearStep m p).setPart p fun x => { x with runs := [], sealedSet := none, replay := none, results := [] }

/-- Every link turns off: the slice sees the module vanish (R388). -/
def linksOff (m : Module) : Module :=
  refreshDomains (foldM (range' 0 12)
    (fun m l => m.setLink l fun k => { k with st := .off, tick := 0, replayBuf := [], replays := 0, waiting := [] }) m)

/-- Every item of the module whose cell is open. -/
def openItems (m : Module) : List Item :=
  m.fns.cells.flatMap fun f => f.2.rings.cells.flatMap fun r => r.2.items.filter fun x => !x.terminal

/-- The fabric I/O die: every task stops, and every item of every partition fails with the EVSN of the DIE_LOST event; the
ledgers are written. -/
def loseFabricDie (m : Module) : Module :=
  let m := raise m 0x0405 noPart dieH [dieF]
  let m := linksOff m
  let m := foldM (openItems m) (fun m x =>
    match slotOf m x.ref with
    | some slot => failRequest m slot .failFault (evsnOf m x.ref.fn)
    | none =>
      let m := finishV m x.ref .failFault (evsnOf m x.ref.fn)
      match x.st, itemPart m x.ref with
      | .running, some p => stopWork m x.ref x p
      | _, _ => m) m
  let m := foldM m.parts.keys dropWork m
  foldM m.fns.keys (fun m f => foldM (enabledRings m f) (fun m r => writeLedger m f r false) m) m

/-- The host I/O die: the whole module is lost, and nothing is written towards the host afterwards. -/
def loseHostDie (m : Module) : Module :=
  (linksOff (foldM m.parts.keys dropWork m)).setStart fun s => { s with linkUp := false }

/-- Loss of a die or of both Hedgerow planes to it (Table 17.4). The Hedgerow nodes of C and M of one number share a domain, so
the loss of either side's Hedgerow takes both. -/
def loseDie (m : Module) (die : Nat) : Module :=
  if m.ras.lostDies.contains die then m
  else
    let m := m.setRas fun r => { r with lostDies := die :: r.lostDies }
    let m := setNode m die fun h => { h with planes := .lost }
    if die = dieH then loseHostDie m
    else if die = dieF then loseFabricDie m
    else
      let k := die % 8
      let m := raise m 0x0405 noPart dieH [die]
      loseMemoryDie (loseComputeDie m k) k

/-- DIE_LOST. -/
def dieLostFn (die : Nat) (m : Module) : Module := loseDie m die

/-- Execute DIE_LOST. -/
def execDieLost (die : Nat) (s : State) : Host.Outcome State Fault Refusal := guarded (dieOk die) (dieLostFn die) s

/-- UNIT_LOSS: a unit that stops answering is mapped out, with the reach of Table 17.4. A compute die's loss reaches its memory
side; a memory-side die lost alone takes its stack and its Ley groups (R234, R386, R449, R459). -/
def unitLossFn (unit : LossUnit) (m : Module) : Module :=
  match unit with
  | .sward k => loseSward m k
  | .leyGroup g => loseLeyGroup m g
  | .leyChannel c => loseLeyChannel m c
  | .heathPort k => loseHeath m k
  | .fabricLink l => loseLink m l 0
  | .die d =>
    if 8 ≤ d ∧ d < 16 then
      if m.ras.lostDies.contains d then m
      else loseMemoryDie (m.setRas fun r => { r with lostDies := d :: r.lostDies }) (d - 8)
    else loseDie m d

/-- Execute UNIT_LOSS. -/
def execUnitLoss (unit : LossUnit) (s : State) : Host.Outcome State Fault Refusal :=
  guarded (unit.ok) (unitLossFn unit) s

/-! ### Loss of a Hedgerow plane (R27) -/

/-- Planes from which a source's messages are taken once one copy has failed to arrive. -/
def PlaneUse.less (u : PlaneUse) (planeB : Bool) : PlaneUse :=
  match u, planeB with
  | .both, true => .onlyA
  | .both, false => .onlyB
  | .onlyA, false => .lost
  | .onlyB, true => .lost
  | u, _ => u

/-- PLANE_LOSS: the event, and the other plane alone from then on; with both planes gone the die is lost (R27). -/
def planeLossFn (die : Nat) (planeB : Bool) (m : Module) : Module :=
  let u := (m.nodes.get die).planes
  let v := u.less planeB
  if u = v then m
  else
    let m := raise m 0x0404 noPart dieH [die, b2n planeB]
    let m := setNode m die fun h => { h with planes := v }
    if v = .lost then loseDie m die else m

/-- Execute PLANE_LOSS. -/
def execPlaneLoss (die : Nat) (plane : Bool) (s : State) : Host.Outcome State Fault Refusal :=
  guarded (dieOk die) (planeLossFn die plane) s

end Sys2Proof.Machine
end

