-- ==== Sys2Proof/Machine/Firmware.lean ====
section
/-! DEFINITION. Firmware processors: heartbeats, restarts, missed bounds, absence limits, update and rollback
(14_firmware R394 to R406, 16_security R427 to R430, 17_faults R450, R458, 19_startup R492). -/

namespace Sys2Proof.Machine

/-! ### A stopped start (R492) -/

/-- Domains that a stopped start leaves on: host PCIe, security core, always-on. -/
def startDomains : BitVec 2662 := BitVec.twoPow 2662 2636 ||| BitVec.twoPow 2662 2652 ||| BitVec.twoPow 2662 2661

/-- The start stops: START_FAIL, FAULT_N, the switched domains off, the record on the sideband. -/
def stopStart (m : Module) : Module :=
  let m := sbQueue m 0x84 [BitVec.ofNat 8 m.start.stage]
  let m := m.setStart fun s => { s with startFail := true, faultN := true }
  m.setPower fun w => { w with domains := w.domains &&& startDomains }

/-! ### Restarts (R395, R396, R399, R400, R406) -/

/-- A processor is out of reset: the security core from stage 0x01, the power-management and scheduler cores from stage 0x05, the
control cores once the cluster-common domains are on (Table 19.1). -/
def procOut (m : Module) (proc : Nat) : Bool :=
  !m.power.dark && !m.start.startFail && decide ((if proc = 1 then 1 else if proc < 32 then 5 else 6) ≤ m.start.stage) &&
    (proc == 2 || !m.start.tripped)

/-- Which image of a bundle a processor runs: scheduler, security, power management, control core (R430). -/
def imageOf (proc : Nat) : Nat := min proc 3

/-- Latch for a processor the digest of its image in a slot, with the slot (R396, R428). -/
def latchImage (m : Module) (proc slot : Nat) : Module :=
  m.setProc proc fun y => { y with digestSlot := slot, digest := (m.flash.slots.get slot).digests.getD (imageOf proc) 0 }

/-- Recoveries that the control core of a cluster is re-placing: their requests do not wait in its holding queue (R458). -/
def replacingIn (m : Module) (k : Nat) : List Recovery :=
  m.ras.active.filter fun r => clusterOf r.core = k && r.placed.isEmpty && !(m.clu k).holding.contains r.core

/-- The restart edge of a processor: state, counters and the FW_RESTART event. A control core's cluster is held from this edge, and a
re-placement that it was making ends in a job stop (R395, R400, R401, R458). -/
def startRestart (m : Module) (proc cause : Nat) : Module :=
  let (v, m) := takeFree m
  let m := m.setProc proc fun y =>
    { y with
      st := if y.limitPassed then .absent else if cause = 3 then .updating else .restarting
      edgeNs := m.tick.ns, cause := cause, restarts := satAdd y.restarts 1 }
  let m := raise m 0x0601 noPart (dieOfProc proc) [proc, cause, v % 4294967296]
  if proc < 32 then m
  else
    let k := proc - 32
    let lost := replacingIn m k
    let m := m.setClu k fun c => { c with held := true }
    foldM lost (fun m r => jobStop m r.part r.core) m

/-- A cause of a restart: on a processor that runs it is a restart edge; during a restart it makes that restart begin again, with
nothing that a register shows (R395). -/
def restartCause (m : Module) (proc cause : Nat) : Module :=
  if procOut m proc && (m.proc proc).st == .running then startRestart m proc cause else m

/-- FW_CTRL_RESTART: PF0 writes FW_CTRL of the selected processor; refused while it is not RUNNING (Table 14.5). -/
def fwCtrlRestartFn (fn : Nat) (value : Word) (m : Module) : Module :=
  regWrite m fn blkFw 0x8 fun m =>
    let proc := (m.fn fn).sel.fw
    if !bit value.toNat 0 then m
    else if (m.proc proc).st ≠ .running then refuseFw m 0x8
    else startRestart m proc 2

/-- Execute FW_CTRL_RESTART. -/
def execFwCtrlRestart (fn : Nat) (value : Word) (s : State) : Host.Outcome State Fault Refusal :=
  guarded (fnOk fn) (fwCtrlRestartFn fn value) s

/-- FATAL_EXCEPTION. -/
def fatalExceptionFn (proc : Nat) (m : Module) : Module := restartCause m proc 1

/-- Execute FATAL_EXCEPTION. -/
def execFatalException (proc : Nat) (s : State) : Host.Outcome State Fault Refusal :=
  guarded (procOk proc) (fatalExceptionFn proc) s

/-- WATCHDOG_EXPIRY: no heartbeat for 1 ms. -/
def watchdogExpiryFn (proc : Nat) (m : Module) : Module :=
  if procOut m proc && (m.proc proc).st == .running then restartCause (reachNs m ((m.proc proc).beatNs + 1000000)) proc 0
  else m

/-- Execute WATCHDOG_EXPIRY. -/
def execWatchdogExpiry (proc : Nat) (s : State) : Host.Outcome State Fault Refusal :=
  guarded (procOk proc) (watchdogExpiryFn proc) s

/-- FW_HEARTBEAT: a running processor writes its heartbeat, and its watchdog starts anew. -/
def fwHeartbeatFn (proc : Nat) (m : Module) : Module :=
  if procOut m proc && (m.proc proc).st == .running then m.setProc proc fun y => { y with beatNs := m.tick.ns } else m

/-- Execute FW_HEARTBEAT. -/
def execFwHeartbeat (proc : Nat) (s : State) : Host.Outcome State Fault Refusal :=
  guarded (procOk proc) (fwHeartbeatFn proc) s

/-! ### Update activation (R405, R406) -/

/-- Processors in the order in which an activation restarts them. -/
def activationOrder : List Nat := range' 32 32 ++ [2, 0, 1]

/-- Every processor has returned on the staged slot: it becomes the active slot, and MIN_SVN rises to its SVN (R406, R429). -/
def completeActivation (m : Module) (a : Activation) : Module :=
  let svn := (m.flash.slots.get a.staged).svn
  let up := decide (m.flash.minSvn < svn)
  let m := { m with
    activation := none
    flash := { m.flash with active := a.staged, minSvn := max m.flash.minSvn svn, writes := m.flash.writes + b2n up } }
  respondDone (m.setSec fun s => { s with minSvn := max s.minSvn svn }) a.fn a.msg [35, 0xFF]

/-- An activation or its rollback goes on: the next processor restarts once the one before it has returned and it runs itself. A
processor that is DOWN holds up no rollback (R406). -/
def advanceActivation (m : Module) : Module :=
  match m.activation with
  | none => m
  | some a =>
    let gone (q : Nat) : Bool := a.rollback && (m.proc q).st == .down
    let busy := match a.current with
      | some c => absent m c && !gone c
      | none => false
    if busy then m
    else
      let a := { a with
        current := none, done := a.done ++ a.current.toList, todo := a.todo.filter fun q => !gone q }
      match a.todo with
      | [] =>
        if a.rollback then
          respondDone { m with activation := none } a.fn a.msg [0, BitVec.ofNat 8 (a.rolled.getD 0xFF)]
        else completeActivation m a
      | q :: qs =>
        if absent m q then { m with activation := some a }
        else
          let m := { m with activation := some { a with current := some q, todo := qs } }
          startRestart (latchImage m q (if a.rollback then m.flash.active else a.staged)) q 3

/-- The update of an activation fails on a processor: FW_ROLLBACK; it restarts on its image of the active slot, and so do, in reverse
order, the processors already restarted on the staged images (R406). -/
def rollBack (m : Module) (a : Activation) (proc : Nat) : Module :=
  let m := raise m 0x0604 noPart (dieOfProc proc) [proc, 3, m.flash.active]
  let m := { m with activation := some { a with
    rollback := true, rolled := some proc, todo := a.done.reverse, done := [], current := some proc } }
  startRestart (latchImage m proc m.flash.active) proc 3

/-! ### Missed bounds and absence limits (R398, R399) -/

/-- A partition has a task with a core that satisfies `f`: its step, running, pre-empted or awaiting replay. -/
def taskOn (m : Module) (p : Nat) (f : Nat → Bool) : Bool :=
  let rs := match (m.part p).step, (m.part p).replay with
    | some s, _ => s.runs
    | none, some r => r.runs
    | none, none => []
  (coresOfRuns m p rs).any f

/-- Partitions with a task on cores that satisfy `f`. -/
def tasksOn (m : Module) (f : Nat → Bool) : List Nat := m.parts.keys.filter fun p => taskOn m p f

/-- A processor is DOWN: FW_DOWN with cause 4; every job with a core in a control core's cluster stops, and its cores are fenced
(R399, R450, Table 17.4). -/
def goDown (m : Module) (proc : Nat) : Module :=
  let (v, m) := takeFree m
  let m := m.setProc proc fun y => { y with st := .down }
  let m := raise m 0x0603 noPart (dieOfProc proc) [proc, 4, v % 4294967296]
  let m := if proc < 32 then m
    else
      let k := proc - 32
      let m := foldM (tasksOn m fun c => clusterOf c = k) (fun m p => jobStop m p (80 * k)) m
      foldM (range' (80 * k) 80) (fun m c => fence m c 5) m
  advanceActivation m

/-- Restart bound of a processor, ns (Table 14.3). -/
def boundNs (proc : Nat) : Nat := if proc = 0 then 60000000 else if proc = 1 then 150000000 else if proc = 2 then 5000000 else 20000000

/-- Absence limit of a processor, ns (Table 14.3). -/
def limitNs (proc : Nat) : Nat := if proc = 1 then 1000000000 else 500000000

/-- RESTART_BOUND_MISSED: before READY the start stops (R492); a second failure on a new image rolls the update back (R406); a third
leaves the processor DOWN; otherwise it is restarted again with cause 4 (R399). -/
def restartBoundMissedFn (proc : Nat) (m : Module) : Module :=
  let y := m.proc proc
  if !procOut m proc || y.st == .running || y.st == .down then m
  else if !m.start.ready then stopStart m
  else
    let m := reachNs m (y.edgeNs + boundNs proc)
    let m := m.setProc proc fun y => { y with misses := y.misses + 1 }
    match m.activation with
    | some a =>
      if a.current = some proc && !a.rollback && y.misses + 1 = 2 then rollBack m a proc
      else if 3 ≤ y.misses + 1 then goDown m proc else startRestart m proc 4
    | none => if 3 ≤ y.misses + 1 then goDown m proc else startRestart m proc 4

/-- Execute RESTART_BOUND_MISSED. -/
def execRestartBoundMissed (proc : Nat) (s : State) : Host.Outcome State Fault Refusal :=
  guarded (procOk proc) (restartBoundMissedFn proc) s

/-- Items of the module whose status is FAIL_FW. -/
def failedFw (m : Module) : Nat :=
  (m.fns.cells.map fun f => (f.2.rings.cells.map fun r => (r.2.items.filter fun x => x.status == some .failFw).length).sum).sum

/-- Messages that wait for a processor are answered FAIL_FW (R330, R398). -/
def failMessages (m : Module) (proc : Nat) : Module :=
  foldM m.fns.keys (fun m f =>
    let ws := (m.fn f).mgmtWait
    let m := m.setFn f fun x => { x with mgmtWait := ws.filter fun w => !(msgNeeds w).contains proc }
    foldM (ws.filter fun w => (msgNeeds w).contains proc) (fun m w => respond m f w .failFw (fwDetail proc) []) m) m

/-- The tasks of a control core's cluster and its holding queue fail (Table 14.3). -/
def limitControl (m : Module) (k : Nat) : Module :=
  let ps := tasksOn m fun c => clusterOf c = k
  let m := foldM ps (fun m p => abortTask m p .failFw fun _ => 3) m
  let q := (m.clu k).holding
  let rs := m.ras.active.filter fun r => q.contains r.core && r.placed.isEmpty
  let m := m.setClu k fun c => { c with holding := [] }
  let m := foldM rs (fun m r => endRecovery (abortTask m r.part .failFw fun _ => 3) r.part) m
  resumeLoads m

/-- Every open run and every active request of a partition fails, with whatever step it has (Table 14.3, scheduler core). -/
def limitRuns (m : Module) (p : Nat) : Module :=
  let m := abortTask m p .failFw fun _ => 0
  let its := (m.part p).runs.map (·.item)
  let m := m.setPart p fun x => { x with runs := [], sealedSet := none, results := [] }
  let m := foldM its (fun m i => finishV m i .failFw 0) m
  foldM (reqsOf m p) (fun m q => failRequest m q.1 .failFw 0) m

/-- The safe operating point: the safe-budget term at once, the fall of the clock in the reserve or at once (R403, R407). -/
def limitPower (m : Module) : Module :=
  let m := setLimit (m.setPower fun w => { w with safe := true })
  let m := m.setTick fun t => { t with due := t.due.filter fun w => match w with
    | .setPoint _ => false
    | _ => true }
  if noBoundary m || m.tick.inReserve then changeClock m 0
  else m.setTick fun t => { t with due := t.due ++ [.safeFall] }

/-- ABSENCE_LIMIT: what Table 14.3 gives for the processor; what waits for it fails, and its messages are answered FAIL_FW. -/
def absenceLimitFn (proc : Nat) (m : Module) : Module :=
  let y := m.proc proc
  if !procOut m proc || y.st == .running || y.limitPassed then m
  else
    let n := failedFw m
    let m := reachNs m (y.edgeNs + limitNs proc)
    let m := m.setProc proc fun y => { y with limitPassed := true, st := if y.st = .down then .down else .absent }
    let m := if proc = 0 then foldM m.parts.keys limitRuns m
      else if proc = 1 then m
      else if proc = 2 then limitPower m
      else limitControl m (proc - 32)
    let failed := failedFw m - n
    let m := m.setProc proc fun y => { y with failedItems := satAdd y.failedItems failed }
    dispatchAll (failMessages m proc)

/-- Execute ABSENCE_LIMIT. -/
def execAbsenceLimit (proc : Nat) (s : State) : Host.Outcome State Fault Refusal :=
  guarded (procOk proc) (absenceLimitFn proc) s

/-! ### Firmware messages (R405, R406, R430) -/

/-- Messages that only PF0 may send are refused on a VF (R330, Table 14.6). -/
def pf0Message (fn : Nat) (msg : MgmtMsg) (act : Module → Module) (m : Module) : Module :=
  if fn ≠ 0 then respondRej m fn msg .rejState else act m

/-- First byte of the staging area in the window of BAR4, and its size (R328, R430). -/
def stagingBase : Nat := 0x181000
def stagingBytes : Nat := 520192

/-- Bytes of the staging area from a window offset. -/
def stagedBytes (m : Module) (off n : Nat) : List Byte :=
  (m.fn 0).staging.bytes (off - stagingBase) n

/-- Directory entry `i` of a bundle header: offset, size, digest (R430; log 60). -/
def dirEntry (b : List Byte) (i : Nat) : Nat × Nat × Nat :=
  (field b (0x10 + 72 * i) 4, field b (0x14 + 72 * i) 4, field b (0x18 + 72 * i) 64)

/-- Each image of a bundle lies between its header and its signature block and matches its directory digest (R428, stage 4). -/
def imagesOk (b : List Byte) : Bool :=
  (range' 0 4).all fun i =>
    let (off, size, digest) := dirEntry b i
    decide (512 ≤ off ∧ off + size ≤ b.length - sigBytes) && sha3 ((b.drop off).take size) == digest

/-- A bundle passes R427 and the image checks: its signature block closes it. -/
def bundleOk (b : List Byte) : Bool :=
  let blk := b.drop (b.length - sigBytes)
  decide (512 + sigBytes ≤ b.length) && field b 0 4 == 0x5A540C14 && vendorOk blk 1 (sha3 (b.take 512)) &&
    field blk 0x14 4 == field b 8 4 && sigObject blk == field b 4 4 && imagesOk b

/-- What the boot flash holds of a bundle. -/
def bundleOf (b : List Byte) : Bundle :=
  { valid := true, version := field b 4 4, svn := field b 8 4, protoMin := field b 0xC 2, protoMax := field b 0xE 2
    digests := (range' 0 4).map fun i => (dirEntry b i).2.2 }

/-- The security core serves FW_STAGE. -/
def stageServe (fn : Nat) (msg : MgmtMsg) : Module → Module := pf0Message fn msg fun m =>
  let off := bodyField msg 0 8
  let n := bodyField msg 8 4
  if m.activation.isSome then respondRej m fn msg .rejState
  else if off < stagingBase ∨ stagingBase + stagingBytes ≤ off then respondBad m fn msg 0
  else if stagingBase + stagingBytes < off + n then respondBad m fn msg 8
  else
    let b := stagedBytes m off n
    let g := bundleOf b
    if !bundleOk b then respondRej m fn msg .rejSignature
    else if g.svn < m.flash.minSvn then respondRej m fn msg .rejState
    else if Config.protoRunning < g.protoMin ∨ g.protoMax < Config.protoRunning then respondRej m fn msg .rejState
    else
      let m := { m with flash := { m.flash with slots := m.flash.slots.put (1 - m.flash.active) g } }
      respondDone (m.setSec fun s => { s with stagedVersion := g.version }) fn msg (leBytes g.version 4)

/-- FW_STAGE: MCODE 0x0100. -/
def fwStageFn (fn : Nat) (msg : MgmtMsg) (m : Module) : Module := mgmtRow fn msg 0x0100 1 (stageServe fn msg) m

/-- Execute FW_STAGE. -/
def execFwStage (fn : Nat) (msg : MgmtMsg) (s : State) : Host.Outcome State Fault Refusal :=
  guarded (fnOk fn && msg.ok) (fwStageFn fn msg) s

/-- The security core serves FW_ACTIVATE: the answer follows when the activation ends. -/
def activateServe (fn : Nat) (msg : MgmtMsg) : Module → Module := pf0Message fn msg fun m =>
  let slot := 1 - m.flash.active
  let g := m.flash.slots.get slot
  if m.activation.isSome || !g.valid || decide (g.svn < m.flash.minSvn) then respondRej m fn msg .rejState
  else advanceActivation { m with activation := some { todo := activationOrder, staged := slot, fn := fn, msg := msg } }

/-- FW_ACTIVATE: MCODE 0x0101. -/
def fwActivateFn (fn : Nat) (msg : MgmtMsg) (m : Module) : Module := mgmtRow fn msg 0x0101 1 (activateServe fn msg) m

/-- Execute FW_ACTIVATE. -/
def execFwActivate (fn : Nat) (msg : MgmtMsg) (s : State) : Host.Outcome State Fault Refusal :=
  guarded (fnOk fn && msg.ok) (fwActivateFn fn msg) s

/-- The security core serves FW_SLOTS. -/
def slotsServe (fn : Nat) (msg : MgmtMsg) : Module → Module := pf0Message fn msg fun m =>
  respondDone m fn msg (leBytes (m.flash.slots.get 0).version 4 ++ leBytes (m.flash.slots.get 1).version 4 ++
    [BitVec.ofNat 8 m.flash.active])

/-- FW_SLOTS: MCODE 0x0102. -/
def fwSlotsFn (fn : Nat) (msg : MgmtMsg) (m : Module) : Module := mgmtRow fn msg 0x0102 1 (slotsServe fn msg) m

/-- Execute FW_SLOTS. -/
def execFwSlots (fn : Nat) (msg : MgmtMsg) (s : State) : Host.Outcome State Fault Refusal :=
  guarded (fnOk fn && msg.ok) (fwSlotsFn fn msg) s

end Sys2Proof.Machine
end

