-- ==== Sys2Proof/Machine/Frames.lean ====
section
/-! DEFINITION. A frame arrives on a link: acknowledgement, replay, forwarding, delivery to its job
(13_fabric R358, R360, R361, R375, R376, R379, R384). -/

namespace Sys2Proof.Machine

/-! ### A frame arrives -/

/-- Frames of a replay buffer after an acknowledgement: those up to the acknowledged one leave. -/
def ackBuf (buf : List Frame) (ack : Nat) : List Frame :=
  match buf.findIdx? fun f => f.seq == ack with
  | some i => buf.drop (i + 1)
  | none => buf

/-- The acknowledgement of a frame is taken: the replay buffer shrinks, the replay count starts anew, and frames that
wait go out. -/
def takeAck (m : Module) (link ack : Nat) : Module :=
  let m := m.setLink link fun k =>
    let b := ackBuf k.replayBuf ack
    { k with replayBuf := b, replays := if b.length < k.replayBuf.length then 0 else k.replays }
  drainFrames link replayDepth m

/-- Every unacknowledged frame is sent again, in order; the eighth replay without acknowledgement takes the link DOWN (R360,
R361). -/
def replayFrames (m : Module) (link : Nat) : Module :=
  let buf := (m.link link).replayBuf
  if buf.isEmpty then m
  else if 8 ≤ (m.link link).replays then loseLink m link 1
  else
    let m := foldM buf (fun m f => emitNet m (.frame link f)) m
    m.setLink link fun k => { k with replay := satAdd k.replay buf.length, replays := k.replays + 1 }

/-- A frame for no open job is discarded and counted; the count is that of the lowest partition with the JOB_ID, a free
partition's where none has it (R375). -/
def discardFrame (m : Module) (job : Nat) : Module :=
  let count (m : Module) (p : Nat) := m.setFab p fun f => { f with discard := satAdd f.discard 1 }
  match m.fabParts.keys.find? fun p => (m.fab p).job == job with
  | some p => count m p
  | none =>
    let (v, m) := takeFree m
    count m (v % 64)

/-- Data for this module: to its job's transfer, or discarded. Paired transfers that disagree abort the task (R375, R379). -/
def takeData (m : Module) (link job gen chan place : Nat) (shape : List Nat) (src off : Nat) (bs : List Byte)
    (last : Bool) : Module :=
  match jobParts m job gen with
  | [] => discardFrame m job
  | p :: _ =>
    if chan = 255 then takeForward m p (shape.getD 0 0) place src off bs
    else if (m.fab p).halted = true ∨ (m.part p).replay.isSome = true then m
    else match (chanOrder m p chan)[place]?.bind fun x => (descOf m p x.1 x.2).map fun d => (x.1, x.2, d) with
    | some (prog, idx, d) =>
      if d.shape = shape then
        let m := if d.op < 2 ∧ off = 0 ∧ last = true ∧ bs.length = 64 then
            m.setFab p fun f => { f with emptyRx := satAdd f.emptyRx 1 }
          else m
        noteFrame (landFrame m p prog idx d src off bs last) p prog idx link
      else mismatch m p
    | none => mismatch m p
where
  /-- FAB_MISMATCH, and the abort of the task. -/
  mismatch (m : Module) (p : Nat) : Module :=
    let (v, m) := takeFree m
    faultTask (raise m evFabMismatch p dieF [link, v]) p .failFault fun f => evsnOf m f

/-- A frame of a transfer that passes through this module moves on its links too (R383). -/
def noteTransit (m : Module) (job gen chan place link : Nat) (next : Option Nat) : Module :=
  match jobParts m job gen with
  | [] => m
  | p :: _ => match (chanOrder m p chan)[place]? with
    | none => m
    | some (prog, idx) =>
      let m := noteFrame m p prog idx link
      match next with
      | some l => noteFrame m p prog idx l
      | none => m

/-- FRAME_RECEIVE. -/
def frameReceiveFn (link : Nat) (frame : Frame) (good : Bool) (m : Module) : Module :=
  let k := m.link link
  if k.st ≠ .up then m
  else if !good then m.setLink link fun k => { k with fecUncorr := satAdd k.fecUncorr 1 }
  else
    let m := takeAck m link frame.ack
    match frame.body with
    | .idle => replayFrames m link
    | .sync => m
    | .hedge origin oseq cls payload =>
      if frame.seq ≠ k.rxSeq then m
      else
        let m := m.setLink link fun k => { k with rxSeq := (k.rxSeq + 1) % 4096 }
        takeHedge m link origin oseq cls payload (actOnPayload link cls payload)
    | .data job gen chan dest lane place shape src off bs last =>
      if frame.seq ≠ k.rxSeq then m
      else
        let m := m.setLink link fun k => { k with rxSeq := (k.rxSeq + 1) % 4096 }
        if dest = ownCoord m then takeData m link job gen chan place shape src off bs last
        else
          let ax := match m.fabric.slice with
            | some s => (linkDir s.mode3 link).1
            | none => 0
          let m := noteTransit m job gen chan place link ((frameLink m (some (ax, lane)) dest chan).map (·.1))
          routeFrame m (some (ax, lane)) dest chan fun l => .data job gen chan dest l place shape src off bs last

/-- Execute FRAME_RECEIVE. -/
def execFrameReceive (link : Nat) (frame : Frame) (good : Bool) (s : State) : Host.Outcome State Fault Refusal :=
  guarded (linkOk link) (frameReceiveFn link frame good) s

end Sys2Proof.Machine
end

