-- ==== Sys2Proof/Machine/Functions.lean ====
section
/-! DEFINITION. Functions and rings: enabling and disabling a ring, binding a function, a function reset
(11_host_interface R291 to R295, R319, R325, R327). -/

namespace Sys2Proof.Machine

/-! ### Enabling rings (R295, R327) -/

/-- log2 of a ring size that the table allows: 64 to 65,536 entries (R294). -/
def log2Ok (n : Nat) : Bool := decide (6 ≤ n) && decide (n ≤ 16)

/-- Pending aborts on a submission ring that is disabled complete REJ_STATE (R319). -/
def dropPending (m : Module) (fn ring : Nat) : Module :=
  let gone := (m.fn fn).pendAborts.filter fun a => a.2.2.1 = ring
  let m := m.setFn fn fun f => { f with pendAborts := f.pendAborts.filter fun a => a.2.2.1 ≠ ring }
  foldM gone (fun m a => finishV m ⟨fn, a.1, a.2.1⟩ .rejState 0) m

/-- A submission ring becomes enabled: F is RING_SQ_NEXT - 1, a stop ends, and on the first enabling of an epoch RING_SQ_NEXT is the
epoch start. -/
def Ringp.sqEnabled (r : Ringp) (log2 : Nat) : Ringp :=
  { r with
    sqEn := true, sqLog2 := log2, sqDb := r.sqNext - 1, stopped := false
    epochStart := some (r.epochStart.getD r.sqNext)
    lastRetired := if r.epochStart.isNone then r.sqNext - 1 else r.lastRetired }

/-- RING_SQ_CFG_WRITE: EN and LOG2 of the selected submission ring (R295, Table 11.11). -/
def ringSqCfgWriteFn (fn : Nat) (value : Word) (m : Module) : Module :=
  regWrite m fn blkRing 0x4 fun m =>
    let ring := (m.fn fn).sel.ring
    let r := m.ring fn ring
    let log2 := bits value.toNat 0 5
    let en := bit value.toNat 8
    if !log2Ok log2 || (r.sqEn && log2 != r.sqLog2) then refuseRing m fn ring 0x4
    else if en && !r.sqEn then m.setRing fn ring fun r => r.sqEnabled log2
    else
      let m' := m.setRing fn ring fun r => { r with sqEn := en, sqLog2 := log2 }
      if r.sqEn && !en then dropPending m' fn ring else m'

/-- Execute RING_SQ_CFG_WRITE. -/
def execRingSqCfgWrite (fn : Nat) (value : Word) (s : State) : Host.Outcome State Fault Refusal :=
  guarded (fnOk fn) (ringSqCfgWriteFn fn value) s

/-- RING_CQ_CFG_WRITE: INT_EN, EN and LOG2 of the selected completion ring; EN is not cleared while items are in flight (R295). -/
def ringCqCfgWriteFn (fn : Nat) (value : Word) (m : Module) : Module :=
  regWrite m fn blkRing 0x8 fun m =>
    let ring := (m.fn fn).sel.ring
    let r := m.ring fn ring
    let log2 := bits value.toNat 0 5
    let en := bit value.toNat 8
    if !log2Ok log2 || (r.cqEn && log2 != r.cqLog2) || (r.cqEn && !en && inFlight r != 0) then refuseRing m fn ring 0x8
    else m.setRing fn ring fun r =>
      { r with cqEn := en, cqLog2 := log2, intEn := bit value.toNat 9
               cqDb := if en && !r.cqEn then r.cqNext - 1 else r.cqDb }

/-- Execute RING_CQ_CFG_WRITE. -/
def execRingCqCfgWrite (fn : Nat) (value : Word) (s : State) : Host.Outcome State Fault Refusal :=
  guarded (fnOk fn) (ringCqCfgWriteFn fn value) s

/-! ### Function reset (R325) -/

/-- Slots whose request a function admitted. -/
def slotsOf (m : Module) (fn : Nat) : List Nat :=
  m.slots.cells.filterMap fun c => match c.2 with
    | some q => if q.fn = fn && !q.orphan then some c.1 else none
    | none => none

/-- The requests of a function end without a record: at once, or once no step holds them. -/
def orphanSlots (m : Module) (fn : Nat) : Module :=
  foldM (slotsOf m fn) (fun m slot =>
    let m := setReq m slot fun q => { q with orphan := true }
    match m.slots.get slot with
    | some q => if q.inStep.isSome then m else releaseAborted m slot
    | none => m) m

/-- An item ends without a completion: the work of a running one stops as for a winning ABORT, where Table 11.8 stops it. -/
def endItem (m : Module) (i : ItemRef) : Module :=
  match findItem m i, itemPart m i with
  | some x, some p =>
    if x.terminal then m
    else if x.st != .running then setItem m i fun y => { y with st := .decided, status := some .aborted }
    else if unstoppable m p i x then m
    else stopWork (setItem m i fun y => { y with st := .decided, status := some .aborted }) i x p
  | some _, none => setItem m i fun y => { y with st := .decided, status := some .aborted }
  | none, _ => m

/-- Items of a function. -/
def itemsOf (m : Module) (fn : Nat) : List ItemRef :=
  (m.fn fn).rings.cells.flatMap fun r => r.2.items.map (·.ref)

/-- Steps 1 to 4 of a function reset; with the host link down no final ledger is written (R325, R494). -/
def beginReset (m : Module) (fn : Nat) (ledgers : Bool) : Module :=
  if (m.fn fn).resetting then m
  else
    let m := if ledgers then foldM (enabledRings m fn) (fun m r => writeLedger m fn r true) m else m
    let m := m.setFn fn fun f => { f with resetting := true, pendAborts := [] }
    let m := foldM (itemsOf m fn) endItem (orphanSlots m fn)
    m.setFn fn fun f => { f with rings := f.rings.mapV fun _ r => { r with waiting := [] } }

/-- The place of an item whose function has been reset: no function bears the number. -/
def goneItem : ItemRef := ⟨64, 0, 0⟩

/-- What holds an item of a function holds none any more. -/
def forgetItems (m : Module) (fn : Nat) : Module :=
  let old (i : ItemRef) : ItemRef := if i.fn = fn then goneItem else i
  let m := foldM m.parts.keys (fun m p => m.setPart p fun x =>
    { x with
      swaths := x.swaths.map fun w => { w with loader := w.loader.filter fun i => i.fn ≠ fn }
      runs := x.runs.map fun r => { r with item := old r.item }
      pages := x.pages.mapV fun _ g => { g with mig := g.mig.map fun y => { y with item := y.item.map old } } }) m
  let m := m.setRas fun r => { r with testing := r.testing.mapV fun _ o => o.filter fun i => i.fn ≠ fn }
  foldM m.fns.keys (fun m f => m.setFn f fun x =>
    { x with rings := x.rings.mapV fun _ r =>
        { r with waiting := r.waiting.map fun w => { w with after := w.after.filter fun i => i.fn ≠ fn } } }) m

/-- The registers and the window of a function after its reset (R325 step 5, Table 18.4). -/
def Fn.afterReset (f : Fn) : Fn :=
  { bound := f.bound, part := f.part, fnBadWrite := f.fnBadWrite, d3 := f.d3, relaxed := f.relaxed, aerAbort := f.aerAbort
    resets := (f.resets + 1) % 4294967296 }

/-- FN_RESET_COMPLETE: once work that runs to its end has ended, the epoch increases and the rings and the window return to their
reset state. -/
def fnResetCompleteFn (fn : Nat) (m : Module) : Module :=
  let busy := (itemsOf m fn).any fun i => match findItem m i with
    | some x => x.st == .running
    | none => false
  if !(m.fn fn).resetting || busy then m else (forgetItems m fn).setFn fn Fn.afterReset

/-- Execute FN_RESET_COMPLETE. -/
def execFnResetComplete (fn : Nat) (s : State) : Host.Outcome State Fault Refusal :=
  guarded (fnOk fn) (fnResetCompleteFn fn) s

/-- FUNCTION_LEVEL_RESET: on PF0 and on every enabled VF, in D0 or D3hot. -/
def functionLevelResetFn (fn : Nat) (m : Module) : Module :=
  if !m.start.linkUp || m.start.perst || decide (m.start.numVfs < fn) then m else beginReset m fn true

/-- Execute FUNCTION_LEVEL_RESET. -/
def execFunctionLevelReset (fn : Nat) (s : State) : Host.Outcome State Fault Refusal :=
  guarded (fnOk fn) (functionLevelResetFn fn) s

/-! ### Binding a function (R292, Table 11.15) -/

/-- A write of PF0 to HIF_FN_PART: W1C of BAD_WRITE, RESET of a VF, the binding. -/
def fnPartWrite (value : Word) (m : Module) : Module :=
  regWrite m 0 blkHif 0x24 fun m =>
    let f := (m.fn 0).sel.fn
    let v := value.toNat
    let x := m.fn f
    let moved := bit v 8 != x.bound || bits v 0 6 != x.part
    if m.start.numVfs < f ∨ (moved ∧ enabledRings m f ≠ []) then refuseFn m f 0x24
    else
      let m := m.setFn f fun x =>
        { x with bound := bit v 8, part := bits v 0 6, fnBadWrite := x.fnBadWrite && !bit v 10 }
      if bit v 9 && f != 0 then beginReset m f true else m

/-- HIF_FN_PART_BIND: a write that binds or unbinds the selected function. -/
def hifFnPartBindFn (value : Word) (m : Module) : Module := fnPartWrite value m

/-- Execute HIF_FN_PART_BIND. -/
def execHifFnPartBind (value : Word) (s : State) : Host.Outcome State Fault Refusal :=
  guarded true (hifFnPartBindFn value) s

/-- HIF_FN_PART_RESET: a write with RESET 1 starts the reset of the selected VF. -/
def hifFnPartResetFn (value : Word) (m : Module) : Module := if bit value.toNat 9 then fnPartWrite value m else m

/-- Execute HIF_FN_PART_RESET. -/
def execHifFnPartReset (value : Word) (s : State) : Host.Outcome State Fault Refusal :=
  guarded true (hifFnPartResetFn value) s

end Sys2Proof.Machine
end

