-- ==== Sys2Proof/Machine/Manage.lean ====
section
/-! DEFINITION. Messages of the scheduler core: open runs, owners of core groups, fabric programs (12_partitions R335, R341, Table 12.11,
13_fabric R378, 16_security R437). -/

namespace Sys2Proof.Machine

/-! ### Runs and core groups (Table 12.11) -/

/-- State of an open run: 0 ready, 1 running, 2 pre-empted. -/
def runState (m : Module) (p num : Nat) : Nat :=
  match (m.part p).step with
  | some s => if s.runs.any fun r => r.run == num && !r.finished then (if s.preempted then 2 else 1) else 0
  | none => 0

/-- One run of a RUN_LIST response: its fields at their natural alignment, 24 bytes (log 61). -/
def runEntry (m : Module) (p : Nat) (r : Run) : List Byte :=
  leBytes r.num 1 ++ leBytes (runState m p r.num) 1 ++ List.replicate 6 0 ++ leBytes r.model 8 ++ leBytes r.engineCc 8

/-- The scheduler core serves RUN_LIST: at most 9 runs from a start index; a VF asks for its own partition. -/
def runListServe (fn : Nat) (msg : MgmtMsg) (m : Module) : Module :=
  let p := bodyField msg 0 1
  if 64 ≤ p then respondBad m fn msg 0
  else if fn ≠ 0 ∧ ownPart m fn ≠ some p then respondRej m fn msg .rejState
  else
    let rs := (((m.part p).runs).drop (bodyField msg 2 2)).take 9
    respondDone m fn msg (leBytes rs.length 2 ++ List.replicate 6 0 ++ rs.flatMap (runEntry m p))

/-- RUN_LIST: MCODE 0x0200. -/
def runListFn (fn : Nat) (msg : MgmtMsg) (m : Module) : Module := mgmtRow fn msg 0x0200 0 (runListServe fn msg) m

/-- Execute RUN_LIST. -/
def execRunList (fn : Nat) (msg : MgmtMsg) (s : State) : Host.Outcome State Fault Refusal :=
  guarded (fnOk fn && msg.ok) (runListFn fn msg) s

/-- Owner of a core group: its partition, 0xFE for pooled, 0xFF for free. -/
def ownerOf (m : Module) (g : Nat) : Nat :=
  if m.pool.getLsbD g then 0xFE
  else (m.parts.keys.find? fun p => (m.part p).regs.owned.getLsbD g).getD 0xFF

/-- The scheduler core serves CG_OWNER. -/
def cgOwnerServe (fn : Nat) (msg : MgmtMsg) (m : Module) : Module :=
  respondDone m fn msg ((range' 0 160).map fun g => BitVec.ofNat 8 (ownerOf m g))

/-- CG_OWNER: MCODE 0x0201. -/
def cgOwnerFn (fn : Nat) (msg : MgmtMsg) (m : Module) : Module := mgmtRow fn msg 0x0201 0 (cgOwnerServe fn msg) m

/-- Execute CG_OWNER. -/
def execCgOwner (fn : Nat) (msg : MgmtMsg) (s : State) : Host.Outcome State Fault Refusal :=
  guarded (fnOk fn && msg.ok) (cgOwnerFn fn msg) s

/-! ### Fabric programs (R217, R378, R437) -/

/-- A descriptor of a fabric program keeps the ranges of Table 13.7 for a job of `n` ranks. -/
def xfDescOk (b : Mem) (n e : Nat) : Bool :=
  let a := 128 + 64 * e
  let d := xfDesc b e
  let slots := decide (d.op ≤ 1)
  decide (d.op ≤ 4) && d.chan != 255 && decide (b.rd (a + 2) 1 ≤ 1) && (!d.outRound || d.op == 3 || d.op == 4) &&
    decide (b.rd (a + 3) 1 ≤ 2) && (if d.op = 1 then decide (1 ≤ d.shift ∧ d.shift < n) else d.shift == 0) &&
    decide (b.rd (a + 12) 4 < 2 ^ 28) && d.send % 64 == 0 && d.recv % 64 == 0 &&
    (!slots || (d.slot % 64 == 0 && decide (128 ≤ d.slot))) && (d.op != 3 && d.op != 4 || d.len % (64 * n) == 0) &&
    b.rd (a + 0x30) 16 == 0

/-- Pages of the receive regions of a program. -/
def recvPages (b : Mem) (n : Nat) : List Nat :=
  ((range' 0 (b.rd 0x10 4)).flatMap fun e => pagesOf (xfDesc b e).recv (recvBytes (xfDesc b e) n)).eraseDups

/-- Header of a fabric program (log 62). -/
def programHeaderOk (b : Mem) (id bytes : Nat) : Bool :=
  b.rd 0 4 == 0x5A540C0D && b.rd 4 2 == 1 && b.rd 6 2 == 0 && b.rd 8 8 == id && decide (b.rd 0x10 4 ≤ 4096) &&
    b.rd 0x14 44 == 0 && bytes == 128 + 64 * b.rd 0x10 4

/-- The 256 bytes of a serving record (Table 10.2). -/
def Serving.bytes (v : Serving) : List Byte :=
  leBytes 0x5A540C0A 4 ++ leBytes 1 2 ++ leBytes (b2n v.draft) 1 ++ leBytes v.draftMax 1 ++ leBytes v.modelId 8 ++
    leBytes v.tokensMax 4 ++ leBytes v.reqMax 4 ++ leBytes v.vocab 4 ++ leBytes v.maxContext 4 ++ leBytes v.pageBytes 4 ++
    leBytes v.cachePages 4 ++ leBytes v.cacheBase 8 ++ leBytes v.draftModel 8 ++ leBytes v.stepTable 8 ++
    leBytes v.resultTable 8 ++ leBytes v.tableBytes 4 ++ ((range' 0 4).flatMap fun i => leBytes (v.eos.getD i 0) 4) ++
    List.replicate 164 0

/-- A signature block covers a swath together with its program's header (R437). -/
def programSigned (m : Module) (p : Nat) (w : Swath) (blk header : List Byte) : Bool :=
  let srv := match w.serving with
    | some v => v.bytes
    | none => List.replicate 256 0
  match w.att with
  | some a => sigObject blk == w.id && (publisherOk m p blk 3 a.digest0 w.digest1 (sha3 (srv ++ header))).isSome
  | none => false

/-- Load a checked program: its receive regions are backed and held (R217), and its reads are noted. -/
def takeProgram (m : Module) (fn : Nat) (msg : MgmtMsg) (p : Nat) (w : Swath) (b : Mem) : Module :=
  let old := (m.part p).fabProgs.filter fun g => g.swath == w.id
  let pages := recvPages b (m.fab p).nranks
  match backList m p (firstTierOf m p) pages with
  | (m2, none) => respondRej m2 fn msg .rejQuota
  | (m2, some _) =>
    let m2 := foldM old (fun m g => unholdPages m p g.held) (holdPages m2 p pages)
    let m2 := noteRead (noteRead m2 p (bodyField msg 8 8) (bodyField msg 0x10 4)) p (bodyField msg 0x18 8) sigBytes
    let g : FabProg := { swath := w.id, bytes := b, held := pages }
    respondDone (m2.setPart p fun x => { x with fabProgs := (x.fabProgs.filter fun y => y.swath ≠ w.id) ++ [g] }) fn msg []

/-- FAB_LOAD is served by the scheduler core, the signature by the security core: a program for a loaded swath of the function's
partition. -/
def fabLoadServe (fn : Nat) (msg : MgmtMsg) (m : Module) : Module :=
  let id := bodyField msg 0 8
  let addr := bodyField msg 8 8
  let n := bodyField msg 0x10 4
  let sig := bodyField msg 0x18 8
  match ownPart m fn with
  | none => respondRej m fn msg .rejState
  | some p =>
    match (swathOf m p id).filter (·.ready) with
    | none => respondRej m fn msg .rejState
    | some w =>
      let b := (m.part p).range.slice addr n
      let nranks := (m.fab p).nranks
      let es := range' 0 (b.rd 0x10 4)
      if rangeEnd m p < addr + n then respondBad m fn msg 8
      else if rangeEnd m p < sig + sigBytes then respondBad m fn msg 0x18
      else if !programHeaderOk b id n then respondBad m fn msg 8
      else if !programSigned m p w (devRead m p sig sigBytes) (b.bytes 0 128) then
        respondRej (countSigFail m p) fn msg .rejSignature
      else if sha3 (b.bytes 128 (64 * es.length)) != b.rd 0x40 64 then respondRej (countHashFail m p) fn msg .rejSignature
      else if !es.all fun e => xfDescOk b nranks e &&
          decide ((xfDesc b e).recv + recvBytes (xfDesc b e) nranks ≤ rangeEnd m p) then respondBad m fn msg 8
      else takeProgram m fn msg p w b

/-- FAB_LOAD waits for both processors (R330, R404). -/
def fabLoadBoth (fn : Nat) (msg : MgmtMsg) (m : Module) : Module := toProc m fn msg 1 (fabLoadServe fn msg)

/-- FAB_LOAD: MCODE 0x0210. -/
def fabLoadFn (fn : Nat) (msg : MgmtMsg) (m : Module) : Module := mgmtRow fn msg 0x0210 0 (fabLoadBoth fn msg) m

/-- Execute FAB_LOAD. -/
def execFabLoad (fn : Nat) (msg : MgmtMsg) (s : State) : Host.Outcome State Fault Refusal :=
  guarded (fnOk fn && msg.ok) (fabLoadFn fn msg) s

end Sys2Proof.Machine
end

