-- ==== Sys2Proof/Machine/PartCfg.lean ====
section
/-! DEFINITION. Partitions: creating and removing them, POOL and the context area, core-group maps, drain and undrain, partition
reset (12_partitions R333 to R338, R348, R352 to R356). -/

namespace Sys2Proof.Machine

/-! ### Core groups and quotas (R335 to R337) -/

/-- Core groups that are pooled. -/
def pooledGroups (m : Module) : List Nat := (range' 0 160).filter fun g => m.pool.getLsbD g

/-- A core group may not change state: a core of it holds a plane that is not EMPTY, or saved state of a logical core placed on it
(R336). -/
def groupHeld (m : Module) (g : Nat) : Bool :=
  ((coresOfGroup g).any fun c => (m.core c).planes.cells.any fun pl => pl.2.st != .empty) ||
  m.parts.cells.any fun q => q.2.saved.any fun s => q.2.swaths.any fun w =>
    w.id == s.swath && (match w.cores[s.logical]? with
      | some c => groupOf c == g
      | none => false)

/-- A partition may use a cluster: it owns a core group there, or has POOL and a pooled group lies there (R337). -/
def usesCluster (m : Module) (p k : Nat) : Bool :=
  (range' (5 * k) 5).any fun g => (m.part p).regs.owned.getLsbD g || ((m.part p).regs.pool && m.pool.getLsbD g)

/-- In each cluster the quotas of the partitions that may use it sum to at most 384 units (R337). -/
def csQuotasOk (m : Module) : Bool :=
  (range' 0 32).all fun k =>
    decide (((m.parts.keys.filter fun p => usesCluster m p k).map fun p => (m.part p).regs.csQuota).sum ≤ 384)

/-- Pages of a partition's context area: 11 for each pooled core group (R348). -/
def ctxNeed (m : Module) : Nat := 11 * (pooledGroups m).length

/-- Give a partition a context area of `n` pages in Sward: the module, and whether they could be backed (R348). -/
def setCtx (m : Module) (p n : Nat) : Module × Bool :=
  let have_ := (m.part p).ctxPages
  let size (m : Module) := m.setPart p fun x => { x with ctxPages := n }
  if n ≤ have_ then (size (subUsed m p 0 (have_ - n)), true)
  else match chargePages m p (n - have_) with
    | (m, true) => (size m, true)
    | (m, false) => (m, false)

/-- Give each partition that has POOL the context area that the pool map asks for, or none of them another than it has. -/
def resizeCtx (m : Module) : List Nat → Module × Bool
  | [] => (m, true)
  | p :: ps =>
    if (m.part p).regs.pool && (m.part p).regs.en then
      match setCtx m p (ctxNeed m) with
      | (m1, false) => (m1, false)
      | (m1, true) => match resizeCtx m1 ps with
        | (m2, true) => (m2, true)
        | (m2, false) => ((setCtx m2 p (m.part p).ctxPages).1, false)
    else resizeCtx m ps

/-- Replace a partition's owned map, where R335 to R337 allow it. -/
def setOwned (m : Module) (p : Nat) (new : BitVec 160) : Module × Bool :=
  let old := (m.part p).regs.owned
  let changed := (range' 0 160).filter fun g => new.getLsbD g != old.getLsbD g
  let taken := (range' 0 160).any fun g => new.getLsbD g &&
    (m.pool.getLsbD g || m.parts.keys.any fun q => q != p && (m.part q).regs.owned.getLsbD g)
  let m' := m.setRegs p fun r => { r with owned := new }
  if taken || changed.any (groupHeld m) || !csQuotasOk m' then (m, false) else (refreshDomains m', true)

/-- Replace the pool map, where R335 to R337 and R348 allow it; evictions that a refused write made stand (R215). -/
def setPool (m : Module) (new : BitVec 160) : Module × Bool :=
  let changed := (range' 0 160).filter fun g => new.getLsbD g != m.pool.getLsbD g
  let taken := (range' 0 160).any fun g => new.getLsbD g && m.parts.keys.any fun q => (m.part q).regs.owned.getLsbD g
  let m' := { m with pool := new }
  if taken || changed.any (groupHeld m) || !csQuotasOk m' then (m, false)
  else match resizeCtx m' m'.parts.keys with
    | (m2, true) => (refreshDomains m2, true)
    | (m2, false) => ({ m2 with pool := m.pool }, false)

/-! ### Partition reset (R355, R356) -/

/-- Functions bound to a partition. -/
def boundTo (m : Module) (p : Nat) : List Nat :=
  m.fns.keys.filter fun f => (m.fn f).bound && (m.fn f).part == p

/-- Counters, status and wide values of a partition's PART registers return to their reset values; its configuration is kept
(Table 18.4). -/
def PartRegs.afterReset (r : PartRegs) : PartRegs :=
  { en := r.en, pool := r.pool, drain := r.drain, busy := r.busy, share := r.share, minRun := r.minRun, csQuota := r.csQuota
    owned := r.owned, rate := r.rate, burst := r.burst, level := r.level, rt := r.rt, autoPause := r.autoPause
    waitLimit := r.waitLimit, srvQuota := r.srvQuota }

/-- The same of the MEM registers: nothing is backed or reserved but the context area. -/
def MemRegs.afterReset (r : MemRegs) (ctx : Nat) : MemRegs :=
  { firstTier := r.firstTier, pool := r.pool, rangePages := r.rangePages, quota := r.quota, floor := r.floor
    used := ({} : SMap Nat 0).put 0 ctx }

/-- The same of the LARK registers. -/
def LarkRegs.afterReset (r : LarkRegs) : LarkRegs :=
  { en := r.en, wrap := r.wrap, interval := r.interval, ringPages := r.ringPages, base := r.base, stallLimit := r.stallLimit }

/-- The same of the FAB partition registers; EN and FWD return to 0. -/
def FabPart.afterReset (f : FabPart) : FabPart :=
  { job := f.job, gen := f.gen, nranks := f.nranks, rank := f.rank, mapAddr := f.mapAddr }

/-- What a partition keeps over its reset: its registers as above and its context area. -/
def Part.afterReset (x : Part) : Part :=
  { regs := x.regs.afterReset, mem := x.mem.afterReset x.ctxPages, lark := x.lark.afterReset, ctxPages := x.ctxPages }

/-- Start the reset of a partition: its functions are reset, its task is aborted at the next cc, everything it holds is freed. -/
def beginPartReset (m : Module) (p : Nat) : Module :=
  let m := m.setRegs p fun r => { r with busy := true }
  let m := foldM (boundTo m p) (fun m f => beginReset m f true) m
  let m := clearStep m p
  let m := m.setPart p fun x => { x with replay := none, runs := [], sealedSet := none, results := [], swaps := [] }
  let m := foldM (reqsOf m p) (fun m q => { m with slots := m.slots.put q.1 none }) m
  let m := foldM (m.part p).swaths (fun m w => dropSwath m p w) m
  let m := m.setRas fun r =>
    { r with active := r.active.filter fun x => x.part ≠ p, queues := r.queues.put p [], replayCnt := r.replayCnt.put p 0 }
  let m := m.setFab p FabPart.afterReset
  let m := foldM (m.cores.keys.filter fun c => (m.core c).lastPart == some p) (fun m c =>
    clearMarks (m.setCore c Core.wiped) c) m
  let m := { m with clusters := m.clusters.mapV fun _ k =>
    { k with cs := k.cs.filter fun c => c.1 / 33554432 ≠ p } }
  let m := m.setRas fun r => { r with poisonCs := ⟨r.poisonCs.cells.filter fun c => c.1 % 33554432 / 524288 ≠ p⟩ }
  m.setPart p Part.afterReset

/-- PART_RESET_COMPLETE: once the bound functions are reset, BUSY clears; a partition that is being removed gives up its core
groups and its context area. -/
def partResetCompleteFn (part : Nat) (m : Module) : Module :=
  if !(m.part part).regs.busy || ((boundTo m part).any fun f => (m.fn f).resetting) then m
  else
    let m := m.setRegs part fun r => { r with busy := false }
    if (m.part part).regs.en then m
    else
      let m := m.setRegs part fun r => { r with owned := 0 }
      let m := subUsed m part 0 (m.part part).ctxPages
      refreshDomains (m.setPart part fun x => { x with ctxPages := 0 })

/-- Execute PART_RESET_COMPLETE. -/
def execPartResetComplete (part : Nat) (s : State) : Host.Outcome State Fault Refusal :=
  guarded (partOk part) (partResetCompleteFn part) s

/-! ### PART_CFG and PART_CTRL (R333, R348, R352 to R356) -/

/-- A partition's trust list is emptied (R434). -/
def emptyTrust (m : Module) (p : Nat) : Module :=
  m.setSec fun s => { s with keys := ⟨s.keys.cells.filter fun c => c.1 / 8 ≠ p⟩ }

/-- POOL and EN take the values written: a context area is backed with POOL, and freed without it unless saved state stands in
it. -/
def applyCfg (m : Module) (p : Nat) (en pool : Bool) : Module × Bool :=
  let was := (m.part p).regs
  let m1 := m.setRegs p fun r => { r with en := en, pool := pool }
  let m2 := if pool && en then setCtx m1 p (ctxNeed m)
    else if !pool && was.pool && (m.part p).saved.isEmpty then setCtx m1 p 0
    else (m1, true)
  match m2 with
  | (m2, true) =>
    if !csQuotasOk m1 then (m, false)
    else if was.en && !en then (emptyTrust (beginPartReset m2 p) p, true)
    else (m2, true)
  | (m2, false) => (m2.setRegs p fun _ => was, false)

/-- PART_CFG_WRITE: creates or removes the selected partition, or sets POOL. -/
def partCfgWriteFn (fn : Nat) (value : Word) (m : Module) : Module :=
  regWrite m fn blkPart 0x4 fun m =>
    let p := selPart m fn blkPart
    let en := bit value.toNat 0
    if fn ≠ 0 then busError m fn 1 (barOff blkPart 0x4)
    else if partBusy m p blkPart || (!en && !(boundTo m p).isEmpty) then refusePart m p 0x4
    else match applyCfg m p en (bit value.toNat 1) with
      | (m, true) => m
      | (m, false) => refusePart m p 0x4

/-- Execute PART_CFG_WRITE. -/
def execPartCfgWrite (fn : Nat) (value : Word) (s : State) : Host.Outcome State Fault Refusal :=
  guarded (fnOk fn) (partCfgWriteFn fn value) s

/-- Requests that a drain paused return to RUNNING without a record (R354). -/
def undrainRequests (m : Module) (p : Nat) : Module :=
  foldM (reqsOf m p) (fun m q =>
    if q.2.st == .paused && q.2.pause == .drain then setReq m q.1 fun r => { r with st := .running, pauseDue := false }
    else m) m

/-- A write to PART_CTRL: DRAIN takes its value, RESET acts. -/
def partCtrlWrite (fn : Nat) (value : Word) (m : Module) : Module :=
  regWrite m fn blkPart 0x8 fun m =>
    let p := selPart m fn blkPart
    let drain := bit value.toNat 0
    if fn ≠ 0 then busError m fn 1 (barOff blkPart 0x8)
    else if partBusy m p blkPart then refusePart m p 0x8
    else
      let was := (m.part p).regs.drain
      let m := m.setRegs p fun r => { r with drain := drain, drained := r.drained && drain }
      let m := if was && !drain then undrainRequests (m.setPart p fun x => { x with drainSeal := false }) p else m
      if bit value.toNat 1 then beginPartReset m p else m

/-- PART_DRAIN: a write with DRAIN 1. -/
def partDrainFn (fn : Nat) (value : Word) (m : Module) : Module :=
  if bit value.toNat 0 then partCtrlWrite fn value m else m

/-- Execute PART_DRAIN. -/
def execPartDrain (fn : Nat) (value : Word) (s : State) : Host.Outcome State Fault Refusal :=
  guarded (fnOk fn) (partDrainFn fn value) s

/-- PART_UNDRAIN: a write with DRAIN 0. -/
def partUndrainFn (fn : Nat) (value : Word) (m : Module) : Module :=
  if bit value.toNat 0 then m else partCtrlWrite fn value m

/-- Execute PART_UNDRAIN. -/
def execPartUndrain (fn : Nat) (value : Word) (s : State) : Host.Outcome State Fault Refusal :=
  guarded (fnOk fn) (partUndrainFn fn value) s

/-- PART_RESET: a write with RESET 1. -/
def partResetFn (fn : Nat) (value : Word) (m : Module) : Module :=
  if bit value.toNat 1 then partCtrlWrite fn value m else m

/-- Execute PART_RESET. -/
def execPartReset (fn : Nat) (value : Word) (s : State) : Host.Outcome State Fault Refusal :=
  guarded (fnOk fn) (partResetFn fn value) s

end Sys2Proof.Machine
end

