-- ==== Sys2Proof/Machine/Power.lean ====
section
/-! DEFINITION. Power, heat and emergency inputs: the power and thermal loops, feeds and the loss sequence, EPO, coolant, thermal trip,
lease, regulator faults (14_firmware R407 to R409, 15_power R410 to R424). -/

namespace Sys2Proof.Machine

/-! ### What survives a loss of power -/

/-- What lies outside the rails: the boot flash, the levels at the pins and straps, the feeds, what has been sent, the time base, the model's own
counter. -/
def Module.outside (m : Module) : Module :=
  { tick := { ns := m.tick.ns }, flash := m.flash
    start := { perst := m.start.perst, refclk := m.start.refclk, sysclk := m.start.sysclk, epo := m.start.epo
               coolantPin := m.start.coolantPin, cxlPrsnt := m.start.cxlPrsnt }
    power := { mainOk := m.power.mainOk, backupOk := m.power.backupOk, mainGoodNs := m.power.mainGoodNs }
    hedgeOut := m.hedgeOut, hostOut := m.hostOut, netOut := m.netOut, freeCtr := m.freeCtr
    sb := { i3c := m.sb.i3c, addr := m.sb.addr } }

/-- Every conversion stage opens: nothing but what lies outside the rails remains (R412, R421). -/
def goDark (m : Module) : Module := m.outside

/-- Every switched domain turns off: the always-on domain keeps the PWR block, the sideband and the lease timer; the set-point falls
to 0 (R424, R498, R499, R407). -/
def switchedOff (m : Module) : Module :=
  { m.outside with
    sb := m.sb
    power := { m.power with domains := BitVec.twoPow 2662 2661, domFault := 0, setPoint := 0, loss := .none, lossSeals := 0
                            safe := false, noRaise := false, throttle := false, limiting := false, ramping := false
                            samples := [], belowSamples := 0, lastChangeNs := none, lastChangeTick := none } }

/-! ### The power and thermal loops (R407 to R409, R419) -/

/-- A set-point order waits for its reserve. -/
def orderWaits (m : Module) : Bool := m.tick.due.any fun w => match w with
  | .setPoint _ => true
  | _ => false

/-- The loops of the power-management core run. -/
def loopRuns (m : Module) : Bool := procOut m 2 && !absent m 2

/-- Order one step down, in place of a raise that waits. -/
def orderLower (m : Module) : Module :=
  let m := m.setPower fun w => { w with belowSamples := 0 }
  if m.power.setPoint = 0 ∨ m.tick.due.contains (.setPoint (m.power.setPoint - 1)) = true then m
  else m.setTick fun t => { t with due := (t.due.filter fun w => match w with
    | .setPoint _ => false
    | _ => true) ++ [.setPoint (m.power.setPoint - 1)] }

/-- Order one step up. -/
def orderRaise (m : Module) : Module :=
  (m.setPower fun w => { w with belowSamples := 0 }).setTick fun t => { t with due := t.due ++ [.setPoint (m.power.setPoint + 1)] }

/-- The power loop acts on the average of the last 1 ms (R408). -/
def powerLoop (m : Module) : Module :=
  let w := m.power
  let l := w.limitW
  if 97 * l < 100 * w.inputW then orderLower m
  else if 100 * w.inputW < 90 * l then
    if orderWaits m then m
    else
      let m := m.setPower fun w => { w with belowSamples := w.belowSamples + 1 }
      if 50 ≤ m.power.belowSamples && !w.noRaise && decide (w.setPoint < 18) && m.start.ready then orderRaise m else m
  else m.setPower fun w => { w with belowSamples := 0 }

/-- The input bound of the limiter now: the ceiling, or L once the peak time is used up (R419). -/
def Power.bound (w : Power) : Nat := if w.peakUsed then w.limitW else min 4300 (w.limitW + 700)

/-- POWER_LOOP_SAMPLE: the reading, the state of the limiter that it shows, and the loop. -/
def powerLoopSampleFn (watts : Nat) (m : Module) : Module :=
  if m.power.dark || m.start.tripped then m
  else
    let w := m.power
    let before := w.samples.headD watts
    let xs := (watts :: w.samples).take 10
    let up := decide (w.slope ≤ 10 * (watts - before))
    let down := decide (w.slope ≤ 10 * (before - watts))
    let capped := match w.peakFrom with
      | some t => decide (m.tick.ns < t + 100000000)
      | none => false
    let gating := up || decide (w.bound ≤ watts)
    let (v, m) := if down then takeFree m else (0, m)
    let m := m.setPower fun w =>
      { w with
        samples := xs, inputW := xs.sum / xs.length % 65536, limiting := gating, limitSeen := w.limitSeen || gating
        ramping := up || down, burnJ := satAdd w.burnJ v, peakUsed := w.peakUsed && capped
        peakFrom := if capped then w.peakFrom else none }
    if loopRuns m then powerLoop m else m

/-- Execute POWER_LOOP_SAMPLE. -/
def execPowerLoopSample (watts : Nat) (s : State) : Host.Outcome State Fault Refusal :=
  guarded true (powerLoopSampleFn watts) s

/-- The hottest of the readings, the first of equals. -/
def hottest : List (Nat × Nat) → Option (Nat × Nat)
  | [] => none
  | x :: xs => match hottest xs with
    | some y => if x.2 < y.2 then some y else some x
    | none => some x

/-- THERMAL_LOOP_SAMPLE: the hottest junction; at 95 °C or above the set-point goes down, from 90 °C up it is not raised (R409, R423).
The counters of milliseconds advance with it. -/
def thermalLoopSampleFn (temps : List (Nat × Nat)) (m : Module) : Module :=
  if m.power.dark then m
  else
    let m := m.setPower fun w =>
      { w with limitMs := satAdd w.limitMs (b2n w.limitSeen), limitSeen := w.limiting
               throttleMs := satAdd w.throttleMs (b2n w.throttle) }
    match hottest temps with
    | none => m
    | some (die, deg) =>
      if !loopRuns m then m
      else
        let m := m.setPower fun w =>
          { w with tempDie := die, tempDeg := min deg 255, throttle := decide (95 ≤ deg), noRaise := decide (90 ≤ deg) }
        if 95 ≤ deg then orderLower m else m

/-- Execute THERMAL_LOOP_SAMPLE. -/
def execThermalLoopSample (temps : List (Nat × Nat)) (s : State) : Host.Outcome State Fault Refusal :=
  guarded (temps.all (fun t => dieOk t.1)) (thermalLoopSampleFn temps) s

/-- PEAK_TIME_CAP: the limiter caps the input at L (R419). -/
def peakTimeCapFn (m : Module) : Module :=
  if m.power.dark || m.start.tripped then m
  else m.setPower fun w =>
    { w with peakUsed := true, peakFrom := some m.tick.ns, peakCap := satAdd w.peakCap 1, limiting := true, limitSeen := true }

/-- Execute PEAK_TIME_CAP. -/
def execPeakTimeCap (s : State) : Host.Outcome State Fault Refusal := guarded true peakTimeCapFn s

/-! ### Feeds (R410 to R412) -/

/-- The module moves to a feed: the count and the event, whose value names the feed moved to (0 main, 1 backup). -/
def moveFeed (m : Module) (backup : Bool) : Module :=
  let m := m.setPower fun w => { w with onBackup := backup, feedSwitch := satAdd w.feedSwitch 1 }
  raise m 0x0701 noPart dieH [b2n backup]

/-- FEED_BAD: the feed turns bad; the module moves to the other, or the loss sequence begins. -/
def feedBadFn (backup : Bool) (m : Module) : Module :=
  let w := m.power
  if !(if backup then w.backupOk else w.mainOk) then m
  else
    let other := if backup then w.mainOk else w.backupOk
    let m := m.setPower fun w => if backup then { w with backupOk := false } else { w with mainOk := false }
    if w.dark then m
    else if other then
      if w.loss = .none ∧ w.onBackup = backup then moveFeed m (!backup) else m
    else if w.loss = .none then m.setPower fun w => { w with loss := .bad, lossFrom := w.onBackup, lossSeals := 0 }
    else m

/-- Execute FEED_BAD. -/
def execFeedBad (backup : Bool) (s : State) : Host.Outcome State Fault Refusal := guarded true (feedBadFn backup) s

/-- FEED_GOOD: the feed turns good. -/
def feedGoodFn (backup : Bool) (m : Module) : Module :=
  if (if backup then m.power.backupOk else m.power.mainOk) then m
  else m.setPower fun w =>
    if backup then { w with backupOk := true } else { w with mainOk := true, mainGoodNs := m.tick.ns }

/-- Execute FEED_GOOD. -/
def execFeedGood (backup : Bool) (s : State) : Host.Outcome State Fault Refusal := guarded true (feedGoodFn backup) s

/-- FEED_SWITCH_BACK: the main feed has been good for 10 s. -/
def feedSwitchBackFn (m : Module) : Module :=
  let w := m.power
  if w.dark || w.loss != .none || !w.onBackup || !w.mainOk then m
  else moveFeed (reachNs m (w.mainGoodNs + 10 * secondNs)) false

/-- Execute FEED_SWITCH_BACK. -/
def execFeedSwitchBack (s : State) : Host.Outcome State Fault Refusal := guarded true feedSwitchBackFn s

/-- Every core halts, and no task goes on. -/
def haltAll (m : Module) : Module :=
  let m := foldM m.parts.keys dropWork m
  { m with cores := m.cores.mapV fun _ c => { c.stopped with halted := true, haltNs := some m.tick.ns } }

/-- POWER_LOSS_COMMIT: 50 µs after both feeds turned bad, the module resumes on a good feed or commits the shutdown; during a start it
goes dark (R412, R497). -/
def powerLossCommitFn (m : Module) : Module :=
  let w := m.power
  if w.loss ≠ .bad then m
  else if w.mainOk || w.backupOk then
    let now := !w.mainOk
    let m := m.setPower fun x =>
      { x with loss := .none, lossSeals := 0, brownout := satAdd x.brownout x.lossSeals, onBackup := now }
    if now = w.lossFrom then m else moveFeed m now
  else if !m.start.ready then goDark m
  else
    let m := m.setPower fun x => { x with loss := .committed, limiting := true, limitSeen := true }
    let m := hedgeSend (haltAll m) dieH 1 1 (orderPayload 3 0)
    sbQueue m 0x81 [BitVec.ofNat 8 (b2n w.mainOk + 2 * b2n w.backupOk)]

/-- Execute POWER_LOSS_COMMIT. -/
def execPowerLossCommit (s : State) : Host.Outcome State Fault Refusal := guarded true powerLossCommitFn s

/-- Write the completions that wait on a ring, a batch closing after 64. -/
def writeDecided (fn ring : Nat) : Nat → Module → Module
  | 0, m => completionBatchCloseFn fn ring m
  | n + 1, m =>
    let m := if 64 ≤ (m.ring fn ring).batch then completionBatchCloseFn fn ring m else m
    writeDecided fn ring n (completionWriteFn fn ring m)

/-- FINAL_LEDGER_WRITE: the completions already decided, then the final ledger of every enabled ring pair; nothing after (R326,
R412). -/
def finalLedgerWriteFn (m : Module) : Module :=
  if m.power.loss ≠ .committed then m
  else
    let pairs := m.fns.keys.flatMap fun f => (enabledRings m f).map fun r => (f, r)
    let m := if m.start.linkUp && !m.ras.lostDies.contains dieH then
        let m := foldM pairs (fun m x => writeDecided x.1 x.2 (m.ring x.1 x.2).waiting.length m) m
        foldM pairs (fun m x => writeLedger m x.1 x.2 true) m
      else m
    m.setPower fun w => { w with loss := .ledgers }

/-- Execute FINAL_LEDGER_WRITE. -/
def execFinalLedgerWrite (s : State) : Host.Outcome State Fault Refusal := guarded true finalLedgerWriteFn s

/-- HOLDUP_DARK: the domains turn off, the conversion stages open. -/
def holdupDarkFn (m : Module) : Module :=
  if m.power.loss = .committed ∨ m.power.loss = .ledgers then goDark m else m

/-- Execute HOLDUP_DARK. -/
def execHoldupDark (s : State) : Host.Outcome State Fault Refusal := guarded true holdupDarkFn s

/-! ### Starting from power-on (R484) -/

/-- A feed turns good on dead rails: the sequence of Table 19.1 begins. The module draws from the main feed while that is good. -/
def beginCold (m : Module) : Module :=
  if !m.power.dark || m.start.epo || !(m.power.mainOk || m.power.backupOk) then m
  else m.outside.setPower fun w => { w with dark := false, onBackup := !w.mainOk }

/-! ### Emergency inputs and heat (R421 to R424) -/

/-- EPO_ASSERT: every conversion stage opens, without a final ledger. -/
def epoAssertFn (m : Module) : Module := goDark (m.setStart fun s => { s with epo := true })

/-- Execute EPO_ASSERT. -/
def execEpoAssert (s : State) : Host.Outcome State Fault Refusal := guarded true epoAssertFn s

/-- EPO_RELEASE: with a good feed the module starts from power-on. -/
def epoReleaseFn (m : Module) : Module :=
  if m.start.epo then beginCold (m.setStart fun s => { s with epo := false }) else m

/-- Execute EPO_RELEASE. -/
def execEpoRelease (s : State) : Host.Outcome State Fault Refusal := guarded true epoReleaseFn s

/-- COOLANT_FAULT: the clamp holds at once, whatever the slope (R418, R422). -/
def coolantFaultFn (m : Module) : Module :=
  let m := m.setStart fun s => { s with coolantPin := true }
  if m.power.dark || m.power.coolant then m
  else
    let (v, m) := takeFree m
    let m := m.setPower fun w => { w with coolant := true, coolantCnt := satAdd w.coolantCnt 1 }
    raise (setLimit m) 0x0704 noPart dieH [v % 4294967296]

/-- Execute COOLANT_FAULT. -/
def execCoolantFault (s : State) : Host.Outcome State Fault Refusal := guarded true coolantFaultFn s

/-- COOLANT_CLEAR: the clamp ends, and domains that it held off turn on. -/
def coolantClearFn (m : Module) : Module :=
  refreshDomains (setLimit ((m.setStart fun s => { s with coolantPin := false }).setPower fun w => { w with coolant := false }))

/-- Execute COOLANT_CLEAR. -/
def execCoolantClear (s : State) : Host.Outcome State Fault Refusal := guarded true coolantClearFn s

/-- THERMAL_TRIP: every stage but the always-on one opens; the record on the sideband (R424). -/
def thermalTripFn (die deg : Nat) (m : Module) : Module :=
  if m.power.dark || m.start.tripped || decide (deg < 105) then m
  else
    let m := sbQueue m 0x82 [BitVec.ofNat 8 die, BitVec.ofNat 8 deg]
    let stage := m.start.stage
    let m := (switchedOff m).setStart fun s => { s with stage := stage, tripped := true, faultN := true }
    m.setPower fun w => { w with tempDie := die, tempDeg := min deg 255 }

/-- Execute THERMAL_TRIP. -/
def execThermalTrip (die deg : Nat) (s : State) : Host.Outcome State Fault Refusal :=
  guarded (dieOk die) (thermalTripFn die deg) s

/-- LEASE_EXPIRED: the safe-budget term applies at once (R418). -/
def leaseExpiredFn (m : Module) : Module :=
  match m.power.leaseFrom with
  | none => m
  | some t =>
    if m.power.dark then m
    else
      let m := reachNs m (t + m.power.leaseS * secondNs)
      let (v, m) := takeFree m
      let m := m.setPower fun w => { w with leaseExpired := true, leaseFrom := none }
      raise (setLimit m) 0x0703 noPart dieH [v % 4294967296]

/-- Execute LEASE_EXPIRED. -/
def execLeaseExpired (s : State) : Host.Outcome State Fault Refusal := guarded true leaseExpiredFn s

/-! ### Regulator faults (R415) -/

/-- Cores whose power hangs on a domain of the compute side: the cluster, or the clusters of a die. -/
def coresUnder (d : Nat) : List Nat :=
  if d < 2592 then range' (80 * (d - 2560)) 80 else range' (320 * (d - 2592)) 320

/-- The jobs with cores under a cluster-common or die-spine domain stop with FAIL_POWER, and the cores are fenced (R415, R450). -/
def failCores (m : Module) (d : Nat) : Module :=
  let cs := coresUnder d
  let m := foldM (tasksOn m fun c => cs.contains c) (fun m p => jobStopWith m p (cs.headD 0) .failPower fun _ => d) m
  foldM cs (fun m c => fence m c 2) m

/-- What uses a unit of a tier fails with FAIL_POWER before the unit is mapped out. -/
def failUnit (d t unit : Nat) (m : Module) : Module :=
  foldM m.parts.keys (fun m p =>
    let on (g : Nat) : Bool := onUnit ((m.part p).pages.get g) t unit
    let users := (runningItems m p).filter fun x => (itemPages m p x).any on
    let m := if (stepPages m p).any on then faultTask m p .failPower (fun _ => d) else m
    foldM users (fun m x => failItem m p x .failPower d) m) m

/-- A Sward stack without power. -/
def swardDark (d k : Nat) (m : Module) : Module := loseSward (failUnit d 0 k m) k
/-- A Ley PHY group without power. -/
def leyDark (d g : Nat) (m : Module) : Module := loseLeyGroup (foldM (range' (4 * g) 4) (fun m c => failUnit d 1 c m) m) g

/-- A firmware processor of the host I/O die without power: it stays absent until the module restarts. -/
def procDark (m : Module) (proc : Nat) : Module :=
  m.setProc proc fun y => { y with st := .absent, limitPassed := true, edgeNs := m.tick.ns }

/-- Every open run and every active request of a partition fails with FAIL_POWER. -/
def failRunsPower (d : Nat) (m : Module) (p : Nat) : Module :=
  let m := abortTask m p .failPower fun _ => d
  let its := (m.part p).runs.map (·.item)
  let m := m.setPart p fun x => { x with runs := [], sealedSet := none, results := [] }
  let m := foldM its (fun m i => finishV m i .failPower d) m
  foldM (reqsOf m p) (fun m q => failRequest m q.1 .failPower d) m

/-- The host link goes down without a reset of the functions. -/
def hostLinkLost (m : Module) : Module := m.setStart fun s => { s with linkUp := false }

/-- What a domain other than a core's takes with it (R415, Table 15.2, Table 17.4). -/
def domainFails (d : Nat) (m : Module) : Module :=
  if d < 2600 then failCores m d
  else if d < 2608 then leyDark d (2 * (d - 2600) + 1) (leyDark d (2 * (d - 2600)) (swardDark d (d - 2600) m))
  else if d < 2616 then swardDark d (d - 2608) m
  else if d < 2632 then leyDark d (d - 2616) m
  else if d < 2636 then loseHeath (failUnit d 2 (d - 2632) m) (d - 2632)
  else if d = 2636 then hostLinkLost m
  else if d < 2649 then
    let l := d - 2637
    loseLink (foldM (jobsOn m (ownCoord m) l) (fun m p => faultTask m p .failPower fun _ => d) m) l 0
  else if d < 2651 then
    let p := d - 2649
    ethLinkDownFn p (foldM (loadsOver m p fun _ => true) (fun m x => match findItem m x.1 with
      | some y => failItem m x.2.1 y .failPower d
      | none => m) m)
  else if d = 2651 then dispatchAll (procDark (foldM m.parts.keys (failRunsPower d) m) 0)
  else if d = 2652 then dispatchAll (procDark m 1)
  else
    let k := d - 2653
    loseDie (foldM (tasksOn m fun c => dieOfCluster (clusterOf c) = k) (fun m p => faultTask m p .failPower fun _ => d) m) k

/-- PWR_DOMAIN_FAULT: the domain and its children turn off, the event names it, and what used it fails. A core domain fences its
core. -/
def pwrDomainFaultFn (domain : Nat) (m : Module) : Module :=
  if m.power.dark || m.start.tripped || !m.power.domains.getLsbD domain then m
  else
    let m := m.setPower fun w =>
      { w with domFault := w.domFault ||| BitVec.twoPow 2662 domain, domains := w.domains &&& ~~~(BitVec.twoPow 2662 domain) }
    let m := if domain < 2560 then raiseCore m 0x0702 domain [domain] else raise m 0x0702 noPart dieH [domain]
    let m := if domain < 2560 then fence m domain 2 else domainFails domain m
    refreshDomains m

/-- Execute PWR_DOMAIN_FAULT. -/
def execPwrDomainFault (domain : Nat) (s : State) : Host.Outcome State Fault Refusal :=
  guarded (decide (domain < 2661)) (pwrDomainFaultFn domain) s

/-! ### Messages (Table 15.7) -/

/-- Bits of a list of flags as bytes, the first flag at bit 0 of the first byte. -/
def flagBytes (l : List Bool) : List Byte := leBytes (bitsOf l) ((l.length + 7) / 8)

/-- The power-management core serves PWR_DOMAINS. -/
def domainsServe (fn : Nat) (msg : MgmtMsg) (m : Module) : Module :=
  let first := bodyField msg 0 2
  if 2662 ≤ first then respondBad m fn msg 0
  else
    let n := min 1824 (2662 - first)
    respondDone m fn msg (leBytes first 2 ++ leBytes n 2 ++
      flagBytes ((range' first n).map fun d => m.power.domains.getLsbD d))

/-- PWR_DOMAINS: MCODE 0x0300. -/
def pwrDomainsFn (fn : Nat) (msg : MgmtMsg) (m : Module) : Module := mgmtRow fn msg 0x0300 2 (domainsServe fn msg) m

/-- Execute PWR_DOMAINS. -/
def execPwrDomains (fn : Nat) (msg : MgmtMsg) (s : State) : Host.Outcome State Fault Refusal :=
  guarded (fnOk fn && msg.ok) (pwrDomainsFn fn msg) s

/-- The power-management core serves PWR_RECORD; zeros before a record has been applied. -/
def recordServe (fn : Nat) (msg : MgmtMsg) (m : Module) : Module :=
  let r := if m.power.lastRec.isEmpty then List.replicate 64 0 else m.power.lastRec
  respondDone m fn msg (r ++ leBytes m.power.lastRecTick 8)

/-- PWR_RECORD: MCODE 0x0301. -/
def pwrRecordFn (fn : Nat) (msg : MgmtMsg) (m : Module) : Module := mgmtRow fn msg 0x0301 2 (recordServe fn msg) m

/-- Execute PWR_RECORD. -/
def execPwrRecord (fn : Nat) (msg : MgmtMsg) (s : State) : Host.Outcome State Fault Refusal :=
  guarded (fnOk fn && msg.ok) (pwrRecordFn fn msg) s

end Sys2Proof.Machine
end

