-- ==== Sys2Proof/Machine/Wide.lean ====
section
/-! DEFINITION. The wide-value mailbox: which selectors exist, who is offered them, their snapshots, and the commits that change a
value (18_registers R475 to R478). -/

namespace Sys2Proof.Machine

/-- A selector of Table 18.2. -/
def wideExists (sel : Nat) : Bool :=
  inRange 0x0101 0x0103 sel || inRange 0x0201 0x0202 sel || inRange 0x0401 0x0402 sel || inRange 0x0410 0x0417 sel ||
    sel == 0x0501 || sel == 0x0701 || inRange 0x0801 0x0802 sel || inRange 0x0901 0x0906 sel ||
    inRange 0x0A00 0x0A13 sel || sel == 0x0B01

/-- The block of a selector is offered to a function: RING and TICK to all, FAB, PART and LARK to a bound VF, the others to PF0
alone; no block but HIF before READY or after a stopped start (Table 18.3, R491, R492). -/
def wideOffered (m : Module) (fn sel : Nat) : Bool :=
  let block := sel / 256
  m.start.ready && !m.start.startFail && (fn == 0 || block == blkRing || block == blkTick ||
    ((block == blkFab || block == blkPart || block == blkLark) && (ownPart m fn).isSome))

/-- A selector whose value a function may change. -/
def wideWritable (fn sel : Nat) : Bool :=
  inRange 0x0101 0x0103 sel || sel == 0x0701 || sel == 0x0B01 ||
    (fn == 0 && (inRange 0x0801 0x0802 sel || inRange 0x0901 0x0904 sel))

/-- Partition that a selector addresses under latched selections. -/
def widePart (m : Module) (fn block : Nat) (s : Selects) : Nat :=
  if fn ≠ 0 then (m.fn fn).part
  else if block = blkFab then s.fab else if block = blkLark then s.lark else s.part

/-- KEY_ID of a trust-list slot, 0 for an empty one. -/
def keyIdAt (m : Module) (p slot : Nat) : Nat :=
  match m.sec.keys.get (8 * p + slot) with
  | some k => k.id
  | none => 0

/-- Firmware of a processor: version, security version, the first 8 bytes of its image digest. -/
def fwValue (m : Module) (proc : Nat) : Nat :=
  let y := m.proc proc
  let b := m.flash.slots.get y.slot
  b.version + 2 ^ 32 * b.svn + 2 ^ 64 * (y.digest % 2 ^ 64)

/-- The value of a selector, as a number whose bits [31:0] stand in D0 (Table 18.2). -/
def wideValue (m : Module) (fn sel : Nat) (s : Selects) : Nat :=
  let r := m.ring fn s.ring
  let x := m.part (widePart m fn (sel / 256) s)
  if sel = 0x0101 then r.sqBase else if sel = 0x0102 then r.cqBase else if sel = 0x0103 then r.ledgerAddr
  else if sel = 0x0201 then m.tick.count else if sel = 0x0202 then onTimeBase m m.tick.boundaryNs
  else if sel = 0x0401 then (if m.sec.recordOk then m.flash.serial else 0)
  else if sel = 0x0402 then (if m.sec.pufOk then keyIdOf Config.identityKey else 0)
  else if inRange 0x0410 0x0417 sel then keyIdAt m s.sec (sel - 0x0410)
  else if sel = 0x0501 then fwValue m s.fw
  else if sel = 0x0701 then (m.fab (widePart m fn blkFab s)).mapAddr
  else if sel = 0x0801 then (m.eth.get s.eth).mac else if sel = 0x0802 then (m.eth.get s.eth).ip
  else if sel = 0x0901 then x.regs.owned.toNat % 2 ^ 128 else if sel = 0x0902 then x.regs.owned.toNat / 2 ^ 128
  else if sel = 0x0903 then m.pool.toNat % 2 ^ 128 else if sel = 0x0904 then m.pool.toNat / 2 ^ 128
  else if sel = 0x0905 then x.regs.engineCc else if sel = 0x0906 then x.regs.vtime
  else if inRange 0x0A00 0x0A13 sel then m.ras.liveMap.toNat / 2 ^ (128 * (sel - 0x0A00)) % 2 ^ 128
  else x.lark.base

/-- Data word `i` of a value. -/
def wideWord (v i : Nat) : BitVec 32 := BitVec.ofNat 32 (v / 2 ^ (32 * i))

/-- A write to HIF_WIDE_SEL while an operation runs: it is dropped, ERR becomes 4 (R478). -/
def overrun (m : Module) (fn : Nat) : Module :=
  m.setFn fn fun x => { x with box := { x.box with err := 4 } }

/-- WIDE_READ: the snapshot under the function's selections; VALID clears until the operation completes (R476). -/
def wideReadFn (fn : Nat) (selector : BitVec 16) (m : Module) : Module :=
  regWrite m fn blkHif 0x40 fun m =>
    let sel := selector.toNat
    let f := m.fn fn
    if !f.box.valid then overrun m fn
    else
      let found := wideExists sel && wideOffered m fn sel
      let v := if found then wideValue m fn sel f.sel else 0
      m.setFn fn fun x => { x with box :=
        { sel := sel, valid := false, err := 0, busy := .read, endErr := if found then 0 else 1
          d0 := wideWord v 0, d1 := wideWord v 1, d2 := wideWord v 2, d3 := wideWord v 3
          latched := some (sel, x.sel) } }

/-- Execute WIDE_READ. -/
def execWideRead (fn : Nat) (selector : BitVec 16) (s : State) : Host.Outcome State Fault Refusal :=
  guarded (fnOk fn) (wideReadFn fn selector) s

/-! ### Commits (R477) -/

/-- The pages of a partition's Lark ring. -/
def larkPages (base pages : Nat) : List Nat := range' (base / pageSize) pages

/-- The Lark ring takes other pages: they are backed and held, and those it had are let go. Where some cannot be backed the ring
keeps its own, and the evictions stand (R215, R217). -/
def moveRing (m : Module) (p : Nat) (k : LarkRegs) (pages : List Nat) : Module × Bool :=
  match backList m p (firstTierOf m p) pages with
  | (m2, some _) =>
    let m3 := holdPages m2 p pages
    (if k.committed then unholdPages m3 p (larkPages k.base k.ringPages) else m3, true)
  | (m2, none) => (m2, false)

/-- Commit the Lark ring base: 2 MiB aligned, the ring within the range, every page of it backed (R217). -/
def setLarkBase (m : Module) (p v : Nat) : Module × Bool :=
  let k := (m.part p).lark
  if v % pageSize ≠ 0 ∨ rangeEnd m p < v + k.ringPages * pageSize then (m, false)
  else
    match moveRing m p k (larkPages v k.ringPages) with
    | (m2, true) => (m2.setLark p fun l => { l with base := v, committed := true }, true)
    | r => r

/-- A commit of a wide value under latched selections: the module, and whether the owning block accepts it. Where it refuses it, pages
evicted on its behalf stay where they are (R215, R477). -/
def wideApply (m : Module) (fn sel : Nat) (s : Selects) (v : Nat) : Module × Bool :=
  let r := m.ring fn s.ring
  let p := widePart m fn (sel / 256) s
  let low := v % 2 ^ 64
  if sel = 0x0101 then
    if r.sqEn || low % 4096 != 0 then (m, false) else (m.setRing fn s.ring fun r => { r with sqBase := low }, true)
  else if sel = 0x0102 then
    if r.cqEn || low % 4096 != 0 then (m, false) else (m.setRing fn s.ring fun r => { r with cqBase := low }, true)
  else if sel = 0x0103 then
    if low % 64 != 0 then (m, false) else (m.setRing fn s.ring fun r => { r with ledgerAddr := low }, true)
  else if sel = 0x0701 then (m.setFab p fun f => { f with mapAddr := low }, true)
  else if sel = 0x0801 then (m.setEth s.eth fun e => { e with mac := v % 2 ^ 48 }, true)
  else if sel = 0x0802 then (m.setEth s.eth fun e => { e with ip := v }, true)
  else if sel = 0x0901 then
    if partBusy m p blkPart then (m, false)
    else setOwned m p (BitVec.ofNat 160 (v + (m.part p).regs.owned.toNat / 2 ^ 128 * 2 ^ 128))
  else if sel = 0x0902 then
    if partBusy m p blkPart then (m, false)
    else setOwned m p (BitVec.ofNat 160 ((m.part p).regs.owned.toNat % 2 ^ 128 + v % 2 ^ 32 * 2 ^ 128))
  else if sel = 0x0903 then setPool m (BitVec.ofNat 160 (v + m.pool.toNat / 2 ^ 128 * 2 ^ 128))
  else if sel = 0x0904 then setPool m (BitVec.ofNat 160 (m.pool.toNat % 2 ^ 128 + v % 2 ^ 32 * 2 ^ 128))
  else setLarkBase m p v

/-- BAD_WRITE of the block that refuses a commit (R477, case 3). -/
def wideBad (m : Module) (fn sel : Nat) (s : Selects) : Module :=
  let p := widePart m fn (sel / 256) s
  let block := sel / 256
  if block = blkRing then m.setRing fn s.ring fun r => { r with badWrite := true }
  else if block = blkPart then m.setRegs p fun r => { r with badWrite := true }
  else m.setLark p fun l => { l with badWrite := true }

/-- ERR that a commit ends with, and the module it leaves. -/
def wideCommitOut (m : Module) (fn sel : Nat) (b : Mailbox) : Module × Nat :=
  match b.latched with
  | none => (m, 5)
  | some (was, s) =>
    if was ≠ sel then (m, 5)
    else if !(wideExists sel && wideOffered m fn sel) then (m, 1)
    else if !wideWritable fn sel then (m, 2)
    else match wideApply m fn sel s (b.d0.toNat + 2 ^ 32 * b.d1.toNat + 2 ^ 64 * b.d2.toNat + 2 ^ 96 * b.d3.toNat) with
      | (m, true) => (m, 0)
      | (m, false) => (wideBad m fn sel s, 3)

/-- WIDE_COMMIT: every word of the value changes at once, or nothing does (R477). -/
def wideCommitFn (fn : Nat) (selector : BitVec 16) (m : Module) : Module :=
  regWrite m fn blkHif 0x40 fun m =>
    let sel := selector.toNat
    let b := (m.fn fn).box
    if !b.valid then overrun m fn
    else
      let (m, e) := wideCommitOut m fn sel b
      m.setFn fn fun x => { x with box :=
        { x.box with sel := sel, valid := false, err := 0, busy := .commit, endErr := e, latched := none } }

/-- Execute WIDE_COMMIT. -/
def execWideCommit (fn : Nat) (selector : BitVec 16) (s : State) : Host.Outcome State Fault Refusal :=
  guarded (fnOk fn) (wideCommitFn fn selector) s

end Sys2Proof.Machine
end

