-- ==== Sys2Proof/Machine/RegBlocks.lean ====
section
/-! DEFINITION. What a 4-byte write does at each offset of each block of BAR0 (18_registers R469 to R481, with the field tables that
Table 18.3 names). An offset that no field table gives is a bus error of cause 0; a register whose every field is RO takes no write. -/

namespace Sys2Proof.Machine

/-- A write to an offset that a block does not implement (R479). -/
def noRegister (m : Module) (fn block off : Nat) : Module := busError m fn 0 (barOff block off)

/-- Offsets `a`, `a + 4`, up to `b`, both included. -/
def words (a b : Nat) (off : Nat) : Bool := decide (a ≤ off ∧ off ≤ b) && off % 4 == 0

/-- A W1C bit after a write: cleared where bit `i` of the value is 1. -/
def w1c (old : Bool) (v i : Nat) : Bool := old && !bit v i

/-- Change the selections of a function. -/
def setSel (m : Module) (fn : Nat) (g : Selects → Selects) : Module := m.setFn fn fun f => { f with sel := g f.sel }

/-- A partition select register: PF0 selects; on a VF the write is dropped. -/
def partSelect (m : Module) (fn : Nat) (g : Selects → Selects) : Module := if fn = 0 then setSel m 0 g else m

/-! ### HIF (Tables 18.5 to 18.8, 11.15) -/

/-- Data words of the mailbox: dropped while VALID is 0 (R478). -/
def writeWideWord (m : Module) (fn i : Nat) (w : Word) : Module :=
  m.setFn fn fun f =>
    if !f.box.valid then f
    else { f with box :=
      if i = 0 then { f.box with d0 := w } else if i = 1 then { f.box with d1 := w }
      else if i = 2 then { f.box with d2 := w } else { f.box with d3 := w } }

/-- One word of an entry of the MSI-X table: message address, data, vector control, as PCI Express lays them out (log 4). Unmasking a
vector whose pending bit is set sends its message. -/
def writeMsix (m : Module) (fn vec i : Nat) (w : Word) : Module :=
  let e := (m.fn fn).msix.get vec
  let e' : MsixEntry :=
    if i = 0 then { e with addr := e.addr.extractLsb' 32 32 ++ w }
    else if i = 1 then { e with addr := w ++ e.addr.extractLsb' 0 32 }
    else if i = 2 then { e with data := w }
    else { e with mask := w.getLsbD 0 }
  let m := m.setFn fn fun f => { f with msix := f.msix.put vec e' }
  if !e'.mask && e'.pend then sendMsix (m.setFn fn fun f => { f with msix := f.msix.put vec { e' with pend := false } }) fn vec
  else m

/-- The offset of the MSI-X table or of its pending-bit array (R293). -/
def isMsix (off : Nat) : Bool := decide (0xF0000 ≤ off ∧ off < 0xF0120) || decide (0xF8000 ≤ off ∧ off < 0xF8008)

/-- The HIF block. -/
def writeHif (m : Module) (fn off : Nat) (w : Word) : Module :=
  let v := w.toNat
  if words 0 0x4 off || words 0xC 0x18 off || off = 0x44 then m
  else if off = 0x8 then
    m.setFn fn fun f => { f with err := { f.err with writeErr := w1c f.err.writeErr v 0, ovf := w1c f.err.ovf v 1 } }
  else if off = 0x20 ∧ fn = 0 then setSel m 0 fun s => { s with fn := bits v 0 6 }
  else if off = 0x24 ∧ fn = 0 then fnPartWrite w m
  else if off = 0x40 then
    if bit v 31 then wideCommitFn fn (w.setWidth 16) m else wideReadFn fn (w.setWidth 16) m
  else if words 0x48 0x54 off then writeWideWord m fn ((off - 0x48) / 4) w
  else if words 0xF0000 0xF011C off then writeMsix m fn ((off - 0xF0000) / 16) ((off - 0xF0000) % 16 / 4) w
  else if words 0xF8000 0xF8004 off then m
  else noRegister m fn blkHif off

/-! ### RING (Tables 11.10 to 11.14) -/

/-- The RING block: the pair that RING_SEL selects. -/
def writeRing (m : Module) (fn off : Nat) (w : Word) : Module :=
  let v := w.toNat
  let ring := (m.fn fn).sel.ring
  let r := m.ring fn ring
  if off = 0 then setSel m fn fun s => { s with ring := bits v 0 4 }
  else if off = 0x4 then ringSqCfgWriteFn fn w m
  else if off = 0x8 then ringCqCfgWriteFn fn w m
  else if off = 0xC then m.setRing fn ring fun r => { r with modCount := bits v 0 16, modTime := bits v 16 16 }
  else if off = 0x10 then if r.sqEn then refuseRing m fn ring off else m.setRing fn ring fun r => { r with sqNext := w }
  else if off = 0x14 then if r.cqEn then refuseRing m fn ring off else m.setRing fn ring fun r => { r with cqNext := w }
  else if off = 0x18 then
    m.setRing fn ring fun r =>
      { r with badWrite := w1c r.badWrite v 6, fetchErr := w1c r.fetchErr v 4, dbOvf := w1c r.dbOvf v 3, ssnErr := w1c r.ssnErr v 2 }
  else if off = 0x1C then m
  else noRegister m fn blkRing off

/-! ### TICK, PWR, SEC, FW, RAS, ETH -/

/-- The TICK block (Tables 2.5 to 2.8). -/
def writeTick (m : Module) (fn off : Nat) (w : Word) : Module :=
  let v := w.toNat
  if isTa blkTick off then taArrives m fn blkTick off v
  else if off = 0xC then m.setTick fun t => { t with taOvf := w1c t.taOvf v 5, badWrite := w1c t.badWrite v 4 }
  else if words 0x10 0x18 off then m
  else noRegister m fn blkTick off

/-- The PWR block (Tables 15.4 to 15.6). -/
def writePwr (m : Module) (fn off : Nat) (w : Word) : Module :=
  if isTa blkPwr off then taArrives m fn blkPwr off w.toNat
  else if off = 0 then m.setPower fun p => { p with badWrite := w1c p.badWrite w.toNat 9 }
  else if words 0x4 0x20 off || words 0x40 0x58 off then m
  else noRegister m fn blkPwr off

/-- The SEC block (Table 16.10). -/
def writeSec (m : Module) (fn off : Nat) (w : Word) : Module :=
  if off = 0x10 then setSel m fn fun s => { s with sec := bits w.toNat 0 6 }
  else if words 0 0x8 off || words 0x14 0x1C off then m
  else noRegister m fn blkSec off

/-- A number that FW_SEL takes (Table 14.4). -/
def fwSelOk (n : Nat) : Bool := decide (n ≤ 2 ∨ 32 ≤ n)

/-- The FW block (Tables 14.4 and 14.5). -/
def writeFw (m : Module) (fn off : Nat) (w : Word) : Module :=
  let v := w.toNat
  if off = 0 then
    if fwSelOk (bits v 0 6) then setSel m fn fun s => { s with fw := bits v 0 6 } else refuseFw m 0
  else if off = 0x4 then { m with fwBadWrite := w1c m.fwBadWrite v 9 }
  else if off = 0x8 then fwCtrlRestartFn fn w m
  else if words 0xC 0x18 off then m
  else noRegister m fn blkFw off

/-- The RAS block (Table 17.7). -/
def writeRas (m : Module) (fn off : Nat) (w : Word) : Module :=
  let v := w.toNat
  if off = 0 then
    m.setRas fun r => { r with recovOvf := w1c r.recovOvf v 2, badWrite := w1c r.badWrite v 1, ueBit := w1c r.ueBit v 0 }
  else if off = 0x4 then rasFenceFn fn w m
  else if off = 0x8 then if bits v 0 16 = 0 then refuseRas m off else m.setRas fun r => { r with ceLimit := bits v 0 16 }
  else if words 0xC 0x28 off then m
  else noRegister m fn blkRas off

/-- A port is enabled or disabled, with its other settings; a port that is disabled loses its link (R390, R392, R414). -/
def setEthCfg (m : Module) (port v : Nat) : Module :=
  let en := bit v 0
  let m := if en then m else ethLinkDownFn port m
  refreshDomains (m.setEth port fun t =>
    { t with en := en, mtu := bits v 4 2, pfcEn := bit v 6, pfcPrio := bits v 7 3, dscp := bits v 10 6 })

/-- The ETH block: the port that ETH_PORT_SEL selects (Table 13.12). -/
def writeEth (m : Module) (fn off : Nat) (w : Word) : Module :=
  let v := w.toNat
  let port := (m.fn fn).sel.eth
  if off = 0 then setSel m fn fun s => { s with eth := bits v 0 1 }
  else if off = 0x4 then
    if bits v 4 2 = 3 then refuse m noPart blkEth off fun m => m.setEth port fun t => { t with badWrite := true }
    else setEthCfg m port v
  else if off = 0x8 then m.setEth port fun t => { t with badWrite := w1c t.badWrite v 1 }
  else if words 0xC 0x1C off then m
  else noRegister m fn blkEth off

/-! ### MEM (Tables 8.6 to 8.10, R209, R218) -/

/-- A page of the partition's range is backed. -/
def anyBacked (m : Module) (p : Nat) : Bool := (m.part p).pages.cells.any fun c => c.2.tier.isSome

/-- Refusal of a write to a partition register of the MEM block. -/
def refuseMem (m : Module) (p off : Nat) : Module := refuse m p blkMem off fun m => m.setMemRegs p fun r => { r with badWrite := true }

/-- Floors of the POOL partitions in a tier fit its capacity (R218). -/
def floorsOk (m : Module) (t : Nat) : Bool :=
  decide (((m.parts.cells.filter fun c => c.2.mem.pool).map fun c => c.2.mem.floor.get t).sum ≤ capOf m t)

/-- Ranges of all partitions fit the sum of R209. -/
def rangesOk (m : Module) : Bool := decide ((m.parts.cells.map fun c => c.2.mem.rangePages).sum ≤ 268435456)

/-- A module, or a refusal where a condition on the module written fails. -/
def memKeep (m m' : Module) (p off : Nat) (ok : Bool) : Module := if ok then m' else refuseMem m p off

/-- The registers of one partition. -/
def writeMemPart (m : Module) (fn off : Nat) (w : Word) : Module :=
  let v := w.toNat
  let p := selPart m fn blkMem
  let x := (m.part p).mem
  if words 0x30 0x38 off || words 0x40 0x48 off || words 0x50 0x5C off then m
  else if decide (0x80 ≤ off ∧ off < 0xE0) && decide (off % 0x20 < 0x18) && off % 4 == 0 then m
  else if !(off = 0x4 || off = 0x8 || words 0x10 0x18 off || words 0x20 0x28 off || off = 0x4C) then noRegister m fn blkMem off
  else if partBusy m p blkMem then refuseMem m p off
  else if off = 0x4 then
    let acct := bit v 0
    let m' := m.setMemRegs p fun r =>
      { r with firstTier := if bits v 1 2 = 0 then .sward else if bits v 1 2 = 1 then .ley else .heath, pool := acct }
    memKeep m m' p off (bits v 1 2 != 3 && (acct == x.pool || !anyBacked m p))
  else if off = 0x8 then
    let m' := m.setMemRegs p fun r => { r with rangePages := bits v 0 26 }
    memKeep m m' p off (decide (bits v 0 26 ≤ 33554432) && !anyBacked m p && rangesOk m')
  else if off = 0x4C then
    m.setMemRegs p fun r => { r with badWrite := w1c r.badWrite v 0, poisonBit := w1c r.poisonBit v 1 }
  else if off < 0x20 then m.setMemRegs p fun r => { r with quota := r.quota.put ((off - 0x10) / 4) (bits v 0 24) }
  else
    let t := (off - 0x20) / 4
    let m' := m.setMemRegs p fun r => { r with floor := r.floor.put t (bits v 0 24) }
    memKeep m m' p off (!x.pool || floorsOk m' t)

/-- The MEM block. -/
def writeMem (m : Module) (fn off : Nat) (w : Word) : Module :=
  if off = 0 then partSelect m fn fun s => { s with mem := bits w.toNat 0 6 }
  else if words 0x100 0x11C off then m
  else writeMemPart m fn off w

/-! ### FAB (Tables 13.9 to 13.11) -/

/-- FAB_RANK: NRANKS 1 to 256, RANK below it; they change only while EN is 0. -/
def fabRankWrite (m : Module) (p v : Nat) : Module :=
  let n := bits v 16 16
  let r := bits v 0 16
  let f := m.fab p
  if !inRange 1 256 n || n ≤ r || (f.en && (n != f.nranks || r != f.rank)) then refuseFab m p 0x108
  else m.setFab p fun f => { f with nranks := n, rank := r }

/-- The FAB block. -/
def writeFab (m : Module) (fn off : Nat) (w : Word) : Module :=
  let v := w.toNat
  let p := selPart m fn blkFab
  if off = 0 then if 12 ≤ bits v 0 4 then refuseFabric m 0 else setSel m fn fun s => { s with link := bits v 0 4 }
  else if off = 0x8 then retrainFn fn w m
  else if off = 0x4C then
    m.setFabric fun f =>
      { f with
        deposed := w1c f.deposed v 3, mgrConflict := w1c f.mgrConflict v 2, recRefused := w1c f.recRefused v 1
        badWrite := w1c f.badWrite v 0 }
  else if off = 0x100 then partSelect m fn fun s => { s with fab := bits v 0 6 }
  else if off = 0x104 then fabJobWrite fn w m
  else if off = 0x108 then fabRankWrite m p v
  else if off = 0x10C then m.setFab p fun f => { f with stopped := w1c f.stopped v 1, badWrite := w1c f.badWrite v 0 }
  else if off = 0x4 || words 0xC 0x1C off || words 0x40 0x48 off || words 0x110 0x120 off then m
  else noRegister m fn blkFab off

/-! ### PART (Tables 12.4 to 12.9, 10.9) -/

/-- Registers of the PART block that take a write and have no other meaning here: PART_STAT, PART_CS_QUOTA, PART_SRV_QUOTA,
PART_SRV_STAT. -/
def writePartRw (m : Module) (p off v : Nat) : Module :=
  if partBusy m p blkPart then refusePart m p off
  else if off = 0xC then m.setRegs p fun r => { r with badWrite := w1c r.badWrite v 0 }
  else if off = 0x18 then
    let m' := m.setRegs p fun r => { r with csQuota := bits v 0 9 }
    if bits v 0 9 ≤ 384 ∧ csQuotasOk m' then m' else refusePart m p off
  else if off = 0x208 then
    if bits v 0 17 ≤ 65536 then m.setRegs p fun r => { r with srvQuota := bits v 0 17 }
    else refuse m p blkPart off fun m => m.setRegs p fun r => { r with srvBadWrite := true }
  else m.setRegs p fun r => { r with srvBadWrite := w1c r.srvBadWrite v 0 }

/-- The PART block. A VF's write to PART_CS_QUOTA is a bus error, as R333 says of it. -/
def writePart (m : Module) (fn off : Nat) (w : Word) : Module :=
  let v := w.toNat
  let p := selPart m fn blkPart
  if off = 0 then partSelect m fn fun s => { s with part := bits v 0 6 }
  else if off = 0x4 then partCfgWriteFn fn w m
  else if off = 0x8 then partCtrlWrite fn w m
  else if isTa blkPart off then taArrives m fn blkPart off v
  else if off = 0x18 ∧ fn ≠ 0 then busError m fn 1 (barOff blkPart off)
  else if off = 0xC || off = 0x18 || off = 0x208 || off = 0x224 then writePartRw m p off v
  else if words 0x20 0x28 off || words 0x30 0x3C off || words 0xA8 0xAC off || words 0x20C 0x220 off then m
  else noRegister m fn blkPart off

/-! ### LARK (Tables 6.10 to 6.16) -/

/-- LARK_RING_SIZE: 0 to 2,047 pages. Once the base is committed, the ring's pages are backed and held (R217). -/
def setLarkSize (m : Module) (p n : Nat) : Module × Bool :=
  let k := (m.part p).lark
  if 2047 < n then (m, false)
  else if !k.committed then (m.setLark p fun l => { l with ringPages := n }, true)
  else if rangeEnd m p < k.base + n * pageSize then (m, false)
  else
    match moveRing m p k (larkPages k.base n) with
    | (m2, true) => (m2.setLark p fun l => { l with ringPages := n }, true)
    | r => r

/-- The LARK block. -/
def writeLark (m : Module) (fn off : Nat) (w : Word) : Module :=
  let v := w.toNat
  let p := selPart m fn blkLark
  if off = 0 then partSelect m fn fun s => { s with lark := bits v 0 6 }
  else if isTa blkLark off then taArrives m fn blkLark off v
  else if off = 0xC then
    match setLarkSize m p (bits v 0 12) with
    | (m, true) => m
    | (m, false) => refuse m p blkLark off fun m => m.setLark p fun l => { l with badWrite := true }
  else if off = 0x14 then m.setLark p fun l => { l with rdOff := v }
  else if off = 0x18 then m.setLark p fun l => { l with badWrite := w1c l.badWrite v 2, dropped := w1c l.dropped v 1 }
  else if off = 0x10 || off = 0x1C || words 0x24 0x28 off || words 0x30 0x4C off then m
  else noRegister m fn blkLark off

end Sys2Proof.Machine
end

