-- ==== Sys2Proof/Machine/RegWrite.lean ====
section
/-! DEFINITION. REGISTER_WRITE: a write of the host to BAR0, BAR2 or BAR4 of a function (11_host_interface R293, R328, 18_registers R465,
R479 to R481, R483). -/

namespace Sys2Proof.Machine

/-! ### BAR0 -/

/-- A word written to a block's offset once the block is offered. -/
def writeBlock (m : Module) (fn block off : Nat) (w : Word) : Module :=
  if block = blkHif then writeHif m fn off w
  else if block = blkRing then writeRing m fn off w
  else if block = blkTick then writeTick m fn off w
  else if block = blkPwr then writePwr m fn off w
  else if block = blkSec then writeSec m fn off w
  else if block = blkFw then writeFw m fn off w
  else if block = blkMem then writeMem m fn off w
  else if block = blkFab then writeFab m fn off w
  else if block = blkEth then writeEth m fn off w
  else if block = blkPart then writePart m fn off w
  else if block = blkRas then writeRas m fn off w
  else if block = blkLark then writeLark m fn off w
  else noRegister m fn block off

/-- Counters in the page of a core of a cluster window (Table 18.11). -/
def corePageReg (off : Nat) : Bool := words 0 0x18 off || words 0x40 0x58 off || words 0x80 0x9C off || words 0xC0 0xD4 off

/-- A word written to the window of a cluster (Tables 18.9 to 18.11). -/
def writeWindow (m : Module) (fn k off : Nat) (w : Word) : Module :=
  if off = 0x8 then cluCntCtrlFn fn k w m
  else if off = 0xC then cluCntClrFn fn k w m
  else windowWrite m fn k off fun m =>
    if words 0 0x4 off || words 0x40 0x60 off then m
    else if 0x60000 ≤ off then busError m fn 1 (0x1000000 + k * 0x80000 + off)
    else if decide (0x10000 ≤ off) && corePageReg (off % 0x1000) then m
    else busError m fn 0 (0x1000000 + k * 0x80000 + off)

/-- A word written to BAR0 of a function: a block, a cluster window, or the debug block, locked here. BAR0 of a VF ends before the
windows, that of PF0 after 64 MiB. -/
def writeBar0 (m : Module) (fn a : Nat) (w : Word) : Module :=
  if a < 0x1000000 then regWrite m fn (a / 0x100000) (a % 0x100000) fun m => writeBlock m fn (a / 0x100000) (a % 0x100000) w
  else if fn ≠ 0 ∨ 0x4000000 ≤ a then m
  else if a < 0x2000000 then writeWindow m fn ((a - 0x1000000) / 0x80000) ((a - 0x1000000) % 0x80000) w
  else if reaches m fn then busError m fn 1 a
  else m

/-- The access lies in the debug block or in a cluster's debug registers, which answer PF0 once debug is unlocked (R443, R483). -/
def debugHit (m : Module) (fn bar a : Nat) : Bool :=
  bar == 0 && fn == 0 && reaches m fn && m.start.ready && !m.start.startFail && m.sec.debug &&
    (decide (0x2000000 ≤ a ∧ a < 0x4000000) ||
      (decide (0x1000000 ≤ a ∧ a < 0x2000000) && decide (0x60000 ≤ (a - 0x1000000) % 0x80000) &&
        m.power.domains.getLsbD (2560 + (a - 0x1000000) / 0x80000)))

/-- A register access: 4 bytes aligned to 4, or 8 bytes aligned to 8, with every byte enabled (R465). -/
def accessOk (off : Nat) (data : List Byte) (enables : List Bool) : Bool :=
  (data.length == 4 || data.length == 8) && off % data.length == 0 && enables.all id

/-- Word `i` of the data of an access. -/
def wordAt (data : List Byte) (i : Nat) : Word := BitVec.ofNat 32 (field data (4 * i) 4)

/-- A write to BAR0: an 8-byte access acts as two, the lower address first. The MSI-X table takes only accesses of whole words, as PCI
Express has it, and reports no other. -/
def bar0Write (m : Module) (fn off : Nat) (data : List Byte) (enables : List Bool) : Module :=
  if !accessOk off data enables then
    if isMsix off || !reaches m fn || data.isEmpty then m else busError m fn 2 off
  else
    let m := writeBar0 m fn off (wordAt data 0)
    if data.length = 8 then writeBar0 m fn (off + 4) (wordAt data 1) else m

/-! ### BAR2 (Table 11.3) -/

/-- A word written to BAR2: the doorbell at the start of each of 32 pages; every other offset is reserved. -/
def writeBar2 (m : Module) (fn a : Nat) (w : Word) : Module :=
  if a % 0x1000 ≠ 0 then busError m fn 0 a
  else if a / 0x1000 < 16 then sqDoorbellFn fn (a / 0x1000) w m
  else cqDoorbellFn fn (a / 0x1000 - 16) w m

/-- A write to BAR2: dropped before READY (R491). -/
def bar2Write (m : Module) (fn off : Nat) (data : List Byte) (enables : List Bool) : Module :=
  if !bellReaches m fn || 0x20000 ≤ off || data.isEmpty then m
  else if !accessOk off data enables then busError m fn 2 off
  else
    let m := writeBar2 m fn off (wordAt data 0)
    if data.length = 8 then writeBar2 m fn (off + 4) (wordAt data 1) else m

/-! ### BAR4 (R328) -/

/-- A reserved location of the window: the rest of the header, and on a VF what is the staging area of PF0. -/
def windowReserved (fn a : Nat) : Bool := decide (0x1E ≤ a ∧ a < 0x1000) || (fn != 0 && decide (stagingBase ≤ a))

/-- Byte `i` of a word replaced. -/
def putByte (old i : Nat) (b : Byte) : Nat := old - bits old (8 * i) 8 * 2 ^ (8 * i) + b.toNat * 2 ^ (8 * i)

/-- A byte written to the window: the header words that the host writes, and the staging area of PF0. The other header words are read
only; what stands in a request reaches the model with the message itself (log 9). -/
def windowByte (f : Fn) (fn a : Nat) (b : Byte) : Fn :=
  if a < 4 then { f with mrqTail := putByte f.mrqTail a b }
  else if 0xC ≤ a ∧ a < 0x10 then { f with mrsHead := putByte f.mrsHead (a - 0xC) b }
  else if 0x14 ≤ a ∧ a < 0x18 then { f with evtHead := putByte f.evtHead (a - 0x14) b }
  else if fn = 0 ∧ stagingBase ≤ a ∧ a < stagingBase + stagingBytes then { f with staging := f.staging.put (a - stagingBase) b }
  else f

/-- The enabled bytes of an access, with their offsets. -/
def enabledBytes (off : Nat) (data : List Byte) (enables : List Bool) : List (Nat × Byte) :=
  ((range' 0 data.length).zip (data.zip enables)).filterMap fun x => if x.2.2 then some (off + x.1, x.2.1) else none

/-- A write to BAR4. -/
def bar4Write (m : Module) (fn off : Nat) (data : List Byte) (enables : List Bool) : Module :=
  let bs := enabledBytes off data enables
  if !bellReaches m fn || 0x200000 ≤ off then m
  else match bs.find? fun x => windowReserved fn x.1 with
    | some x => busError m fn 0 x.1
    | none => m.setFn fn fun f => bs.foldl (fun f x => windowByte f fn x.1 x.2) f

/-! ### The command -/

/-- REGISTER_WRITE. -/
def registerWriteFn (fn bar offset : Nat) (data : List Byte) (enables : List Bool) (m : Module) : Module :=
  if bar = 0 then bar0Write m fn offset data enables
  else if bar = 2 then bar2Write m fn offset data enables
  else bar4Write m fn offset data enables

/-- Execute REGISTER_WRITE. A whole write to a debug register after DEBUG_UNLOCK acts by the debug kit, which the manual does not
publish. -/
def execRegisterWrite (fn bar offset : Nat) (data : List Byte) (enables : List Bool) (s : State) :
    Host.Outcome State Fault Refusal :=
  if debugHit s.m fn bar offset && accessOk offset data enables && fnOk fn && data.length == enables.length then
    .refused .debugKit
  else guarded (fnOk fn && decide (bar = 0 ∨ bar = 2 ∨ bar = 4) && decide (data.length = enables.length))
    (registerWriteFn fn bar offset data enables) s

end Sys2Proof.Machine
end

