-- ==== Sys2Proof/Machine/Results.lean ====
section
/-! DEFINITION. The results of a finished step: the check of each entry, watermarks, pins, tokens, records, speculative rounds
(10_serving R265, R267 to R273, R279, R284 to R286, R288 to R290). -/

namespace Sys2Proof.Machine

/-- A result-table entry (Table 10.5). -/
structure ResultEntry where
  emit     : Nat
  noToken  : Bool
  final    : Bool
  accepted : Nat
  gstate   : Nat
  tokens   : List Nat
  deriving DecidableEq, Repr

/-- Device address of the `j`-th result entry of a run step (R265). -/
def resultAddr (v : Serving) (index j : Nat) : Nat := v.resultTable + index % 2 * v.tableBytes + 64 + 128 * j

/-- Read the `j`-th result entry of a run step. -/
def resultEntry (m : Module) (p : Nat) (v : Serving) (index j : Nat) : ResultEntry :=
  let a := resultAddr v index j
  let f := devNum m p (a + 3) 1
  let n := devNum m p (a + 2) 1
  { emit := n, noToken := bit f 0, final := bit f 1, accepted := devNum m p (a + 4) 4, gstate := devNum m p (a + 8) 4
    tokens := (range' 0 (min n 17)).map fun k => devNum m p (a + 0x10 + 4 * k) 4 }

/-- The entry passes the check of R271; where NO_TOKEN says that no token could be selected, fewer are produced (R287). -/
def entryOk (e : SetEntry) (r : ResultEntry) : Bool :=
  let want := if e.kind = 2 then r.accepted + 1 else e.produce
  let drafts := if e.kind = 2 then e.npos - 1 else 0
  (r.emit == want || (r.noToken && decide (r.emit < want))) &&
    (e.kind != 2 || decide (r.accepted ≤ drafts)) && decide (r.emit ≤ 17)

/-! ### Delivery (R268) -/

/-- Why a token at a position ends the request, by the lowest REASON code. -/
def stopReason (v : Serving) (q : Request) (generated pos tok : Nat) : Option Nat :=
  if tok ≠ 0xFFFFFFFF ∧ v.eos.contains tok = true then some 1
  else if q.maxNew ≤ generated then some 2
  else if v.maxContext ≤ pos + 1 then some 3
  else none

/-- Tokens delivered in position order up to the first that stops, and its REASON. -/
def deliverTokens (v : Serving) (q : Request) : List Nat → Nat → List Nat → List Nat × Option Nat
  | [], _, out => (out, none)
  | t :: ts, g, out =>
    match stopReason v q (g + 1) (q.prompt.length + g) t with
    | some r => (out ++ [t], some r)
    | none => deliverTokens v q ts (g + 1) (out ++ [t])

/-- REASON of a record, 0 for none: the lowest of those that hold. -/
def reasonOf (stop : Option Nat) (r : ResultEntry) : Nat :=
  match stop with
  | some n => n
  | none => if r.final then 4 else if r.noToken then 5 else 0

/-! ### Pinned pages (R286) -/

/-- A commit that brings the watermark of a model to 64 × PIN_PAGES pins the leading pages under PREFIX_PIN, unless that prefix
exists. -/
def pinPages (m : Module) (slot model : Nat) : Module :=
  match m.slots.get slot with
  | none => m
  | some q =>
    let isMain := q.model == model
    let c := if isMain then q.main else q.dcache
    if q.prefixPin = 0 ∨ c.mark < 64 * q.pinPages ∨ (prefixOf m q.part model q.prefixPin).isSome = true then m
    else
      let pages := (range' 0 q.pinPages).filterMap fun k => c.pages.get k
      let m := m.setPart q.part fun x =>
        { x with prefixes := x.prefixes ++
            [{ model := model, num := q.prefixPin, pages := pages, srv := if isMain then q.srv else q.dsrv }] }
      setReq m slot fun q =>
        if isMain then { q with main := { q.main with pinned := max q.main.pinned q.pinPages } }
        else { q with dcache := { q.dcache with pinned := max q.dcache.pinned q.pinPages } }

/-- Commit a watermark in one model, and pin. -/
def commitMark (m : Module) (slot model w : Nat) : Module := pinPages (settleModel m slot model w) slot model

/-! ### Records (R267, R269, R271) -/

/-- Tokens go to the output buffer, then the record to the completion ring; a final record ends the request. -/
def postRecord (m : Module) (slot index : Nat) (v : Serving) (r : ResultEntry) : Module :=
  match m.slots.get slot with
  | none => m
  | some q =>
    let (out, stop) := deliverTokens v q r.tokens q.generated.length []
    let reason := reasonOf stop r
    let final := decide (reason ≠ 0)
    let g0 := q.generated.length
    let m := if out.isEmpty then m
      else regTake (emitBytes m q.fn (q.outAddr + 4 * g0) (out.flatMap fun t => leBytes t 4)) q.part 4 ((4 * out.length + 63) / 64)
    let m := setReq m slot fun q => { q with generated := q.generated ++ out, recordPending := true }
    let m := if final then setItem m q.item fun x => { x with st := .decided, status := some .done } else m
    let m := pushWaiting m q.fn q.ring
      { ref := q.item, tag := q.itemTag, status := .done, terminal := final, deadline := q.recordDeadline, step := some index
        detail := .val (out.length + recReason reason + if final then recFinal else 0) }
    if final then endRequest m slot else m

/-- The phase of a request after its main model's step (R288). -/
def Request.afterMain (q : Request) : Phase :=
  if q.main.mark < q.prompt.length then .prefill
  else if q.drafts = 0 then .decode
  else .draft

/-- The results of a main-model entry: watermark, tokens, record; a verify entry also moves the draft watermark (R271, R284,
R289, R290). -/
def takeMain (m : Module) (slot index : Nat) (v : Serving) (e : SetEntry) (r : ResultEntry) : Module :=
  match m.slots.get slot with
  | none => m
  | some q =>
    let w := q.main.mark
    let m := if e.kind = 2 then commitMark m slot q.model (e.firstPos + r.accepted + 1)
      else commitMark m slot q.model (e.firstPos + e.npos)
    let m := if e.kind = 2 then
        let m := m.setRegs q.part fun x =>
          { x with srvDrafted := satAdd x.srvDrafted (e.npos - 1), srvAccepted := satAdd x.srvAccepted r.accepted }
        commitMark m slot q.draftModel (w + min (r.accepted + 1) (e.npos - 1))
      else m
    let m := setReq m slot fun q =>
      { q with phase := q.afterMain, proposals := [], gstate := if q.selMode = 2 then r.gstate else q.gstate, inStep := none }
    postRecord m slot index v r

/-- The results of a draft-model entry: proposals for the verify step, or the draft watermark of a prefill chunk; no record
(R288, R289). -/
def takeDraft (m : Module) (slot : Nat) (e : SetEntry) (r : ResultEntry) : Module :=
  match m.slots.get slot with
  | none => m
  | some q =>
    if e.kind = 3 then
      setReq m slot fun q => { q with proposals := r.tokens, phase := .verify, inStep := none }
    else
      let m := commitMark m slot q.draftModel (e.firstPos + e.npos)
      if q.phase = .draftPrefill then
        setReq m slot fun q => { q with inStep := none, phase := if q.dcache.mark < q.main.mark then .draftPrefill else .prefill }
      else m

/-- A PAUSED record that was due after the step in flight follows now (R279). -/
def pauseAfter (m : Module) (slot : Nat) : Module :=
  match m.slots.get slot with
  | some q => if q.pauseDue && q.inStep.isNone && q.st != .ended then postPaused m slot else m
  | none => m

/-- One result entry of a run step (R269, R271). -/
def takeEntry (m : Module) (p : Nat) (rs : RunStep) (v : Serving) (j : Nat) (e : SetEntry) : Module :=
  match m.slots.get e.slot with
  | none => m
  | some q =>
    if q.st = .ended ∨ q.part ≠ p then m
    else if q.aborted ∨ q.orphan then releaseAborted (discardEntry m rs.model e.slot) e.slot
    else
      let r := resultEntry m p v rs.index j
      let m := noteRead m p (resultAddr v rs.index j) 128
      if !entryOk e r then
        let (d, m) := takeFree m
        failRequest (discardEntry m rs.model e.slot) e.slot .failFault (d % 4294967296)
      else if q.model = rs.model then pauseAfter (takeMain m e.slot rs.index v e r) e.slot
      else pauseAfter (takeDraft m e.slot e r) e.slot

/-- The serving record that an entry's request latched for a model. -/
def latchedSrv (m : Module) (model : Nat) (e : SetEntry) : Option Serving :=
  match m.slots.get e.slot with
  | some q => if q.model = model then q.srv else q.dsrv
  | none => none

/-- The result entries of one run step, in table order. -/
def takeRun (m : Module) (p : Nat) (rs : RunStep) : Module :=
  foldM ((range' 0 rs.entries.length).zip rs.entries) (fun m x =>
    match latchedSrv m rs.model x.2 with
    | some v => takeEntry m p rs v x.1 x.2
    | none => m) m

/-- STEP_RESULTS_PROCESS: the scheduler processes the results of a finished step; draft entries of prefill chunks settle before
the main model's entries post their records. -/
def stepResultsProcessFn (part : Nat) (m : Module) : Module :=
  let rs := (m.part part).results
  if rs.isEmpty || absent m 0 then m
  else if regEmpty m part 4 then hostWait m part
  else
    let isDraft (r : RunStep) : Bool := r.entries.any fun e => match m.slots.get e.slot with
      | some q => q.drafts != 0 && q.draftModel == r.model
      | none => false
    let m := m.setPart part fun x => { x with results := [] }
    foldM (rs.filter isDraft ++ rs.filter fun r => !isDraft r) (fun m r => takeRun m part r) m

/-- Execute STEP_RESULTS_PROCESS. -/
def execStepResultsProcess (part : Nat) (s : State) : Host.Outcome State Fault Refusal :=
  guarded (partOk part) (stepResultsProcessFn part) s

end Sys2Proof.Machine
end

