-- ==== Sys2Proof/Machine/Security.lean ====
section
/-! DEFINITION. Keys, attestation, the module record and debug: the messages of the security core and the JTAG port (16_security R434,
R435, R440 to R444, Tables 16.8 and 16.9). -/

namespace Sys2Proof.Machine

/-- A list of bytes brought to a length. -/
def fit (n : Nat) (l : List Byte) : List Byte := l.take n ++ List.replicate (n - l.length) 0

/-! ### Trust lists (R434, R435) -/

/-- The security core serves KEY_ENROL: a key at an offset of the staging area. -/
def enrolServe (fn : Nat) (msg : MgmtMsg) : Module → Module := pf0Message fn msg fun m =>
  let p := bodyField msg 0 1
  let slot := bodyField msg 1 1
  let off := bodyField msg 8 8
  if 64 ≤ p then respondBad m fn msg 0
  else if 8 ≤ slot then respondBad m fn msg 1
  else if stagingBytes < off + 2592 then respondBad m fn msg 8
  else
    let key := (m.fn 0).staging.bytes off 2592
    let id := keyIdOf key
    let twice := (range' 0 8).any fun s => s != slot && (match m.sec.keys.get (8 * p + s) with
      | some k => k.id == id
      | none => false)
    if twice then respondRej m fn msg .rejState
    else
      let m := m.setSec fun x => { x with keys := x.keys.put (8 * p + slot) (some { id := id, bytes := key }) }
      respondDone m fn msg (leBytes id 8)

/-- KEY_ENROL: MCODE 0x0110. -/
def keyEnrolFn (fn : Nat) (msg : MgmtMsg) (m : Module) : Module := mgmtRow fn msg 0x0110 1 (enrolServe fn msg) m

/-- Execute KEY_ENROL. -/
def execKeyEnrol (fn : Nat) (msg : MgmtMsg) (s : State) : Host.Outcome State Fault Refusal :=
  guarded (fnOk fn && msg.ok) (keyEnrolFn fn msg) s

/-- The security core serves KEY_REVOKE. -/
def revokeServe (fn : Nat) (msg : MgmtMsg) : Module → Module := pf0Message fn msg fun m =>
  let p := bodyField msg 0 1
  let slot := bodyField msg 1 1
  if 64 ≤ p then respondBad m fn msg 0
  else if 8 ≤ slot then respondBad m fn msg 1
  else respondDone (m.setSec fun x => { x with keys := x.keys.put (8 * p + slot) none }) fn msg []

/-- KEY_REVOKE: MCODE 0x0111. -/
def keyRevokeFn (fn : Nat) (msg : MgmtMsg) (m : Module) : Module := mgmtRow fn msg 0x0111 1 (revokeServe fn msg) m

/-- Execute KEY_REVOKE. -/
def execKeyRevoke (fn : Nat) (msg : MgmtMsg) (s : State) : Host.Outcome State Fault Refusal :=
  guarded (fnOk fn && msg.ok) (keyRevokeFn fn msg) s

/-! ### Attestation (R440, R441) -/

/-- The module record and its signature block, as the boot flash holds them (R433). -/
def recordBytes (m : Module) : List Byte := m.flash.record.bytes 0 m.flash.recordBytes
/-- The signature block of the module record. -/
def recordBlock (m : Module) : List Byte := m.flash.record.bytes m.flash.recordBytes sigBytes

/-- A signature block under the identity key (Tables 16.2 to 16.4). -/
def identityBlock (kind obj digest0 : Nat) : List Byte :=
  let st := leBytes kind 4 ++ leBytes 0 4 ++ leBytes obj 8 ++ leBytes digest0 64 ++ List.replicate 176 0
  leBytes 0x5A540C10 4 ++ leBytes 1 2 ++ leBytes kind 1 ++ [0] ++ leBytes (keyIdOf Config.identityKey) 8 ++ st ++
    fit 4627 (Config.idSign st) ++ List.replicate 29 0

/-- An entry of a report. -/
def reportEntry (a : Attested) : List Byte :=
  leBytes a.kind 1 ++ leBytes a.slot 1 ++ List.replicate 6 0 ++ leBytes a.obj 8 ++ leBytes a.stmt 16

/-- Processors whose images a report lists: scheduler, security, power management, and, for the control cores, that of cluster 0. -/
def reportProcs : List Nat := [0, 1, 2, 32]

/-- A processor of the module is DOWN. -/
def anyDown (m : Module) : Bool := m.fw.cells.any fun c => c.2.st == .down

/-- A report body (Table 16.8): the module alone (`part` none), or a partition with its entries from `first`. -/
def reportBody (m : Module) (fn : Nat) (part : Option Nat) (first : Nat) (nonce : List Byte) : List Byte × Nat × Bool :=
  let all := match part with
    | some p => (m.part p).attested
    | none => []
  let es := (all.drop first).take 256
  let cut := decide (first + es.length < all.length)
  let ids := match part with
    | some p => (range' 0 8).map fun s => keyIdAt m p s
    | none => List.replicate 8 0
  let flags := b2n cut + 2 * b2n m.sec.debug + 4 * b2n (anyDown m)
  let body := leBytes 0x5A540C13 4 ++ leBytes 1 2 ++ [BitVec.ofNat 8 (b2n part.isSome), BitVec.ofNat 8 (part.getD 0)] ++
    leBytes m.flash.serial 8 ++ fit 64 nonce ++ leBytes (sha3 (recordBytes m)) 64 ++
    (reportProcs.flatMap fun q => leBytes (m.proc q).digest 64) ++
    (reportProcs.flatMap fun q => leBytes (m.flash.slots.get (m.proc q).digestSlot).version 4) ++
    leBytes m.sec.minSvn 4 ++ leBytes m.sec.startCount 4 ++ leBytes m.tick.count 8 ++ leBytes (epochOf m fn) 2 ++
    leBytes es.length 2 ++ leBytes first 2 ++ [BitVec.ofNat 8 flags, 0] ++ (ids.flatMap fun i => leBytes i 8) ++
    List.replicate 8 0 ++ es.flatMap reportEntry
  (body, es.length, cut)

/-- The security core serves ATTEST: a VF attests its own partition, PF0 any partition or the module. -/
def attestServe (fn : Nat) (msg : MgmtMsg) (m : Module) : Module :=
  let scope := bodyField msg 0 1
  let addr := bodyField msg 8 8
  let part := if fn = 0 then some (bodyField msg 1 1) else ownPart m fn
  if 1 < scope then respondBad m fn msg 0
  else if fn ≠ 0 ∧ (scope = 0 ∨ part = none) then respondRej m fn msg .rejState
  else if fn = 0 ∧ scope = 1 ∧ 64 ≤ bodyField msg 1 1 then respondBad m fn msg 1
  else if addr % 4096 ≠ 0 then respondBad m fn msg 8
  else
    let (body, n, cut) := reportBody m fn (if scope = 1 then part else none) (bodyField msg 2 2) ((msg.body.drop 0x10).take 64)
    let m := emitBytes m fn addr body
    let m := emitBytes m fn (addr + 0x2200) (identityBlock 5 m.flash.serial (sha3 body))
    respondDone m fn msg (leBytes n 2 ++ [BitVec.ofNat 8 (b2n cut)])

/-- ATTEST: MCODE 0x0120. -/
def attestFn (fn : Nat) (msg : MgmtMsg) (m : Module) : Module := mgmtRow fn msg 0x0120 1 (attestServe fn msg) m

/-- Execute ATTEST. -/
def execAttest (fn : Nat) (msg : MgmtMsg) (s : State) : Host.Outcome State Fault Refusal :=
  guarded (fnOk fn && msg.ok) (attestFn fn msg) s

/-- The security core serves ID_GET: the module record, its block, the identity public key (R442). -/
def idServe (fn : Nat) (msg : MgmtMsg) (m : Module) : Module :=
  let addr := bodyField msg 0 8
  if addr % 4096 ≠ 0 then respondBad m fn msg 0
  else
    let m := emitBytes m fn addr (recordBytes m)
    let m := emitBytes m fn (addr + 0x10000) (recordBlock m)
    let m := emitBytes m fn (addr + 0x11400) (fit 2592 Config.identityKey)
    respondDone m fn msg (leBytes m.flash.recordBytes 4)

/-- ID_GET: MCODE 0x0121. -/
def idGetFn (fn : Nat) (msg : MgmtMsg) (m : Module) : Module := mgmtRow fn msg 0x0121 1 (idServe fn msg) m

/-- Execute ID_GET. -/
def execIdGet (fn : Nat) (msg : MgmtMsg) (s : State) : Host.Outcome State Fault Refusal :=
  guarded (fnOk fn && msg.ok) (idGetFn fn msg) s

/-! ### Debug (R443, R444) -/

/-- The security core serves DEBUG_UNLOCK: a token of this module and this start, with no partition enabled. -/
def debugServe (fn : Nat) (msg : MgmtMsg) : Module → Module := pf0Message fn msg fun m =>
  let off := bodyField msg 0 8
  if stagingBytes < off + sigBytes then respondBad m fn msg 0
  else if m.parts.cells.any fun c => c.2.regs.en then respondRej m fn msg .rejState
  else
    let b := (m.fn 0).staging.bytes off sigBytes
    let ok := vendorOk b 6 (sha3 (leBytes m.flash.serial 8 ++ leBytes m.sec.startCount 4)) && sigObject b == m.flash.serial
    if ok then respondDone (m.setSec fun x => { x with debug := true }) fn msg [] else respondRej m fn msg .rejSignature

/-- DEBUG_UNLOCK: MCODE 0x0130. -/
def debugUnlockFn (fn : Nat) (msg : MgmtMsg) (m : Module) : Module := mgmtRow fn msg 0x0130 1 (debugServe fn msg) m

/-- Execute DEBUG_UNLOCK. -/
def execDebugUnlock (fn : Nat) (msg : MgmtMsg) (s : State) : Host.Outcome State Fault Refusal :=
  guarded (fnOk fn && msg.ok) (debugUnlockFn fn msg) s

/-- Execute JTAG_ACCESS: boundary scan and IDCODE reach no state of the model; the bridge to the register space does nothing until
debug is unlocked, and then acts by the debug kit, which the manual does not publish. -/
def execJtagAccess (op : JtagOp) (s : State) : Host.Outcome State Fault Refusal :=
  match op with
  | .boundary => .next s
  | .idcode => .next s
  | .bridge => if s.m.sec.debug then .refused .debugKit else .next s

end Sys2Proof.Machine
end

