-- ==== Sys2Proof/Machine/Sideband.lean ====
section
/-! DEFINITION. The sideband mailbox: records in and out, the budget record and the slice record (13_fabric R362 to R373, 15_power R417,
R418, R420, 19_startup R495, R496, 20_package R508, R509). -/

namespace Sys2Proof.Machine

/-- The sideband answers: the always-on domain is out of reset (R508). -/
def sbUp (m : Module) : Bool := !m.power.dark && decide (1 ≤ m.start.stage)

/-- SB_ALERT_N is asserted (R509). -/
def sbAlert (m : Module) : Bool := sbUp m && !m.sb.out.isEmpty

/-- The sideband's static address, which is that of SETDASA too in I3C mode (R507). -/
def sbAddress (m : Module) : Nat := 0x50 + m.sb.addr % 8

/-! ### The budget record (R417, R418, R420) -/

/-- A record's CHECK, and that its sequence lies after the last one applied, if one was. -/
def checkOk (b : List Byte) : Bool := field b 0x3C 4 == crc32c (b.take 0x3C)

/-- The fields of a budget record keep Table 15.3. -/
def budgetOk (b : List Byte) : Bool :=
  checkOk b && field b 0 1 == 2 && field b 1 1 == 1 && field b 2 2 == 0 && inRange 1000 3600 (field b 8 2) &&
    inRange 1 3600 (field b 0xA 2) && inRange 20 1000 (field b 0xC 2) && field b 0xE 46 == 0

/-- L follows a budget record: a rise at once, a fall at the next boundary while boundaries are raised (R418). -/
def budgetLimit (m : Module) : Module :=
  let l := ({ m.power with fallPending := false } : Power).terms
  if l < m.power.limitW && !noBoundary m then setLimit (m.setPower fun w => { w with fallPending := true })
  else setLimit (m.setPower fun w => { w with fallPending := false })

/-- The slope of the module's own record: with ROLE 3 from the next boundary, or at once while none is raised; a manager orders it for
the slice; a worker or standby ignores it (R420). -/
def ownSlope (m : Module) (isNew : Bool) : Module :=
  let s := m.power.ownRamp
  match m.tick.role with
  | .norole =>
    if noBoundary m then m.setPower fun w => { w with slope := s, rampOrder := none }
    else m.setPower fun w => { w with rampOrder := some ⟨s, m.tick.count + 1⟩ }
  | .manager => if isNew then rampAll m s else m
  | _ => m

/-- Apply a budget record, or refuse it with PWR_STAT.BAD_WRITE. -/
def applyBudget (m : Module) (b : List Byte) : Module :=
  let rseq := BitVec.ofNat 32 (field b 4 4)
  if !budgetOk b || (m.sb.budgetApplied && !after32 rseq m.sb.rseq2) then m.setPower fun w => { w with badWrite := true }
  else
    let ramp := field b 0xC 2
    let isNew := ramp != m.power.ownRamp || !m.sb.budgetApplied
    let m := m.setSb fun s => { s with rseq2 := rseq, budgetApplied := true }
    let m := m.setPower fun w =>
      { w with
        budgetW := field b 8 2, leaseS := field b 0xA 2, leaseFrom := some m.tick.ns, leaseExpired := false
        ownRamp := ramp, lastRec := b, lastRecTick := m.tick.count }
    ownSlope (budgetLimit m) isNew

/-! ### The slice record (R362, R365, R366, R371 to R373, R496) -/

/-- Role of its code (Table 2.7). -/
def roleOf : Nat → Role
  | 0 => .worker
  | 1 => .standby
  | 2 => .manager
  | _ => .norole

/-- Three bytes as coordinates. -/
def coordAt (b : List Byte) (off : Nat) : Coord := ⟨field b off 1, field b (off + 1) 1, field b (off + 2) 1⟩

/-- The slice record of a mailbox entry. -/
def sliceOf (b : List Byte) : SliceRec :=
  { rseq := field b 4 4, slice := field b 8 4, mode3 := field b 0xC 1 == 1, dim := coordAt b 0xD, at_ := coordAt b 0x10
    role := roleOf (field b 0x13 1), mgr := coordAt b 0x14, linkEn := BitVec.ofNat 12 (field b 0x18 2) }

/-- Dimensions keep R362. -/
def dimsOk (mode3 : Bool) (d : Coord) : Bool :=
  let hi := if mode3 then 8 else 16
  inRange 1 hi d.x && inRange 1 hi d.y && inRange 1 hi d.z && (mode3 || d.z == 1) && decide (d.x * d.y * d.z ≤ 256)

/-- A slice record keeps Table 13.4 and R366. -/
def sliceOk (b : List Byte) : Bool :=
  let s := sliceOf b
  checkOk b && field b 0 1 == 1 && field b 1 1 == 1 && field b 2 2 == 0 && s.slice != 0 && decide (field b 0xC 1 ≤ 1) &&
    dimsOk s.mode3 s.dim && inSlice s s.at_ && inSlice s s.mgr && decide (field b 0x13 1 ≤ 3) &&
    (s.role != .manager || s.mgr == s.at_) && field b 0x17 1 == 0 && decide (field b 0x18 2 < 4096) && field b 0x1A 34 == 0

/-- Two records agree in what may not change while a job is open (R366). -/
def SliceRec.same (a b : SliceRec) : Bool :=
  a.slice == b.slice && a.mode3 == b.mode3 && a.dim == b.dim && a.at_ == b.at_ && a.linkEn == b.linkEn

/-- A record changes a fixed field while a partition has an open job. -/
def changesOpen (m : Module) (s : SliceRec) : Bool :=
  (m.fabParts.cells.any fun c => c.2.en) && (match m.fabric.slice with
    | some o => !o.same s
    | none => true)

/-- State of a link under a record: UNUSED on an axis of length 1, OFF when not named, else in training, unless the record changes
nothing that the link has checked. -/
def linkUnder (old : Option SliceRec) (s : SliceRec) (l : Nat) (k : Link) : Link :=
  let fresh : LinkState → Link := fun st => { k with st := st, tick := 0, replayBuf := [], replays := 0, peer := none, waiting := [], echo := 0, echoRx := 0 }
  let kept := match old with
    | some o => { o with linkEn := s.linkEn }.same s && o.linkEn.getLsbD l
    | none => false
  if coordAx s.dim (linkDir s.mode3 l).1 = 1 then fresh .unused
  else if !s.linkEn.getLsbD l then fresh .off
  else if kept then k else fresh .train

/-- Boundary 0 of a new time-base epoch: it launches nothing; halts, staged TA writes and the regulators take effect, and the tick's
check word goes out (R25, R47, R48, R351). -/
def boundaryZero (m : Module) : Module :=
  let m := hedgeSend m dieF 0 0 0
  let m := powerBoundary (applyStaged m)
  foldM m.parts.keys (fun m p => fillBuckets (preemptNow m p) p) m

/-- SYNC under a record: ROLE 2 on a FREE module starts the time-base epoch and tick 0, LOCKED; on a LOCKED module it begins a new
manager epoch (R371, R373). -/
def roleStarts (m : Module) (was : Role) : Module :=
  if m.tick.role ≠ .manager then m
  else match m.tick.sync with
    | .free =>
      boundaryZero ((m.setTick fun t =>
        { t with sync := .locked, epochNs := t.ns, count := 0, boundaryNs := t.ns, raisedNs := t.ns, armed := 0 }).setFabric
          fun f => { f with mgrEpoch := 0 })
    | .locked => if was = .manager then m else m.setFabric fun f => { f with mgrEpoch := (f.mgrEpoch + 1) % 65536 }
    | _ => m

/-- Apply a slice record, refuse it with FAB_STAT.REC_REFUSED, or ignore one that is not after the last applied. -/
def applySlice (m : Module) (b : List Byte) : Module :=
  let s := sliceOf b
  let rseq := BitVec.ofNat 32 s.rseq
  if !sliceOk b || changesOpen m s then m.setFabric fun f => { f with recRefused := true }
  else if m.fabric.slice.isSome && !after32 rseq m.sb.rseq1 then m
  else
    let old := m.fabric.slice
    let was := m.tick.role
    let m := m.setSb fun x => { x with rseq1 := rseq }
    let m := m.setTick fun t => { t with role := s.role }
    let m := m.setFabric fun f =>
      { f with
        slice := some s, deposed := false, follow := s.mgr
        links := (range' 0 12).foldl (fun ls l => ls.upd l (linkUnder old s l)) f.links }
    let m := refreshDomains (refreshRoles (roleStarts m was))
    if s.role = was then m
    else match s.role with
      | .norole => ownSlope m true
      | .manager => if m.power.ownRamp = m.power.slope then m else ownSlope m true
      | _ => m

/-! ### Held records (R495, R403) -/

/-- The power-management core applies the records that are held: the budget record, then the slice record. They wait while it is
absent, and before stage 0x06. -/
def applyHeld (m : Module) : Module :=
  if !loopRuns m || decide (m.start.stage < 6) || m.start.tripped then m
  else
    let budget := m.sb.heldBudget
    let slice := m.sb.heldSlice
    let m := m.setSb fun s => { s with heldBudget := none, heldSlice := none }
    let m := match budget with
      | some b => applyBudget m b
      | none => m
    match slice with
    | some b => applySlice m b
    | none => m

/-! ### Commands (Table 20.6) -/

/-- A read command is answered with bytes. -/
def sbAnswer (m : Module) (b : List Byte) : Module := if sbUp m then m.setSb fun s => { s with reply := b } else m

/-- SB_ID: HIF_ID of PF0. -/
def sbIdFn (m : Module) : Module := sbAnswer m (leBytes 0x41200010 4)

/-- Execute SB_ID. -/
def execSbId (s : State) : Host.Outcome State Fault Refusal := guarded true sbIdFn s

/-- Code of TICK_STAT.ROLE. -/
def Role.code : Role → Nat
  | .worker => 0
  | .standby => 1
  | .manager => 2
  | .norole => 3

/-- SB_STATUS. -/
def sbStatusFn (m : Module) : Module :=
  sbAnswer m (leBytes (b2n m.start.ready + 2 * b2n m.start.startFail + 4 * b2n m.start.tripped + 8 * b2n m.power.onBackup +
    16 * m.tick.sync.code + 64 * m.tick.role.code + 65536 * m.start.stage) 4)

/-- Execute SB_STATUS. -/
def execSbStatus (s : State) : Host.Outcome State Fault Refusal := guarded true sbStatusFn s

/-- SB_SERIAL. -/
def sbSerialFn (m : Module) : Module := sbAnswer m (leBytes m.flash.serial 8)

/-- Execute SB_SERIAL. -/
def execSbSerial (s : State) : Host.Outcome State Fault Refusal := guarded true sbSerialFn s

/-- SB_REC_IN: one 64-byte record of RTYPE 1 or 2 is held, in place of one of its type not yet applied; anything else is counted as
refused (R508). -/
def sbRecInFn (data : List Byte) (m : Module) : Module :=
  let t := field data 0 1
  if !sbUp m then m
  else if data.length ≠ 64 ∨ (t ≠ 1 ∧ t ≠ 2) then m.setSb fun s => { s with refused := satAdd s.refused 1 }
  else applyHeld (m.setSb fun s =>
    if t = 1 then { s with heldSlice := some data, lastSlice := some data } else { s with heldBudget := some data })

/-- Execute SB_REC_IN. -/
def execSbRecIn (data : List Byte) (s : State) : Host.Outcome State Fault Refusal := guarded true (sbRecInFn data) s

/-- SB_REC_STAT. -/
def sbRecStatFn (m : Module) : Module :=
  let held (o : Option (List Byte)) : Nat := match o with
    | some b => field b 4 4
    | none => 0
  sbAnswer m (leBytes m.sb.rseq1.toNat 4 ++ leBytes m.sb.rseq2.toNat 4 ++ leBytes (held m.sb.heldSlice) 4 ++
    leBytes (held m.sb.heldBudget) 4 ++ leBytes m.sb.refused 4)

/-- Execute SB_REC_STAT. -/
def execSbRecStat (s : State) : Host.Outcome State Fault Refusal := guarded true sbRecStatFn s

/-- An outbound record as bytes (Table 20.7). -/
def sbRecBytes (r : SbRec) : List Byte :=
  let head := leBytes r.rtype 1 ++ [1] ++ leBytes r.lost 2 ++ leBytes r.oseq 4 ++ leBytes r.tick 8 ++ fit' 44 r.body
  head ++ leBytes (crc32c head) 4
where
  /-- A body brought to its length with zeros. -/
  fit' (n : Nat) (l : List Byte) : List Byte := l.take n ++ List.replicate (n - l.length) 0

/-- SB_REC_OUT: the oldest outbound record, or zeros; reading removes nothing (R509). -/
def sbRecOutFn (m : Module) : Module :=
  sbAnswer m (match m.sb.out with
    | r :: _ => sbRecBytes r
    | [] => List.replicate 64 0)

/-- Execute SB_REC_OUT. -/
def execSbRecOut (s : State) : Host.Outcome State Fault Refusal := guarded true sbRecOutFn s

/-- SB_REC_ACK: removes the oldest record when OSEQ is its own. -/
def sbRecAckFn (oseq : Word) (m : Module) : Module :=
  if !sbUp m then m
  else match m.sb.out with
    | r :: rs => if r.oseq = oseq.toNat then m.setSb fun s => { s with out := rs } else m
    | [] => m

/-- Execute SB_REC_ACK. -/
def execSbRecAck (oseq : Word) (s : State) : Host.Outcome State Fault Refusal := guarded true (sbRecAckFn oseq) s

end Sys2Proof.Machine
end

