-- ==== Sys2Proof/Machine/Return.lean ====
section
/-! DEFINITION. The return of a firmware processor and the service of what waited for it (14_firmware R396, R398, R400 to R404,
11_host_interface R330). -/

namespace Sys2Proof.Machine

/-- Bytes that a cable answers when a message is served after its arrival: free (log 1). -/
def cableBytes (m : Module) : List Byte × Module :=
  ((range' 0 128).map fun i => Config.freeByte m.freeCtr i, { m with freeCtr := m.freeCtr + 1 })

/-- Serve a message by its MCODE (Tables 12.11, 13.8, 14.6, 15.7, 16.9). -/
def serveMsg (fn : Nat) (msg : MgmtMsg) (m : Module) : Module :=
  if msg.mcode = 0x0100 then stageServe fn msg m
  else if msg.mcode = 0x0101 then activateServe fn msg m
  else if msg.mcode = 0x0102 then slotsServe fn msg m
  else if msg.mcode = 0x0110 then enrolServe fn msg m
  else if msg.mcode = 0x0111 then revokeServe fn msg m
  else if msg.mcode = 0x0120 then attestServe fn msg m
  else if msg.mcode = 0x0121 then idServe fn msg m
  else if msg.mcode = 0x0130 then debugServe fn msg m
  else if msg.mcode = 0x0200 then runListServe fn msg m
  else if msg.mcode = 0x0201 then cgOwnerServe fn msg m
  else if msg.mcode = 0x0210 then fabLoadServe fn msg m
  else if msg.mcode = 0x0220 then qpSet fn msg m
  else if msg.mcode = 0x0221 then qpClear fn msg m
  else if msg.mcode = 0x0300 then domainsServe fn msg m
  else if msg.mcode = 0x0301 then recordServe fn msg m
  else if msg.mcode = 0x0310 then
    let (data, m) := cableBytes m
    cmisReadServe fn msg data m
  else if msg.mcode = 0x0311 then cmisWriteServe fn msg m
  else m

/-- Serve in order the messages of a function whose processors are all present; one that still waits holds back the later ones of its
target. `held` lists the targets held back. -/
def serveList (fn : Nat) : List MgmtMsg → List Nat → Module → Module
  | [], _, m => m
  | w :: ws, held, m =>
    if held.contains w.target || (msgNeeds w).any (absent m) then serveList fn ws (w.target :: held) m
    else
      let m := m.setFn fn fun x => { x with mgmtWait := x.mgmtWait.erase w }
      serveList fn ws held (serveMsg fn w m)

/-- Serve what waits on every function. -/
def serveWaiting (m : Module) : Module := foldM m.fns.keys (fun m f => serveList f (m.fn f).mgmtWait [] m) m

/-- A returned control core serves its holding queue: each re-placement request in order (R401). -/
def serveHolding (m : Module) (k : Nat) : Module :=
  let m := foldM (m.clu k).holding (fun m c =>
    foldM (m.ras.active.filter fun r => r.core = c && r.placed.isEmpty) (fun m r => doReplacement m r.part r.core) m) m
  resumeLoads (m.setClu k fun c => { c with holding := [] })

/-- A returned power-management core ends the safe operating point and applies the records that waited (R403). -/
def powerReturns (m : Module) : Module := applyHeld (setLimit (m.setPower fun w => { w with safe := false }))

/-- Power domain that a processor runs in (Table 15.2): the security core, the host die's switched logic, a cluster's common logic;
the power-management core is in the always-on domain. -/
def procDomain (proc : Nat) : Nat := if proc = 0 then 2651 else if proc = 1 then 2652 else if proc = 2 then 2661 else 2528 + proc

/-- FW_RETURN: a restarting processor writes its first heartbeat. Its state is RUNNING, its counters and the event give the absence, and
it serves what waited for it. A DOWN processor, or one whose domain is off, never returns. -/
def fwReturnFn (proc : Nat) (m : Module) : Module :=
  let y := m.proc proc
  if !procOut m proc || y.st == .running || y.st == .down || !m.power.domains.getLsbD (procDomain proc) then m
  else
    let us := (m.tick.ns - y.edgeNs) / 1000
    let m := m.setProc proc fun y =>
      { y with
        st := .running, limitPassed := false, misses := 0, lastAbsentUs := min us 0xFFFFFFFF, slot := y.digestSlot
        beatNs := m.tick.ns }
    let m := raise m 0x0602 noPart (dieOfProc proc) [proc, y.cause, us % 4294967296]
    let m := if proc = 2 then powerReturns m else if proc < 32 then m else serveHolding m (proc - 32)
    advanceActivation (dispatchAll (serveWaiting m))

/-- Execute FW_RETURN. -/
def execFwReturn (proc : Nat) (s : State) : Host.Outcome State Fault Refusal :=
  guarded (procOk proc) (fwReturnFn proc) s

end Sys2Proof.Machine
end

