-- ==== Sys2Proof/Machine/Startup.lean ====
section
/-! DEFINITION. Power-on and start-up, warm reset, the host port, clocks (19_startup R484 to R499, 16_security R428 to R433, 20_package
R505, R506, R510). -/

namespace Sys2Proof.Machine

/-- COLD_START: a feed has turned good on dead rails (R484). -/
def coldStartFn (m : Module) : Module := beginCold m

/-- Execute COLD_START. -/
def execColdStart (s : State) : Host.Outcome State Fault Refusal := guarded true coldStartFn s

/-- The start has completed stage `n` and goes on. -/
def atStage (m : Module) (n : Nat) : Bool :=
  !m.power.dark && !m.start.startFail && !m.start.tripped && m.start.stage == n

/-- A stage completes. -/
def toStage (m : Module) (n : Nat) : Module := m.setStart fun s => { s with stage := n }

/-- BUS_IN_REGULATION: stage 0x01. -/
def busInRegulationFn (m : Module) : Module :=
  if atStage m 0 then (toStage m 1).setPower fun w => { w with domains := startDomains } else m

/-- Execute BUS_IN_REGULATION. -/
def execBusInRegulation (s : State) : Host.Outcome State Fault Refusal := guarded true busInRegulationFn s

/-! ### The boot chain (R428 to R433) -/

/-- The module record is accepted (R433). -/
def recordAccepted (m : Module) : Bool :=
  vendorOk (recordBlock m) 2 (sha3 (recordBytes m)) && sigObject (recordBlock m) == m.flash.serial &&
    sha3 Config.identityKey == m.flash.idHash

/-- The bundle of a slot passes stage 4. -/
def slotOk (m : Module) (slot : Nat) : Bool :=
  (m.flash.slots.get slot).valid && decide (m.flash.minSvn ≤ (m.flash.slots.get slot).svn)

/-- Boot stage 4: the bundle of the active slot, or, with a BOOT_SLOT event, of the other; the digests are latched (R428, R429). -/
def bootFirmware (m : Module) : Module :=
  let a := m.flash.active
  let take (m : Module) (slot : Nat) : Module :=
    let m := { m with flash := { m.flash with active := slot, minSvn := max m.flash.minSvn (m.flash.slots.get slot).svn } }
    let m := m.setSec fun s => { s with minSvn := m.flash.minSvn }
    let m := foldM (range' 0 3 ++ range' 32 32) (fun m q => (latchImage m q slot).setProc q fun y => { y with slot := slot }) m
    (toStage m 5).setPower fun w => { w with domains := w.domains ||| BitVec.twoPow 2662 2651 }
  if slotOk m a then take m a
  else if slotOk m (1 - a) then
    let (v, m) := takeFree m
    raise (take m (1 - a)) 0x0605 noPart dieH [1, v % 256, 1 - a]
  else stopStart m

/-- BOOT_CHAIN: stages 0x02 to 0x05, each of which may stop the start. `puf` says that the root secret was rebuilt, `region` that the
replay-protected region passed its check. -/
def bootChainFn (puf region : Bool) (m : Module) : Module :=
  if !atStage m 1 then m
  else if !puf then stopStart m
  else
    let m := (toStage m 2).setSec fun s => { s with pufOk := true }
    if !region then stopStart m
    else
      let n := (m.flash.startCount + 1) % 4294967296
      let m := toStage { m with flash := { m.flash with startCount := n, writes := m.flash.writes + 1 } } 3
      let m := m.setSec fun s => { s with startCount := n, minSvn := m.flash.minSvn }
      if !recordAccepted m then stopStart m
      else bootFirmware ((toStage m 4).setSec fun s => { s with recordOk := true })

/-- Execute BOOT_CHAIN. -/
def execBootChain (puf region : Bool) (s : State) : Host.Outcome State Fault Refusal :=
  guarded true (bootChainFn puf region) s

/-! ### Stages 0x06 to 0x0B (R485 to R491) -/

/-- POWER_ON_DOMAINS: the held records are applied, and the remaining domains turn on (R485, R495). -/
def powerOnDomainsFn (m : Module) : Module :=
  if atStage m 5 then refreshDomains (applyHeld (toStage m 6)) else m

/-- Execute POWER_ON_DOMAINS. -/
def execPowerOnDomains (s : State) : Host.Outcome State Fault Refusal := guarded true powerOnDomainsFn s

/-- HEDGEROW_TRIM: every node's replica is loaded with 0. -/
def hedgerowTrimFn (m : Module) : Module :=
  if atStage m 6 then
    toStage { m with nodes := (range' 0 18).foldl (fun ns d => ns.upd d fun h => { h with replica := 0, replicaB := 0, reload := none, reloadB := none }) m.nodes } 7
  else m

/-- Execute HEDGEROW_TRIM. -/
def execHedgerowTrim (s : State) : Host.Outcome State Fault Refusal := guarded true hedgerowTrimFn s

/-- Numbers below `n` whose bit is set. -/
def bitsSet (b n : Nat) : List Nat := (range' 0 n).filter fun i => bit b i

/-- MEMORY_TRAINING: the stacks and PHY groups that trained are in service; one that failed is mapped out with a UNIT_LOSS event; without
any Sward stack the start stops (R486). -/
def memoryTrainingFn (sward : BitVec 8) (ley : BitVec 16) (m : Module) : Module :=
  if !atStage m 7 then m
  else if sward = 0 then stopStart m
  else
    let badS := bitsSet (~~~sward).toNat 8
    let badL := bitsSet (~~~ley).toNat 16
    let m := m.setUnits fun u =>
      { u with
        healthSward := sward, healthLey := ley
        capSward := swardUnitPages * (8 - badS.length), capLey := 4 * leyUnitPages * (16 - badL.length)
        lostLey := (badL.flatMap fun g => range' (4 * g) 4).foldl (fun b c => b ||| BitVec.twoPow 64 c) 0 }
    let m := foldM badS (fun m k => raise m 0x0306 noPart (8 + k) [0, k]) m
    toStage (foldM badL (fun m g => raise m 0x0306 noPart (8 + g / 2) [1, g]) m) 8

/-- Execute MEMORY_TRAINING. -/
def execMemoryTraining (sward : BitVec 8) (ley : BitVec 16) (s : State) : Host.Outcome State Fault Refusal :=
  guarded true (memoryTrainingFn sward ley) s

/-- The live core map of the start: LIVE_MAP without the fence list, in the clusters whose common domain is on (R22, R487). -/
def startMap (m : Module) : BitVec 2560 :=
  let on := (range' 0 32).foldl (fun b k =>
    if m.power.domains.getLsbD (2560 + k) then b ||| BitVec.ofNat 2560 ((2 ^ 80 - 1) * 2 ^ (80 * k)) else b) (0 : BitVec 2560)
  m.flash.fences.foldl (fun b c => b &&& ~~~(BitVec.twoPow 2560 c)) (m.flash.liveMap &&& on)

/-- CORE_TEST: the live core map is formed; a live core that fails its test is fenced and logged; CLU_ID.LIVE and RAS_LIVE_COUNT are
loaded (R487). -/
def coreTestFn (failed : List Nat) (m : Module) : Module :=
  if !atStage m 8 then m
  else
    let m := m.setRas fun r => { r with liveMap := startMap m }
    let m := foldM failed (fun m c => fence m c 3) m
    let count (f : Nat → Bool) : Nat := ((range' 0 2560).filter fun c => m.live c && f c).length
    let m := foldM (range' 0 32) (fun m k => m.setClu k fun c => { c with live := count fun x => clusterOf x = k }) m
    toStage (m.setRas fun r => { r with liveCount := count fun _ => true }) 9

/-- Execute CORE_TEST. -/
def execCoreTest (failed : List Nat) (s : State) : Host.Outcome State Fault Refusal :=
  guarded (failed.all coreOk) (coreTestFn failed) s

/-- Whole pages of a reported capacity in bytes, at most 4 TiB (R489). -/
def portCapacity (bytes : Nat) : Nat := min (bytes / 2097152) 2097152

/-- HEATH_ENUMERATION: `capacity` gives, for each port, what an accepted device reports. A port whose domain is on and that is not
accepted is left out with a UNIT_LOSS event (R489, R490). -/
def heathEnumerationFn (capacity : List (Option Nat)) (m : Module) : Module :=
  if !atStage m 9 then m
  else
    let m := foldM (range' 0 4) (fun m k =>
      if !m.power.domains.getLsbD (2632 + k) then m
      else match capacity.getD k none with
        | some c => m.setUnits fun u =>
            { u with
              healthHeath := u.healthHeath ||| BitVec.twoPow 4 k, portPages := u.portPages.put k (portCapacity c)
              capHeath := u.capHeath + portCapacity c }
        | none => raise m 0x0306 noPart dieH [2, k]) m
    toStage m 10

/-- Execute HEATH_ENUMERATION. -/
def execHeathEnumeration (capacity : List (Option Nat)) (s : State) : Host.Outcome State Fault Refusal :=
  guarded (decide (capacity.length = 4)) (heathEnumerationFn capacity) s

/-- The start log goes to PF0's event ring, in order; what did not fit it is counted by the next record (R488). -/
def flushLog (m : Module) : Module :=
  let log := m.start.log
  let lost := m.start.logLost
  let m := m.setStart fun s => { s with ringUp := true, log := [], logLost := 0 }
  let m := foldM log (fun m e => writeEvent m 0 e.code e.part e.tick e.die e.unit e.payload) m
  m.setFn 0 fun f => { f with evtLostNow := f.evtLostNow + lost }

/-- READY: stage 0x0B (R491). -/
def readyFn (m : Module) : Module :=
  if atStage m 10 then refreshDomains (flushLog ((toStage m 11).setStart fun s => { s with ready := true })) else m

/-- Execute READY. -/
def execReady (s : State) : Host.Outcome State Fault Refusal := guarded true readyFn s

/-- START_STOP: a stage fails (R492). -/
def startStopFn (m : Module) : Module :=
  if m.power.dark || m.start.startFail || m.start.tripped || m.start.ready then m else stopStart m

/-- Execute START_STOP. -/
def execStartStop (s : State) : Host.Outcome State Fault Refusal := guarded true startStopFn s

/-! ### Warm reset and thermal restart (R498, R499, R510) -/

/-- The three fields of SB_ORDER agree (R510). -/
def orderAgrees (m : Module) (code : Nat) (order inverse : BitVec 8) (serial : BitVec 16) : Bool :=
  sbUp m && order.toNat == code && inverse == ~~~order && serial.toNat == m.flash.serial % 65536

/-- The module as a warm reset leaves it at the row of stage 0x01: what R499 keeps, the last slice record held again. -/
def warmStart (m : Module) : Module :=
  let m := switchedOff m
  let m := m.setSb fun s => { s with heldSlice := s.heldSlice.or s.lastSlice, rseq1 := 0 }
  let m := m.setStart fun s => { s with stage := 1, sysclk := true }
  m.setPower fun w => { w with domains := startDomains }

/-- WARM_RESET: SB_ORDER 0x01, refused while TRIPPED is 1. -/
def warmResetFn (order inverse : BitVec 8) (serial : BitVec 16) (m : Module) : Module :=
  if orderAgrees m 1 order inverse serial && !m.start.tripped then warmStart m else m

/-- Execute WARM_RESET. -/
def execWarmReset (order inverse : BitVec 8) (serial : BitVec 16) (s : State) : Host.Outcome State Fault Refusal :=
  guarded true (warmResetFn order inverse serial) s

/-- THERMAL_RESTART: SB_ORDER 0x02 after a thermal trip, once every sensor reads below 85 °C: a start from power-on (R424, R510). -/
def thermalRestartFn (order inverse : BitVec 8) (serial : BitVec 16) (m : Module) : Module :=
  if orderAgrees m 2 order inverse serial && m.start.tripped && decide (m.power.tempDeg < 85) then beginCold (goDark m) else m

/-- Execute THERMAL_RESTART. -/
def execThermalRestart (order inverse : BitVec 8) (serial : BitVec 16) (s : State) : Host.Outcome State Fault Refusal :=
  guarded true (thermalRestartFn order inverse serial) s

/-! ### The host port (R291, R493, R494, R506) -/

/-- The host port is reset: the link is down; after READY every function is reset without a final ledger. What PCI Express resets with
it returns to its reset value (log 4). -/
def portReset (m : Module) : Module :=
  let m := if m.start.ready then foldM (range' 0 (m.start.numVfs + 1)) (fun m f => beginReset m f false) m else m
  let m := m.setStart fun s => { s with linkUp := false, numVfs := 0, cfgRetry := none }
  { m with fns := m.fns.mapV fun _ f => { f with d3 := false, relaxed := false, aerAbort := false } }

/-- PERST_ASSERT. -/
def perstAssertFn (m : Module) : Module := portReset (m.setStart fun s => { s with perst := true })

/-- Execute PERST_ASSERT. -/
def execPerstAssert (s : State) : Host.Outcome State Fault Refusal := guarded true perstAssertFn s

/-- PERST_DEASSERT: with a stable reference clock the port trains its link. -/
def perstDeassertFn (m : Module) : Module := m.setStart fun s => { s with perst := false }

/-- Execute PERST_DEASSERT. -/
def execPerstDeassert (s : State) : Host.Outcome State Fault Refusal := guarded true perstDeassertFn s

/-- REFCLK_LOSS: as an assertion of PERST_N (R506). -/
def refclkLossFn (m : Module) : Module := portReset (m.setStart fun s => { s with refclk := false })

/-- Execute REFCLK_LOSS. -/
def execRefclkLoss (s : State) : Host.Outcome State Fault Refusal := guarded true refclkLossFn s

/-- REFCLK_STABLE. -/
def refclkStableFn (m : Module) : Module := m.setStart fun s => { s with refclk := true }

/-- Execute REFCLK_STABLE. -/
def execRefclkStable (s : State) : Host.Outcome State Fault Refusal := guarded true refclkStableFn s

/-- HOST_LINK_UP: training completes at a width and a rate; below ×4 at 128 GT/s the link is degraded, which an event reports (R291,
Table 18.6). -/
def hostLinkUpFn (width speed : BitVec 2) (m : Module) : Module :=
  if m.start.perst || !m.start.refclk || m.start.linkUp || !m.power.domains.getLsbD 2636 || m.ras.lostDies.contains dieH then m
  else
    let low := decide (width.toNat < 2 ∨ speed.toNat < 2)
    let m := m.setStart fun s =>
      { s with linkUp := true, width := width.toNat, speed := speed.toNat, degraded := low }
    if low then configRefused m noPart 0 6 else m

/-- Execute HOST_LINK_UP. -/
def execHostLinkUp (width speed : BitVec 2) (s : State) : Host.Outcome State Fault Refusal :=
  guarded true (hostLinkUpFn width speed) s

/-- HOST_LINK_DOWN: the link goes down in service; no function is reset. -/
def hostLinkDownFn (m : Module) : Module := hostLinkLost m

/-- Execute HOST_LINK_DOWN. -/
def execHostLinkDown (s : State) : Host.Outcome State Fault Refusal := guarded true hostLinkDownFn s

/-- What a configuration request does once it is answered normally (R291, R292). -/
def configAct (m : Module) : CfgReq → Module
  | .read _ _ => m
  | .numVfs n =>
    if m.start.startFail then m
    else
      let gone := range' (n + 1) (m.start.numVfs - n)
      (foldM gone (fun m f => beginReset m f true) m).setStart fun s => { s with numVfs := n }
  | .devCtl f r => if reaches m f || (m.fn f).d3 then m.setFn f fun x => { x with relaxed := r } else m
  | .power f d => if decide (f ≤ m.start.numVfs) then m.setFn f fun x => { x with d3 := d } else m
  | .other _ _ => m

/-- CONFIGURATION_REQUEST: Retry Status until stage 0x04 completes or the start stops, then a normal answer (R493). -/
def configurationRequestFn (req : CfgReq) (m : Module) : Module :=
  if !m.start.linkUp || m.start.perst then m
  else if m.start.stage < 4 && !m.start.startFail then m.setStart fun s => { s with cfgRetry := some true }
  else configAct (m.setStart fun s => { s with cfgRetry := some false }) req

/-- Execute CONFIGURATION_REQUEST. -/
def execConfigurationRequest (req : CfgReq) (s : State) : Host.Outcome State Fault Refusal :=
  guarded (req.ok) (configurationRequestFn req) s

/-! ### Clocks and expanders (R414, R489, R506) -/

/-- SYSCLK_LOSS: every core halts, FAULT_N, the record; the slice sees the module vanish; only a warm reset or a cold start brings it
back. -/
def sysclkLossFn (m : Module) : Module :=
  if m.power.dark || !m.start.sysclk || m.start.stage == 0 || m.start.tripped then m
  else
    let m := sbQueue (linksOff (haltAll m)) 0x85 []
    let m := m.setTick fun t => { t with sync := .free }
    m.setStart fun s => { s with sysclk := false, faultN := true, ready := false }

/-- Execute SYSCLK_LOSS. -/
def execSysclkLoss (s : State) : Host.Outcome State Fault Refusal := guarded true sysclkLossFn s

/-- CXL_PRSNT_CHANGE: the port's domain follows; an expander that is taken away stops answering. -/
def cxlPrsntChangeFn (port : BitVec 2) (attached : Bool) (m : Module) : Module :=
  let k := port.toNat
  let m := m.setStart fun s =>
    { s with cxlPrsnt := if attached then s.cxlPrsnt ||| BitVec.twoPow 4 k else s.cxlPrsnt &&& ~~~(BitVec.twoPow 4 k) }
  refreshDomains (if attached then m else loseHeath m k)

/-- Execute CXL_PRSNT_CHANGE. -/
def execCxlPrsntChange (port : BitVec 2) (attached : Bool) (s : State) : Host.Outcome State Fault Refusal :=
  guarded true (cxlPrsntChangeFn port attached) s

end Sys2Proof.Machine
end

