-- ==== Sys2Proof/Machine/VectorArith.lean ====
section
/-! DEFINITION. FALU, IALU, CMP, CVT, XF and RED instructions of the vector engine (05_vector_engine R122 to R130). -/

namespace Sys2Proof.Machine

/-! ### Lane operations -/

/-- Source B: vector lane, or the low 32 bits of scalar sB broadcast. -/
def aluB (o : AluOps) (v : Ve) (l : Nat) : BitVec 32 :=
  if o.bs then v.low o.b.toNat else v.lane o.b.toNat l

/-- Scoreboard key of source B. -/
def keyB (o : ThreeOps) (bs : Bool) : Nat := if bs then keyS o.b.toNat else keyV o.b.toNat

/-- An instruction that computes one result per active lane and writes vector register D. -/
def laneOp (core : Nat) (o : ThreeOps) (srcs : List Nat) (interval latency : Nat) (f : Ve → Nat → LaneOut)
    (m : Module) : Module :=
  issue m core (mskKey o ++ srcs) [keyV o.d.toNat] interval latency fun m =>
    let v := (m.core core).ve
    let outs := (v.actives o.msk.toNat).map fun l => (l, f v l)
    let m := m.setVe core fun w => w.writeLanes o fun l => (f v l).val
    countOuts m core (outs.map (·.2))

/-- FALU with two sources. -/
def falu2 (core : Nat) (o : AluOps) (f : F32 → F32 → F32) (m : Module) : Module :=
  laneOp core o.toThreeOps [keyV o.a.toNat, keyB o.toThreeOps o.bs] 1 4 (fun v l =>
    let a := v.lane o.a.toNat l
    let b := aluB o v l
    fpOut [a, b] (f a b)) m

/-- FALU with one source, which changes bits without arithmetic. -/
def falu1 (core : Nat) (o : AluOps) (f : F32 → F32) (m : Module) : Module :=
  laneOp core o.toThreeOps [keyV o.a.toNat] 1 4 (fun v l => rawOut (f (v.lane o.a.toNat l))) m

/-- IALU with two sources. -/
def ialu (core : Nat) (o : AluOps) (interval latency : Nat) (f : BitVec 32 → BitVec 32 → BitVec 32) (m : Module) :
    Module :=
  laneOp core o.toThreeOps [keyV o.a.toNat, keyB o.toThreeOps o.bs] interval latency (fun v l =>
    rawOut (f (v.lane o.a.toNat l) (aluB o v l))) m

/-- The lanes of a compare: bit `i` set when lane `i` is active and the predicate holds (R124). -/
def cmpMask (v : Ve) (o : CmpOps) (f : CmpFn) : BitVec 64 :=
  (v.actives o.msk.toNat).foldl (fun acc l =>
    let a := v.lane o.a.toNat l
    let b := if o.bs then v.low o.b.toNat else v.lane o.b.toNat l
    if (if o.int then f.int o.uns a b else f.fp a b) then acc ||| BitVec.twoPow 64 l else acc) 0

/-- CMP. -/
def cmpOp (core : Nat) (o : CmpOps) (f : CmpFn) (m : Module) : Module :=
  issueVe m core (mskKey o.toThreeOps ++ [keyV o.a.toNat, keyB o.toThreeOps o.bs]) [keyM o.d.toNat] 1 2 fun v =>
    v.setMask o.d.toNat (cmpMask v o f)

/-! ### Conversions (R125 to R127) -/

/-- Source number of lane `l` of a CVT, dequantised with its block's scale byte (R70, R125). -/
def cvtSrc (v : Ve) (o : CvtOps) (l : Nat) : Num :=
  let s := o.src.toNat
  if narrowFmt s then
    let w := fmtWidth s
    let x := decodeFmt s (bits (v.regNat o.a.toNat) (packedAt o.part.toNat w l) w)
    scaled (bits (v.regNat o.s.toNat) (8 * (2 * o.part.toNat + l / 32)) 8) x
  else decodeFmt s ((v.lane o.a.toNat l).toNat % 2 ^ fmtWidth s)

/-- Random number of lane `l` (R65, R127). -/
def cvtRand (v : Ve) (o : CvtOps) (l : Nat) : Nat :=
  srRandom v.seed.toNat v.stream.toNat (((v.scalar o.idxreg.toNat).toNat + l) % 2 ^ 48)

/-- Result of a destination block `j` (lanes 32j to 32j + 31): the scale byte, and each active lane's element. -/
def cvtBlock (v : Ve) (o : CvtOps) (j : Nat) : Nat × List (Nat × Rounded) :=
  let ls := (v.actives o.msk.toNat).filter fun l => l / 32 = j
  if ls = [] then (127, [])
  else
    let r := quantiseBlock o.dst.toNat o.rmode.toNat o.satfin (if o.auto then none else some o.scale.toNat)
      (ls.map fun l => (cvtSrc v o l, cvtRand v o l))
    (r.1, ls.zip r.2)

/-- CVT to a narrow format or INT8: packed elements of group PART of D, scale bytes 8 + 2 × PART and 9 + 2 × PART of S. -/
def cvtPacked (v : Ve) (o : CvtOps) : Ve × List Rounded :=
  let w := fmtWidth o.dst.toNat
  let b0 := cvtBlock v o 0
  let b1 := cvtBlock v o 1
  let els := b0.2 ++ b1.2
  let base := v.regNat o.d.toNat
  let zeroed := v.belowVl.foldl (fun n l =>
    if !v.active o.msk.toNat l && o.zm then setBits n (packedAt o.part.toNat w l) w 0 else n) base
  let d := els.foldl (fun n e => setBits n (packedAt o.part.toNat w e.1) w e.2.code) zeroed
  let v := v.setRegNat o.d.toNat d
  let s := setBits (v.regNat o.s.toNat) (8 * (8 + 2 * o.part.toNat)) 8 b0.1
  let s := setBits s (8 * (9 + 2 * o.part.toNat)) 8 b1.1
  (v.setRegNat o.s.toNat s, els.map (·.2))

/-- CVT to a lane-form format. -/
def cvtLanes (v : Ve) (o : CvtOps) : Ve × List Rounded :=
  let f := fun l => convertWide o.dst.toNat o.rmode.toNat (cvtRand v o l) (codeD o.src.toNat o.dst.toNat) (cvtSrc v o l)
  (v.writeLanes o.toThreeOps fun l => BitVec.ofNat 32 (f l).code, (v.actives o.msk.toNat).map f)

/-- CVT (R125). -/
def cvtOp (core : Nat) (o : CvtOps) (m : Module) : Module :=
  let srcs := mskKey o.toThreeOps ++ [keyV o.a.toNat] ++ (if narrowFmt o.src.toNat then [keyV o.s.toNat] else []) ++
    (if o.rmode.toNat = 4 then [keyS o.idxreg.toNat] else [])
  let packed := narrowFmt o.dst.toNat
  let dsts := keyV o.d.toNat :: (if packed then [keyV o.s.toNat] else [])
  let auto := o.auto && (packed || narrowFmt o.src.toNat)
  issue m core srcs dsts (if auto then 2 else 1) (if auto then 8 else 6) fun m =>
    let v := (m.core core).ve
    let r := if packed then cvtPacked v o else cvtLanes v o
    let m := m.setVe core fun _ => r.1
    countAx m core (r.2.filter (·.sat)).length (r.2.filter (·.nan)).length (r.2.filter (·.inf)).length

/-- XF (R128). -/
def xfOp (core : Nat) (o : ThreeOps) (f : XfFn) (m : Module) : Module :=
  laneOp core o [keyV o.a.toNat] 4 16 (fun v l =>
    let a := v.lane o.a.toNat l
    let r := xf f a
    { val := r, nan := r.num.isNan, inf := r.num.isInf && (xfSpecial f (F32.num a)).isNone }) m

/-! ### Reductions (R129, R130) -/

/-- A reduction: a function of the active lanes of A in increasing index, into scalar D and, for a pair, D + 1. -/
def redOp (core : Nat) (o : ThreeOps) (pair useA useB fp : Bool) (interval latency : Nat) (f : Ve → Ve)
    (m : Module) : Module :=
  let ds := keyS o.d.toNat :: (if pair then [keyS (o.d.toNat + 1)] else [])
  issue m core (mskKey o ++ (if useA then [keyV o.a.toNat] else []) ++ (if useB then [keyS o.b.toNat] else []) ++ ds)
    ds interval latency fun m =>
      let v := (m.core core).ve
      let w := f v
      let m := m.setVe core fun _ => w
      if fp then
        countOuts m core [fpOut (v.low o.d.toNat :: (if useA then (v.actives o.msk.toNat).map (v.lane o.a.toNat) else []))
          (w.low o.d.toNat)]
      else m

/-- The (S, C) pair of RSUM after the active lanes. -/
def rsumPair (v : Ve) (o : ThreeOps) : F32 × F32 :=
  (v.actives o.msk.toNat).foldl (fun p l => combineHiLo p.1 p.2 (v.lane o.a.toNat l) 0)
    (v.low o.d.toNat, v.low (o.d.toNat + 1))

/-- Write an (S, C) pair to scalars D and D + 1. -/
def Ve.setPair (v : Ve) (d : Nat) (a b : BitVec 64) : Ve := (v.setScalar d a).setScalar (d + 1) b

/-- RAMAX: a lane replaces the held pair (R130). The two zeros are equal values here, so that the lower index decides between them
(DESIGN CHOICE, log 75: R130 orders −0 below +0 for RMAX and RMIN and says nothing of RAMAX). -/
def ramaxBeats (v : F32) (i : BitVec 64) (hv : F32) (hi : BitVec 64) : Bool :=
  match v.num.isNan, hv.num.isNan with
  | true, true => decide (i < hi)
  | true, false => true
  | false, true => false
  | false, false =>
    let c := v.num.cmp hv.num
    decide (0 < c) || (c == 0 && decide (i < hi))

/-- The pair of RAMAX after the active lanes; a NaN that wins is held as the canonical NaN (R59, R130). -/
def ramaxPair (v : Ve) (o : ThreeOps) : F32 × BitVec 64 :=
  (v.actives o.msk.toNat).foldl (fun p l =>
    let x := v.lane o.a.toNat l
    let i := v.scalar o.b.toNat + BitVec.ofNat 64 l
    if ramaxBeats x i p.1 p.2 then (if F32.num x |>.isNan then nan32 else x, i) else p) (v.low o.d.toNat, v.scalar (o.d.toNat + 1))

/-! ### Meanings: FALU (R122) -/

def execFaluAdd (core : Nat) (o : AluOps) (s : State) : Host.Outcome State Fault Refusal :=
  guarded (coreOk core) (falu2 core o fadd) s
def execFaluSub (core : Nat) (o : AluOps) (s : State) : Host.Outcome State Fault Refusal :=
  guarded (coreOk core) (falu2 core o fsub) s
def execFaluMul (core : Nat) (o : AluOps) (s : State) : Host.Outcome State Fault Refusal :=
  guarded (coreOk core) (falu2 core o fmul) s
def execFaluFma (core : Nat) (o : AluOps) (s : State) : Host.Outcome State Fault Refusal :=
  guarded (coreOk core) (laneOp core o.toThreeOps
    [keyV o.a.toNat, keyB o.toThreeOps o.bs, keyV o.c.toNat] 2 6 (fun v l =>
      let a := v.lane o.a.toNat l
      let b := aluB o v l
      let c := v.lane o.c.toNat l
      fpOut [a, b, c] (ffma a b c))) s
def execFaluMin (core : Nat) (o : AluOps) (s : State) : Host.Outcome State Fault Refusal :=
  guarded (coreOk core) (falu2 core o fmin) s
def execFaluMax (core : Nat) (o : AluOps) (s : State) : Host.Outcome State Fault Refusal :=
  guarded (coreOk core) (falu2 core o fmax) s
def execFaluAbs (core : Nat) (o : AluOps) (s : State) : Host.Outcome State Fault Refusal :=
  guarded (coreOk core) (falu1 core o (· &&& 0x7FFFFFFF)) s
def execFaluNeg (core : Nat) (o : AluOps) (s : State) : Host.Outcome State Fault Refusal :=
  guarded (coreOk core) (falu1 core o (· ^^^ 0x80000000)) s
def execFaluMov (core : Nat) (o : AluOps) (s : State) : Host.Outcome State Fault Refusal :=
  guarded (coreOk core) (falu1 core o id) s

/-! ### Meanings: IALU (R123) -/

def execIaluAdd (core : Nat) (o : AluOps) (s : State) : Host.Outcome State Fault Refusal :=
  guarded (coreOk core) (ialu core o 1 2 (· + ·)) s
def execIaluSub (core : Nat) (o : AluOps) (s : State) : Host.Outcome State Fault Refusal :=
  guarded (coreOk core) (ialu core o 1 2 (· - ·)) s
def execIaluMul (core : Nat) (o : AluOps) (s : State) : Host.Outcome State Fault Refusal :=
  guarded (coreOk core) (ialu core o 2 4 (· * ·)) s
def execIaluAnd (core : Nat) (o : AluOps) (s : State) : Host.Outcome State Fault Refusal :=
  guarded (coreOk core) (ialu core o 1 2 (· &&& ·)) s
def execIaluOr (core : Nat) (o : AluOps) (s : State) : Host.Outcome State Fault Refusal :=
  guarded (coreOk core) (ialu core o 1 2 (· ||| ·)) s
def execIaluXor (core : Nat) (o : AluOps) (s : State) : Host.Outcome State Fault Refusal :=
  guarded (coreOk core) (ialu core o 1 2 (· ^^^ ·)) s
def execIaluShl (core : Nat) (o : AluOps) (s : State) : Host.Outcome State Fault Refusal :=
  guarded (coreOk core) (ialu core o 1 2 fun a b => a <<< (b.toNat % 32)) s
def execIaluShr (core : Nat) (o : AluOps) (s : State) : Host.Outcome State Fault Refusal :=
  guarded (coreOk core) (ialu core o 1 2 fun a b => a >>> (b.toNat % 32)) s
def execIaluSra (core : Nat) (o : AluOps) (s : State) : Host.Outcome State Fault Refusal :=
  guarded (coreOk core) (ialu core o 1 2 fun a b => a.sshiftRight (b.toNat % 32)) s
def execIaluMin (core : Nat) (o : AluOps) (s : State) : Host.Outcome State Fault Refusal :=
  guarded (coreOk core) (ialu core o 1 2 fun a b => if a.toInt ≤ b.toInt then a else b) s
def execIaluMax (core : Nat) (o : AluOps) (s : State) : Host.Outcome State Fault Refusal :=
  guarded (coreOk core) (ialu core o 1 2 fun a b => if a.toInt ≤ b.toInt then b else a) s
def execIaluMinu (core : Nat) (o : AluOps) (s : State) : Host.Outcome State Fault Refusal :=
  guarded (coreOk core) (ialu core o 1 2 fun a b => if a ≤ b then a else b) s
def execIaluMaxu (core : Nat) (o : AluOps) (s : State) : Host.Outcome State Fault Refusal :=
  guarded (coreOk core) (ialu core o 1 2 fun a b => if a ≤ b then b else a) s

/-! ### Meanings: CMP (R124) -/

def execCmpEq (core : Nat) (o : CmpOps) (s : State) : Host.Outcome State Fault Refusal :=
  guarded (coreOk core && o.ok) (cmpOp core o .eq) s
def execCmpNe (core : Nat) (o : CmpOps) (s : State) : Host.Outcome State Fault Refusal :=
  guarded (coreOk core && o.ok) (cmpOp core o .ne) s
def execCmpLt (core : Nat) (o : CmpOps) (s : State) : Host.Outcome State Fault Refusal :=
  guarded (coreOk core && o.ok) (cmpOp core o .lt) s
def execCmpLe (core : Nat) (o : CmpOps) (s : State) : Host.Outcome State Fault Refusal :=
  guarded (coreOk core && o.ok) (cmpOp core o .le) s
def execCmpGt (core : Nat) (o : CmpOps) (s : State) : Host.Outcome State Fault Refusal :=
  guarded (coreOk core && o.ok) (cmpOp core o .gt) s
def execCmpGe (core : Nat) (o : CmpOps) (s : State) : Host.Outcome State Fault Refusal :=
  guarded (coreOk core && o.ok) (cmpOp core o .ge) s
def execCmpUnord (core : Nat) (o : CmpOps) (s : State) : Host.Outcome State Fault Refusal :=
  guarded (coreOk core && o.ok && !o.int) (cmpOp core o .unord) s
def execCmpOrd (core : Nat) (o : CmpOps) (s : State) : Host.Outcome State Fault Refusal :=
  guarded (coreOk core && o.ok && !o.int) (cmpOp core o .ord) s

/-! ### Meanings: CVT and XF (R125, R128) -/

def execCvt (core : Nat) (o : CvtOps) (s : State) : Host.Outcome State Fault Refusal :=
  guarded (coreOk core && o.ok) (cvtOp core o) s
def execExp (core : Nat) (o : ThreeOps) (s : State) : Host.Outcome State Fault Refusal :=
  guarded (coreOk core) (xfOp core o .exp) s
def execExp2 (core : Nat) (o : ThreeOps) (s : State) : Host.Outcome State Fault Refusal :=
  guarded (coreOk core) (xfOp core o .exp2) s
def execLog (core : Nat) (o : ThreeOps) (s : State) : Host.Outcome State Fault Refusal :=
  guarded (coreOk core) (xfOp core o .log) s
def execLog2 (core : Nat) (o : ThreeOps) (s : State) : Host.Outcome State Fault Refusal :=
  guarded (coreOk core) (xfOp core o .log2) s
def execRcp (core : Nat) (o : ThreeOps) (s : State) : Host.Outcome State Fault Refusal :=
  guarded (coreOk core) (xfOp core o .rcp) s
def execRsqrt (core : Nat) (o : ThreeOps) (s : State) : Host.Outcome State Fault Refusal :=
  guarded (coreOk core) (xfOp core o .rsqrt) s
def execSqrt (core : Nat) (o : ThreeOps) (s : State) : Host.Outcome State Fault Refusal :=
  guarded (coreOk core) (xfOp core o .sqrt) s
def execTanh (core : Nat) (o : ThreeOps) (s : State) : Host.Outcome State Fault Refusal :=
  guarded (coreOk core) (xfOp core o .tanh) s
def execSigmoid (core : Nat) (o : ThreeOps) (s : State) : Host.Outcome State Fault Refusal :=
  guarded (coreOk core) (xfOp core o .sigmoid) s
def execSin (core : Nat) (o : ThreeOps) (s : State) : Host.Outcome State Fault Refusal :=
  guarded (coreOk core) (xfOp core o .sin) s
def execCos (core : Nat) (o : ThreeOps) (s : State) : Host.Outcome State Fault Refusal :=
  guarded (coreOk core) (xfOp core o .cos) s
def execErf (core : Nat) (o : ThreeOps) (s : State) : Host.Outcome State Fault Refusal :=
  guarded (coreOk core) (xfOp core o .erf) s

/-! ### Meanings: RED (R129, R130) -/

def execRsum (core : Nat) (o : ThreeOps) (s : State) : Host.Outcome State Fault Refusal :=
  guarded (coreOk core && o.evenD) (redOp core o true true false true 8 12 fun v =>
    let p := rsumPair v o
    v.setPair o.d.toNat (p.1.setWidth 64) (p.2.setWidth 64)) s
def execRmax (core : Nat) (o : ThreeOps) (s : State) : Host.Outcome State Fault Refusal :=
  guarded (coreOk core) (redOp core o false true false true 2 6 fun v =>
    v.setScalar o.d.toNat (((v.actives o.msk.toNat).foldl (fun x l => fmax x (v.lane o.a.toNat l))
      (v.low o.d.toNat)).setWidth 64)) s
def execRmin (core : Nat) (o : ThreeOps) (s : State) : Host.Outcome State Fault Refusal :=
  guarded (coreOk core) (redOp core o false true false true 2 6 fun v =>
    v.setScalar o.d.toNat (((v.actives o.msk.toNat).foldl (fun x l => fmin x (v.lane o.a.toNat l))
      (v.low o.d.toNat)).setWidth 64)) s
def execRamax (core : Nat) (o : ThreeOps) (s : State) : Host.Outcome State Fault Refusal :=
  guarded (coreOk core && o.evenD) (redOp core o true true true true 2 6 fun v =>
    let p := ramaxPair v o
    v.setPair o.d.toNat (p.1.setWidth 64) p.2) s
def execRfin (core : Nat) (o : ThreeOps) (s : State) : Host.Outcome State Fault Refusal :=
  guarded (coreOk core && o.evenD) (redOp core o true false false true 1 4 fun v =>
    v.setPair o.d.toNat ((fadd (v.low o.d.toNat) (v.low (o.d.toNat + 1))).setWidth 64) 0) s
def execRisum (core : Nat) (o : ThreeOps) (s : State) : Host.Outcome State Fault Refusal :=
  guarded (coreOk core) (redOp core o false true false false 2 6 fun v =>
    v.setScalar o.d.toNat ((v.actives o.msk.toNat).foldl (fun x l => x + (v.lane o.a.toNat l).signExtend 64)
      (v.scalar o.d.toNat))) s

end Sys2Proof.Machine
end

