-- ==== Sys2Proof/Machine/Dispatch.lean ====
section
/-! DEFINITION. The one dispatch from a command to its meaning. -/

namespace Sys2Proof.Machine

def exec (i : Instr) (s : State) : Host.Outcome State Fault Refusal :=
  match i with
  | .step item => Sys2Proof.Machine.execStep item s
  | .admitReq item block prompt => Sys2Proof.Machine.execAdmitReq item block prompt s
  | .abort item => Sys2Proof.Machine.execAbort item s
  | .pause item => Sys2Proof.Machine.execPause item s
  | .resume item => Sys2Proof.Machine.execResume item s
  | .loadSwath item => Sys2Proof.Machine.execLoadSwath item s
  | .loadSwathStreamEnd item => Sys2Proof.Machine.execLoadSwathStreamEnd item s
  | .loadWeights item => Sys2Proof.Machine.execLoadWeights item s
  | .chunkLand item data => Sys2Proof.Machine.execChunkLand item data s
  | .swapWeights item => Sys2Proof.Machine.execSwapWeights item s
  | .swapCopyStart item => Sys2Proof.Machine.execSwapCopyStart item s
  | .swapCopyDone item => Sys2Proof.Machine.execSwapCopyDone item s
  | .moveRetier item => Sys2Proof.Machine.execMoveRetier item s
  | .moveCopy item data => Sys2Proof.Machine.execMoveCopy item data s
  | .evict item => Sys2Proof.Machine.execEvict item s
  | .runGraph item => Sys2Proof.Machine.execRunGraph item s
  | .coreBist item => Sys2Proof.Machine.execCoreBist item s
  | .coreRetest item => Sys2Proof.Machine.execCoreRetest item s
  | .scrubStat item => Sys2Proof.Machine.execScrubStat item s
  | .swardMarch item => Sys2Proof.Machine.execSwardMarch item s
  | .leyMarch item => Sys2Proof.Machine.execLeyMarch item s
  | .linkLoopback item => Sys2Proof.Machine.execLinkLoopback item s
  | .heathPort item => Sys2Proof.Machine.execHeathPort item s
  | .leyPhy item => Sys2Proof.Machine.execLeyPhy item s
  | .fabricLanes item => Sys2Proof.Machine.execFabricLanes item s
  | .sensors item => Sys2Proof.Machine.execSensors item s
  | .testComplete item failed => Sys2Proof.Machine.execTestComplete item failed s
  | .sync item => Sys2Proof.Machine.execSync item s
  | .query item => Sys2Proof.Machine.execQuery item s
  | .sqDoorbell fn ring value => Sys2Proof.Machine.execSqDoorbell fn ring value s
  | .cqDoorbell fn ring value => Sys2Proof.Machine.execCqDoorbell fn ring value s
  | .descriptorFetch fn ring descs => Sys2Proof.Machine.execDescriptorFetch fn ring descs s
  | .fetchErr fn ring => Sys2Proof.Machine.execFetchErr fn ring s
  | .hostRead item timeout addr => Sys2Proof.Machine.execHostRead item timeout addr s
  | .completionWrite fn ring => Sys2Proof.Machine.execCompletionWrite fn ring s
  | .completionBatchClose fn ring => Sys2Proof.Machine.execCompletionBatchClose fn ring s
  | .completionIntTimer fn ring => Sys2Proof.Machine.execCompletionIntTimer fn ring s
  | .eventBatchClose fn => Sys2Proof.Machine.execEventBatchClose fn s
  | .mgmtResponseBatchClose fn => Sys2Proof.Machine.execMgmtResponseBatchClose fn s
  | .fwStage fn msg => Sys2Proof.Machine.execFwStage fn msg s
  | .fwActivate fn msg => Sys2Proof.Machine.execFwActivate fn msg s
  | .fwSlots fn msg => Sys2Proof.Machine.execFwSlots fn msg s
  | .keyEnrol fn msg => Sys2Proof.Machine.execKeyEnrol fn msg s
  | .keyRevoke fn msg => Sys2Proof.Machine.execKeyRevoke fn msg s
  | .attest fn msg => Sys2Proof.Machine.execAttest fn msg s
  | .idGet fn msg => Sys2Proof.Machine.execIdGet fn msg s
  | .debugUnlock fn msg => Sys2Proof.Machine.execDebugUnlock fn msg s
  | .runList fn msg => Sys2Proof.Machine.execRunList fn msg s
  | .cgOwner fn msg => Sys2Proof.Machine.execCgOwner fn msg s
  | .fabLoad fn msg => Sys2Proof.Machine.execFabLoad fn msg s
  | .ethQpSet fn msg => Sys2Proof.Machine.execEthQpSet fn msg s
  | .ethQpClear fn msg => Sys2Proof.Machine.execEthQpClear fn msg s
  | .cmisRead fn msg data => Sys2Proof.Machine.execCmisRead fn msg data s
  | .cmisWrite fn msg => Sys2Proof.Machine.execCmisWrite fn msg s
  | .pwrDomains fn msg => Sys2Proof.Machine.execPwrDomains fn msg s
  | .pwrRecord fn msg => Sys2Proof.Machine.execPwrRecord fn msg s
  | .wideRead fn selector => Sys2Proof.Machine.execWideRead fn selector s
  | .wideCommit fn selector => Sys2Proof.Machine.execWideCommit fn selector s
  | .ringSqCfgWrite fn value => Sys2Proof.Machine.execRingSqCfgWrite fn value s
  | .ringCqCfgWrite fn value => Sys2Proof.Machine.execRingCqCfgWrite fn value s
  | .hifFnPartBind value => Sys2Proof.Machine.execHifFnPartBind value s
  | .hifFnPartReset value => Sys2Proof.Machine.execHifFnPartReset value s
  | .functionLevelReset fn => Sys2Proof.Machine.execFunctionLevelReset fn s
  | .fnResetComplete fn => Sys2Proof.Machine.execFnResetComplete fn s
  | .partCfgWrite fn value => Sys2Proof.Machine.execPartCfgWrite fn value s
  | .partDrain fn value => Sys2Proof.Machine.execPartDrain fn value s
  | .partUndrain fn value => Sys2Proof.Machine.execPartUndrain fn value s
  | .partReset fn value => Sys2Proof.Machine.execPartReset fn value s
  | .partResetComplete part => Sys2Proof.Machine.execPartResetComplete part s
  | .fwCtrlRestart fn value => Sys2Proof.Machine.execFwCtrlRestart fn value s
  | .rasFence fn value => Sys2Proof.Machine.execRasFence fn value s
  | .retrain fn value => Sys2Proof.Machine.execRetrain fn value s
  | .fabJobEn fn value => Sys2Proof.Machine.execFabJobEn fn value s
  | .cluCntCtrl fn cluster value => Sys2Proof.Machine.execCluCntCtrl fn cluster value s
  | .cluCntClr fn cluster value => Sys2Proof.Machine.execCluCntClr fn cluster value s
  | .pbWriteApplied cluster => Sys2Proof.Machine.execPbWriteApplied cluster s
  | .taWrite fn offset value => Sys2Proof.Machine.execTaWrite fn offset value s
  | .registerWrite fn bar offset data enables => Sys2Proof.Machine.execRegisterWrite fn bar offset data enables s
  | .sealLaunchSet => Sys2Proof.Machine.execSealLaunchSet s
  | .tickBoundary => Sys2Proof.Machine.execTickBoundary s
  | .reserveStart => Sys2Proof.Machine.execReserveStart s
  | .leyCalibrationDue => Sys2Proof.Machine.execLeyCalibrationDue s
  | .deferredReserveWork => Sys2Proof.Machine.execDeferredReserveWork s
  | .stepFinish part => Sys2Proof.Machine.execStepFinish part s
  | .stepResultsProcess part => Sys2Proof.Machine.execStepResultsProcess part s
  | .switchComplete core part => Sys2Proof.Machine.execSwitchComplete core part s
  | .tickMessage die tick => Sys2Proof.Machine.execTickMessage die tick s
  | .haltFenceOrder core order => Sys2Proof.Machine.execHaltFenceOrder core order s
  | .barrierArrival id node => Sys2Proof.Machine.execBarrierArrival id node s
  | .barrierRelease part run => Sys2Proof.Machine.execBarrierRelease part run s
  | .errorEventMessage die code payload => Sys2Proof.Machine.execErrorEventMessage die code payload s
  | .firmwareControlMessage proc payload => Sys2Proof.Machine.execFirmwareControlMessage proc payload s
  | .planeLoss die plane => Sys2Proof.Machine.execPlaneLoss die plane s
  | .coreDrained core => Sys2Proof.Machine.execCoreDrained core s
  | .flitArrival core queue => Sys2Proof.Machine.execFlitArrival core queue s
  | .creditReturn core queue => Sys2Proof.Machine.execCreditReturn core queue s
  | .extensionMove core queue => Sys2Proof.Machine.execExtensionMove core queue s
  | .suHeaderMatch core pair token => Sys2Proof.Machine.execSuHeaderMatch core pair token s
  | .stallCycle part => Sys2Proof.Machine.execStallCycle part s
  | .larkSample part offset => Sys2Proof.Machine.execLarkSample part offset s
  | .handlerStart core queue => Sys2Proof.Machine.execHandlerStart core queue s
  | .meRunEntry core => Sys2Proof.Machine.execMeRunEntry core s
  | .mePassComplete core => Sys2Proof.Machine.execMePassComplete core s
  | .meSeedArrival core => Sys2Proof.Machine.execMeSeedArrival core s
  | .meMergeRecord core queue => Sys2Proof.Machine.execMeMergeRecord core queue s
  | .tmStreamIssue part swath entry => Sys2Proof.Machine.execTmStreamIssue part swath entry s
  | .tmReadReturn cluster mover count => Sys2Proof.Machine.execTmReadReturn cluster mover count s
  | .tmStreamEnd cluster mover => Sys2Proof.Machine.execTmStreamEnd cluster mover s
  | .tmGateCount core queue count => Sys2Proof.Machine.execTmGateCount core queue count s
  | .migrationPass part page dirty => Sys2Proof.Machine.execMigrationPass part page dirty s
  | .patrolScrub unit lines => Sys2Proof.Machine.execPatrolScrub unit lines s
  | .tierFailure tier unit part page => Sys2Proof.Machine.execTierFailure tier unit part page s
  | .unitLoss unit => Sys2Proof.Machine.execUnitLoss unit s
  | .corrected place => Sys2Proof.Machine.execCorrected place s
  | .uncorrectable place => Sys2Proof.Machine.execUncorrectable place s
  | .latent place => Sys2Proof.Machine.execLatent place s
  | .replacementDone part core => Sys2Proof.Machine.execReplacementDone part core s
  | .replayOrder job gen model step boundary => Sys2Proof.Machine.execReplayOrder job gen model step boundary s
  | .dieLost die => Sys2Proof.Machine.execDieLost die s
  | .syncWordSend link fwd => Sys2Proof.Machine.execSyncWordSend link fwd s
  | .syncWordReceive link word => Sys2Proof.Machine.execSyncWordReceive link word s
  | .boundaryArm => Sys2Proof.Machine.execBoundaryArm s
  | .syncStop => Sys2Proof.Machine.execSyncStop s
  | .takeover => Sys2Proof.Machine.execTakeover s
  | .linkTrained link slice coord peer delay => Sys2Proof.Machine.execLinkTrained link slice coord peer delay s
  | .linkDown link cause => Sys2Proof.Machine.execLinkDown link cause s
  | .frameReceive link frame good => Sys2Proof.Machine.execFrameReceive link frame good s
  | .jobStopOrder link origin oseq lostLink job gen core => Sys2Proof.Machine.execJobStopOrder link origin oseq lostLink job gen core s
  | .rampOrder link origin oseq slope boundary => Sys2Proof.Machine.execRampOrder link origin oseq slope boundary s
  | .transferIssue part prog idx => Sys2Proof.Machine.execTransferIssue part prog idx s
  | .transferComplete part prog idx => Sys2Proof.Machine.execTransferComplete part prog idx s
  | .fwdAbort item broken => Sys2Proof.Machine.execFwdAbort item broken s
  | .ethReadResponse port qp data => Sys2Proof.Machine.execEthReadResponse port qp data s
  | .ethCnp port qp => Sys2Proof.Machine.execEthCnp port qp s
  | .ethInboundRequest port qp => Sys2Proof.Machine.execEthInboundRequest port qp s
  | .ethQpTimeout port qp => Sys2Proof.Machine.execEthQpTimeout port qp s
  | .cableInterrupt link loss alarm => Sys2Proof.Machine.execCableInterrupt link loss alarm s
  | .cmisMonitorPoll link alarm => Sys2Proof.Machine.execCmisMonitorPoll link alarm s
  | .fwHeartbeat proc => Sys2Proof.Machine.execFwHeartbeat proc s
  | .watchdogExpiry proc => Sys2Proof.Machine.execWatchdogExpiry proc s
  | .fatalException proc => Sys2Proof.Machine.execFatalException proc s
  | .fwReturn proc => Sys2Proof.Machine.execFwReturn proc s
  | .restartBoundMissed proc => Sys2Proof.Machine.execRestartBoundMissed proc s
  | .absenceLimit proc => Sys2Proof.Machine.execAbsenceLimit proc s
  | .powerLoopSample watts => Sys2Proof.Machine.execPowerLoopSample watts s
  | .thermalLoopSample temps => Sys2Proof.Machine.execThermalLoopSample temps s
  | .feedBad backup => Sys2Proof.Machine.execFeedBad backup s
  | .feedGood backup => Sys2Proof.Machine.execFeedGood backup s
  | .feedSwitchBack => Sys2Proof.Machine.execFeedSwitchBack s
  | .powerLossCommit => Sys2Proof.Machine.execPowerLossCommit s
  | .finalLedgerWrite => Sys2Proof.Machine.execFinalLedgerWrite s
  | .holdupDark => Sys2Proof.Machine.execHoldupDark s
  | .epoAssert => Sys2Proof.Machine.execEpoAssert s
  | .epoRelease => Sys2Proof.Machine.execEpoRelease s
  | .coolantFault => Sys2Proof.Machine.execCoolantFault s
  | .coolantClear => Sys2Proof.Machine.execCoolantClear s
  | .thermalTrip die deg => Sys2Proof.Machine.execThermalTrip die deg s
  | .leaseExpired => Sys2Proof.Machine.execLeaseExpired s
  | .pwrDomainFault domain => Sys2Proof.Machine.execPwrDomainFault domain s
  | .coldStart => Sys2Proof.Machine.execColdStart s
  | .bootChain puf region => Sys2Proof.Machine.execBootChain puf region s
  | .powerOnDomains => Sys2Proof.Machine.execPowerOnDomains s
  | .memoryTraining sward ley => Sys2Proof.Machine.execMemoryTraining sward ley s
  | .coreTest failed => Sys2Proof.Machine.execCoreTest failed s
  | .heathEnumeration capacity => Sys2Proof.Machine.execHeathEnumeration capacity s
  | .ready => Sys2Proof.Machine.execReady s
  | .startStop => Sys2Proof.Machine.execStartStop s
  | .perstDeassert => Sys2Proof.Machine.execPerstDeassert s
  | .perstAssert => Sys2Proof.Machine.execPerstAssert s
  | .refclkLoss => Sys2Proof.Machine.execRefclkLoss s
  | .sysclkLoss => Sys2Proof.Machine.execSysclkLoss s
  | .sbId => Sys2Proof.Machine.execSbId s
  | .sbStatus => Sys2Proof.Machine.execSbStatus s
  | .sbSerial => Sys2Proof.Machine.execSbSerial s
  | .sbRecIn data => Sys2Proof.Machine.execSbRecIn data s
  | .sbRecStat => Sys2Proof.Machine.execSbRecStat s
  | .sbRecOut => Sys2Proof.Machine.execSbRecOut s
  | .sbRecAck oseq => Sys2Proof.Machine.execSbRecAck oseq s
  | .warmReset order inverse serial => Sys2Proof.Machine.execWarmReset order inverse serial s
  | .thermalRestart order inverse serial => Sys2Proof.Machine.execThermalRestart order inverse serial s
  | .faluAdd core o => Sys2Proof.Machine.execFaluAdd core o s
  | .faluSub core o => Sys2Proof.Machine.execFaluSub core o s
  | .faluMul core o => Sys2Proof.Machine.execFaluMul core o s
  | .faluFma core o => Sys2Proof.Machine.execFaluFma core o s
  | .faluMin core o => Sys2Proof.Machine.execFaluMin core o s
  | .faluMax core o => Sys2Proof.Machine.execFaluMax core o s
  | .faluAbs core o => Sys2Proof.Machine.execFaluAbs core o s
  | .faluNeg core o => Sys2Proof.Machine.execFaluNeg core o s
  | .faluMov core o => Sys2Proof.Machine.execFaluMov core o s
  | .ialuAdd core o => Sys2Proof.Machine.execIaluAdd core o s
  | .ialuSub core o => Sys2Proof.Machine.execIaluSub core o s
  | .ialuMul core o => Sys2Proof.Machine.execIaluMul core o s
  | .ialuAnd core o => Sys2Proof.Machine.execIaluAnd core o s
  | .ialuOr core o => Sys2Proof.Machine.execIaluOr core o s
  | .ialuXor core o => Sys2Proof.Machine.execIaluXor core o s
  | .ialuShl core o => Sys2Proof.Machine.execIaluShl core o s
  | .ialuShr core o => Sys2Proof.Machine.execIaluShr core o s
  | .ialuSra core o => Sys2Proof.Machine.execIaluSra core o s
  | .ialuMin core o => Sys2Proof.Machine.execIaluMin core o s
  | .ialuMax core o => Sys2Proof.Machine.execIaluMax core o s
  | .ialuMinu core o => Sys2Proof.Machine.execIaluMinu core o s
  | .ialuMaxu core o => Sys2Proof.Machine.execIaluMaxu core o s
  | .cmpEq core o => Sys2Proof.Machine.execCmpEq core o s
  | .cmpNe core o => Sys2Proof.Machine.execCmpNe core o s
  | .cmpLt core o => Sys2Proof.Machine.execCmpLt core o s
  | .cmpLe core o => Sys2Proof.Machine.execCmpLe core o s
  | .cmpGt core o => Sys2Proof.Machine.execCmpGt core o s
  | .cmpGe core o => Sys2Proof.Machine.execCmpGe core o s
  | .cmpUnord core o => Sys2Proof.Machine.execCmpUnord core o s
  | .cmpOrd core o => Sys2Proof.Machine.execCmpOrd core o s
  | .cvt core o => Sys2Proof.Machine.execCvt core o s
  | .exp core o => Sys2Proof.Machine.execExp core o s
  | .exp2 core o => Sys2Proof.Machine.execExp2 core o s
  | .log core o => Sys2Proof.Machine.execLog core o s
  | .log2 core o => Sys2Proof.Machine.execLog2 core o s
  | .rcp core o => Sys2Proof.Machine.execRcp core o s
  | .rsqrt core o => Sys2Proof.Machine.execRsqrt core o s
  | .sqrt core o => Sys2Proof.Machine.execSqrt core o s
  | .tanh core o => Sys2Proof.Machine.execTanh core o s
  | .sigmoid core o => Sys2Proof.Machine.execSigmoid core o s
  | .sin core o => Sys2Proof.Machine.execSin core o s
  | .cos core o => Sys2Proof.Machine.execCos core o s
  | .erf core o => Sys2Proof.Machine.execErf core o s
  | .rsum core o => Sys2Proof.Machine.execRsum core o s
  | .rmax core o => Sys2Proof.Machine.execRmax core o s
  | .rmin core o => Sys2Proof.Machine.execRmin core o s
  | .ramax core o => Sys2Proof.Machine.execRamax core o s
  | .rfin core o => Sys2Proof.Machine.execRfin core o s
  | .risum core o => Sys2Proof.Machine.execRisum core o s
  | .bcast core o => Sys2Proof.Machine.execBcast core o s
  | .permv core o => Sys2Proof.Machine.execPermv core o s
  | .slideup core o => Sys2Proof.Machine.execSlideup core o s
  | .slidedn core o => Sys2Proof.Machine.execSlidedn core o s
  | .compress core o => Sys2Proof.Machine.execCompress core o s
  | .expand core o => Sys2Proof.Machine.execExpand core o s
  | .iota core o => Sys2Proof.Machine.execIota core o s
  | .sel core o => Sys2Proof.Machine.execSel core o s
  | .ld core o => Sys2Proof.Machine.execLd core o s
  | .st core o => Sys2Proof.Machine.execSt core o s
  | .lds core o => Sys2Proof.Machine.execLds core o s
  | .sts core o => Sys2Proof.Machine.execSts core o s
  | .ldx core o => Sys2Proof.Machine.execLdx core o s
  | .stx core o => Sys2Proof.Machine.execStx core o s
  | .ldm core o => Sys2Proof.Machine.execLdm core o s
  | .stm core o => Sys2Proof.Machine.execStm core o s
  | .recv core o => Sys2Proof.Machine.execRecv core o s
  | .send core o => Sys2Proof.Machine.execSend core o s
  | .sende core o => Sys2Proof.Machine.execSende core o s
  | .mand core o => Sys2Proof.Machine.execMand core o s
  | .mor core o => Sys2Proof.Machine.execMor core o s
  | .mxor core o => Sys2Proof.Machine.execMxor core o s
  | .mandn core o => Sys2Proof.Machine.execMandn core o s
  | .mnot core o => Sys2Proof.Machine.execMnot core o s
  | .mset core o => Sys2Proof.Machine.execMset core o s
  | .mget core o => Sys2Proof.Machine.execMget core o s
  | .mpop core o => Sys2Proof.Machine.execMpop core o s
  | .mfirst core o => Sys2Proof.Machine.execMfirst core o s
  | .mfromv core o => Sys2Proof.Machine.execMfromv core o s
  | .mfill core o => Sys2Proof.Machine.execMfill core o s
  | .topk core o => Sys2Proof.Machine.execTopk core o s
  | .scan core o => Sys2Proof.Machine.execScan core o s
  | .rand core o => Sys2Proof.Machine.execRand core o s
  | .li core o => Sys2Proof.Machine.execLi core o s
  | .lih core o => Sys2Proof.Machine.execLih core o s
  | .sadd core o => Sys2Proof.Machine.execSadd core o s
  | .ssub core o => Sys2Proof.Machine.execSsub core o s
  | .smul core o => Sys2Proof.Machine.execSmul core o s
  | .saddi core o => Sys2Proof.Machine.execSaddi core o s
  | .setvl core o => Sys2Proof.Machine.execSetvl core o s
  | .loop core o => Sys2Proof.Machine.execLoop core o s
  | .setsr core o => Sys2Proof.Machine.execSetsr core o s
  | .rdhdr core o => Sys2Proof.Machine.execRdhdr core o s
  | .endHandler core o => Sys2Proof.Machine.execEndHandler core o s
  | .moveCopyDone item => Sys2Proof.Machine.execMoveCopyDone item s
  | .ethLinkDown port => Sys2Proof.Machine.execEthLinkDown port s
  | .ethLinkUp port => Sys2Proof.Machine.execEthLinkUp port s
  | .ethAckReceive port qp nak => Sys2Proof.Machine.execEthAckReceive port qp nak s
  | .hostLinkUp width speed => Sys2Proof.Machine.execHostLinkUp width speed s
  | .hostLinkDown => Sys2Proof.Machine.execHostLinkDown s
  | .refclkStable => Sys2Proof.Machine.execRefclkStable s
  | .configurationRequest req => Sys2Proof.Machine.execConfigurationRequest req s
  | .cxlPrsntChange port attached => Sys2Proof.Machine.execCxlPrsntChange port attached s
  | .jtagAccess op => Sys2Proof.Machine.execJtagAccess op s
  | .busInRegulation => Sys2Proof.Machine.execBusInRegulation s
  | .hedgerowTrim => Sys2Proof.Machine.execHedgerowTrim s
  | .peakTimeCap => Sys2Proof.Machine.execPeakTimeCap s

end Sys2Proof.Machine
end

