-- ==== Sys2Proof/Machine/Step.lean ====
section
/-! DEFINITION. One step: the command at the front of the queue, or, on an empty queue, one cycle of the time base. -/

namespace Sys2Proof.Machine

/-- Take the command at the front of the queue and run it on the module and the rest of the queue. With nothing
pending the module idles for one cycle of the time base (log 6). -/
def step (s : State) : Host.Outcome State Fault Refusal :=
  match s.pending with
  | c :: rest => exec c { s with pending := rest }
  | [] => .next { s with m := blockCycle s.m }

/-- The state with the command that a word spells put at the front of its queue; no word spells one, so the state. -/
def State.withFetchWord (s : State) (nbits w : Nat) : State :=
  match Sys2Proof.decodeTableWord nbits w with
  | some c => { s with pending := c :: s.pending }
  | none => s

end Sys2Proof.Machine
end

