-- ==== Sys2Proof/Machine/RegRead.lean ====
section
/-! DEFINITION. What a read of BAR0 brings: the value of every register of every block and cluster window, under its access codes, and
the Completer Abort of a read that is a bus error (18_registers R465, R466, R469, R472, R473, R479 to R483, 00_scope R6, R9). The command
table has no row for a read: a read is an operation beside the commands, and the one trace that it leaves is the function's AER status
(log 81). -/

namespace Sys2Proof.Machine

/-- Answer to a read: the bytes asked for, a Completer Abort, a register whose fields the manual leaves to the debug kit (R443, R483),
or none where the function cannot be reached. -/
inductive ReadAnswer where
  | bytes (data : List Byte)
  | completerAbort
  | debugKit
  | unreached
  deriving DecidableEq, Repr

/-- Fields of a register as its value: each at its lowest bit. -/
def packed (fields : List (Nat × Nat)) : Nat := (fields.map fun f => f.2 * 2 ^ f.1).sum

/-- One-bit fields. -/
def flags (fields : List (Nat × Bool)) : List (Nat × Nat) := fields.map fun f => (f.1, b2n f.2)

/-- Entry `i` of counters that stand in table order. -/
def nth (l : List Nat) (i : Nat) : Option Nat := l[i]?

/-! ### HIF (Tables 18.5 to 18.8, 11.15, 11.4) -/

/-- HIF_ID: the part number, the function that makes the access, and the stepping of production silicon, B0 (R6, R7). -/
def hifId (fn : Nat) : Nat := packed [(16, 0x4120), (8, fn), (0, 0x10)]

/-- HIF_STATUS. -/
def hifStatus (s : Start) : Nat :=
  packed ([(16, s.stage), (8, s.width), (4, s.speed)] ++ flags [(2, s.degraded), (1, s.startFail), (0, s.ready)])

/-- HIF_FN_PART of the function that PF0 has selected; RESET is WO and reads 0. -/
def hifFnPart (f : Fn) : Nat := packed ([(0, f.part)] ++ flags [(10, f.fnBadWrite), (8, f.bound)])

/-- Word `i` of an entry of the MSI-X table. -/
def msixWord (e : MsixEntry) (i : Nat) : Nat :=
  if i = 0 then (e.addr.extractLsb' 0 32).toNat else if i = 1 then (e.addr.extractLsb' 32 32).toNat
  else if i = 2 then e.data.toNat else b2n e.mask

/-- Word `i` of the pending-bit array: bit `v` for vector `v`. -/
def pendingWord (f : Fn) (i : Nat) : Nat :=
  if i = 0 then packed (flags ((range' 0 18).map fun v => (v, (f.msix.get v).pend))) else 0

/-- The HIF block of a function; HIF_FN_SEL and HIF_FN_PART are reserved on a VF. -/
def readHif (m : Module) (fn off : Nat) : Option Nat :=
  let f := m.fn fn
  if off = 0 then some (hifId fn)
  else if off = 0x4 then some (hifStatus m.start)
  else if off = 0x8 then some (packed ([(2, f.err.cause)] ++ flags [(1, f.err.ovf), (0, f.err.writeErr)]))
  else if off = 0xC then some f.err.addr
  else if off = 0x10 then some (epochOf m fn)
  else if off = 0x14 then some f.resets
  else if off = 0x18 then some m.sec.startCount
  else if off = 0x20 ∧ fn = 0 then some f.sel.fn
  else if off = 0x24 ∧ fn = 0 then some (hifFnPart (m.fn f.sel.fn))
  else if off = 0x40 then some f.box.sel
  else if off = 0x44 then some (packed ([(1, f.box.err)] ++ flags [(0, f.box.valid)]))
  else if words 0x48 0x54 off then nth ([f.box.d0, f.box.d1, f.box.d2, f.box.d3].map BitVec.toNat) ((off - 0x48) / 4)
  else if words 0xF0000 0xF011C off then some (msixWord (f.msix.get ((off - 0xF0000) / 16)) ((off - 0xF0000) % 16 / 4))
  else if words 0xF8000 0xF8004 off then some (pendingWord f ((off - 0xF8000) / 4))
  else none

/-! ### RING (Tables 11.10 to 11.14) -/

/-- A completion waits for room (RING_STAT.CQ_FULL, R300). -/
def cqFull (r : Ringp) : Bool := !r.waiting.isEmpty && decide (cqSize r < (r.cqNext - r.cqDb).toNat)

/-- RING_STAT. -/
def ringStat (m : Module) (fn ring : Nat) : Nat :=
  let r := m.ring fn ring
  packed (flags [(7, cqFull r), (6, r.badWrite), (4, r.fetchErr), (3, r.dbOvf), (2, r.ssnErr), (1, r.cqEn), (0, sqRun m fn ring)])

/-- The RING block of a function: the pair that RING_SEL selects. -/
def readRing (m : Module) (fn off : Nat) : Option Nat :=
  let ring := (m.fn fn).sel.ring
  let r := m.ring fn ring
  if off = 0 then some ring
  else if off = 0x4 then some (packed ([(0, r.sqLog2)] ++ flags [(8, r.sqEn)]))
  else if off = 0x8 then some (packed ([(0, r.cqLog2)] ++ flags [(9, r.intEn), (8, r.cqEn)]))
  else if off = 0xC then some (packed [(16, r.modTime), (0, r.modCount)])
  else if off = 0x10 then some r.sqNext.toNat
  else if off = 0x14 then some r.cqNext.toNat
  else if off = 0x18 then some (ringStat m fn ring)
  else if off = 0x1C then some (inFlight r)
  else none

/-! ### TICK, PWR, SEC, FW, RAS, ETH -/

/-- The TICK block (Tables 2.5 to 2.8): a TA field reads the value in force (R48). -/
def readTick (m : Module) (off : Nat) : Option Nat :=
  let t := m.tick
  if off = 0x4 then some t.period
  else if off = 0x8 then some t.pct
  else if off = 0xC then
    some (packed ([(2, t.role.code), (0, t.sync.code)] ++ flags [(5, t.taOvf), (4, t.badWrite)]))
  else if words 0x10 0x18 off then nth [t.slipTotal, t.calHold, t.intrude] ((off - 0x10) / 4)
  else none

/-- PWR_LEASE_LEFT_MS: whole ms of the lease left, 0 when it has expired. -/
def leaseLeftMs (m : Module) : Nat :=
  match m.power.leaseFrom with
  | some t => (t + m.power.leaseS * secondNs - m.tick.ns) / 1000000
  | none => 0

/-- PWR_STAT. -/
def pwrStat (w : Power) : Nat :=
  packed (flags [(9, w.badWrite), (8, w.ramping), (7, w.limiting), (6, w.throttle), (5, w.safe), (4, w.coolant), (3, w.leaseExpired),
    (2, w.onBackup), (1, w.backupOk), (0, w.mainOk)])

/-- The PWR block (Tables 15.4 to 15.6). -/
def readPwr (m : Module) (off : Nat) : Option Nat :=
  let w := m.power
  if words 0 0x20 off then
    nth [pwrStat w, w.limitW, w.budgetW, w.capW, w.inputW, leaseLeftMs m, w.slope, w.setPoint, packed [(8, w.tempDie), (0, w.tempDeg)]]
      (off / 4)
  else if words 0x40 0x58 off then
    nth [w.feedSwitch, w.brownout, w.limitMs, w.peakCap, w.coolantCnt, w.throttleMs, w.burnJ] ((off - 0x40) / 4)
  else none

/-- SEC_KEY_VALID: the slots of a partition's trust list that hold a key. -/
def keyValid (m : Module) (p : Nat) : Nat :=
  packed (flags ((range' 0 8).map fun s => (s, (m.sec.keys.get (8 * p + s)).isSome)))

/-- The SEC block (Table 16.10). -/
def readSec (m : Module) (fn off : Nat) : Option Nat :=
  let p := (m.fn fn).sel.sec
  if off = 0 then
    some (packed (flags [(3, m.sec.debug), (2, m.flash.active == 1), (1, m.sec.recordOk), (0, m.sec.pufOk)]))
  else if off = 0x4 then some m.sec.minSvn
  else if off = 0x8 then some m.sec.startCount
  else if off = 0x10 then some p
  else if off = 0x14 then some (keyValid m p)
  else if off = 0x18 then some (m.sec.sigFail.get p)
  else if off = 0x1C then some (m.sec.hashFail.get p)
  else none

/-- Code of FW_STAT.STATE (Table 14.5). -/
def FwState.code : FwState → Nat
  | .running => 0
  | .restarting => 1
  | .absent => 2
  | .down => 3
  | .updating => 4

/-- The FW block (Tables 14.4 and 14.5): the processor that FW_SEL selects; FW_CTRL is WO. -/
def readFw (m : Module) (fn off : Nat) : Option Nat :=
  let q := (m.fn fn).sel.fw
  let y := m.proc q
  if off = 0 then some q
  else if off = 0x4 then some (packed ([(8, y.slot), (0, y.st.code)] ++ flags [(9, m.fwBadWrite)]))
  else if off = 0x8 then some 0
  else if words 0xC 0x18 off then nth [y.restarts, y.lastAbsentUs, y.holdTicks, y.failedItems] ((off - 0xC) / 4)
  else none

/-- The RAS block (Table 17.7); RAS_FENCE is WO. -/
def readRas (m : Module) (off : Nat) : Option Nat :=
  let r := m.ras
  if words 0 0x28 off then
    nth [packed (flags [(3, r.logFull), (2, r.recovOvf), (1, r.badWrite), (0, r.ueBit)]), 0, r.ceLimit, r.liveCount, r.ceCount, r.latent,
      r.ue, r.fences, r.replays, r.jobStops, r.recovPend] (off / 4)
  else none

/-- The ETH block: the port that ETH_PORT_SEL selects (Table 13.12). -/
def readEth (m : Module) (fn off : Nat) : Option Nat :=
  let port := (m.fn fn).sel.eth
  let t := m.eth.get port
  if off = 0 then some port
  else if off = 0x4 then
    some (packed ([(10, t.dscp), (7, t.pfcPrio), (4, t.mtu)] ++ flags [(6, t.pfcEn), (0, t.en)]))
  else if off = 0x8 then some (packed (flags [(1, t.badWrite), (0, t.linkUp)]))
  else if words 0xC 0x1C off then nth [t.rxLines, t.retry, t.cnp, t.nak, t.fecUncorr] ((off - 0xC) / 4)
  else none

/-! ### MEM (Tables 8.6 to 8.10) -/

/-- Pages reserved and not yet backed: a POOL partition reserves none (MEM_RSVD). -/
def rsvdOf (r : MemRegs) (t : Nat) : Nat := if r.pool then 0 else r.rsvd.get t

/-- The registers of one partition. -/
def readMemPart (m : Module) (p off : Nat) : Option Nat :=
  let r := (m.part p).mem
  if off = 0x4 then some (packed ([(1, r.firstTier.idx)] ++ flags [(0, r.pool)]))
  else if off = 0x8 then some r.rangePages
  else if words 0x10 0x18 off then some (r.quota.get ((off - 0x10) / 4))
  else if words 0x20 0x28 off then some (r.floor.get ((off - 0x20) / 4))
  else if words 0x30 0x38 off then some (r.used.get ((off - 0x30) / 4))
  else if words 0x40 0x48 off then some (rsvdOf r ((off - 0x40) / 4))
  else if off = 0x4C then some (packed (flags [(2, r.allocWait), (1, r.poisonBit), (0, r.badWrite)]))
  else if words 0x50 0x5C off then nth [r.poisonPages, r.allocWaits, r.unbackedRd, r.migrated] ((off - 0x50) / 4)
  else if words 0x80 0xD4 off ∧ off % 0x20 < 0x18 then some (r.stall.get (8 * ((off - 0x80) / 0x20) + off % 0x20 / 4))
  else none

/-- The MEM block. -/
def readMem (m : Module) (fn off : Nat) : Option Nat :=
  if off = 0 then some (m.fn fn).sel.mem
  else if words 0x100 0x108 off then some (capOf m ((off - 0x100) / 4))
  else if off = 0x10C then
    some (packed [(24, m.mem.healthHeath.toNat), (8, m.mem.healthLey.toNat), (0, m.mem.healthSward.toNat)])
  else if words 0x110 0x118 off then some (freeIn m ((off - 0x110) / 4))
  else if off = 0x11C then some m.mem.evict
  else readMemPart m (selPart m fn blkMem) off

/-! ### FAB (Tables 13.9 to 13.11) -/

/-- Code of a link state (Table 13.3). -/
def LinkState.code : LinkState → Nat
  | .off => 0
  | .train => 1
  | .check => 2
  | .up => 3
  | .down => 4
  | .miswired => 5
  | .long => 6
  | .unused => 7

/-- The registers of the link that FAB_LINK_SEL selects; FAB_LINK_CTRL is WO. -/
def readLink (m : Module) (fn off : Nat) : Option Nat :=
  let l := (m.fn fn).sel.link
  let k := m.link l
  if words 0 0x1C off then
    nth [l, packed [(4, k.tick), (0, k.st.code)], 0, k.delay, k.fecCorr, k.fecUncorr, k.replay, k.downs] (off / 4)
  else none

/-- The module registers: topology, coordinates and slice, 0 before a record is applied. -/
def readFabric (m : Module) (off : Nat) : Option Nat :=
  let f := m.fabric
  let topo := match f.slice with
    | some s => packed ([(24, s.dim.z), (16, s.dim.y), (8, s.dim.x)] ++ flags [(0, s.mode3)])
    | none => 0
  let at_ := match f.slice with
    | some s => packed [(16, s.at_.z), (8, s.at_.y), (0, s.at_.x)]
    | none => 0
  let slice := match f.slice with
    | some s => s.slice
    | none => 0
  let stat := packed ([(16, f.mgrEpoch), (4, f.hops)] ++
    flags [(3, f.deposed), (2, f.mgrConflict), (1, f.recRefused), (0, f.badWrite)])
  if words 0x40 0x4C off then nth [topo, at_, slice, stat] ((off - 0x40) / 4) else none

/-- The registers of a partition's job. -/
def readFabPart (m : Module) (fn p off : Nat) : Option Nat :=
  let f := m.fab p
  if words 0x100 0x120 off then
    nth [(m.fn fn).sel.fab, packed ([(16, f.job), (8, f.gen)] ++ flags [(1, f.fwd), (0, f.en)]), packed [(16, f.nranks), (0, f.rank)],
      packed (flags [(1, f.stopped), (0, f.badWrite)]), f.xfer, f.emptyTx, f.emptyRx, f.discard, f.stops] ((off - 0x100) / 4)
  else none

/-- The FAB block. -/
def readFab (m : Module) (fn off : Nat) : Option Nat :=
  if off < 0x40 then readLink m fn off
  else if off < 0x100 then readFabric m off
  else readFabPart m fn (selPart m fn blkFab) off

/-! ### PART (Tables 12.4 to 12.9, 10.9) -/

/-- A partition's step is pre-empted. -/
def stepPreempted (m : Module) (p : Nat) : Bool :=
  match (m.part p).step with
  | some s => s.preempted
  | none => false

/-- Requests of a partition that are PAUSED now. -/
def pausedCount (m : Module) (p : Nat) : Nat := ((reqsOf m p).filter fun x => x.2.st == .paused).length

/-- Serving registers (Table 10.9). -/
def readServe (m : Module) (p off : Nat) : Option Nat :=
  let r := (m.part p).regs
  if words 0x200 0x224 off then
    nth [packed (flags [(1, r.autoPause), (0, r.rt)]), r.waitLimit, r.srvQuota, (reqsOf m p).length, pausedCount m p, r.srvMiss, r.srvDrop,
      r.srvDrafted, r.srvAccepted, b2n r.srvBadWrite] ((off - 0x200) / 4)
  else none

/-- The PART block; PART_CTRL.RESET is WO. -/
def readPart (m : Module) (fn off : Nat) : Option Nat :=
  let p := selPart m fn blkPart
  let r := (m.part p).regs
  if off = 0 then some (m.fn fn).sel.part
  else if off = 0x4 then some (packed (flags [(1, r.pool), (0, r.en)]))
  else if off = 0x8 then some (b2n r.drain)
  else if off = 0xC then some (packed (flags [(3, stepPreempted m p), (2, r.busy), (1, r.drained), (0, r.badWrite)]))
  else if words 0x10 0x18 off then nth [r.share, r.minRun, r.csQuota] ((off - 0x10) / 4)
  else if words 0x20 0x28 off then nth [r.slip, r.preempt, r.switchCc] ((off - 0x20) / 4)
  else if words 0x30 0x3C off then nth [r.axSat, r.axNan, r.axInf, 0] ((off - 0x30) / 4)
  else if words 0x80 0xA4 off then
    some (if off % 8 = 0 then r.rate.get ((off - 0x80) / 8) else r.burst.get ((off - 0x80) / 8))
  else if words 0xA8 0xAC off then nth [r.waitFab, r.waitHost] ((off - 0xA8) / 4)
  else readServe m p off

/-! ### LARK (Tables 6.10 to 6.16) -/

/-- Sampling is running for a task of the partition (LARK_STAT.ACTIVE). -/
def larkActive (m : Module) (p : Nat) : Bool :=
  let k := (m.part p).lark
  k.en && k.ringPages != 0 && k.committed && (runningStep m p).isSome

/-- The LARK block. -/
def readLark (m : Module) (fn off : Nat) : Option Nat :=
  let p := selPart m fn blkLark
  let k := (m.part p).lark
  if off = 0 then some (m.fn fn).sel.lark
  else if off = 0x4 then some (packed (flags [(1, k.wrap), (0, k.en)]))
  else if words 0x8 0x14 off then nth [k.interval, k.ringPages, k.wrOff, k.rdOff] ((off - 0x8) / 4)
  else if off = 0x18 then some (packed (flags [(2, k.badWrite), (1, k.dropped), (0, larkActive m p)]))
  else if words 0x1C 0x28 off then nth [k.drop, k.stallLimit, k.stallCount, k.stallNq] ((off - 0x1C) / 4)
  else if words 0x30 0x4C off then some ((nth k.stallQid ((off - 0x30) / 4)).getD 0xFFFFFFFF)
  else none

/-! ### The map -/

/-- A word at an offset of a block; none where the block does not implement it. -/
def readBlock (m : Module) (fn block off : Nat) : Option Nat :=
  if block = blkHif then readHif m fn off
  else if block = blkRing then readRing m fn off
  else if block = blkTick then readTick m off
  else if block = blkPwr then readPwr m off
  else if block = blkSec then readSec m fn off
  else if block = blkFw then readFw m fn off
  else if block = blkMem then readMem m fn off
  else if block = blkFab then readFab m fn off
  else if block = blkEth then readEth m fn off
  else if block = blkPart then readPart m fn off
  else if block = blkRas then readRas m off
  else if block = blkLark then readLark m fn off
  else none

/-- A VF is offered a register of a block for reading: what it may write, and TICK (R293, R481). -/
def vfReads (m : Module) (fn block off : Nat) : Bool := block == blkTick || vfWrites m fn block off

/-- A block is offered: to PF0 each block, and HIF alone after a stopped start; before READY every read is served (R491, R492). -/
def blockReads (m : Module) (fn block off : Nat) : Bool :=
  (block == blkHif || !m.start.startFail) && (fn == 0 || vfReads m fn block off)

/-- A register in the page of a core (Table 18.11). -/
def readCorePage (c : Core) (off : Nat) : Option Nat :=
  let n := c.cnt
  if words 0 0x18 off then
    nth [n.meBusy, n.meFrontBubble, n.meShortPass, n.meSeedWait, n.meMergeWait, n.meMergePeak, n.meSkip] (off / 4)
  else if words 0x40 0x58 off then
    nth [n.veBusy, n.veIssue, n.veDepStall, n.veBankStall, n.veQueueWait, n.veSkip, n.veLong] ((off - 0x40) / 4)
  else if words 0x80 0x9C off then
    nth [n.qCreditWait, n.qSpill, n.qExtPeak, n.suBundles, n.suPairWait, n.suBufFull, n.suEmptyEmit, n.suDiscard] ((off - 0x80) / 4)
  else if words 0xC0 0xD4 off then
    nth [c.dispLists, c.dispAssign, c.dispMoved, c.dispDrop, c.dispExamined, c.dispRenorm] ((off - 0xC0) / 4)
  else none

/-- A register of a cluster (Table 18.10): CLU_CNT_CTRL reads 0 in its upper half, CLU_CNT_CLR 0 once applied and, while BUSY is 1,
the value before the write, which is 0 too (R469, R473). -/
def readCluster (m : Module) (k off : Nat) : Option Nat :=
  let c := m.clu k
  let t := c.tmCnt
  if off = 0 then some (packed [(16, c.live), (5, dieOfCluster k), (0, k)])
  else if off = 0x4 then some (packed (flags [(1, c.held), (0, c.busy)]))
  else if off = 0x8 then some c.freeze.toNat
  else if off = 0xC then some 0
  else if words 0x40 0x60 off then
    nth [t.busy, t.rdLines, t.wrLines, t.mcast, t.streams, t.cancel, t.cancelLines, t.discardLines, t.padLines] ((off - 0x40) / 4)
  else none

/-- A word in the window of a cluster (Table 18.9). -/
def readWindow (m : Module) (k off : Nat) : Option Nat :=
  if off < 0x1000 then readCluster m k off
  else if decide (0x10000 ≤ off ∧ off < 0x60000) then
    readCorePage (m.core (80 * k + (off - 0x10000) / 0x1000)) (off % 0x1000)
  else none

/-- A word at an offset of BAR0, or none where the read is a bus error (R479). BAR0 of a VF ends before the windows. -/
def readWord (m : Module) (fn a : Nat) : Option Nat :=
  if a < 0x1000000 then
    if blockReads m fn (a / 0x100000) (a % 0x100000) then readBlock m fn (a / 0x100000) (a % 0x100000) else none
  else
    let k := (a - 0x1000000) / 0x80000
    if fn = 0 ∧ a < 0x2000000 ∧ m.start.startFail = false ∧ m.power.domains.getLsbD (2560 + k) = true then
      readWindow m k ((a - 0x1000000) % 0x80000)
    else none

/-- Bytes of BAR0 of a function (R293). -/
def barBytes (fn : Nat) : Nat := if fn = 0 then 0x4000000 else 0x1000000

/-- A read of 1 to 4 bytes lies within one register; one of 8 bytes is aligned to 8 (R465). -/
def readSizeOk (a n : Nat) : Bool := (decide (1 ≤ n) && decide (a % 4 + n ≤ 4)) || (n == 8 && a % 8 == 0)

/-- The bytes of a read: of one register, or of two for a read of 8 bytes. -/
def readBytes (m : Module) (fn a n : Nat) : Option (List Byte) :=
  let b := a / 4 * 4
  match readWord m fn b, (if n = 8 then readWord m fn (b + 4) else some 0) with
  | some v, some w => some (((leBytes v 4 ++ leBytes w 4).drop (a % 4)).take n)
  | _, _ => none

/-- A read of `n` bytes at an offset of BAR0 of a function: its answer, and the module after it. A Completer Abort is recorded in the
function's AER status. Reads are served while firmware processors are absent (R466). -/
def regRead (m : Module) (fn a n : Nat) : Module × ReadAnswer :=
  if !reaches m fn || decide (barBytes fn ≤ a) then (m, .unreached)
  else if debugHit m fn 0 a then (m, .debugKit)
  else match (if readSizeOk a n then readBytes m fn a n else none) with
    | some b => (m, .bytes b)
    | none => (m.setFn fn fun f => { f with aerAbort := true }, .completerAbort)

end Sys2Proof.Machine
end

