-- ==== Sys2Proof/Safety.lean ====
section
/-! DEFINITION. What counts as a safe run, and the terms in which the statements speak of the module. -/

namespace Sys2Proof

/-- The step answers a next state. -/
def Safe (s : Machine.State) : Prop := ∃ t, Machine.step s = .next t

/-- Every command that waits is well formed. -/
def QueueWellFormed (s : Machine.State) : Prop := ∀ c, c ∈ s.pending → c.wellFormed = true

end Sys2Proof

namespace Sys2Proof.Machine

/-! ### Terms that the statements use -/

/-- A message is rung, its processor runs and no earlier message of its target waits: it is served when it is taken (R328 to R330). -/
abbrev ServedAtOnce (m : Module) (fn : Nat) (msg : MgmtMsg) (code target : Nat) : Prop :=
  fnOk fn = true ∧ msg.ok = true ∧ msg.mcode = code ∧ msg.target = target ∧ msgRung m fn msg = true ∧
    (m.proc target).st = .running ∧ (m.fn fn).mgmtWait.all (fun w => w.target != target) = true

/-- A function's message has been answered: the request ring moves to its MSN, the response ring holds one response more; nothing else
of any function changes (R329). -/
abbrev Answered (m m' : Module) (fn : Nat) (msg : MgmtMsg) (st : Status) (detail : Nat) (body : List Byte) : Prop :=
  (∀ g, g ≠ fn → m'.fn g = m.fn g) ∧
    m'.fn fn = { m.fn fn with
      mrqHead := msg.msn, respWritten := ((m.fn fn).respWritten + 1) % 4294967296
      resps := { msn := ((m.fn fn).respWritten + 1) % 4294967296, reqMsn := msg.msn, tag := msg.tag, status := st
                 detail := detail, body := body } :: (m.fn fn).resps }

/-- PF0 sees one event record more than before, unless its ring is full or does not exist yet (R331). -/
abbrev Raised (m m' : Module) (code part : Nat) (payload : List Nat) : Prop :=
  m.start.ringUp = true → ((m.fn 0).evtWritten + 4294967296 - (m.fn 0).evtHead) % 4294967296 ≠ 16384 →
    ∃ e, (m'.fn 0).events = e :: (m.fn 0).events ∧ e.code = code ∧ e.part = part ∧ e.payload = payload ∧
      e.evsn = ((m.fn 0).evtWritten + 1) % 4294967296 ∧ (m'.fn 0).evtWritten = e.evsn

/-- The power limit in force (R416): the smallest of the budget and the cap, of 40 % of the budget without a lease or in the safe
operating point, and of 30 % of it under the coolant clamp. -/
def limitOf (w : Power) : Nat :=
  min (min w.budgetW w.capW)
    (min (if w.leaseExpired = true ∨ w.safe = true then w.budgetW * 4 / 10 else w.budgetW)
      (if w.coolant = true then w.budgetW * 3 / 10 else w.budgetW))

/-- A write of a function to a register of a block acts (R480, R481, R491, R492): the function reaches its port, the block is offered at
this stage, and to this function. -/
abbrev WriteActs (m : Module) (fn block off : Nat) : Prop :=
  fnOk fn = true ∧ reaches m fn = true ∧ (block = blkHif ∨ (m.start.ready = true ∧ m.start.startFail = false)) ∧
    (fn = 0 ∨ vfWrites m fn block off = true)

/-- A processor is out of reset and runs. -/
abbrev ProcRuns (m : Module) (proc : Nat) : Prop :=
  procOk proc = true ∧ procOut m proc = true ∧ (m.proc proc).st = .running

/-- A processor is out of reset and absent, and not DOWN. -/
abbrev ProcAbsent (m : Module) (proc : Nat) : Prop :=
  procOk proc = true ∧ procOut m proc = true ∧ (m.proc proc).st ≠ .running ∧ (m.proc proc).st ≠ .down

/-- No message waits on any function. -/
abbrev NoMessageWaits (m : Module) : Prop := m.fns.cells.all (fun c => c.2.mgmtWait.isEmpty) = true

/-- A connected queue pair of an Ethernet port that is enabled and up. -/
abbrev QpLive (m : Module) (port qp : Nat) (q : Qp) : Prop :=
  port < 2 ∧ qp < 1024 ∧ (m.eth.get port).en = true ∧ (m.eth.get port).linkUp = true ∧ (m.eth.get port).qps.get qp = some q

/-- A doorbell of a ring reaches it. -/
abbrev BellRings (m : Module) (fn ring : Nat) : Prop := fnOk fn = true ∧ ringOk ring = true ∧ bellReaches m fn = true

/-- Of the module, only one ring pair has changed. -/
abbrev RingOnly (m m' : Module) (fn ring : Nat) : Prop :=
  (∀ g r, g ≠ fn ∨ r ≠ ring → m'.ring g r = m.ring g r) ∧ (∀ g, m'.fn g = { m.fn g with rings := (m'.fn g).rings }) ∧
    m' = { m with fns := m'.fns }

/-- An item of a bound function stands in its ring with an opcode and a state. -/
abbrev ItemAt (m : Module) (i : ItemRef) (x : Item) (p op : Nat) (st : ItemState) : Prop :=
  i.ok = true ∧ findItem m i = some x ∧ itemPart m i = some p ∧ x.opcode = op ∧ x.st = st

/-- An item's cell holds its own outcome, and unless its function is being reset the completion is the last that waits on its ring. -/
abbrev Finished (m m' : Module) (i : ItemRef) (x : Item) (status : Status) (detail : Detail) (after : Option ItemRef) : Prop :=
  (findItem m' i).map (·.st) = some .decided ∧ (findItem m' i).map (·.status) = some (some status) ∧
    ((m.fn i.fn).resetting = false → (m'.ring i.fn i.ring).waiting.getLast? =
      some { ref := i, tag := dfield x.desc 0x08 8, status := status, detail := detail, after := after
             deadline := dfield x.desc 0x10 8 })

/-- The images of a load list whose entries all pass the checks made before anything is placed. -/
abbrev loadImages (m : Module) (p : Nat) (i : ItemRef) (x : Item) : Option (List Swath) :=
  (checkEntries m p i ((range' 0 (dfield x.desc 0x20 1)).zip (loadList m p x.desc)) []).toOption

/-- A core has been fenced (R450 to R452): it is live no more, its domain is off, its planes are EMPTY, it stays halted, the fence is
counted, and the fence list of the flash names it unless it is full. -/
abbrev Fenced (m m' : Module) (core : Nat) : Prop :=
  m'.live core = false ∧ (∀ c, c ≠ core → m'.live c = m.live c) ∧ m'.power.domains.getLsbD core = false ∧
    m'.ras.fences = satAdd m.ras.fences 1 ∧ (m'.core core).planes = {} ∧ (m'.core core).halted = true ∧
    (m.flash.fences.length < 128 → core ∈ m'.flash.fences)

/-- A test item that waits to start: its code, on its target. -/
abbrev TestAt (m : Module) (i : ItemRef) (x : Item) (p op code : Nat) : Prop :=
  ItemAt m i x p op .dispatched ∧ testCode x = code

/-- A placement in Heath has room for `n` pages: HOME on a port needs that many free frames there. -/
def homeFits (m : Module) (pl : Placement) (n : Nat) : Bool :=
  match pl with
  | .home k => decide (k ≤ 3 ∧ n ≤ homeFree m k)
  | .stripe => true

/-- The core to which an error's storage belongs alone. -/
def ownCore : ErrPlace → Option Nat
  | .core c _ _ => some c
  | .cluster _ _ => none
  | .tier _ _ _ _ _ => none
  | .path _ _ => none

/-- No pair of the core holds a header or a bundle, and no queue has payload flits at its head: nothing waits at its steering units. -/
def suIdle (m : Module) (core : Nat) : Bool :=
  (m.core core).su.cells.isEmpty && (m.core core).inq.cells.all fun x => x.2.flits.head?.all (·.first)

/-- One message of a class of a source of a die has gone out, a copy on each plane, under the source's next sequence number; its
number is the one the receiver has seen last, so that no copy is taken a second time (R25, R27). -/
abbrev SentOne (m m' : Module) (die cls : Nat) (payload : BitVec 96) (x : HedgeMsg) : Prop :=
  x.die = die ∧ x.cls = cls ∧ x.seq = ((m.nodes.get die).seqs.get x.unit + 1) % 256 ∧ x.payload = payload ∧ x.planeB = false ∧
    x.ns = m.tick.ns ∧ m'.hedgeOut = laneInsert { x with planeB := true } (laneInsert x m.hedgeOut) ∧
    (m'.nodes.get die).seqs = (m.nodes.get die).seqs.put x.unit x.seq ∧
    (∀ b, takesCopy m' die x.unit x.seq b = false) ∧ ∀ d, d ≠ die → m'.nodes.get d = m.nodes.get d

/-- The vector engine of a core. -/
abbrev veOf (m : Module) (core : Nat) : Ve := (m.core core).ve

/-- Of the module, only the vector engine and the counters of one core have changed, and the exception counts and the stall count of
the partition whose plane is active there (R81, R175). -/
abbrev VeFrame (m m' : Module) (core : Nat) : Prop :=
  (∀ c, c ≠ core → m'.core c = m.core c) ∧
    m'.core core = { m.core core with ve := (m'.core core).ve, cnt := (m'.core core).cnt } ∧
    (∀ p, corePart m core ≠ some p → m'.part p = m.part p) ∧
    m' = { m with parts := m'.parts, cores := m'.cores }

/-- One instruction of the running handler has been issued: the engine goes on to the instruction after it, or where its loop stack
says, VL being `vl` before that (R117, R142). -/
abbrev Went (m m' : Module) (core vl : Nat) : Prop :=
  (veOf m' core).handler = (veOf m core).handler ∧
    ((veOf m' core).loops, (veOf m' core).pc, (veOf m' core).vl) = loopEnds (veOf m core).loops ((veOf m core).pc + 1) vl ∧
    ((m.clu (core / 80)).freeze = 0 → (m'.core core).cnt.veIssue = satAdd (m.core core).cnt.veIssue 1)

/-- No vector register has changed. -/
abbrev SameLanes (v w : Ve) : Prop := ∀ r, r < 32 → ∀ l, l < 64 → w.lane r l = v.lane r l
/-- No mask register has changed. -/
abbrev SameMasks (v w : Ve) : Prop := ∀ r, r < 8 → w.maskOf r = v.maskOf r
/-- No scalar register has changed. -/
abbrev SameScalars (v w : Ve) : Prop := ∀ r, r < 32 → w.scalar r = v.scalar r
/-- The stochastic-rounding state has not changed. -/
abbrev SameSeeds (v w : Ve) : Prop := w.seed = v.seed ∧ w.stream = v.stream

/-- The lanes of register `d` below VL are `g`; tail lanes and every other vector register are as before (R113, R114). -/
abbrev LanesAre (v w : Ve) (d : Nat) (g : Nat → BitVec 32) : Prop :=
  ∀ r, r < 32 → ∀ l, l < 64 → w.lane r l = if r = d ∧ l < v.vl then g l else v.lane r l

/-- Active lanes take `f`, masked lanes keep their value or take 0 under ZM (R114). -/
def masked (v : Ve) (o : ThreeOps) (f : Nat → BitVec 32) (l : Nat) : BitVec 32 :=
  if v.active o.msk.toNat l = true then f l else if o.zm = true then 0 else v.lane o.d.toNat l

/-- An instruction that writes the lanes of vector register D below VL, and nothing else of the engine. -/
abbrev WritesLanes (m m' : Module) (core d : Nat) (g : Nat → BitVec 32) : Prop :=
  VeFrame m m' core ∧ Went m m' core (veOf m core).vl ∧ LanesAre (veOf m core) (veOf m' core) d g ∧
    SameMasks (veOf m core) (veOf m' core) ∧ SameScalars (veOf m core) (veOf m' core) ∧ SameSeeds (veOf m core) (veOf m' core)

/-- An instruction that writes the active lanes of vector register D, and nothing else of the engine. -/
abbrev WritesActive (m m' : Module) (core : Nat) (o : ThreeOps) (f : Nat → BitVec 32) : Prop :=
  WritesLanes m m' core o.d.toNat (masked (veOf m core) o f)

/-- An instruction that writes mask register `d` (m0 reads all ones whatever is written), and nothing else of the engine. -/
abbrev WritesMask (m m' : Module) (core d : Nat) (x : BitVec 64) : Prop :=
  VeFrame m m' core ∧ Went m m' core (veOf m core).vl ∧ SameLanes (veOf m core) (veOf m' core) ∧
    (∀ r, r < 8 → (veOf m' core).maskOf r = if r = d ∧ r ≠ 0 then x else (veOf m core).maskOf r) ∧
    SameScalars (veOf m core) (veOf m' core) ∧ SameSeeds (veOf m core) (veOf m' core)

/-- Scalar register `d` is `x`, unless it is s0, which reads 0; the others are as before. -/
abbrev ScalarIs (v w : Ve) (d : Nat) (x : BitVec 64) : Prop :=
  ∀ r, r < 32 → w.scalar r = if r = d ∧ r ≠ 0 then x else v.scalar r

/-- Scalar registers `d` and `d + 1` are `x` and `y`, unless `d` is s0, which reads 0; the others are as before. -/
abbrev PairIs (v w : Ve) (d : Nat) (x y : BitVec 64) : Prop :=
  ∀ r, r < 32 → w.scalar r = if r = d ∧ r ≠ 0 then x else if r = d + 1 then y else v.scalar r

/-- An instruction that writes scalar registers as `p` says, and nothing else of the engine. -/
abbrev WritesScalars (m m' : Module) (core : Nat) (p : Ve → Ve → Prop) : Prop :=
  VeFrame m m' core ∧ Went m m' core (veOf m core).vl ∧ SameLanes (veOf m core) (veOf m' core) ∧
    SameMasks (veOf m core) (veOf m' core) ∧ p (veOf m core) (veOf m' core) ∧ SameSeeds (veOf m core) (veOf m' core)

/-- An instruction that writes scalar register `d`, and nothing else of the engine. -/
abbrev WritesScalar (m m' : Module) (core d : Nat) (x : BitVec 64) : Prop :=
  WritesScalars m m' core fun v w => ScalarIs v w d x

/-- A handler runs on a core of the module: its vector engine may be commanded. -/
abbrev Runs (m : Module) (core : Nat) : Prop := coreOk core = true ∧ handling m core = true

/-- A lane-form access meets neither a bad address nor a poisoned line (R133, R115). -/
abbrev Accessible (m : Module) (core size : Nat) (addrs : List Nat) : Prop :=
  addrFault size addrs = none ∧ addrs.all (fun a => !linePoisoned m core a) = true

/-- Address of lane `l` of a lane-form access. -/
def laneAddr (v : Ve) (o : MemOps) (off : Nat → Nat) (l : Nat) : Nat := (v.base o + off l) % 2 ^ 64

/-- A lane-form store: each active lane's element stands at its address, unless a higher active lane has the same one; every byte of the
local store outside the addressed elements is as before, and so is the engine; of the poison marks, only this core's may have gone. -/
abbrev StoresLanes (m m' : Module) (core : Nat) (o : MemOps) (off : Nat → Nat) : Prop :=
  (∀ l, l ∈ (veOf m core).actives o.msk.toNat →
      (∀ k, k ∈ (veOf m core).actives o.msk.toNat → l < k → laneAddr (veOf m core) o off k ≠ laneAddr (veOf m core) o off l) →
      (m'.core core).ls.rd (laneAddr (veOf m core) o off l) (laneSize o.fmt.toNat) =
        ((veOf m core).lane o.a.toNat l).toNat % 2 ^ (8 * laneSize o.fmt.toNat)) ∧
    (∀ a, (∀ l, l ∈ (veOf m core).actives o.msk.toNat →
        a < laneAddr (veOf m core) o off l ∨ laneAddr (veOf m core) o off l + laneSize o.fmt.toNat ≤ a) →
      (m'.core core).ls.get a = (m.core core).ls.get a) ∧
    Went m m' core (veOf m core).vl ∧ SameLanes (veOf m core) (veOf m' core) ∧ SameMasks (veOf m core) (veOf m' core) ∧
    SameScalars (veOf m core) (veOf m' core) ∧ SameSeeds (veOf m core) (veOf m' core)

/-- What a store leaves of the module: the local store, engine and counters of its core, and poison marks. -/
abbrev StoreFrame (m m' : Module) (core : Nat) : Prop :=
  (∀ c, c ≠ core → m'.core c = m.core c) ∧
    m'.core core = { m.core core with ls := (m'.core core).ls, ve := (m'.core core).ve, cnt := (m'.core core).cnt } ∧
    m'.ras = { m.ras with poisonLs := m'.ras.poisonLs } ∧
    (∀ p, corePart m core ≠ some p → m'.part p = m.part p) ∧
    m' = { m with ras := m'.ras, parts := m'.parts, cores := m'.cores }

/-- Every VL of the module, in force or saved by a loop, is at most 64 (R111, R116, R117). -/
def VlOk (m : Module) : Prop := ∀ c, (m.core c).ve.vl ≤ 64 ∧ ∀ l, l ∈ (m.core c).ve.loops → l.savedVl ≤ 64

end Sys2Proof.Machine

namespace Sys2Proof

/-- Every command that waits is well formed and does not act by the debug kit, which the manual does not publish (R443, R483). -/
def Runnable (s : Machine.State) : Prop :=
  ∀ c, c ∈ s.pending → c.wellFormed = true ∧ c ≠ .jtagAccess .bridge ∧
    (∀ fn bar off data en, c ≠ .registerWrite fn bar off data en)

end Sys2Proof
end

