-- ==== Sys2Proof/Certificates/Slice0/Obligations.lean ====
section
/-! DEFINITION. The statements for the provers. Each says its rules in its docstring; a clause is one case of the statement, and its
last conjunct is the frame: every field of the module that it does not name is as before. -/

set_option maxRecDepth 4000

open Sys2Proof Sys2Proof.Machine

/-- A step runs the command at the front of the queue. With a command at the front of its queue, step is exec of that command on
the state with the queue's rest. On an empty queue a cycle of 1 ns passes: the time advances, operations of the wide mailboxes
complete, flits in flight go on along their routes, running steps count the cc, and stream entries that wait are tried again.
While none waits, no step, core or queue changes but so: a stall count of a running step that is neither pre-empted nor on an
absent control core rises by one, or starts anew while a transfer of the partition moves; a flit keeps its place in its queue
and what it carries; and the banks of every local store are free (R12, R161, R175; an idle step as one cycle is the model's
own reading, log 6, log 71). -/
def Obligations.StepRunsFront : Prop :=
  (∀ (c : Instr) (s : State), step { s with pending := c :: s.pending } = exec c s) ∧
  (∀ (s : State), s.pending.isEmpty = true → ∃ m, step s = .next { s with m := m } ∧ m.tick =
      { s.m.tick with ns := s.m.tick.ns + 1 } ∧ m =
      { s.m with tick := m.tick, start := m.start, ras := m.ras, fns := m.fns, parts := m.parts, fabParts := m.fabParts,
                 slots := m.slots, clusters := m.clusters, cores := m.cores, nodes := m.nodes, ports := m.ports,
                   hedgeOut := m.hedgeOut, fabric := m.fabric, xfers := m.xfers, netOut := m.netOut, freeCtr := m.freeCtr }) ∧
  (∀ (s : State), s.pending.isEmpty = true → s.m.parts.wf = true → s.m.cores.wf = true → s.m.parts.cells.all (fun c =>
      c.2.tmWait.isEmpty) = true → ∃ m, step s = .next { s with m := m } ∧ m.tick =
      { s.m.tick with ns := s.m.tick.ns + 1 } ∧ (∀ p, m.part p = { s.m.part p with step := (m.part p).step }) ∧ (∀ p t,
      (s.m.part p).step = some t → (m.part p).step = some
      { t with stall := if t.preempted = true ∨ (t.cores.any fun c => decide ((s.m.proc (32 + clusterOf c)).st ≠ .running)) =
               true then t.stall else if xferMoves { s.m with tick := { s.m.tick with ns := s.m.tick.ns + 1 } } p = true then
                 0 else t.stall + 1 })
      ∧ (∀ c, m.core c = { s.m.core c with outq := (m.core c).outq, lsUse := [] }) ∧ (∀ c q, (((m.core c).outq.get
      q).inFlight.map fun f => { f with hop := 0, since := 0 }) = (((s.m.core c).outq.get q).inFlight.map fun f =>
      { f with hop := 0, since := 0 })) ∧ m =
      { s.m with tick := m.tick, fns := m.fns, parts := m.parts, cores := m.cores, ports := m.ports })

/-- Every well-formed command completes. A command whose operands name something that does not exist faults by name. Every other
command answers a next state with the queue as it was, for every state of the module, but for an access that acts by the debug
kit after DEBUG_UNLOCK: the JTAG bridge, or a register write to a debug register (R443, R483). -/
def Obligations.CommandsComplete : Prop :=
  (∀ (c : Instr) (s : State), c.wellFormed = false → exec c s = .fault .illFormed) ∧
  (∀ (c : Instr) (s : State), c.wellFormed = true → s.m.sec.debug = false → ∃ m, exec c s = .next { s with m := m }) ∧
  (∀ (c : Instr) (s : State), c.wellFormed = true → s.m.sec.debug = true → (∃ m, exec c s = .next { s with m := m }) ∨
      (exec c s = .refused .debugKit ∧ (c = .jtagAccess .bridge ∨ ∃ off data en, c = .registerWrite 0 0 off data en ∧
      0x1000000 ≤ off)))

/-- A queue of well-formed commands runs to its end. A queue that holds well-formed commands, none of them an access by the debug
kit, stays so at every step; no step of it faults or is refused, whatever the module's state, and after as many steps as it
has commands the queue is empty. Reset is such a state. -/
def Obligations.QueueRuns : Prop :=
  (∀ (s : State), Runnable s → ∃ t, step s = .next t ∧ Runnable t ∧ t.pending = s.pending.tail) ∧
  (∀ (n : Nat) (s : State), Runnable s → ∃ t, Host.Core.run Sys2Proof.core n s = .next t ∧ Runnable t ∧ t.pending =
      s.pending.drop n) ∧
  (Runnable State.reset)

/-- What reset leaves. At reset no command waits and the registers that the manual gives reset values hold them: a period of 2 ms
with 8 % reserve, role and sync 0, a budget and cap of 3,600 W with an expired lease and a limit of 1,440 W, a ramp of 200 W
per ms, RAS_CE_LIMIT 64, Lark's interval and stall limit, SSN counters at 1, links OFF, planes EMPTY, pages unbacked, stage 0
and not READY. The VL bound of the vector engines holds. -/
def Obligations.ResetHolds : Prop :=
  (State.reset.pending = [] ∧ State.reset.m.tick.period = 0x001E8480 ∧ State.reset.m.tick.pct = 8 ∧
      State.reset.m.tick.role = .worker ∧ State.reset.m.tick.sync = .free ∧ State.reset.m.power.budgetW = 3600 ∧
      State.reset.m.power.capW = 3600 ∧ State.reset.m.power.limitW = 1440 ∧ State.reset.m.power.slope = 200 ∧
      State.reset.m.power.leaseExpired = true ∧ State.reset.m.ras.ceLimit = 64 ∧ State.reset.m.start.stage = 0 ∧
      State.reset.m.start.ready = false) ∧
  (VlOk State.reset.m ∧ (∀ l, (State.reset.m.link l).st = .off) ∧ (∀ f r, (State.reset.m.ring f r).sqNext = 1 ∧
      (State.reset.m.ring f r).cqNext = 1) ∧ (∀ p, (State.reset.m.part p).lark.interval = 0x1000 ∧ (State.reset.m.part
      p).lark.stallLimit = 0x10000 ∧ ∀ g, ((State.reset.m.part p).pages.get g).tier = none) ∧ (∀ c k, ((State.reset.m.core
      c).planes.get k).st = .empty))

/-- Vector-engine words and instructions agree. The word of every well-formed vector-engine instruction is a 64-bit word that
decodes to that instruction on its core, with every operand; and the word of a decoded instruction is the word it was decoded
from, so that no two words spell one instruction and a word with a reserved class, operation, field or bit spells none (R120,
R121, Tables 5.1 to 5.3). -/
def Obligations.VectorWords : Prop :=
  (∀ (i : Instr) (core w : Nat), i.wellFormed = true → veEncode i = some (core, w) → w < 2 ^ 64 ∧ veDecode core w = some
      i) ∧
  (∀ (i : Instr) (core w : Nat), w < 2 ^ 64 → veDecode core w = some i → veEncode i = some (core, w) ∧ i.wellFormed =
      true)

/-- Words written out bit by bit. One word of each class of the vector engine, put together from the encoding tables, decodes to
its instruction; words with a reserved class, operation or bit decode to none. -/
def Obligations.VectorSanity : Prop :=
  (veDecode 7 0x00D4611100000000 = some (.faluFma 7 { msk := 2, zm := true, d := 3, a := 1, b := 2, c := 4 }) ∧ veDecode
      0 0x1000000000000000 = some (.ialuAdd 0 {}) ∧ veDecode 0 0x2000200400000000 = some (.cmpEq 0
      { d := 1, int := true }) ∧ veDecode 0 0x3000000000000000 = some (.cvt 0 { satfin := false, scale := 0 }) ∧ veDecode
      0 0x4100000000000000 = some (.rcp 0 {}) ∧ veDecode 0 0x5000400000000000 = some (.rsum 0 { d := 2 }) ∧ veDecode 0
      0x6080000020000000 = some (.slideup 0 { sh := 1 }) ∧ veDecode 0 0x7000000000000041 = some (.ld 0
      { offset := 1, part := 1 }) ∧ veDecode 0 0x8040000080000003 = some (.send 0 { q := 1, tag := 1, last := true }) ∧
      veDecode 0 0x9000210000000000 = some (.mand 0 { d := 1, a := 1 }) ∧ veDecode 0 0xA040400020000000 = some (.topk 0
      { d := 2, km1 := 1 }) ∧ veDecode 0 0xB1C0000100000005 = some (.loop 0 { strip := true, imm := 5 })) ∧
  (veDecode 0 0xC000000000000000 = none ∧ veDecode 0 0x0240000000000000 = none ∧ veDecode 0 0x0000000000000001 = none ∧
      veDecode 0 0x2000000400000000 = none)

/-- VL never exceeds 64. An instruction of any class but MEM and QIO keeps every VL of the module, in force or saved by a loop, at
most 64 (R111, R116, R117). -/
def Obligations.VectorLength : Prop :=
  ∀ (i : Instr) (core w : Nat) (s : State), veEncode i = some (core, w) → i.wellFormed = true → w / 2 ^ 60 ≠ 7 → w / 2 ^
    60 ≠ 8 → VlOk s.m → ∃ m, exec i s = .next { s with m := m } ∧ VlOk m

/-- The read commands of the sideband. With the always-on domain out of reset, SB_ID, SB_STATUS, SB_SERIAL, SB_REC_STAT and
SB_REC_OUT complete, answer the bytes of Table 20.6, and change nothing else; reading a record removes none (R508, R509). The
lengths are the table's. SB_ID, SB_STATUS, SB_SERIAL, SB_REC_STAT and SB_REC_OUT complete with their own effect on the
conditions that each clause puts on the state and the operands alone. -/
def Obligations.SidebandReads : Prop :=
  (∀ (s : State), s.m.power.dark = false → 1 ≤ s.m.start.stage → exec .sbId s = .next
      { s with m := { s.m with sb := { s.m.sb with reply := [0x10, 0x00, 0x20, 0x41] } } }) ∧
  (∀ (s : State), s.m.power.dark = false → 1 ≤ s.m.start.stage → s.m.start.stage < 256 → ∃ r : List Byte, exec .sbStatus
      s = .next { s with m := { s.m with sb := { s.m.sb with reply := r } } } ∧ r.length = 4 ∧ bit (leNat r) 0 =
      s.m.start.ready ∧ bit (leNat r) 1 = s.m.start.startFail ∧ bit (leNat r) 2 = s.m.start.tripped ∧ bit (leNat r) 3 =
      s.m.power.onBackup ∧ bits (leNat r) 4 2 = s.m.tick.sync.code ∧ bits (leNat r) 6 2 = s.m.tick.role.code ∧ bits (leNat
      r) 16 8 = s.m.start.stage) ∧
  (∀ (s : State), s.m.power.dark = false → 1 ≤ s.m.start.stage → ∃ r : List Byte, exec .sbSerial s = .next
      { s with m := { s.m with sb := { s.m.sb with reply := r } } } ∧ r.length = 8 ∧ leNat r = s.m.flash.serial % 2 ^ 64) ∧
  (∀ (s : State), s.m.power.dark = false → 1 ≤ s.m.start.stage → s.m.sb.heldSlice = none → s.m.sb.heldBudget = none →
      s.m.sb.refused < 2 ^ 32 → ∃ r : List Byte, exec .sbRecStat s = .next
      { s with m := { s.m with sb := { s.m.sb with reply := r } } } ∧ r.length = 20 ∧ leNat (r.take 4) =
      s.m.sb.rseq1.toNat ∧ leNat ((r.drop 4).take 4) = s.m.sb.rseq2.toNat ∧ leNat ((r.drop 8).take 8) = 0 ∧ leNat (r.drop
      16) = s.m.sb.refused) ∧
  (∀ (s : State) (r : SbRec) (rest : List SbRec), s.m.power.dark = false → 1 ≤ s.m.start.stage → s.m.sb.out = r :: rest →
      r.rtype < 256 → r.oseq < 2 ^ 32 → ∃ b : List Byte, exec .sbRecOut s = .next
      { s with m := { s.m with sb := { s.m.sb with reply := b } } } ∧ b.length = 64 ∧ leNat (b.take 1) = r.rtype ∧ leNat
      ((b.drop 4).take 4) = r.oseq ∧ leNat (b.drop 60) = crc32c (b.take 60))

/-- Records on the sideband; a full queue of outbound records drops its oldest. SB_REC_IN counts as refused a write that is not
one record of 64 bytes of RTYPE 1 or 2 and does nothing else; a record of RTYPE 1 or 2 that comes before stage 0x06 is held in
place of an earlier one of its type. SB_REC_ACK removes the oldest outbound record when it names its OSEQ and changes nothing
when it names another (R495, R508, R509). When the start stops with 16 outbound records waiting, the oldest is dropped, the
new record is the newest of 16, and its LOST field counts the dropped one; with fewer waiting none is dropped and LOST is 0.
SB_REC_OUT answers the oldest record and removes none (R509). SB_REC_IN, SB_REC_ACK, START_STOP and SB_REC_OUT complete with
their own effect on the conditions that each clause puts on the state and the operands alone. -/
def Obligations.SidebandRecords : Prop :=
  (∀ (s : State) (data : List Byte), s.m.power.dark = false → 1 ≤ s.m.start.stage → data.length ≠ 64 ∨ (field data 0 1 ≠
      1 ∧ field data 0 1 ≠ 2) → exec (.sbRecIn data) s = .next
      { s with m := { s.m with sb := { s.m.sb with refused := min (s.m.sb.refused + 1) 4294967295 } } }) ∧
  (∀ (s : State) (data : List Byte), s.m.power.dark = false → 1 ≤ s.m.start.stage → s.m.start.stage < 6 → data.length =
      64 → field data 0 1 = 1 → exec (.sbRecIn data) s = .next
      { s with m := { s.m with sb := { s.m.sb with heldSlice := some data, lastSlice := some data } } }) ∧
  (∀ (s : State) (data : List Byte), s.m.power.dark = false → 1 ≤ s.m.start.stage → s.m.start.stage < 6 → data.length =
      64 → field data 0 1 = 2 → exec (.sbRecIn data) s = .next
      { s with m := { s.m with sb := { s.m.sb with heldBudget := some data } } }) ∧
  (∀ (s : State) (n : Word) (r : SbRec) (rest : List SbRec), s.m.power.dark = false → 1 ≤ s.m.start.stage → s.m.sb.out =
      r :: rest → exec (.sbRecAck n) s = .next
      { s with m := { s.m with sb := { s.m.sb with out := if r.oseq = n.toNat then rest else r :: rest } } }) ∧
  (∀ (s : State) (r : SbRec) (rest : List SbRec), s.m.power.dark = false → s.m.start.startFail = false →
      s.m.start.tripped = false → s.m.start.ready = false → s.m.sb.out = r :: rest → rest.length = 15 → r.lost < 65535 → ∃
      (m : Module) (n : SbRec), exec .startStop s = .next { s with m := m } ∧ m.sb.out = rest ++ [n] ∧ m.sb.out.length =
      16 ∧ n.lost = r.lost + 1 ∧ n.oseq = (s.m.sb.oseq + 1) % 4294967296) ∧
  (∀ (s : State), s.m.power.dark = false → s.m.start.startFail = false → s.m.start.tripped = false → s.m.start.ready =
      false → s.m.sb.out.length < 16 → ∃ (m : Module) (n : SbRec), exec .startStop s = .next { s with m := m } ∧ m.sb.out
      = s.m.sb.out ++ [n] ∧ n.lost = 0 ∧ n.rtype = 0x84 ∧ n.body = [BitVec.ofNat 8 s.m.start.stage]) ∧
  (∀ (s : State), s.m.power.dark = false → 1 ≤ s.m.start.stage → ∃ m, exec .sbRecOut s = .next { s with m := m } ∧
      m.sb.out = s.m.sb.out ∧ m.sb.reply = (match s.m.sb.out with | r :: _ => sbRecBytes r | [] => List.replicate 64 0))

/-- The stages of a start. COLD_START begins the start with every register but what lies outside the rails at its reset value;
BUS_IN_REGULATION, POWER_ON_DOMAINS, HEDGEROW_TRIM, MEMORY_TRAINING, CORE_TEST, HEATH_ENUMERATION and READY each complete the
next stage of Table 19.1, with the effects it gives, and leave the rest of the module alone (R484 to R491). COLD_START,
BUS_IN_REGULATION, POWER_ON_DOMAINS, HEDGEROW_TRIM, MEMORY_TRAINING, CORE_TEST, HEATH_ENUMERATION and READY complete with
their own effect on the conditions that each clause puts on the state and the operands alone. -/
def Obligations.StartStages : Prop :=
  (∀ (s : State), s.m.power.dark = true → s.m.start.epo = false → s.m.power.mainOk = true ∨ s.m.power.backupOk = true →
      exec .coldStart s = .next
      { s with m := { tick := { ns := s.m.tick.ns }, flash := s.m.flash, start := {
                        perst := s.m.start.perst, refclk := s.m.start.refclk, sysclk := s.m.start.sysclk, epo := false,
                          coolantPin := s.m.start.coolantPin, cxlPrsnt := s.m.start.cxlPrsnt }, power := {
                            dark := false, mainOk := s.m.power.mainOk, backupOk := s.m.power.backupOk,
                              onBackup := !s.m.power.mainOk, mainGoodNs := s.m.power.mainGoodNs }, hedgeOut := s.m.hedgeOut,
                                hostOut := s.m.hostOut, netOut := s.m.netOut, sb := {
                                  i3c := s.m.sb.i3c, addr := s.m.sb.addr }, freeCtr := s.m.freeCtr } }) ∧
  (∀ (s : State), s.m.power.dark = false → s.m.start.startFail = false → s.m.start.tripped = false → s.m.start.stage = 0
      → ∃ d : BitVec 2662, exec .busInRegulation s = .next
      { s with m := { s.m with start := { s.m.start with stage := 1 }, power := { s.m.power with domains := d } } } ∧ ∀ k,
      d.getLsbD k = decide (k = 2636 ∨ k = 2652 ∨ k = 2661)) ∧
  (∀ (s : State), s.m.power.dark = false → s.m.start.startFail = false → s.m.start.tripped = false → s.m.start.stage = 5
      → ∃ m, exec .powerOnDomains s = .next { s with m := m } ∧ m.start = { s.m.start with stage := 6 } ∧ (∀ d,
      m.power.domains.getLsbD d = true → m.power.domFault.getLsbD d = false) ∧ ((s.m.proc 2).st = .running →
      m.sb.heldBudget = none ∧ m.sb.heldSlice = none) ∧ m =
      { s.m with tick := m.tick, start := m.start, power := m.power, fns := m.fns, parts := m.parts, fabParts := m.fabParts,
                 slots := m.slots, cores := m.cores, nodes := m.nodes, hedgeOut := m.hedgeOut, fabric := m.fabric,
                   netOut := m.netOut, sb := m.sb, freeCtr := m.freeCtr }) ∧
  (∀ (s : State), s.m.power.dark = false → s.m.start.startFail = false → s.m.start.tripped = false → s.m.start.stage = 6
      → ∃ m, exec .hedgerowTrim s = .next { s with m := m } ∧ m.start = { s.m.start with stage := 7 } ∧ (∀ d, m.nodes.get
      d = if d < 18 then { s.m.nodes.get d with replica := 0, replicaB := 0, reload := none, reloadB := none } else
      s.m.nodes.get d) ∧ m = { s.m with start := m.start, nodes := m.nodes }) ∧
  (∀ (s : State) (sward : BitVec 8) (ley : BitVec 16), s.m.power.dark = false → s.m.start.startFail = false →
      s.m.start.tripped = false → s.m.start.stage = 7 → sward ≠ 0 → ∃ m, exec (.memoryTraining sward ley) s = .next
      { s with m := m } ∧ m.start.stage = 8 ∧ m.start.startFail = false ∧ m.mem.healthSward = sward ∧ m.mem.healthLey =
      ley ∧ (∀ c, c < 64 → m.mem.lostLey.getLsbD c = !ley.getLsbD (c / 4)) ∧ (sward = BitVec.allOnes 8 → m.mem.capSward =
      147328) ∧ (ley = BitVec.allOnes 16 → m.mem.capLey = 1047552) ∧ m =
      { s.m with start := m.start, mem := m.mem, fns := m.fns }) ∧
  (∀ (s : State) (failed : List Nat), failed.all coreOk = true → s.m.power.dark = false → s.m.start.startFail = false →
      s.m.start.tripped = false → s.m.start.stage = 8 → ∃ m, exec (.coreTest failed) s = .next { s with m := m } ∧
      m.start.stage = 9 ∧ (∀ c, c < 2560 → m.live c = (s.m.flash.liveMap.getLsbD c && !s.m.flash.fences.contains c &&
      s.m.power.domains.getLsbD (2560 + c / 80) && !failed.contains c)) ∧ m.ras.liveCount = ((range' 0 2560).filter
      m.live).length ∧ (∀ k, k < 32 → (m.clu k).live = ((range' (80 * k) 80).filter m.live).length) ∧ (failed = [] →
      m.start = { s.m.start with stage := 9 }) ∧ m =
      { s.m with start := m.start, power := m.power, flash := m.flash, ras := m.ras, fns := m.fns, parts := m.parts,
                 fabParts := m.fabParts, slots := m.slots, clusters := m.clusters, cores := m.cores, nodes := m.nodes,
                   hedgeOut := m.hedgeOut, fabric := m.fabric, xfers := m.xfers, netOut := m.netOut, freeCtr := m.freeCtr }) ∧
  (∀ (s : State) (capacity : List (Option Nat)), capacity.length = 4 → s.m.power.dark = false → s.m.start.startFail =
      false → s.m.start.tripped = false → s.m.start.stage = 9 → ∃ m, exec (.heathEnumeration capacity) s = .next
      { s with m := m } ∧ m.start.stage = 10 ∧ (∀ k, k < 4 → m.mem.healthHeath.getLsbD k = (s.m.mem.healthHeath.getLsbD k
      || (s.m.power.domains.getLsbD (2632 + k) && (capacity.getD k none).isSome))) ∧ (∀ k c, k < 4 →
      s.m.power.domains.getLsbD (2632 + k) = true → capacity.getD k none = some c → m.mem.portPages.get k = min (c /
      2097152) 2097152) ∧ m = { s.m with start := m.start, mem := m.mem, fns := m.fns }) ∧
  (∀ (s : State), s.m.power.dark = false → s.m.start.startFail = false → s.m.start.tripped = false → s.m.start.stage = 10
      → ∃ m, exec .ready s = .next { s with m := m } ∧ m.start =
      { s.m.start with stage := 11, ready := true, ringUp := true, log := [], logLost := 0 } ∧ (∀ f, f ≠ 0 → m.fn f =
      s.m.fn f) ∧ m = { s.m with start := m.start, power := m.power, fns := m.fns })

/-- The boot chain; a start that stops. BOOT_CHAIN without the root secret stops the start at stage 0x01, without the
replay-protected region at stage 0x02. With both, the start count rises by one modulo 2^32 and stage 0x03 completes; the start
then goes on to stage 0x05 when the module record is accepted and the bundle of the active or of the other slot passes, from a
slot whose bundle it names active and with MIN_SVN at least the bundle's, and stops otherwise (R428 to R433). Whether
signatures verify is a free value (log 1). While the start is under way, START_STOP sets START_FAIL and drives FAULT_N, leaves
on no domain but host PCIe, the security core and the always-on one, and queues the record of Table 20.7 with the last stage;
a memory training without any Sward stack stops it too. Nothing else changes (R486, R492). BOOT_CHAIN, START_STOP and
MEMORY_TRAINING complete with their own effect on the conditions that each clause puts on the state and the operands alone. -/
def Obligations.BootChain : Prop :=
  (∀ (s : State) (region : Bool), s.m.power.dark = false → s.m.start.startFail = false → s.m.start.tripped = false →
      s.m.start.stage = 1 → ∃ m, exec (.bootChain false region) s = .next { s with m := m } ∧ m.start =
      { s.m.start with startFail := true, faultN := true } ∧ m =
      { s.m with start := m.start, power := m.power, sb := m.sb, netOut := m.netOut }) ∧
  (∀ (s : State), s.m.power.dark = false → s.m.start.startFail = false → s.m.start.tripped = false → s.m.start.stage = 1
      → ∃ m, exec (.bootChain true false) s = .next { s with m := m } ∧ m.start =
      { s.m.start with stage := 2, startFail := true, faultN := true } ∧ m.sec.pufOk = true ∧ m =
      { s.m with start := m.start, power := m.power, sec := m.sec, sb := m.sb, netOut := m.netOut }) ∧
  (∀ (s : State), s.m.power.dark = false → s.m.start.startFail = false → s.m.start.tripped = false → s.m.start.stage = 1
      → ∃ m, exec (.bootChain true true) s = .next { s with m := m } ∧ m.flash.startCount = (s.m.flash.startCount + 1) %
      4294967296 ∧ m.sec.startCount = m.flash.startCount ∧ s.m.flash.minSvn ≤ m.flash.minSvn ∧ (if recordAccepted s.m =
      true ∧ (slotOk s.m s.m.flash.active = true ∨ slotOk s.m (1 - s.m.flash.active) = true) then m.start.stage = 5 ∧
      m.start.startFail = false ∧ m.sec.recordOk = true ∧ (m.flash.slots.get m.flash.active).valid = true ∧ m.flash.minSvn
      = (m.flash.slots.get m.flash.active).svn else m.start.startFail = true ∧ (m.start.stage = 3 ∨ m.start.stage = 4)) ∧
      m =
      { s.m with start := m.start, power := m.power, fw := m.fw, flash := m.flash, sec := m.sec, fns := m.fns,
                 nodes := m.nodes, hedgeOut := m.hedgeOut, netOut := m.netOut, sb := m.sb, freeCtr := m.freeCtr }) ∧
  (∀ (s : State), s.m.power.dark = false → s.m.start.startFail = false → s.m.start.tripped = false → s.m.start.ready =
      false → ∃ m, exec .startStop s = .next { s with m := m } ∧ m.start =
      { s.m.start with startFail := true, faultN := true } ∧ m.power = { s.m.power with domains := m.power.domains } ∧ (∀
      d, m.power.domains.getLsbD d = (s.m.power.domains.getLsbD d && decide (d = 2636 ∨ d = 2652 ∨ d = 2661))) ∧ m =
      { s.m with start := m.start, power := m.power, sb := m.sb, netOut := m.netOut }) ∧
  (∀ (s : State) (ley : BitVec 16), s.m.power.dark = false → s.m.start.startFail = false → s.m.start.tripped = false →
      s.m.start.stage = 7 → ∃ m, exec (.memoryTraining 0 ley) s = .next { s with m := m } ∧ m.start =
      { s.m.start with startFail := true, faultN := true } ∧ m =
      { s.m with start := m.start, power := m.power, sb := m.sb, netOut := m.netOut })

/-- Warm reset, thermal restart, loss of the system clock, expanders. An order whose fields agree and that its state allows acts
as R498, R499, R424 and R510 say. SYSCLK_LOSS drives FAULT_N, ends READY, frees the tick and turns every link OFF (R506).
CXL_PRSNT_CHANGE moves the pin's bit, and an expander taken away is mapped out (R489, R414). WARM_RESET, THERMAL_RESTART,
SYSCLK_LOSS and CXL_PRSNT_CHANGE complete with their own effect on the conditions that each clause puts on the state and the
operands alone. -/
def Obligations.ResetsAndClocks : Prop :=
  (∀ (s : State) (serial : BitVec 16), s.m.power.dark = false → 1 ≤ s.m.start.stage → s.m.start.tripped = false →
      serial.toNat = s.m.flash.serial % 65536 → ∃ m, exec (.warmReset 0x01 0xFE serial) s = .next { s with m := m } ∧
      m.start =
      { stage := 1, sysclk := true, perst := s.m.start.perst, refclk := s.m.start.refclk, epo := s.m.start.epo,
        coolantPin := s.m.start.coolantPin, cxlPrsnt := s.m.start.cxlPrsnt }
      ∧ m.power.setPoint = 0 ∧ (∀ d, m.power.domains.getLsbD d = decide (d = 2636 ∨ d = 2652 ∨ d = 2661)) ∧
      m.power.budgetW = s.m.power.budgetW ∧ m.power.leaseFrom = s.m.power.leaseFrom ∧ m.flash = s.m.flash ∧ m.sb =
      { s.m.sb with heldSlice := s.m.sb.heldSlice.or s.m.sb.lastSlice, rseq1 := 0 } ∧ m.fns = {} ∧ m.parts = {} ∧ m.cores
      = {} ∧ m.fabric = {} ∧ m.ras = {}) ∧
  (∀ (s : State) (serial : BitVec 16), s.m.power.dark = false → 1 ≤ s.m.start.stage → s.m.start.tripped = true →
      s.m.power.tempDeg < 85 → s.m.start.epo = false → s.m.power.mainOk = true ∨ s.m.power.backupOk = true → serial.toNat
      = s.m.flash.serial % 65536 → ∃ m, exec (.thermalRestart 0x02 0xFD serial) s = .next { s with m := m } ∧ m.power.dark
      = false ∧ m.start.stage = 0 ∧ m.start.tripped = false ∧ m.start.faultN = false ∧ m.flash = s.m.flash ∧ m.sb =
      { i3c := s.m.sb.i3c, addr := s.m.sb.addr } ∧ m.fns = {} ∧ m.parts = {} ∧ m.cores = {} ∧ m.tick.count = 0) ∧
  (∀ (s : State), s.m.power.dark = false → s.m.start.sysclk = true → s.m.start.stage ≠ 0 → s.m.start.tripped = false → ∃
      m, exec .sysclkLoss s = .next { s with m := m } ∧ m.start =
      { s.m.start with sysclk := false, faultN := true, ready := false } ∧ m.tick.sync = .free ∧ (∀ l, l < 12 → (m.link
      l).st = .off) ∧ (∀ c, (m.cores.get c) = {} ∨ (m.core c).halted = true) ∧ m =
      { s.m with tick := m.tick, start := m.start, power := m.power, parts := m.parts, clusters := m.clusters,
                 cores := m.cores, nodes := m.nodes, hedgeOut := m.hedgeOut, fabric := m.fabric, xfers := m.xfers,
                   netOut := m.netOut, sb := m.sb }) ∧
  (∀ (s : State) (port : BitVec 2), ∃ m, exec (.cxlPrsntChange port true) s = .next { s with m := m } ∧ m.start =
      { s.m.start with cxlPrsnt := m.start.cxlPrsnt } ∧ (∀ k, m.start.cxlPrsnt.getLsbD k = (s.m.start.cxlPrsnt.getLsbD k
      || decide (k = port.toNat))) ∧ m = { s.m with start := m.start, power := m.power }) ∧
  (∀ (s : State) (port : BitVec 2), ∃ m, exec (.cxlPrsntChange port false) s = .next { s with m := m } ∧ (∀ k,
      m.start.cxlPrsnt.getLsbD k = (s.m.start.cxlPrsnt.getLsbD k && !decide (k = port.toNat))) ∧ m.mem.healthHeath =
      s.m.mem.healthHeath &&& ~~~(BitVec.twoPow 4 port.toNat) ∧ m =
      { s.m with start := m.start, power := m.power, ras := m.ras, mem := m.mem, fns := m.fns, parts := m.parts,
                 fabParts := m.fabParts, slots := m.slots, clusters := m.clusters, cores := m.cores, nodes := m.nodes,
                   hedgeOut := m.hedgeOut, fabric := m.fabric, xfers := m.xfers, netOut := m.netOut, freeCtr := m.freeCtr })

/-- SB_ORDER acts only when its three fields agree. With the sideband up, ORDER 0x01 acts exactly when its inverse and serial
agree and TRIPPED is 0, and ORDER 0x02 exactly when they agree, TRIPPED is 1 and the hottest sensor reads below 85 C: the warm
reset returns to stage 0x01 with the tick at 0, the restart begins from power-on with TRIPPED 0. Any other order, and any
other code, changes nothing and sets no status bit (R510). WARM_RESET and THERMAL_RESTART complete with their own effect on
the conditions that each clause puts on the state and the operands alone. -/
def Obligations.OrdersAgree : Prop :=
  (∀ (s : State) (order inverse : BitVec 8) (serial : BitVec 16), order ≠ 1 ∨ inverse ≠ ~~~order ∨ serial.toNat ≠
      s.m.flash.serial % 65536 ∨ s.m.start.tripped = true → exec (.warmReset order inverse serial) s = .next s) ∧
  (∀ (s : State) (order inverse : BitVec 8) (serial : BitVec 16), order ≠ 2 ∨ inverse ≠ ~~~order ∨ serial.toNat ≠
      s.m.flash.serial % 65536 ∨ s.m.start.tripped = false ∨ 85 ≤ s.m.power.tempDeg → exec (.thermalRestart order inverse
      serial) s = .next s) ∧
  (∀ (s : State) (serial : BitVec 16), s.m.power.dark = false → 1 ≤ s.m.start.stage → s.m.start.tripped = false →
      serial.toNat = s.m.flash.serial % 65536 → ∃ m, exec (.warmReset 0x01 0xFE serial) s = .next { s with m := m } ∧
      m.start.stage = 1 ∧ m.start.ready = false ∧ m.tick.count = 0) ∧
  (∀ (s : State) (serial : BitVec 16), s.m.power.dark = false → 1 ≤ s.m.start.stage → s.m.start.tripped = true →
      s.m.power.tempDeg < 85 → s.m.start.epo = false → s.m.power.mainOk = true ∨ s.m.power.backupOk = true → serial.toNat
      = s.m.flash.serial % 65536 → ∃ m, exec (.thermalRestart 0x02 0xFD serial) s = .next { s with m := m } ∧
      m.start.stage = 0 ∧ m.start.tripped = false ∧ m.power.dark = false)

/-- The host port. PERST_ASSERT and REFCLK_LOSS take the link down; after READY they begin a reset of PF0 and of every enabled VF
with no final ledger, before READY they reset no function; PERST_DEASSERT and REFCLK_STABLE change the level alone.
HOST_LINK_UP records width and rate and is degraded below x4 at 128 GT/s; HOST_LINK_DOWN resets no function. A configuration
request is answered Retry Status until stage 0x04 completes, then normally (R291, R493, R494, R506). PERST_ASSERT,
REFCLK_LOSS, PERST_DEASSERT, REFCLK_STABLE, HOST_LINK_DOWN, HOST_LINK_UP and CONFIGURATION_REQUEST complete with their own
effect on the conditions that each clause puts on the state and the operands alone. -/
def Obligations.HostPort : Prop :=
  (∀ (s : State), s.m.start.ready = false → ∃ m, exec .perstAssert s = .next { s with m := m } ∧ m.start =
      { s.m.start with perst := true, linkUp := false, numVfs := 0, cfgRetry := none } ∧ (∀ f, m.fn f =
      { s.m.fn f with d3 := false, relaxed := false, aerAbort := false }) ∧ m =
      { s.m with start := m.start, fns := m.fns }) ∧
  (∀ (s : State), s.m.start.ready = false → ∃ m, exec .refclkLoss s = .next { s with m := m } ∧ m.start =
      { s.m.start with refclk := false, linkUp := false, numVfs := 0, cfgRetry := none } ∧ (∀ f, m.fn f =
      { s.m.fn f with d3 := false, relaxed := false, aerAbort := false }) ∧ m =
      { s.m with start := m.start, fns := m.fns }) ∧
  (∀ (s : State), s.m.start.ready = true → ∃ m n, exec .perstAssert s = .next { s with m := m } ∧ exec .refclkLoss s =
      .next { s with m := n } ∧ m.start.perst = true ∧ m.start.linkUp = false ∧ m.start.numVfs = 0 ∧ m.start.ready = true
      ∧ n.start.refclk = false ∧ n.start.linkUp = false ∧ n.start.numVfs = 0 ∧ (∀ w, w ∈ m.hostOut → (∃ f r a l, w =
      .ledger f r a l) → w ∈ s.m.hostOut) ∧ (∀ f, f ≤ s.m.start.numVfs → (m.fn f).resetting = true ∧ (n.fn f).resetting =
      true) ∧ (∀ f, s.m.start.numVfs < f → (m.fn f).resetting = (s.m.fn f).resetting) ∧ m =
      { s.m with start := m.start, power := m.power, ras := m.ras, fns := m.fns, parts := m.parts, fabParts := m.fabParts,
                 slots := m.slots, cores := m.cores, nodes := m.nodes, hedgeOut := m.hedgeOut, hostOut := m.hostOut,
                   freeCtr := m.freeCtr }) ∧
  (∀ (s : State), exec .perstDeassert s = .next { s with m := { s.m with start := { s.m.start with perst := false } } } ∧
      exec .refclkStable s = .next { s with m := { s.m with start := { s.m.start with refclk := true } } } ∧ exec
      .hostLinkDown s = .next { s with m := { s.m with start := { s.m.start with linkUp := false } } }) ∧
  (∀ (s : State) (width speed : BitVec 2), s.m.start.perst = false → s.m.start.refclk = true → s.m.start.linkUp = false →
      s.m.power.domains.getLsbD 2636 = true → s.m.ras.lostDies.contains 16 = false → 2 ≤ width.toNat → 2 ≤ speed.toNat →
      exec (.hostLinkUp width speed) s = .next
      { s with m := { s.m with start := { s.m.start with
                                 linkUp := true, width := width.toNat, speed := speed.toNat, degraded := false } } }) ∧
  (∀ (s : State) (width speed : BitVec 2), s.m.start.perst = false → s.m.start.refclk = true → s.m.start.linkUp = false →
      s.m.power.domains.getLsbD 2636 = true → s.m.ras.lostDies.contains 16 = false → width.toNat < 2 ∨ speed.toNat < 2 → ∃
      m, exec (.hostLinkUp width speed) s = .next { s with m := m } ∧ m.start.linkUp = true ∧ m.start.width = width.toNat
      ∧ m.start.speed = speed.toNat ∧ m.start.degraded = true ∧ m =
      { s.m with start := m.start, fns := m.fns, nodes := m.nodes, hedgeOut := m.hedgeOut }) ∧
  (∀ (s : State) (req : CfgReq), req.ok = true → s.m.start.linkUp = true → s.m.start.perst = false → s.m.start.stage < 4
      → s.m.start.startFail = false → exec (.configurationRequest req) s = .next
      { s with m := { s.m with start := { s.m.start with cfgRetry := some true } } }) ∧
  (∀ (s : State) (f n : Nat) (d : Bool), f < 64 → s.m.start.linkUp = true → s.m.start.perst = false → 4 ≤ s.m.start.stage
      → exec (.configurationRequest (.read f n)) s = .next
      { s with m := { s.m with start := { s.m.start with cfgRetry := some false } } } ∧ (f ≤ s.m.start.numVfs → ∃ m, exec
      (.configurationRequest (.power f d)) s = .next { s with m := m } ∧ m.fn f = { s.m.fn f with d3 := d } ∧ (∀ g, g ≠ f
      → m.fn g = s.m.fn g) ∧ m = { s.m with start := m.start, fns := m.fns }))

/-- The power loop and the thermal loop; the main and the backup feed. A sample of the power loop averages the readings of the
last 1 ms and changes neither the set-point nor L: it can only order a step. Above 97 % of L, the loop running, a step down
waits for its reserve. A sample of the thermal loop records the hottest junction, throttles from 95 C on, forbids raises from
90 C on, and orders a step down from 95 C on. PEAK_TIME_CAP counts and caps the input (R407 to R409, R419, R423). A feed that
turns bad beside a good one moves the module there, counts the move and raises FEED_SWITCH; the second feed to turn bad begins
the loss sequence without a move; a move to a feed that is not good never happens. FEED_GOOD marks the feed; FEED_SWITCH_BACK
moves to the main feed once it has been good for 10 s (R410 to R412). POWER_LOOP_SAMPLE, THERMAL_LOOP_SAMPLE, PEAK_TIME_CAP,
FEED_BAD, FEED_GOOD and FEED_SWITCH_BACK complete with their own effect on the conditions that each clause puts on the state
and the operands alone. -/
def Obligations.PowerLoops : Prop :=
  (∀ (s : State) (watts : Nat), s.m.power.dark = false → s.m.start.tripped = false → ∃ m, exec (.powerLoopSample watts) s
      = .next { s with m := m } ∧ m.power.samples = (watts :: s.m.power.samples).take 10 ∧ m.power.inputW =
      m.power.samples.sum / m.power.samples.length % 65536 ∧ m.power.setPoint = s.m.power.setPoint ∧ m.power.limitW =
      s.m.power.limitW ∧ (loopRuns s.m = true → 97 * m.power.limitW < 100 * m.power.inputW → m.power.setPoint ≠ 0 →
      m.tick.due.contains (.setPoint (m.power.setPoint - 1)) = true) ∧ m =
      { s.m with tick := m.tick, power := m.power, freeCtr := m.freeCtr }) ∧
  (∀ (s : State) (die deg : Nat), dieOk die = true → s.m.power.dark = false → loopRuns s.m = true → ∃ m, exec
      (.thermalLoopSample [(die, deg)]) s = .next { s with m := m } ∧ m.power.tempDie = die ∧ m.power.tempDeg = min deg
      255 ∧ m.power.throttle = decide (95 ≤ deg) ∧ m.power.noRaise = decide (90 ≤ deg) ∧ m.power.setPoint =
      s.m.power.setPoint ∧ (95 ≤ deg → m.power.setPoint ≠ 0 → m.tick.due.contains (.setPoint (m.power.setPoint - 1)) =
      true) ∧ (deg < 95 → m.tick = s.m.tick) ∧ m = { s.m with tick := m.tick, power := m.power }) ∧
  (∀ (s : State), s.m.power.dark = false → s.m.start.tripped = false → exec .peakTimeCap s = .next
      { s with m := { s.m with power := { s.m.power with
                                 peakUsed := true, peakFrom := some s.m.tick.ns,
                                   peakCap := min (s.m.power.peakCap + 1) 4294967295, limiting := true, limitSeen := true } } }) ∧
  (∀ (s : State) (backup : Bool), s.m.power.dark = false → s.m.power.loss = .none → s.m.power.mainOk = true →
      s.m.power.backupOk = true → s.m.power.onBackup = backup → ∃ m, exec (.feedBad backup) s = .next { s with m := m } ∧
      m.power =
      { s.m.power with mainOk := backup, backupOk := !backup, onBackup := !backup,
                       feedSwitch := min (s.m.power.feedSwitch + 1) 4294967295 }
      ∧ Raised s.m m 0x0701 255 [if backup then 0 else 1] ∧ m =
      { s.m with power := m.power, start := m.start, fns := m.fns }) ∧
  (∀ (s : State) (backup : Bool), s.m.power.dark = false → s.m.power.loss = .none → (if backup then s.m.power.backupOk
      else s.m.power.mainOk) = true → (if backup then s.m.power.mainOk else s.m.power.backupOk) = false → exec (.feedBad
      backup) s = .next
      { s with m := { s.m with power := { s.m.power with
                                 mainOk := false, backupOk := false, loss := .bad, lossFrom := s.m.power.onBackup,
                                   lossSeals := 0 } } }) ∧
  (∀ (s : State), s.m.power.mainOk = false → exec (.feedGood false) s = .next
      { s with m := { s.m with power := { s.m.power with mainOk := true, mainGoodNs := s.m.tick.ns } } } ∧
      (s.m.power.backupOk = false → exec (.feedGood true) s = .next
      { s with m := { s.m with power := { s.m.power with backupOk := true } } })) ∧
  (∀ (s : State), s.m.power.dark = false → s.m.power.loss = .none → s.m.power.onBackup = true → s.m.power.mainOk = true →
      ∃ m, exec .feedSwitchBack s = .next { s with m := m } ∧ m.power =
      { s.m.power with onBackup := false, feedSwitch := min (s.m.power.feedSwitch + 1) 4294967295 } ∧ s.m.power.mainGoodNs
      + 10000000000 ≤ m.tick.ns ∧ m.tick = { s.m.tick with ns := m.tick.ns } ∧ Raised s.m m 0x0701 255 [0] ∧ m =
      { s.m with tick := m.tick, power := m.power, start := m.start, fns := m.fns })

/-- The loss of both feeds; ePO_N, the thermal trip, a regulator fault. POWER_LOSS_COMMIT resumes on a good feed and counts the
seals that fell meanwhile; before READY it goes dark; otherwise it commits the shutdown and queues record 0x81.
FINAL_LEDGER_WRITE then writes a ledger block for every ring pair enabled, with the host link up, and HOLDUP_DARK leaves
nothing but what lies outside the rails (R412, R326, R497). EPO_ASSERT opens every stage whatever the state: nothing but what
lies outside the rails remains and no ledger is written. EPO_RELEASE with a good feed starts from power-on. A thermal trip at
105 C or above leaves the always-on domain alone, sets TRIPPED and FAULT_N and queues record 0x82. A regulator fault turns the
domain off and it stays off; a core domain's fault fences the core (R415, R421, R424). POWER_LOSS_COMMIT, FINAL_LEDGER_WRITE,
HOLDUP_DARK, EPO_ASSERT, EPO_RELEASE, THERMAL_TRIP and PWR_DOMAIN_FAULT complete with their own effect on the conditions that
each clause puts on the state and the operands alone. -/
def Obligations.PowerLoss : Prop :=
  (∀ (s : State), s.m.power.loss = .bad → s.m.power.mainOk = true ∨ s.m.power.backupOk = true → ∃ m, exec
      .powerLossCommit s = .next { s with m := m } ∧ m.power =
      { s.m.power with loss := .none, lossSeals := 0, brownout := min (s.m.power.brownout + s.m.power.lossSeals) 4294967295,
                       onBackup := !s.m.power.mainOk,
                         feedSwitch := if s.m.power.lossFrom = !s.m.power.mainOk then s.m.power.feedSwitch else min
                           (s.m.power.feedSwitch + 1) 4294967295 }
      ∧ m = { s.m with power := m.power, start := m.start, fns := m.fns }) ∧
  (∀ (s : State), s.m.power.loss = .bad → s.m.power.mainOk = false → s.m.power.backupOk = false → s.m.start.ready = false
      → ∃ m, exec .powerLossCommit s = .next { s with m := m } ∧ m.power = { mainGoodNs := s.m.power.mainGoodNs } ∧
      m.start.stage = 0 ∧ m.flash = s.m.flash ∧ m.fns = {} ∧ m.parts = {} ∧ m.cores = {} ∧ m.sb =
      { i3c := s.m.sb.i3c, addr := s.m.sb.addr }) ∧
  (∀ (s : State), s.m.power.loss = .bad → s.m.power.mainOk = false → s.m.power.backupOk = false → s.m.start.ready = true
      → ∃ m, exec .powerLossCommit s = .next { s with m := m } ∧ m.power =
      { s.m.power with loss := .committed, limiting := true, limitSeen := true } ∧ m.start = s.m.start ∧ (∃ r,
      m.sb.out.getLast? = some r ∧ r.rtype = 0x81 ∧ r.body = [0]) ∧ (∀ c, m.core c = {} ∨ (m.core c).halted = true) ∧ m =
      { s.m with start := m.start, power := m.power, fns := m.fns, parts := m.parts, clusters := m.clusters,
                 cores := m.cores, nodes := m.nodes, hedgeOut := m.hedgeOut, xfers := m.xfers, netOut := m.netOut, sb := m.sb }) ∧
  (∀ (s : State), s.m.power.loss = .committed → s.m.power.dark = false → s.m.start.linkUp = true →
      s.m.ras.lostDies.contains 16 = false → ∃ m, exec .finalLedgerWrite s = .next { s with m := m } ∧ m.power =
      { s.m.power with loss := .ledgers } ∧ ∀ f r, f ∈ s.m.fns.keys → r ∈ enabledRings s.m f → ∃ a l, HostWrite.ledger f r
      a l ∈ m.hostOut ∧ bit l.flags 2 = true) ∧
  (∀ (s : State), s.m.power.loss = .committed ∨ s.m.power.loss = .ledgers → ∃ m, exec .holdupDark s = .next
      { s with m := m } ∧ m.power =
      { mainOk := s.m.power.mainOk, backupOk := s.m.power.backupOk, mainGoodNs := s.m.power.mainGoodNs } ∧ m.flash =
      s.m.flash ∧ m.hostOut = s.m.hostOut ∧ m.fns = {} ∧ m.parts = {} ∧ m.cores = {} ∧ m.clusters = {} ∧ m.slots = {} ∧
      m.fabric = {} ∧ m.ras = {} ∧ m.sb = { i3c := s.m.sb.i3c, addr := s.m.sb.addr }) ∧
  (∀ (s : State), ∃ m, exec .epoAssert s = .next { s with m := m } ∧ m.power =
      { mainOk := s.m.power.mainOk, backupOk := s.m.power.backupOk, mainGoodNs := s.m.power.mainGoodNs } ∧ m.start =
      { perst := s.m.start.perst, refclk := s.m.start.refclk, sysclk := s.m.start.sysclk, epo := true,
        coolantPin := s.m.start.coolantPin, cxlPrsnt := s.m.start.cxlPrsnt }
      ∧ m.flash = s.m.flash ∧ m.hostOut = s.m.hostOut ∧ m.fns = {} ∧ m.parts = {} ∧ m.cores = {} ∧ m.sb =
      { i3c := s.m.sb.i3c, addr := s.m.sb.addr }) ∧
  (∀ (s : State), s.m.start.epo = true → s.m.power.dark = true → s.m.power.mainOk = true ∨ s.m.power.backupOk = true → ∃
      m, exec .epoRelease s = .next { s with m := m } ∧ m.start.epo = false ∧ m.start.stage = 0 ∧ m.power.dark = false ∧
      m.power.onBackup = !s.m.power.mainOk ∧ m.flash = s.m.flash) ∧
  (∀ (s : State) (die deg : Nat), dieOk die = true → s.m.power.dark = false → s.m.start.tripped = false → 105 ≤ deg → ∃
      m, exec (.thermalTrip die deg) s = .next { s with m := m } ∧ (∀ d, m.power.domains.getLsbD d = decide (d = 2661)) ∧
      m.power.tempDie = die ∧ m.power.tempDeg = min deg 255 ∧ m.start.tripped = true ∧ m.start.faultN = true ∧
      m.start.ready = false ∧ (∃ r, m.sb.out.getLast? = some r ∧ r.rtype = 0x82 ∧ r.body =
      [BitVec.ofNat 8 die, BitVec.ofNat 8 deg]) ∧ m.hostOut = s.m.hostOut ∧ m.flash = s.m.flash ∧ m.parts = {} ∧ m.cores =
      {}) ∧
  (∀ (s : State) (d : Nat), d < 2661 → s.m.power.dark = false → s.m.start.tripped = false → s.m.power.domains.getLsbD d =
      true → ∃ m, exec (.pwrDomainFault d) s = .next { s with m := m } ∧ m.power.domains.getLsbD d = false ∧
      m.power.domFault.getLsbD d = true ∧ (d < 2560 → m.live d = false))

/-- The limit L under the coolant clamp and an expired lease; pWR_DOMAINS and PWR_RECORD. With no fall of the budget waiting,
COOLANT_FAULT, COOLANT_CLEAR and LEASE_EXPIRED bring L to the smallest of the terms of R416 that apply, at once; the first and
the last raise their events and the first counts. Nothing else of the PWR block but the domains, in COOLANT_CLEAR, changes
(R416, R418, R422). Served at once, PWR_DOMAINS answers the first domain, how many, and one bit for each, and refuses a first
domain beyond the last; PWR_RECORD answers the last record applied, zeros before any, and the tick of its application. Each
answer is DONE, and nothing but the function's two rings changes (Table 15.7, R329). COOLANT_FAULT, COOLANT_CLEAR,
LEASE_EXPIRED, PWR_DOMAINS and PWR_RECORD complete with their own effect on the conditions that each clause puts on the state
and the operands alone. -/
def Obligations.PowerLimit : Prop :=
  (∀ (s : State), s.m.power.dark = false → s.m.power.coolant = false → s.m.power.fallPending = false → ∃ m v, exec
      .coolantFault s = .next { s with m := m } ∧ m.power =
      { s.m.power with coolant := true, coolantCnt := min (s.m.power.coolantCnt + 1) 4294967295,
                       limitW := limitOf { s.m.power with coolant := true } }
      ∧ m.power.limitW ≤ s.m.power.budgetW * 3 / 10 ∧ m.start.coolantPin = true ∧ Raised s.m m 0x0704 255 [v] ∧ m =
      { s.m with power := m.power, start := m.start, fns := m.fns, freeCtr := m.freeCtr }) ∧
  (∀ (s : State), s.m.power.dark = false → s.m.power.fallPending = false → ∃ m, exec .coolantClear s = .next
      { s with m := m } ∧ m.power =
      { s.m.power with coolant := false, limitW := limitOf { s.m.power with coolant := false }, domains := m.power.domains }
      ∧ m.start = { s.m.start with coolantPin := false } ∧ m = { s.m with power := m.power, start := m.start }) ∧
  (∀ (s : State) (t : Nat), s.m.power.dark = false → s.m.power.leaseFrom = some t → s.m.power.fallPending = false → ∃ m
      v, exec .leaseExpired s = .next { s with m := m } ∧ m.power =
      { s.m.power with leaseExpired := true, leaseFrom := none, limitW := limitOf { s.m.power with leaseExpired := true } }
      ∧ m.power.limitW ≤ s.m.power.budgetW * 4 / 10 ∧ t + s.m.power.leaseS * 1000000000 ≤ m.tick.ns ∧ Raised s.m m 0x0703
      255 [v] ∧ m = { s.m with tick := m.tick, power := m.power, start := m.start, fns := m.fns, freeCtr := m.freeCtr }) ∧
  (∀ (s : State) (fn : Nat) (msg : MgmtMsg), ServedAtOnce s.m fn msg 0x0300 2 → bodyField msg 0 2 < 2662 → ∃ (m : Module)
      (b : List Byte), exec (.pwrDomains fn msg) s = .next { s with m := m } ∧ Answered s.m m fn msg .done 0 b ∧ leNat
      (b.take 2) = bodyField msg 0 2 ∧ leNat ((b.drop 2).take 2) = min 1824 (2662 - bodyField msg 0 2) ∧ (∀ k, k < min
      1824 (2662 - bodyField msg 0 2) → bit (leNat (b.drop 4)) k = s.m.power.domains.getLsbD (bodyField msg 0 2 + k)) ∧ m
      = { s.m with fns := m.fns }) ∧
  (∀ (s : State) (fn : Nat) (msg : MgmtMsg), ServedAtOnce s.m fn msg 0x0300 2 → 2662 ≤ bodyField msg 0 2 → ∃ m, exec
      (.pwrDomains fn msg) s = .next { s with m := m } ∧ Answered s.m m fn msg .rejFormat 0 [] ∧ m =
      { s.m with fns := m.fns }) ∧
  (∀ (s : State) (fn : Nat) (msg : MgmtMsg), ServedAtOnce s.m fn msg 0x0301 2 → ∃ m, exec (.pwrRecord fn msg) s = .next
      { s with m := m } ∧ Answered s.m m fn msg .done 0 ((if s.m.power.lastRec.isEmpty = true then List.replicate 64 0
      else s.m.power.lastRec) ++ leBytes s.m.power.lastRecTick 8) ∧ m = { s.m with fns := m.fns })

/-- Heartbeats and restart edges. A heartbeat of a running processor starts its watchdog anew and changes nothing else.
FATAL_EXCEPTION, WATCHDOG_EXPIRY and a write of FW_CTRL.RESTART are restart edges of a running processor with causes 1, 0 and
2: its state, edge time, cause and count; the FW_RESTART event of a processor of the host die; a control core's cluster is
held. No other processor changes (R395, R400, R401, Table 14.5). FW_HEARTBEAT, FATAL_EXCEPTION, WATCHDOG_EXPIRY and
FW_CTRL_RESTART complete with their own effect on the conditions that each clause puts on the state and the operands alone. -/
def Obligations.Restarts : Prop :=
  (∀ (s : State) (proc : Nat), ProcRuns s.m proc → ∃ m, exec (.fwHeartbeat proc) s = .next { s with m := m } ∧ m.proc
      proc = { s.m.proc proc with beatNs := s.m.tick.ns } ∧ (∀ q, q ≠ proc → m.proc q = s.m.proc q) ∧ m =
      { s.m with fw := m.fw }) ∧
  (∀ (s : State) (proc : Nat), ProcRuns s.m proc → ∃ m v, exec (.fatalException proc) s = .next { s with m := m } ∧
      m.proc proc =
      { s.m.proc proc with st := if (s.m.proc proc).limitPassed = true then .absent else .restarting, edgeNs := s.m.tick.ns,
                           cause := 1, restarts := min ((s.m.proc proc).restarts + 1) 4294967295 }
      ∧ (∀ q, q ≠ proc → m.proc q = s.m.proc q) ∧ (proc < 32 → Raised s.m m 0x0601 255 [proc, 1, v]) ∧ (32 ≤ proc → (m.clu
      (proc - 32)).held = true) ∧ m.power = s.m.power ∧ m.flash = s.m.flash) ∧
  (∀ (s : State) (proc : Nat), ProcRuns s.m proc → ∃ m v, exec (.watchdogExpiry proc) s = .next { s with m := m } ∧
      (s.m.proc proc).beatNs + 1000000 ≤ m.tick.ns ∧ m.proc proc =
      { s.m.proc proc with st := if (s.m.proc proc).limitPassed = true then .absent else .restarting, edgeNs := m.tick.ns,
                           cause := 0, restarts := min ((s.m.proc proc).restarts + 1) 4294967295 }
      ∧ (∀ q, q ≠ proc → m.proc q = s.m.proc q) ∧ (proc < 32 → Raised s.m m 0x0601 255 [proc, 0, v]) ∧ m.power = s.m.power) ∧
  (∀ (s : State) (fn : Nat) (value : Word), WriteActs s.m fn blkFw 8 → fn = 0 → value.getLsbD 0 = true → ProcRuns s.m
      (s.m.fn 0).sel.fw → ∃ m v, exec (.fwCtrlRestart fn value) s = .next { s with m := m } ∧ m.proc (s.m.fn 0).sel.fw =
      { s.m.proc (s.m.fn 0).sel.fw with st := if (s.m.proc (s.m.fn 0).sel.fw).limitPassed = true then .absent else
                                        .restarting, edgeNs := s.m.tick.ns, cause := 2,
                                          restarts := min ((s.m.proc (s.m.fn 0).sel.fw).restarts + 1) 4294967295 }
      ∧ (∀ q, q ≠ (s.m.fn 0).sel.fw → m.proc q = s.m.proc q) ∧ ((s.m.fn 0).sel.fw < 32 → Raised s.m m 0x0601 255
      [(s.m.fn 0).sel.fw, 2, v]) ∧ m.fwBadWrite = s.m.fwBadWrite) ∧
  (∀ (s : State) (value : Word), WriteActs s.m 0 blkFw 8 → value.getLsbD 0 = true → (s.m.proc (s.m.fn 0).sel.fw).st ≠
      .running → ∃ m, exec (.fwCtrlRestart 0 value) s = .next { s with m := m } ∧ m.fwBadWrite = true ∧ Raised s.m m
      0x0106 255 [0x500008, 0] ∧ m = { s.m with start := m.start, fwBadWrite := m.fwBadWrite, fns := m.fns })

/-- Missed bounds, absence limits and the return of a processor; messages to an absent processor. A missed restart bound of Table
14.3 restarts the processor again with cause 4; the third in a row leaves it DOWN with an FW_DOWN event. The absence limit of
Table 14.3 makes it absent. A returning processor whose domain is on is RUNNING, with its absence in microseconds, no misses,
and the slot its digest was latched from (R396, R398, R399). While its processor is absent, or behind an earlier message of
its target that waits, a message is taken from the request ring and waits in order; from the absence limit on it is answered
FAIL_FW with the processor's number. Shown on PWR_RECORD, CG_OWNER and FW_SLOTS, whose processors are 2, 0 and 1 (R330, R398).
RESTART_BOUND_MISSED, ABSENCE_LIMIT and FW_RETURN complete with their own effect on the conditions that each clause puts on
the state and the operands alone. -/
def Obligations.AbsenceAndReturn : Prop :=
  (∀ (s : State) (proc : Nat), ProcAbsent s.m proc → s.m.start.ready = true → s.m.activation = none → (s.m.proc
      proc).misses < 2 → ∃ m, exec (.restartBoundMissed proc) s = .next { s with m := m } ∧ (s.m.proc proc).edgeNs + (if
      proc = 0 then 60000000 else if proc = 1 then 150000000 else if proc = 2 then 5000000 else 20000000) ≤ m.tick.ns ∧
      m.proc proc =
      { s.m.proc proc with misses := (s.m.proc proc).misses + 1, cause := 4, edgeNs := m.tick.ns,
                           restarts := min ((s.m.proc proc).restarts + 1) 4294967295,
                             st := if (s.m.proc proc).limitPassed = true then .absent else .restarting }
      ∧ (∀ q, q ≠ proc → m.proc q = s.m.proc q)) ∧
  (∀ (s : State) (proc : Nat), ProcAbsent s.m proc → s.m.start.ready = true → s.m.activation = none → 2 ≤ (s.m.proc
      proc).misses → ∃ m v, exec (.restartBoundMissed proc) s = .next { s with m := m } ∧ (m.proc proc).st = .down ∧ (∀ q,
      q ≠ proc → m.proc q = s.m.proc q) ∧ (proc < 32 → Raised s.m m 0x0603 255 [proc, 4, v])) ∧
  (∀ (s : State) (proc : Nat), ProcAbsent s.m proc → (s.m.proc proc).limitPassed = false → ∃ m, exec (.absenceLimit proc)
      s = .next { s with m := m } ∧ (s.m.proc proc).edgeNs + (if proc = 1 then 1000000000 else 500000000) ≤ m.tick.ns ∧
      (m.proc proc).limitPassed = true ∧ (m.proc proc).st = .absent ∧ (proc = 2 → m.power.safe = true ∧
      (s.m.power.fallPending = false → m.power.limitW = limitOf m.power))) ∧
  (∀ (s : State) (proc : Nat), ProcAbsent s.m proc → s.m.power.domains.getLsbD (procDomain proc) = true → s.m.activation
      = none → NoMessageWaits s.m → ∃ m, exec (.fwReturn proc) s = .next { s with m := m } ∧ (m.proc proc).st = .running ∧
      (m.proc proc).limitPassed = false ∧ (m.proc proc).misses = 0 ∧ (m.proc proc).slot = (s.m.proc proc).digestSlot ∧
      (m.proc proc).lastAbsentUs = min ((s.m.tick.ns - (s.m.proc proc).edgeNs) / 1000) 4294967295 ∧ (m.proc proc).beatNs =
      s.m.tick.ns ∧ (proc = 2 → m.power.safe = false)) ∧
  (∀ (s : State) (fn : Nat) (msg : MgmtMsg), fnOk fn = true → msg.ok = true → msgRung s.m fn msg = true → (s.m.proc
      msg.target).st ≠ .running → (s.m.proc msg.target).limitPassed = false → (msg.mcode = 0x0301 ∧ msg.target = 2) ∨
      (msg.mcode = 0x0201 ∧ msg.target = 0) ∨ (msg.mcode = 0x0102 ∧ msg.target = 1) → ∃ m, exec (if msg.target = 2 then
      .pwrRecord fn msg else if msg.target = 0 then .cgOwner fn msg else .fwSlots fn msg) s = .next { s with m := m } ∧
      m.fn fn = { s.m.fn fn with mrqHead := msg.msn, mgmtWait := (s.m.fn fn).mgmtWait ++ [msg] } ∧ (∀ g, g ≠ fn → m.fn g =
      s.m.fn g) ∧ m = { s.m with fns := m.fns }) ∧
  (∀ (s : State) (fn : Nat) (msg w : MgmtMsg), fnOk fn = true → msg.ok = true → msgRung s.m fn msg = true → (s.m.proc
      msg.target).st = .running → w ∈ (s.m.fn fn).mgmtWait → w.target = msg.target → (msg.mcode = 0x0301 ∧ msg.target = 2)
      ∨ (msg.mcode = 0x0201 ∧ msg.target = 0) ∨ (msg.mcode = 0x0102 ∧ msg.target = 1) → ∃ m, exec (if msg.target = 2 then
      .pwrRecord fn msg else if msg.target = 0 then .cgOwner fn msg else .fwSlots fn msg) s = .next { s with m := m } ∧
      m.fn fn = { s.m.fn fn with mrqHead := msg.msn, mgmtWait := (s.m.fn fn).mgmtWait ++ [msg] } ∧ (∀ g, g ≠ fn → m.fn g =
      s.m.fn g) ∧ m = { s.m with fns := m.fns }) ∧
  (∀ (s : State) (fn : Nat) (msg : MgmtMsg), fnOk fn = true → msg.ok = true → msgRung s.m fn msg = true → (s.m.proc
      msg.target).st ≠ .running → (s.m.proc msg.target).limitPassed = true → (msg.mcode = 0x0301 ∧ msg.target = 2) ∨
      (msg.mcode = 0x0201 ∧ msg.target = 0) ∨ (msg.mcode = 0x0102 ∧ msg.target = 1) → ∃ m, exec (if msg.target = 2 then
      .pwrRecord fn msg else if msg.target = 0 then .cgOwner fn msg else .fwSlots fn msg) s = .next { s with m := m } ∧
      Answered s.m m fn msg .failFw msg.target [] ∧ m = { s.m with fns := m.fns })

/-- Staging, activating and listing firmware. FW_SLOTS answers the two versions and the active slot. FW_STAGE of a bundle that
passes puts it into the inactive slot and answers DONE; of one that does not it answers a refusal and leaves the flash alone;
an offset outside the staging area is REJ_FORMAT. FW_ACTIVATE of a valid bundle whose SVN is not below MIN_SVN restarts
control core 0 on it first, UPDATING; without one it is REJ_STATE. On a VF each is REJ_STATE (R405, R406, Table 14.6).
FW_SLOTS, FW_STAGE and FW_ACTIVATE complete with their own effect on the conditions that each clause puts on the state and the
operands alone. -/
def Obligations.FirmwareImages : Prop :=
  (∀ (s : State) (msg : MgmtMsg), ServedAtOnce s.m 0 msg 0x0102 1 → ∃ m, exec (.fwSlots 0 msg) s = .next
      { s with m := m } ∧ Answered s.m m 0 msg .done 0 (leBytes (s.m.flash.slots.get 0).version 4 ++ leBytes
      (s.m.flash.slots.get 1).version 4 ++ [BitVec.ofNat 8 s.m.flash.active]) ∧ m = { s.m with fns := m.fns }) ∧
  (∀ (s : State) (msg : MgmtMsg), ServedAtOnce s.m 0 msg 0x0100 1 → s.m.activation = none → 0x181000 ≤ bodyField msg 0 8
      → bodyField msg 0 8 + bodyField msg 8 4 ≤ 0x181000 + 520192 → bodyField msg 0 8 < 0x181000 + 520192 → ∃ m, exec
      (.fwStage 0 msg) s = .next { s with m := m } ∧ (if bundleOk (stagedBytes s.m (bodyField msg 0 8) (bodyField msg 8
      4)) = true ∧ s.m.flash.minSvn ≤ (bundleOf (stagedBytes s.m (bodyField msg 0 8) (bodyField msg 8 4))).svn ∧ (bundleOf
      (stagedBytes s.m (bodyField msg 0 8) (bodyField msg 8 4))).protoMin ≤ Config.protoRunning ∧ Config.protoRunning ≤
      (bundleOf (stagedBytes s.m (bodyField msg 0 8) (bodyField msg 8 4))).protoMax then m.flash =
      { s.m.flash with slots := s.m.flash.slots.put (1 - s.m.flash.active) (bundleOf (stagedBytes s.m (bodyField msg 0 8)
                         (bodyField msg 8 4))) }
      ∧ ((m.fn 0).resps.head?.map (·.status)) = some .done else m.flash = s.m.flash ∧ m.sec = s.m.sec ∧ (((m.fn
      0).resps.head?.map (·.status)) = some .rejSignature ∨ ((m.fn 0).resps.head?.map (·.status)) = some .rejState)) ∧ m =
      { s.m with flash := m.flash, sec := m.sec, fns := m.fns }) ∧
  (∀ (s : State) (msg : MgmtMsg), ServedAtOnce s.m 0 msg 0x0100 1 → s.m.activation = none → bodyField msg 0 8 < 0x181000
      → ∃ m, exec (.fwStage 0 msg) s = .next { s with m := m } ∧ Answered s.m m 0 msg .rejFormat 0 [] ∧ m =
      { s.m with fns := m.fns }) ∧
  (∀ (s : State) (msg : MgmtMsg), ServedAtOnce s.m 0 msg 0x0101 1 → s.m.activation = none → (s.m.flash.slots.get (1 -
      s.m.flash.active)).valid = true → s.m.flash.minSvn ≤ (s.m.flash.slots.get (1 - s.m.flash.active)).svn → (s.m.proc
      32).st = .running → (s.m.proc 32).limitPassed = false → ∃ m, exec (.fwActivate 0 msg) s = .next { s with m := m } ∧
      (m.proc 32).st = .updating ∧ (m.proc 32).digestSlot = 1 - s.m.flash.active ∧ (∀ q, q ≠ 32 → m.proc q = s.m.proc q) ∧
      m.activation.bind (·.current) = some 32 ∧ m.flash = s.m.flash) ∧
  (∀ (s : State) (msg : MgmtMsg), ServedAtOnce s.m 0 msg 0x0101 1 → (s.m.flash.slots.get (1 - s.m.flash.active)).valid =
      false → ∃ m, exec (.fwActivate 0 msg) s = .next { s with m := m } ∧ Answered s.m m 0 msg .rejState 0 [] ∧ m =
      { s.m with fns := m.fns }) ∧
  (∀ (s : State) (fn : Nat) (msg : MgmtMsg) (code : Nat), ServedAtOnce s.m fn msg code 1 → fn ≠ 0 → (code = 0x0100 → ∃ m,
      exec (.fwStage fn msg) s = .next { s with m := m } ∧ Answered s.m m fn msg .rejState 0 [] ∧ m =
      { s.m with fns := m.fns }) ∧ (code = 0x0101 → ∃ m, exec (.fwActivate fn msg) s = .next { s with m := m } ∧ Answered
      s.m m fn msg .rejState 0 [] ∧ m = { s.m with fns := m.fns }) ∧ (code = 0x0102 → ∃ m, exec (.fwSlots fn msg) s =
      .next { s with m := m } ∧ Answered s.m m fn msg .rejState 0 [] ∧ m = { s.m with fns := m.fns }))

/-- Trust lists and debug; attestation and the module record. Served at once from PF0, KEY_ENROL puts the staged key into the slot
when no other slot of the partition is in use; KEY_REVOKE empties the slot. DEBUG_UNLOCK is REJ_STATE while a partition is
enabled, and otherwise sets debug exactly when the token's signature and serial hold (R434, R435, R443, R444). Only the named
slot of the trust list changes. Whether a signature verifies is a free value (log 1). Served at once, ATTEST of the module
from PF0 writes a report of Table 16.8 to host memory, with its signature block 0x2200 bytes on, and ID_GET writes the record,
its block 0x10000 bytes on and the identity key 0x11400 bytes on; both answer DONE. ID_GET with an address that is not a
multiple of 4,096 is REJ_FORMAT, and a VF that asks for the module is REJ_STATE (R440, R442). KEY_ENROL, KEY_REVOKE,
DEBUG_UNLOCK, ATTEST and ID_GET complete with their own effect on the conditions that each clause puts on the state and the
operands alone. -/
def Obligations.KeyMessages : Prop :=
  (∀ (s : State) (msg : MgmtMsg), ServedAtOnce s.m 0 msg 0x0110 1 → bodyField msg 0 1 < 64 → bodyField msg 1 1 < 8 →
      bodyField msg 8 8 + 2592 ≤ 520192 → (range' 0 8).all (fun k => k == bodyField msg 1 1 || decide (s.m.sec.keys.get (8
      * bodyField msg 0 1 + k) = none)) = true → ∃ m, exec (.keyEnrol 0 msg) s = .next { s with m := m } ∧ (m.sec.keys.get
      (8 * bodyField msg 0 1 + bodyField msg 1 1)).map (·.bytes) = some ((s.m.fn 0).staging.bytes (bodyField msg 8 8)
      2592) ∧ (∀ k, k ≠ 8 * bodyField msg 0 1 + bodyField msg 1 1 → m.sec.keys.get k = s.m.sec.keys.get k) ∧ ((m.fn
      0).resps.head?.map (·.status)) = some .done ∧ m.sec = { s.m.sec with keys := m.sec.keys } ∧ m =
      { s.m with sec := m.sec, fns := m.fns }) ∧
  (∀ (s : State) (msg : MgmtMsg), ServedAtOnce s.m 0 msg 0x0111 1 → bodyField msg 0 1 < 64 → bodyField msg 1 1 < 8 → ∃ m,
      exec (.keyRevoke 0 msg) s = .next { s with m := m } ∧ m.sec.keys.get (8 * bodyField msg 0 1 + bodyField msg 1 1) =
      none ∧ (∀ k, k ≠ 8 * bodyField msg 0 1 + bodyField msg 1 1 → m.sec.keys.get k = s.m.sec.keys.get k) ∧ Answered s.m m
      0 msg .done 0 [] ∧ m.sec = { s.m.sec with keys := m.sec.keys } ∧ m = { s.m with sec := m.sec, fns := m.fns }) ∧
  (∀ (s : State) (msg : MgmtMsg), ServedAtOnce s.m 0 msg 0x0130 1 → bodyField msg 0 8 + sigBytes ≤ 520192 →
      s.m.parts.cells.any (fun c => c.2.regs.en) = true → ∃ m, exec (.debugUnlock 0 msg) s = .next { s with m := m } ∧
      Answered s.m m 0 msg .rejState 0 [] ∧ m = { s.m with fns := m.fns }) ∧
  (∀ (s : State) (msg : MgmtMsg), ServedAtOnce s.m 0 msg 0x0130 1 → bodyField msg 0 8 + sigBytes ≤ 520192 →
      s.m.parts.cells.any (fun c => c.2.regs.en) = false → ∃ m, exec (.debugUnlock 0 msg) s = .next { s with m := m } ∧
      (if vendorOk ((s.m.fn 0).staging.bytes (bodyField msg 0 8) sigBytes) 6 (sha3 (leBytes s.m.flash.serial 8 ++ leBytes
      s.m.sec.startCount 4)) = true ∧ sigObject ((s.m.fn 0).staging.bytes (bodyField msg 0 8) sigBytes) = s.m.flash.serial
      then m.sec = { s.m.sec with debug := true } ∧ Answered s.m m 0 msg .done 0 [] else m.sec = s.m.sec ∧ Answered s.m m
      0 msg .rejSignature 0 []) ∧ m = { s.m with sec := m.sec, fns := m.fns }) ∧
  (∀ (s : State) (msg : MgmtMsg), ServedAtOnce s.m 0 msg 0x0120 1 → bodyField msg 0 1 = 0 → bodyField msg 8 8 % 4096 = 0
      → ∃ m r b, exec (.attest 0 msg) s = .next { s with m := m } ∧ m.hostOut = .bytes (bodyField msg 8 8 + 0x2200) b ::
      .bytes (bodyField msg 8 8) r :: s.m.hostOut ∧ leNat (r.take 4) = 0x5A540C13 ∧ leNat ((r.drop 8).take 8) =
      s.m.flash.serial % 2 ^ 64 ∧ ((r.drop 16).take 64).length = 64 ∧ ((m.fn 0).resps.head?.map (·.status)) = some .done ∧
      m = { s.m with fns := m.fns, hostOut := m.hostOut }) ∧
  (∀ (s : State) (fn : Nat) (msg : MgmtMsg), ServedAtOnce s.m fn msg 0x0120 1 → fn ≠ 0 → bodyField msg 0 1 = 0 → ∃ m,
      exec (.attest fn msg) s = .next { s with m := m } ∧ Answered s.m m fn msg .rejState 0 [] ∧ m =
      { s.m with fns := m.fns }) ∧
  (∀ (s : State) (fn : Nat) (msg : MgmtMsg), ServedAtOnce s.m fn msg 0x0121 1 → bodyField msg 0 8 % 4096 = 0 → ∃ m, exec
      (.idGet fn msg) s = .next { s with m := m } ∧ m.hostOut = .bytes (bodyField msg 0 8 + 0x11400) (fit 2592
      Config.identityKey) :: .bytes (bodyField msg 0 8 + 0x10000) (recordBlock s.m) :: .bytes (bodyField msg 0 8)
      (recordBytes s.m) :: s.m.hostOut ∧ Answered s.m m fn msg .done 0 (leBytes s.m.flash.recordBytes 4) ∧ m =
      { s.m with fns := m.fns, hostOut := m.hostOut }) ∧
  (∀ (s : State) (fn : Nat) (msg : MgmtMsg), ServedAtOnce s.m fn msg 0x0121 1 → bodyField msg 0 8 % 4096 ≠ 0 → ∃ m, exec
      (.idGet fn msg) s = .next { s with m := m } ∧ Answered s.m m fn msg .rejFormat 0 [] ∧ m = { s.m with fns := m.fns })

/-- The debug port before and after DEBUG_UNLOCK. Boundary scan and IDCODE complete in every state. The bridge to the register
space does nothing while debug is locked; after DEBUG_UNLOCK it acts by the debug kit, which the manual does not publish, and
the model refuses it by name (R443, R483). JTAG_ACCESS completes with its own effect on the conditions that each clause puts
on the state and the operands alone. -/
def Obligations.DebugPort : Prop :=
  (∀ (s : State), exec (.jtagAccess .boundary) s = .next s ∧ exec (.jtagAccess .idcode) s = .next s) ∧
  (∀ (s : State), s.m.sec.debug = false → exec (.jtagAccess .bridge) s = .next s) ∧
  (∀ (s : State), s.m.sec.debug = true → exec (.jtagAccess .bridge) s = .refused .debugKit)

/-- RUN_LIST, CG_OWNER, FAB_LOAD. Served at once, CG_OWNER answers for each of the 160 core groups its partition, 0xFE when
pooled, 0xFF when free; RUN_LIST answers the number of open runs from a start index, at most 9, and their records, and refuses
a VF that asks for a partition not its own; FAB_LOAD is REJ_STATE without a READY swath of that number; for one, a program
that passes its checks is loaded and answered DONE, or REJ_QUOTA where its receive regions cannot be backed, and one that does
not is REJ_SIGNATURE or REJ_FORMAT. Only FAB_LOAD changes anything but the function's two rings (Table 12.11, R378, R437).
CG_OWNER, RUN_LIST and FAB_LOAD complete with their own effect on the conditions that each clause puts on the state and the
operands alone. -/
def Obligations.SchedulerMessages : Prop :=
  (∀ (s : State) (fn : Nat) (msg : MgmtMsg), ServedAtOnce s.m fn msg 0x0201 0 → ∃ (m : Module) (b : List Byte), exec
      (.cgOwner fn msg) s = .next { s with m := m } ∧ Answered s.m m fn msg .done 0 b ∧ b.length = 160 ∧ (∀ g, g < 160 →
      s.m.pool.getLsbD g = true → b[g]? = some 0xFE) ∧ (∀ g, g < 160 → s.m.pool.getLsbD g = false → s.m.parts.keys.all
      (fun p => !(s.m.part p).regs.owned.getLsbD g) = true → b[g]? = some 0xFF) ∧ m = { s.m with fns := m.fns }) ∧
  (∀ (s : State) (fn : Nat) (msg : MgmtMsg), ServedAtOnce s.m fn msg 0x0200 0 → bodyField msg 0 1 < 64 → fn = 0 ∨ ownPart
      s.m fn = some (bodyField msg 0 1) → ∃ (m : Module) (b : List Byte), exec (.runList fn msg) s = .next
      { s with m := m } ∧ Answered s.m m fn msg .done 0 b ∧ leNat (b.take 2) = min 9 ((s.m.part (bodyField msg 0
      1)).runs.length - bodyField msg 2 2) ∧ b.length = 8 + 24 * min 9 ((s.m.part (bodyField msg 0 1)).runs.length -
      bodyField msg 2 2) ∧ m = { s.m with fns := m.fns }) ∧
  (∀ (s : State) (fn : Nat) (msg : MgmtMsg), ServedAtOnce s.m fn msg 0x0200 0 → bodyField msg 0 1 < 64 → fn ≠ 0 → ownPart
      s.m fn ≠ some (bodyField msg 0 1) → ∃ m, exec (.runList fn msg) s = .next { s with m := m } ∧ Answered s.m m fn msg
      .rejState 0 [] ∧ m = { s.m with fns := m.fns }) ∧
  (∀ (s : State) (fn : Nat) (msg : MgmtMsg) (p : Nat), ServedAtOnce s.m fn msg 0x0210 0 → (s.m.proc 1).st = .running →
      ownPart s.m fn = some p → (s.m.part p).swaths.all (fun w => w.id != bodyField msg 0 8 || !w.ready) = true → ∃ m,
      exec (.fabLoad fn msg) s = .next { s with m := m } ∧ Answered s.m m fn msg .rejState 0 [] ∧ m =
      { s.m with fns := m.fns }) ∧
  (∀ (s : State) (fn : Nat) (msg : MgmtMsg) (p : Nat) (w : Swath) (b : Mem), ServedAtOnce s.m fn msg 0x0210 0 → (s.m.proc
      1).st = .running → (s.m.fn fn).mgmtWait = [] → ownPart s.m fn = some p → swathOf s.m p (bodyField msg 0 8) = some w
      → w.ready = true → b = (s.m.part p).range.slice (bodyField msg 8 8) (bodyField msg 0x10 4) → bodyField msg 8 8 +
      bodyField msg 0x10 4 ≤ rangeEnd s.m p → bodyField msg 0x18 8 + sigBytes ≤ rangeEnd s.m p → programHeaderOk b
      (bodyField msg 0 8) (bodyField msg 0x10 4) = true → ∃ m, exec (.fabLoad fn msg) s = .next { s with m := m } ∧ (if
      programSigned s.m p w (devRead s.m p (bodyField msg 0x18 8) sigBytes) (b.bytes 0 128) = true ∧ sha3 (b.bytes 128 (64
      * b.rd 0x10 4)) = b.rd 0x40 64 ∧ (range' 0 (b.rd 0x10 4)).all (fun e => xfDescOk b (s.m.fab p).nranks e && decide
      ((xfDesc b e).recv + recvBytes (xfDesc b e) (s.m.fab p).nranks ≤ rangeEnd s.m p)) = true then ((m.part
      p).fabProgs.any (fun g => g.swath == w.id && g.bytes == b) = true ∧ ((m.fn fn).resps.head?.map (·.status)) = some
      .done) ∨ ((m.fn fn).resps.head?.map (·.status)) = some .rejQuota else ((m.fn fn).resps.head?.map (·.status)) = some
      .rejSignature ∨ ((m.fn fn).resps.head?.map (·.status)) = some .rejFormat))

/-- Ethernet ports and queue pairs; a READ response lands in the range; messages of the Ethernet ports and of the cables. A CNP is
counted and lowers the rate of its QP alone; an inbound request is answered with a NAK and counted; a timeout or a NAK on a QP
whose oldest READ has retries left sends that READ again from its first byte not landed and counts the retry; an ACK changes
nothing; a link that goes down clears LINK_UP, and one of an enabled, powered port sets it. Each names its port and its QP
only (R390 to R392). A packet of at most the MTU that answers the oldest READ of a QP, of a running load whose buckets have
room and whose target lies in the range and in no poisoned page, and that does not make its chunk whole, writes its bytes at
the load's target plus the request's offset and no other byte of the range, advances the request, counts the lines received
and the bytes landed in the chunk (R390 to R392). Served at once, ETH_QP_SET connects the QP with the fields of the message
and keeps its outstanding READs, ETH_QP_CLEAR disconnects it, CMIS_READ answers the bytes of the cable, CMIS_WRITE of page 10h
or 11h of a link that is not UP sends them to the cable and is REJ_STATE on one that is UP. A cable alarm raises CABLE_ALARM
and moves no link; a loss takes an UP link DOWN and counts it (Table 13.8, R361, R389). The value of the alarm is free (log
1). ETH_CNP, ETH_INBOUND_REQUEST, ETH_QP_TIMEOUT, ETH_ACK_RECEIVE, ETH_LINK_DOWN, ETH_LINK_UP, ETH_READ_RESPONSE, ETH_QP_SET,
ETH_QP_CLEAR, CMIS_READ, CMIS_WRITE, CABLE_INTERRUPT and CMIS_MONITOR_POLL complete with their own effect on the conditions
that each clause puts on the state and the operands alone. -/
def Obligations.EthernetPorts : Prop :=
  (∀ (s : State) (port qp : Nat) (q : Qp), QpLive s.m port qp q → ∃ m, exec (.ethCnp port qp) s = .next { s with m := m }
      ∧ m.eth.get port =
      { s.m.eth.get port with cnp := min ((s.m.eth.get port).cnp + 1) 4294967295, qps := (m.eth.get port).qps } ∧
      (m.eth.get port).qps.get qp = some { q with slow := q.slow + 1 } ∧ (∀ k, k ≠ qp → (m.eth.get port).qps.get k =
      (s.m.eth.get port).qps.get k) ∧ (∀ k, k ≠ port → m.eth.get k = s.m.eth.get k) ∧ m = { s.m with eth := m.eth }) ∧
  (∀ (s : State) (port qp : Nat), port < 2 → qp < 1024 → (s.m.eth.get port).en = true → (s.m.eth.get port).linkUp = true
      → ∃ m, exec (.ethInboundRequest port qp) s = .next { s with m := m } ∧ m.netOut = .nak port qp :: s.m.netOut ∧
      m.eth.get port = { s.m.eth.get port with nak := min ((s.m.eth.get port).nak + 1) 4294967295 } ∧ (∀ k, k ≠ port →
      m.eth.get k = s.m.eth.get k) ∧ m = { s.m with eth := m.eth, netOut := m.netOut }) ∧
  (∀ (s : State) (port qp : Nat) (q : Qp) (i : ItemRef) (off left : Nat) (rest : List (ItemRef × Nat × Nat)) (x : Item),
      QpLive s.m port qp q → q.reads = (i, off, left) :: rest → q.retries < 7 → findItem s.m i = some x → ∃ m, exec
      (.ethQpTimeout port qp) s = .next { s with m := m } ∧ m.netOut = .readReq port qp (x.eth.getD 3 0 + off) left ::
      s.m.netOut ∧ (m.eth.get port).retry = min ((s.m.eth.get port).retry + 1) 4294967295 ∧ (m.eth.get port).nak =
      (s.m.eth.get port).nak ∧ (m.eth.get port).qps.get qp = some { q with retries := q.retries + 1 } ∧ (∀ k, k ≠ qp →
      (m.eth.get port).qps.get k = (s.m.eth.get port).qps.get k) ∧ (∀ k, k ≠ port → m.eth.get k = s.m.eth.get k) ∧ m =
      { s.m with eth := m.eth, netOut := m.netOut }) ∧
  (∀ (s : State) (port qp : Nat) (q : Qp) (i : ItemRef) (off left : Nat) (rest : List (ItemRef × Nat × Nat)) (x : Item),
      QpLive s.m port qp q → q.reads = (i, off, left) :: rest → q.retries < 7 → findItem s.m i = some x → (∃ m, exec
      (.ethAckReceive port qp true) s = .next { s with m := m } ∧ m.netOut = .readReq port qp (x.eth.getD 3 0 + off) left
      :: s.m.netOut ∧ (m.eth.get port).retry = min ((s.m.eth.get port).retry + 1) 4294967295 ∧ (m.eth.get port).nak = min
      ((s.m.eth.get port).nak + 1) 4294967295 ∧ m = { s.m with eth := m.eth, netOut := m.netOut }) ∧ exec (.ethAckReceive
      port qp false) s = .next s) ∧
  (∀ (s : State) (port : Nat), port < 2 → (s.m.eth.get port).linkUp = true → ∃ m, exec (.ethLinkDown port) s = .next
      { s with m := m } ∧ (m.eth.get port).linkUp = false ∧ (m.eth.get port).en = (s.m.eth.get port).en ∧ ((loadsOver s.m
      port fun _ => true) = [] → m.eth.get port = { s.m.eth.get port with linkUp := false } ∧ (∀ k, k ≠ port → m.eth.get k
      = s.m.eth.get k) ∧ m = { s.m with eth := m.eth }) ∧ m =
      { s.m with start := m.start, fns := m.fns, fabParts := m.fabParts, nodes := m.nodes, hedgeOut := m.hedgeOut,
                 eth := m.eth, freeCtr := m.freeCtr }) ∧
  (∀ (s : State) (port : Nat), port < 2 → (s.m.eth.get port).en = true → s.m.power.domains.getLsbD (2649 + port) = true →
      ∃ m, exec (.ethLinkUp port) s = .next { s with m := m } ∧ m.eth.get port = { s.m.eth.get port with linkUp := true }
      ∧ (∀ k, k ≠ port → m.eth.get k = s.m.eth.get k) ∧ m = { s.m with eth := m.eth }) ∧
  (∀ (s : State) (port qp p : Nat) (data : List Byte) (q : Qp) (i : ItemRef) (off left : Nat) (rest : List (ItemRef × Nat
      × Nat)) (x : Item), QpLive s.m port qp q → q.reads = (i, off, left) :: rest → findItem s.m i = some x → x.st =
      .running → itemPart s.m i = some p → 0 < data.length → data.length ≤ left → data.length ≤ mtuBytes q.mtu → regEmpty
      s.m p 3 = false → tierWaits s.m p (wDst x + off) data.length = false → wDst x + off + data.length ≤ rangeEnd s.m p →
      poisonedIn s.m p (wDst x + off) data.length = none → x.landed.get (off / (manifestAt s.m p (wManifest x)).chunk) +
      data.length ≠ (manifestAt s.m p (wManifest x)).len (off / (manifestAt s.m p (wManifest x)).chunk) → ∃ m, exec
      (.ethReadResponse port qp data) s = .next { s with m := m } ∧ (∀ k, k < data.length → (m.part p).range.get (wDst x +
      off + k) = data.getD k 0) ∧ (∀ a, a < wDst x + off ∨ wDst x + off + data.length ≤ a → (m.part p).range.get a =
      (s.m.part p).range.get a) ∧ (m.eth.get port).rxLines = min ((s.m.eth.get port).rxLines + (data.length + 63) / 64)
      4294967295 ∧ (findItem m i).map (·.landed.get (off / (manifestAt s.m p (wManifest x)).chunk)) = some (x.landed.get
      (off / (manifestAt s.m p (wManifest x)).chunk) + data.length) ∧ (∀ g, g ≠ p → m.part g = s.m.part g)) ∧
  (∀ (s : State) (fn : Nat) (msg : MgmtMsg), ServedAtOnce s.m fn msg 0x0220 0 → bodyField msg 0 1 < 2 → bodyField msg 1 2
      < 1024 → bodyField msg 31 1 < 3 → ∃ m q, exec (.ethQpSet fn msg) s = .next { s with m := m } ∧ (m.eth.get (bodyField
      msg 0 1)).qps.get (bodyField msg 1 2) = some q ∧ q.remote = bodyField msg 3 4 ∧ q.gid = (msg.body.drop 7).take 16 ∧
      q.sendPsn = bodyField msg 23 4 ∧ q.recvPsn = bodyField msg 27 4 ∧ q.mtu = bodyField msg 31 1 ∧ q.timeout = bodyField
      msg 32 1 ∧ q.reads = (((s.m.eth.get (bodyField msg 0 1)).qps.get (bodyField msg 1 2)).map (·.reads)).getD [] ∧ (∀ k,
      k ≠ bodyField msg 1 2 → (m.eth.get (bodyField msg 0 1)).qps.get k = (s.m.eth.get (bodyField msg 0 1)).qps.get k) ∧
      Answered s.m m fn msg .done 0 [] ∧ m = { s.m with fns := m.fns, eth := m.eth }) ∧
  (∀ (s : State) (fn : Nat) (msg : MgmtMsg), ServedAtOnce s.m fn msg 0x0221 0 → bodyField msg 0 1 < 2 → bodyField msg 1 2
      < 1024 → (loadsOver s.m (bodyField msg 0 1) fun q => q == bodyField msg 1 2) = [] → ∃ m, exec (.ethQpClear fn msg) s
      = .next { s with m := m } ∧ (m.eth.get (bodyField msg 0 1)).qps.get (bodyField msg 1 2) = none ∧ (∀ k, k ≠ bodyField
      msg 1 2 → (m.eth.get (bodyField msg 0 1)).qps.get k = (s.m.eth.get (bodyField msg 0 1)).qps.get k) ∧ Answered s.m m
      fn msg .done 0 [] ∧ m = { s.m with fns := m.fns, eth := m.eth }) ∧
  (∀ (s : State) (fn : Nat) (msg : MgmtMsg) (data : List Byte), ServedAtOnce s.m fn msg 0x0310 2 → bodyField msg 0 1 < 12
      → bodyField msg 3 1 ≤ 128 → ∃ m, exec (.cmisRead fn msg data) s = .next { s with m := m } ∧ Answered s.m m fn msg
      .done 0 (data.take (bodyField msg 3 1)) ∧ m = { s.m with fns := m.fns }) ∧
  (∀ (s : State) (fn : Nat) (msg : MgmtMsg), ServedAtOnce s.m fn msg 0x0311 2 → bodyField msg 0 1 < 12 → bodyField msg 3
      1 ≤ 128 → bodyField msg 1 1 = 0x10 ∨ bodyField msg 1 1 = 0x11 → ∃ m, exec (.cmisWrite fn msg) s = .next
      { s with m := m } ∧ (if (s.m.link (bodyField msg 0 1)).st = .up then m.netOut = s.m.netOut ∧ Answered s.m m fn msg
      .rejState 0 [] else m.netOut = .cable (bodyField msg 0 1 / 3) (bodyField msg 0 1) (bodyField msg 1 1) (bodyField msg
      2 1) ((msg.body.drop 4).take (bodyField msg 3 1)) :: s.m.netOut ∧ Answered s.m m fn msg .done 0 []) ∧ m =
      { s.m with fns := m.fns, netOut := m.netOut }) ∧
  (∀ (s : State) (link : Nat), link < 12 → (s.m.proc 2).st = .running → ∃ m v, exec (.cableInterrupt link false true) s =
      .next { s with m := m } ∧ exec (.cmisMonitorPoll link true) s = .next { s with m := m } ∧ Raised s.m m evCableAlarm
      255 [link, v] ∧ m = { s.m with start := m.start, fns := m.fns, freeCtr := m.freeCtr }) ∧
  (∀ (s : State) (link : Nat) (alarm : Bool), link < 12 → (s.m.proc 2).st = .running → (s.m.link link).st = .up → ∃ m,
      exec (.cableInterrupt link true alarm) s = .next { s with m := m } ∧ (m.link link).st = .down ∧ (m.link link).tick =
      0 ∧ (m.link link).downs = min ((s.m.link link).downs + 1) 4294967295 ∧ (∀ k, k ≠ link → (m.link k).st = (s.m.link
      k).st) ∧ m.power = s.m.power ∧ m.ras.liveMap = s.m.ras.liveMap)

/-- Submission and completion doorbells; enabling a ring pair. With F the last SSN fetched, a submission doorbell of an enabled
ring brings no work when it lies 0 or 2^31 or more past F, makes its descriptors available when it lies 1 to E past, and sets
DB_OVF and raises an event when it lies further. A completion doorbell after the last and not after the last CSN written is
accepted; any other is ignored and sets BAD_WRITE. Nothing but that ring changes, and the event ring on an overflow (R297,
R300). A write that enables a disabled submission ring with 64 to 65,536 entries starts fetching at RING_SQ_NEXT, ends a stop,
and on the first enabling of an epoch records the epoch start. A write of the completion ring's EN, LOG2 and INT_EN acts;
clearing EN while items are in flight, or a size out of range or changed while enabled, is refused with BAD_WRITE and a
CONFIG_REFUSED event (R294, R295, R327, Table 11.11). SQ_DOORBELL, CQ_DOORBELL, RING_SQ_CFG_WRITE and RING_CQ_CFG_WRITE
complete with their own effect on the conditions that each clause puts on the state and the operands alone. -/
def Obligations.Doorbells : Prop :=
  (∀ (s : State) (fn ring : Nat) (v : Word), BellRings s.m fn ring → (s.m.ring fn ring).sqEn = true → (v - lastFetched
      (s.m.ring fn ring)).toNat = 0 ∨ 2 ^ 31 ≤ (v - lastFetched (s.m.ring fn ring)).toNat → exec (.sqDoorbell fn ring v) s
      = .next s) ∧
  (∀ (s : State) (fn ring : Nat) (v : Word), BellRings s.m fn ring → (s.m.ring fn ring).sqEn = true → 1 ≤ (v -
      lastFetched (s.m.ring fn ring)).toNat → (v - lastFetched (s.m.ring fn ring)).toNat ≤ 2 ^ (s.m.ring fn ring).sqLog2 →
      (v - lastFetched (s.m.ring fn ring)).toNat < 2 ^ 31 → ∃ m, exec (.sqDoorbell fn ring v) s = .next { s with m := m }
      ∧ m.ring fn ring = { s.m.ring fn ring with sqDb := v } ∧ RingOnly s.m m fn ring) ∧
  (∀ (s : State) (fn ring : Nat) (v : Word), BellRings s.m fn ring → (s.m.ring fn ring).sqEn = true → 2 ^ (s.m.ring fn
      ring).sqLog2 < (v - lastFetched (s.m.ring fn ring)).toNat → (v - lastFetched (s.m.ring fn ring)).toNat < 2 ^ 31 → ∃
      m, exec (.sqDoorbell fn ring v) s = .next { s with m := m } ∧ m.ring fn ring =
      { s.m.ring fn ring with dbOvf := true } ∧ Raised s.m m 0x0106 (fnPart s.m fn) [ring * 4096, 3] ∧ m =
      { s.m with start := m.start, fns := m.fns }) ∧
  (∀ (s : State) (fn ring : Nat) (v : Word), BellRings s.m fn ring → (s.m.ring fn ring).cqEn = true → ∃ m, exec
      (.cqDoorbell fn ring v) s = .next { s with m := m } ∧ m.ring fn ring = (if after32 v (s.m.ring fn ring).cqDb = true
      ∧ after32 v ((s.m.ring fn ring).cqNext - 1) = false then { s.m.ring fn ring with cqDb := v } else
      { s.m.ring fn ring with badWrite := true }) ∧ RingOnly s.m m fn ring) ∧
  (∀ (s : State) (fn : Nat) (v : Word), WriteActs s.m fn blkRing 4 → 6 ≤ v.toNat % 32 → v.toNat % 32 ≤ 16 → v.getLsbD 8 =
      true → (s.m.ring fn (s.m.fn fn).sel.ring).sqEn = false → ∃ m, exec (.ringSqCfgWrite fn v) s = .next
      { s with m := m } ∧ m.ring fn (s.m.fn fn).sel.ring =
      { s.m.ring fn (s.m.fn fn).sel.ring with
        sqEn := true, sqLog2 := v.toNat % 32, stopped := false, sqDb := (s.m.ring fn (s.m.fn fn).sel.ring).sqNext - 1,
          epochStart := some ((s.m.ring fn (s.m.fn fn).sel.ring).epochStart.getD (s.m.ring fn (s.m.fn fn).sel.ring).sqNext),
            lastRetired := if (s.m.ring fn (s.m.fn fn).sel.ring).epochStart = none then (s.m.ring fn (s.m.fn
              fn).sel.ring).sqNext - 1 else (s.m.ring fn (s.m.fn fn).sel.ring).lastRetired }
      ∧ RingOnly s.m m fn (s.m.fn fn).sel.ring) ∧
  (∀ (s : State) (fn : Nat) (v : Word), WriteActs s.m fn blkRing 8 → 6 ≤ v.toNat % 32 → v.toNat % 32 ≤ 16 → (s.m.ring fn
      (s.m.fn fn).sel.ring).cqEn = false → ∃ m, exec (.ringCqCfgWrite fn v) s = .next { s with m := m } ∧ m.ring fn
      (s.m.fn fn).sel.ring =
      { s.m.ring fn (s.m.fn fn).sel.ring with
        cqEn := v.getLsbD 8, intEn := v.getLsbD 9, cqLog2 := v.toNat % 32,
          cqDb := if v.getLsbD 8 = true then (s.m.ring fn (s.m.fn fn).sel.ring).cqNext - 1 else (s.m.ring fn (s.m.fn
            fn).sel.ring).cqDb }
      ∧ RingOnly s.m m fn (s.m.fn fn).sel.ring) ∧
  (∀ (s : State) (fn : Nat) (v : Word), WriteActs s.m fn blkRing 8 → (s.m.ring fn (s.m.fn fn).sel.ring).cqEn = true →
      v.toNat % 32 ≠ (s.m.ring fn (s.m.fn fn).sel.ring).cqLog2 ∨ (v.getLsbD 8 = false ∧ (s.m.ring fn (s.m.fn
      fn).sel.ring).items.any (fun x => x.st != .written) = true) → ∃ m, exec (.ringCqCfgWrite fn v) s = .next
      { s with m := m } ∧ m.ring fn (s.m.fn fn).sel.ring = { s.m.ring fn (s.m.fn fn).sel.ring with badWrite := true } ∧
      Raised s.m m 0x0106 (fnPart s.m fn) [0x100008, 0] ∧ m = { s.m with start := m.start, fns := m.fns })

/-- Reading descriptors. A ring that may fetch takes a descriptor whose SSN is the one expected: RING_SQ_NEXT moves past it, and
its item stands last in the ring. One whose SSN is not expected counts as fetched, stops the ring with SSN_ERR and is answered
REJ_FORMAT with the expected SSN in DETAIL and the value found as echo. A read that fails stops the ring with FETCH_ERR and
fetches nothing (R298). DESCRIPTOR_FETCH, FETCH_ERR and HOST_READ complete with their own effect on the conditions that each
clause puts on the state and the operands alone. -/
def Obligations.DescriptorFetch : Prop :=
  (∀ (s : State) (fn ring : Nat) (d : BitVec 512), fnOk fn = true → ringOk ring = true → mayFetch s.m fn ring = true →
      dfield d 0 4 = (s.m.ring fn ring).sqNext.toNat → itemPart s.m ⟨fn, ring, (s.m.ring fn ring).sqNext.toNat⟩ = none →
      (s.m.fn fn).pendAborts = [] → ∃ m x, exec (.descriptorFetch fn ring [d]) s = .next { s with m := m } ∧ (m.ring fn
      ring).sqNext = (s.m.ring fn ring).sqNext + 1 ∧ (m.ring fn ring).stopped = false ∧ (m.ring fn ring).items.getLast? =
      some x ∧ x.ref = ⟨fn, ring, dfield d 0 4⟩ ∧ x.desc = d ∧ m =
      { s.m with start := m.start, power := m.power, fw := m.fw, ras := m.ras, fns := m.fns, parts := m.parts,
                 fabParts := m.fabParts, slots := m.slots, cores := m.cores, nodes := m.nodes, hedgeOut := m.hedgeOut,
                   freeCtr := m.freeCtr }) ∧
  (∀ (s : State) (fn ring : Nat) (d : BitVec 512), fnOk fn = true → ringOk ring = true → mayFetch s.m fn ring = true →
      dfield d 0 4 ≠ (s.m.ring fn ring).sqNext.toNat → (s.m.fn fn).pendAborts = [] → ∃ m w, exec (.descriptorFetch fn ring
      [d]) s = .next { s with m := m } ∧ (m.ring fn ring).sqNext = (s.m.ring fn ring).sqNext + 1 ∧ (m.ring fn
      ring).stopped = true ∧ (m.ring fn ring).ssnErr = true ∧ w ∈ (m.ring fn ring).waiting ∧ w.status = .rejFormat ∧
      w.detail = .val (s.m.ring fn ring).sqNext.toNat ∧ w.echo = some (dfield d 0 4)) ∧
  (∀ (s : State) (fn ring : Nat), fnOk fn = true → ringOk ring = true → mayFetch s.m fn ring = true → ∃ m, exec
      (.fetchErr fn ring) s = .next { s with m := m } ∧ m.ring fn ring =
      { s.m.ring fn ring with stopped := true, fetchErr := true } ∧ Raised s.m m 0x0106 (fnPart s.m fn) [ring * 4096, 5] ∧
      m = { s.m with start := m.start, fns := m.fns }) ∧
  (∀ (s : State) (i : ItemRef) (timeout : Bool) (addr : Nat) (x : Item) (p : Nat), i.ok = true → findItem s.m i = some x
      → itemPart s.m i = some p → readsHost x = true → x.terminal = false → x.opcode = opMove → slotOf s.m i = none → x.st
      = .running → ∃ m, exec (.hostRead i timeout addr) s = .next { s with m := m } ∧ ((findItem m i).map (·.status)) =
      some (some .failFault) ∧ ((findItem m i).map (·.st)) = some .decided)

/-- Completions, ledgers and interrupts. A waiting completion of no request is written once the ring has room, at CSN RING_CQ_NEXT
with its tag, SSN, detail and the tick, and the next CSN is one more. While the ring has no room, or 64 entries stand in the
open batch, nothing is written. A batch that closes writes the ledger of Table 11.9 with a right CHECK, and the vector as R302
says; the timer raises the vector; the batches of events and of responses update EVT_LAST and MRS_LAST and send vectors 17 and
16 (R300 to R302, R322, R331). COMPLETION_WRITE, COMPLETION_BATCH_CLOSE, COMPLETION_INT_TIMER, EVENT_BATCH_CLOSE and
MGMT_RESPONSE_BATCH_CLOSE complete with their own effect on the conditions that each clause puts on the state and the operands
alone. -/
def Obligations.Completions : Prop :=
  (∀ (s : State) (fn ring v : Nat) (w : Waiting) (x : Item), fnOk fn = true → ringOk ring = true → hostAlive s.m = true →
      (s.m.fn fn).resetting = false → (s.m.ring fn ring).cqEn = true → (s.m.ring fn ring).batch < 64 → ((s.m.ring fn
      ring).cqNext - (s.m.ring fn ring).cqDb).toNat ≤ 2 ^ (s.m.ring fn ring).cqLog2 → (s.m.ring fn ring).waiting = [w] →
      w.after = none → w.detail = .val v → w.terminal = true → w.ref = ⟨fn, ring, x.ref.ssn⟩ → findItem s.m w.ref = some x
      → slotOf s.m w.ref = none → ∃ m e, exec (.completionWrite fn ring) s = .next { s with m := m } ∧
      HostWrite.completion fn ring e ∈ m.hostOut ∧ e.csn = (s.m.ring fn ring).cqNext.toNat ∧ e.ssn = w.echo.getD x.ref.ssn
      ∧ e.tag = w.tag ∧ e.detail = v ∧ e.tick = s.m.tick.count ∧ e.status = (if lateNow s.m w = true then .doneLate else
      w.status) ∧ (m.ring fn ring).cqNext = (s.m.ring fn ring).cqNext + 1 ∧ (m.ring fn ring).batch = (s.m.ring fn
      ring).batch + 1 ∧ ((findItem m w.ref).map (·.st)) = some .written) ∧
  (∀ (s : State) (fn ring : Nat), fnOk fn = true → ringOk ring = true → (s.m.ring fn ring).cqEn = true → 64 ≤ (s.m.ring
      fn ring).batch ∨ 2 ^ (s.m.ring fn ring).cqLog2 < ((s.m.ring fn ring).cqNext - (s.m.ring fn ring).cqDb).toNat → exec
      (.completionWrite fn ring) s = .next s) ∧
  (∀ (s : State) (fn ring : Nat), fnOk fn = true → ringOk ring = true → hostAlive s.m = true → (s.m.fn fn).resetting =
      false → (s.m.ring fn ring).batch ≠ 0 → ∃ m l, exec (.completionBatchClose fn ring) s = .next { s with m := m } ∧
      HostWrite.ledger fn ring (s.m.ring fn ring).ledgerAddr l ∈ m.hostOut ∧ l.lastFetched = ((s.m.ring fn ring).sqNext -
      1).toNat ∧ l.lastCsn = ((s.m.ring fn ring).cqNext - 1).toNat ∧ l.startCount = s.m.sec.startCount ∧ l.fnResets =
      (s.m.fn fn).resets ∧ l.seq = ((s.m.ring fn ring).ledgerSeq + 1) % 4294967296 ∧ bit l.flags 2 = false ∧ l.check =
      crc32c (ledgerBytes l) ∧ (m.ring fn ring).batch = 0 ∧ (m.ring fn ring).ledgerSeq = l.seq ∧ ((s.m.ring fn ring).intEn
      = false → m.hostOut = .ledger fn ring (s.m.ring fn ring).ledgerAddr l :: s.m.hostOut) ∧ ((s.m.ring fn ring).intEn =
      true → (s.m.ring fn ring).modCount = 0 → ((s.m.fn fn).msix.get ring).mask = false → m.hostOut = .msix fn ring ::
      .ledger fn ring (s.m.ring fn ring).ledgerAddr l :: s.m.hostOut) ∧ m.tick = { s.m.tick with ns := m.tick.ns } ∧
      s.m.tick.ns ≤ m.tick.ns ∧ ((s.m.ring fn ring).batch < 64 → (s.m.ring fn ring).batchNs + 1000 ≤ m.tick.ns) ∧ m =
      { s.m with tick := m.tick, fns := m.fns, hostOut := m.hostOut }) ∧
  (∀ (s : State) (fn ring : Nat), fnOk fn = true → ringOk ring = true → hostAlive s.m = true → (s.m.fn fn).resetting =
      false → (s.m.ring fn ring).intEn = true → (s.m.ring fn ring).modTime ≠ 0 → 0 < (s.m.ring fn ring).uncovered → ∃ m,
      exec (.completionIntTimer fn ring) s = .next { s with m := m } ∧ (m.ring fn ring).uncovered = (s.m.ring fn
      ring).batch ∧ (((s.m.fn fn).msix.get ring).mask = false → m.hostOut = .msix fn ring :: s.m.hostOut) ∧ (((s.m.fn
      fn).msix.get ring).mask = true → m.hostOut = s.m.hostOut ∧ ((m.fn fn).msix.get ring).pend = true) ∧ m.tick =
      { s.m.tick with ns := m.tick.ns } ∧ s.m.tick.ns ≤ m.tick.ns ∧ m =
      { s.m with tick := m.tick, fns := m.fns, hostOut := m.hostOut }) ∧
  (∀ (s : State) (fn : Nat), fnOk fn = true → hostAlive s.m = true → (s.m.fn fn).evtWritten ≠ (s.m.fn fn).evtLast → ∃ m,
      exec (.eventBatchClose fn) s = .next { s with m := m } ∧ m.fn fn =
      { s.m.fn fn with evtLast := (s.m.fn fn).evtWritten, msix := (m.fn fn).msix } ∧ (((s.m.fn fn).msix.get 17).mask =
      false → m.hostOut = .msix fn 17 :: s.m.hostOut) ∧ (∀ g, g ≠ fn → m.fn g = s.m.fn g) ∧ m =
      { s.m with fns := m.fns, hostOut := m.hostOut }) ∧
  (∀ (s : State) (fn : Nat), fnOk fn = true → hostAlive s.m = true → (s.m.fn fn).respWritten ≠ (s.m.fn fn).mrsLast → ∃ m,
      exec (.mgmtResponseBatchClose fn) s = .next { s with m := m } ∧ m.fn fn =
      { s.m.fn fn with mrsLast := (s.m.fn fn).respWritten, msix := (m.fn fn).msix } ∧ (((s.m.fn fn).msix.get 16).mask =
      false → m.hostOut = .msix fn 16 :: s.m.hostOut) ∧ (∀ g, g ≠ fn → m.fn g = s.m.fn g) ∧ m =
      { s.m with fns := m.fns, hostOut := m.hostOut })

/-- Binding and resetting a function. A write of HIF_FN_PART of an enabled function whose rings are disabled binds it; with a ring
enabled a change is refused. A reset of an enabled function drops its pending aborts and waiting completions and begins no
second reset; once no work of it runs, the reset ends with the count of resets one more, the binding kept and every ring pair,
mailbox and ring pointer at its reset value (R292, R324, R325, Table 11.15). HIF_FN_PART_BIND, HIF_FN_PART_RESET,
FUNCTION_LEVEL_RESET and FN_RESET_COMPLETE complete with their own effect on the conditions that each clause puts on the state
and the operands alone. -/
def Obligations.FunctionResets : Prop :=
  (∀ (s : State) (v : Word), WriteActs s.m 0 blkHif 0x24 → (s.m.fn 0).sel.fn ≤ s.m.start.numVfs → enabledRings s.m
      (s.m.fn 0).sel.fn = [] → v.getLsbD 9 = false → ∃ m, exec (.hifFnPartBind v) s = .next { s with m := m } ∧ m.fn
      (s.m.fn 0).sel.fn =
      { s.m.fn (s.m.fn 0).sel.fn with bound := v.getLsbD 8, part := v.toNat % 64,
                                      fnBadWrite := (s.m.fn (s.m.fn 0).sel.fn).fnBadWrite && !v.getLsbD 10 }
      ∧ (∀ g, g ≠ (s.m.fn 0).sel.fn → m.fn g = s.m.fn g) ∧ m = { s.m with fns := m.fns }) ∧
  (∀ (s : State) (v : Word), WriteActs s.m 0 blkHif 0x24 → enabledRings s.m (s.m.fn 0).sel.fn ≠ [] → v.getLsbD 8 ≠
      (s.m.fn (s.m.fn 0).sel.fn).bound ∨ v.toNat % 64 ≠ (s.m.fn (s.m.fn 0).sel.fn).part → ∃ m, exec (.hifFnPartBind v) s =
      .next { s with m := m } ∧ (m.fn (s.m.fn 0).sel.fn).bound = (s.m.fn (s.m.fn 0).sel.fn).bound ∧ (m.fn (s.m.fn
      0).sel.fn).part = (s.m.fn (s.m.fn 0).sel.fn).part ∧ (m.fn (s.m.fn 0).sel.fn).fnBadWrite = true ∧ m =
      { s.m with start := m.start, fns := m.fns }) ∧
  (∀ (s : State) (v : Word), WriteActs s.m 0 blkHif 0x24 → (s.m.fn 0).sel.fn ≤ s.m.start.numVfs → (s.m.fn 0).sel.fn ≠ 0 →
      v.getLsbD 9 = true → v.getLsbD 8 = (s.m.fn (s.m.fn 0).sel.fn).bound → v.toNat % 64 = (s.m.fn (s.m.fn 0).sel.fn).part
      → (s.m.fn (s.m.fn 0).sel.fn).resetting = false → ∃ m, exec (.hifFnPartReset v) s = .next { s with m := m } ∧ (m.fn
      (s.m.fn 0).sel.fn).resetting = true ∧ (m.fn (s.m.fn 0).sel.fn).pendAborts = [] ∧ (∀ r, (m.ring (s.m.fn 0).sel.fn
      r).waiting = [])) ∧
  (∀ (s : State) (fn : Nat), fnOk fn = true → s.m.start.linkUp = true → s.m.start.perst = false → fn ≤ s.m.start.numVfs →
      (s.m.fn fn).resetting = false → ∃ m, exec (.functionLevelReset fn) s = .next { s with m := m } ∧ (m.fn fn).resetting
      = true ∧ (m.fn fn).pendAborts = [] ∧ (∀ r, (m.ring fn r).waiting = []) ∧ (∀ r, r ∈ enabledRings s.m fn → ∃ a l,
      HostWrite.ledger fn r a l ∈ m.hostOut ∧ bit l.flags 2 = true)) ∧
  (∀ (s : State) (fn : Nat), fnOk fn = true → (s.m.fn fn).resetting = true → exec (.functionLevelReset fn) s = .next s) ∧
  (∀ (s : State) (fn : Nat), fnOk fn = true → (s.m.fn fn).resetting = true → (itemsOf s.m fn).all (fun i => (findItem s.m
      i).all fun x => x.st != .running) = true → ∃ m, exec (.fnResetComplete fn) s = .next { s with m := m } ∧ m.fn fn =
      { bound := (s.m.fn fn).bound, part := (s.m.fn fn).part, fnBadWrite := (s.m.fn fn).fnBadWrite, d3 := (s.m.fn fn).d3,
        relaxed := (s.m.fn fn).relaxed, aerAbort := (s.m.fn fn).aerAbort, resets := ((s.m.fn fn).resets + 1) % 4294967296 }
      ∧ (∀ r, m.ring fn r = {}) ∧ m = { s.m with ras := m.ras, fns := m.fns, parts := m.parts })

/-- A tick setting outside its range is refused. A write of TICK_RESERVE_PCT outside 4 to 50, or on the manager of TICK_PERIOD_NS
outside 20,000 to 200,000,000, changes no register but TICK_STAT.BAD_WRITE, which sets; CONFIG_REFUSED of cause 0 is raised
with the offset. Nothing else changes (R37, Tables 2.5 and 2.6). -/
def Obligations.TickSettings : Prop :=
  (∀ (s : State) (v : Word), WriteActs s.m 0 blkTick 8 → v.toNat % 64 < 4 ∨ 50 < v.toNat % 64 → ∃ m, exec (.taWrite 0
      0x200008 v) s = .next { s with m := m } ∧ m.tick = { s.m.tick with badWrite := true } ∧ Raised s.m m 0x0106 255
      [0x200008, 0] ∧ m = { s.m with tick := m.tick, start := m.start, fns := m.fns }) ∧
  (∀ (s : State) (v : Word), WriteActs s.m 0 blkTick 4 → s.m.tick.role = .manager → v.toNat < 20000 ∨ 200000000 < v.toNat
      → ∃ m, exec (.taWrite 0 0x200004 v) s = .next { s with m := m } ∧ m.tick = { s.m.tick with badWrite := true } ∧
      Raised s.m m 0x0106 255 [0x200004, 0] ∧ m = { s.m with tick := m.tick, start := m.start, fns := m.fns })

/-- A block stages up to 64 tick-applied writes. While boundaries are raised, a tick-applied write of PF0 to any register that has
tick-applied fields, of a value that the register takes, is staged behind the others of its block when fewer than 64 wait
there, and no register changes; when 64 wait it is dropped, TICK_STAT.TA_OVF sets, and CONFIG_REFUSED of cause 1 is raised
with the register's offset (R49). TA_WRITE completes with its own effect on the conditions that each clause puts on the state
and the operands alone. -/
def Obligations.TaStage : Prop :=
  (∀ (s : State) (block off : Nat) (v : Word), isTa block off = true → WriteActs s.m 0 block off → noBoundary s.m = false
      → partBusy s.m (selPart s.m 0 block) block = false → taJudge s.m block off v.toNat = .stage → (s.m.tick.staged.get
      block).length < 64 → ∃ m, exec (.taWrite 0 (block * 0x100000 + off) v) s = .next { s with m := m } ∧ m.tick =
      { s.m.tick with staged := m.tick.staged } ∧ m.tick.staged.get block = s.m.tick.staged.get block ++
      [⟨block * 0x100000 + off, selPart s.m 0 block, v.toNat⟩] ∧ (∀ b, b ≠ block → m.tick.staged.get b =
      s.m.tick.staged.get b) ∧ m = { s.m with tick := m.tick }) ∧
  (∀ (s : State) (block off : Nat) (v : Word), isTa block off = true → WriteActs s.m 0 block off → noBoundary s.m = false
      → partBusy s.m (selPart s.m 0 block) block = false → taJudge s.m block off v.toNat = .stage → 64 ≤
      (s.m.tick.staged.get block).length → ∃ m, exec (.taWrite 0 (block * 0x100000 + off) v) s = .next { s with m := m } ∧
      m.tick = { s.m.tick with taOvf := true } ∧ Raised s.m m 0x0106 (taPart (selPart s.m 0 block) block)
      [block * 0x100000 + off, 1] ∧ m = { s.m with tick := m.tick, start := m.start, fns := m.fns })

/-- The wide-value mailbox. A read of a selector that exists and is offered takes its value into D0 to D3 at once, bits [31:0] in
D0, latches the selections and clears VALID; one that does not reads zeros with ERR 1. While VALID is 0 either operation is
dropped with ERR 4 and nothing else changes. A commit of an aligned ledger address under the latched selection changes that
ring's address alone; one that is not aligned is refused with BAD_WRITE of the ring (R476 to R478, Table 18.2). WIDE_READ and
WIDE_COMMIT complete with their own effect on the conditions that each clause puts on the state and the operands alone. -/
def Obligations.WideMailbox : Prop :=
  (∀ (s : State) (fn : Nat) (sel : BitVec 16), WriteActs s.m fn blkHif 0x40 → (s.m.fn fn).box.valid = true → wideExists
      sel.toNat = true → wideOffered s.m fn sel.toNat = true → ∃ m, exec (.wideRead fn sel) s = .next { s with m := m } ∧
      (m.fn fn).box.d0.toNat + 2 ^ 32 * (m.fn fn).box.d1.toNat + 2 ^ 64 * (m.fn fn).box.d2.toNat + 2 ^ 96 * (m.fn
      fn).box.d3.toNat = wideValue s.m fn sel.toNat (s.m.fn fn).sel % 2 ^ 128 ∧ (m.fn fn).box.valid = false ∧ (m.fn
      fn).box.err = 0 ∧ (m.fn fn).box.endErr = 0 ∧ (m.fn fn).box.latched = some (sel.toNat, (s.m.fn fn).sel) ∧ m.fn fn =
      { s.m.fn fn with box := (m.fn fn).box } ∧ (∀ g, g ≠ fn → m.fn g = s.m.fn g) ∧ m = { s.m with fns := m.fns }) ∧
  (∀ (s : State) (fn : Nat) (sel : BitVec 16), WriteActs s.m fn blkHif 0x40 → (s.m.fn fn).box.valid = true → wideExists
      sel.toNat = false ∨ wideOffered s.m fn sel.toNat = false → ∃ m, exec (.wideRead fn sel) s = .next { s with m := m }
      ∧ (m.fn fn).box.d0 = 0 ∧ (m.fn fn).box.d1 = 0 ∧ (m.fn fn).box.d2 = 0 ∧ (m.fn fn).box.d3 = 0 ∧ (m.fn fn).box.endErr =
      1 ∧ (m.fn fn).box.valid = false ∧ m = { s.m with fns := m.fns }) ∧
  (∀ (s : State) (fn : Nat) (sel : BitVec 16), WriteActs s.m fn blkHif 0x40 → (s.m.fn fn).box.valid = false → ∃ m, exec
      (.wideRead fn sel) s = .next { s with m := m } ∧ exec (.wideCommit fn sel) s = .next { s with m := m } ∧ m.fn fn =
      { s.m.fn fn with box := { (s.m.fn fn).box with err := 4 } } ∧ (∀ g, g ≠ fn → m.fn g = s.m.fn g) ∧ m =
      { s.m with fns := m.fns }) ∧
  (∀ (s : State) (fn : Nat) (x : Selects), WriteActs s.m fn blkHif 0x40 → wideOffered s.m fn 0x0103 = true → (s.m.fn
      fn).box.valid = true → (s.m.fn fn).box.latched = some (0x0103, x) → (s.m.fn fn).box.d0.toNat % 64 = 0 → ∃ m, exec
      (.wideCommit fn 0x0103) s = .next { s with m := m } ∧ m.ring fn x.ring =
      { s.m.ring fn x.ring with ledgerAddr := (s.m.fn fn).box.d0.toNat + 2 ^ 32 * (s.m.fn fn).box.d1.toNat } ∧ (∀ r, r ≠
      x.ring → m.ring fn r = s.m.ring fn r) ∧ (m.fn fn).box.endErr = 0 ∧ (m.fn fn).box.valid = false ∧ (m.fn
      fn).box.latched = none ∧ (∀ g, g ≠ fn → m.fn g = s.m.fn g) ∧ m = { s.m with fns := m.fns }) ∧
  (∀ (s : State) (fn : Nat) (x : Selects), WriteActs s.m fn blkHif 0x40 → wideOffered s.m fn 0x0103 = true → (s.m.fn
      fn).box.valid = true → (s.m.fn fn).box.latched = some (0x0103, x) → (s.m.fn fn).box.d0.toNat % 64 ≠ 0 → ∃ m, exec
      (.wideCommit fn 0x0103) s = .next { s with m := m } ∧ m.ring fn x.ring =
      { s.m.ring fn x.ring with badWrite := true } ∧ (∀ r, r ≠ x.ring → m.ring fn r = s.m.ring fn r) ∧ (m.fn
      fn).box.endErr = 3 ∧ m = { s.m with fns := m.fns })

/-- Creating, draining and resetting a partition. PF0 enables a partition by PART_CFG and drains or undrains it by PART_CTRL; an
undrain returns the requests that the drain paused to RUNNING. A reset of an idle partition keeps its owned map and its
configuration, leaves it no swath, run, saved state, backed page or byte of its range or cluster stores, and resets every
function bound to it; when they are done BUSY clears, and a partition that is removed gives up its core groups. A write by a
VF is a bus error of cause 1 (R333, R352, R354, R355). PART_CFG_WRITE, PART_DRAIN, PART_UNDRAIN, PART_RESET and
PART_RESET_COMPLETE complete with their own effect on the conditions that each clause puts on the state and the operands
alone. -/
def Obligations.Partitions : Prop :=
  (∀ (s : State) (v : Word), WriteActs s.m 0 blkPart 4 → partBusy s.m (s.m.fn 0).sel.part blkPart = false → v.getLsbD 0 =
      true → v.getLsbD 1 = false → (s.m.part (s.m.fn 0).sel.part).regs.pool = false → csQuotasOk s.m = true → ∃ m, exec
      (.partCfgWrite 0 v) s = .next { s with m := m } ∧ m.part (s.m.fn 0).sel.part =
      { s.m.part (s.m.fn 0).sel.part with regs := { (s.m.part (s.m.fn 0).sel.part).regs with en := true } } ∧ (∀ p, p ≠
      (s.m.fn 0).sel.part → m.part p = s.m.part p) ∧ m = { s.m with parts := m.parts }) ∧
  (∀ (s : State) (v : Word), WriteActs s.m 0 blkPart 8 → partBusy s.m (s.m.fn 0).sel.part blkPart = false → v.getLsbD 0 =
      true → v.getLsbD 1 = false → ∃ m, exec (.partDrain 0 v) s = .next { s with m := m } ∧ m.part (s.m.fn 0).sel.part =
      { s.m.part (s.m.fn 0).sel.part with regs := { (s.m.part (s.m.fn 0).sel.part).regs with drain := true } } ∧ (∀ p, p ≠
      (s.m.fn 0).sel.part → m.part p = s.m.part p) ∧ m = { s.m with parts := m.parts }) ∧
  (∀ (s : State) (v : Word), WriteActs s.m 0 blkPart 8 → partBusy s.m (s.m.fn 0).sel.part blkPart = false → v.getLsbD 0 =
      false → v.getLsbD 1 = false → (s.m.part (s.m.fn 0).sel.part).regs.drain = true → ∃ m, exec (.partUndrain 0 v) s =
      .next { s with m := m } ∧ m.part (s.m.fn 0).sel.part =
      { s.m.part (s.m.fn 0).sel.part with
        drainSeal := false, regs := { (s.m.part (s.m.fn 0).sel.part).regs with drain := false, drained := false } }
      ∧ (∀ k q, s.m.slots.get k = some q → q.part = (s.m.fn 0).sel.part → q.st = .paused → q.pause = .drain → m.slots.get
      k = some { q with st := .running, pauseDue := false }) ∧ (∀ p, p ≠ (s.m.fn 0).sel.part → m.part p = s.m.part p) ∧ m
      = { s.m with parts := m.parts, slots := m.slots }) ∧
  (∀ (s : State) (v : Word), WriteActs s.m 0 blkPart 8 → partBusy s.m (s.m.fn 0).sel.part blkPart = false → v.getLsbD 1 =
      true → ∃ m, exec (.partReset 0 v) s = .next { s with m := m } ∧ (m.part (s.m.fn 0).sel.part).regs.busy = true ∧
      (m.part (s.m.fn 0).sel.part).regs.owned = (s.m.part (s.m.fn 0).sel.part).regs.owned ∧ (m.part (s.m.fn
      0).sel.part).regs.en = (s.m.part (s.m.fn 0).sel.part).regs.en ∧ (m.part (s.m.fn 0).sel.part).swaths = [] ∧ (m.part
      (s.m.fn 0).sel.part).runs = [] ∧ (m.part (s.m.fn 0).sel.part).saved = [] ∧ (m.part (s.m.fn 0).sel.part).range = [] ∧
      (m.part (s.m.fn 0).sel.part).pages = {} ∧ (∀ f, f ∈ boundTo s.m (s.m.fn 0).sel.part → (m.fn f).resetting = true) ∧
      (∀ k a, a < 33554432 → (m.clu k).cs.get ((s.m.fn 0).sel.part * 33554432 + a) = 0)) ∧
  (∀ (s : State) (p : Nat), partOk p = true → (s.m.part p).regs.busy = true → (boundTo s.m p).all (fun f => !(s.m.fn
      f).resetting) = true → ∃ m, exec (.partResetComplete p) s = .next { s with m := m } ∧ (m.part p).regs.busy = false ∧
      (m.part p).regs.owned = (if (s.m.part p).regs.en = true then (s.m.part p).regs.owned else 0) ∧ (m.part p).ctxPages =
      (if (s.m.part p).regs.en = true then (s.m.part p).ctxPages else 0) ∧ (m.part p).range = (s.m.part p).range ∧ (∀ q, q
      ≠ p → m.part q = s.m.part q) ∧ m = { s.m with power := m.power, parts := m.parts }) ∧
  (∀ (s : State) (fn : Nat) (v : Word), WriteActs s.m fn blkPart 4 → fn ≠ 0 → (s.m.fn fn).err.writeErr = false → ∃ m,
      exec (.partCfgWrite fn v) s = .next { s with m := m } ∧ (m.fn fn).err =
      { (s.m.fn fn).err with writeErr := true, cause := 1, addr := 0x900004 } ∧ Raised s.m m 0x0106 (fnPart s.m fn)
      [0x900004, 2] ∧ m = { s.m with start := m.start, fns := m.fns })

/-- Freezing and clearing the counters of a cluster; reads and writes of the BARs. CLU_CNT_CTRL writes the FREEZE bits whose mask
bits are 1 and no other. CLU_CNT_CLR posts its groups and sets BUSY; while BUSY is 1 a further one is a bus error of cause 3
and changes nothing of the cluster. When it is applied, BUSY clears, a frozen group that it names reads 0 in every core of the
cluster, and a group that it does not name keeps its counts. What a clear leaves in a group that counts is a free value (R473,
Tables 18.10 and 18.11, log 1). PF0 reads HIF_ID as 0x41200010, part number 0x4120 of stepping B0, at any time that its port
is reached; 4 bytes in a register that a block or window implements bring its value, and a location that it does not
implement, or an access that breaks R465, ends as a Completer Abort, recorded in the function's AER status and nowhere else.
CLU_CNT_CTRL reads 0 in its upper half and CLU_CNT_CLR reads 0, whatever was written (R6, R465, R466, R469, R479). A whole
write of RING_SEL selects for its function alone. An access that breaks R465 is dropped: when WRITE_ERR is 0 it records cause
2 and the offset and raises CONFIG_REFUSED of cause 2; when WRITE_ERR is 1 it sets OVF, raises nothing and keeps the first
error. A write of PF0 to its staging area stores its bytes there and no other. A whole write to a debug register after
DEBUG_UNLOCK is refused by name (R328, R443, R465, R474, R479, R480). CLU_CNT_CTRL, CLU_CNT_CLR, PB_WRITE_APPLIED and
REGISTER_WRITE complete with their own effect on the conditions that each clause puts on the state and the operands alone. -/
def Obligations.ClusterCounters : Prop :=
  (∀ (s : State) (k : Nat) (v : Word), k < 32 → reaches s.m 0 = true → s.m.start.ready = true → s.m.start.startFail =
      false → s.m.power.domains.getLsbD (2560 + k) = true → ∃ m, exec (.cluCntCtrl 0 k v) s = .next { s with m := m } ∧ (∀
      i, i < 5 → (m.clu k).freeze.getLsbD i = if v.getLsbD (16 + i) = true then v.getLsbD i else (s.m.clu
      k).freeze.getLsbD i) ∧ m.clu k = { s.m.clu k with freeze := (m.clu k).freeze } ∧ (∀ j, j ≠ k → m.clu j = s.m.clu j)
      ∧ m = { s.m with clusters := m.clusters }) ∧
  (∀ (s : State) (k : Nat) (v : Word), k < 32 → reaches s.m 0 = true → s.m.start.ready = true → s.m.start.startFail =
      false → s.m.power.domains.getLsbD (2560 + k) = true → (∃ m, exec (.cluCntClr 0 k v) s = .next { s with m := m } ∧
      ((s.m.clu k).busy = false → m.clu k = { s.m.clu k with busy := true, clr := v.extractLsb' 0 5 }) ∧ ((s.m.clu k).busy
      = true → m.clu k = s.m.clu k ∧ ((s.m.fn 0).err.writeErr = false → (m.fn 0).err.cause = 3 ∧ (m.fn 0).err.writeErr =
      true)) ∧ (∀ j, j ≠ k → m.clu j = s.m.clu j) ∧ m =
      { s.m with start := m.start, fns := m.fns, clusters := m.clusters })) ∧
  (∀ (s : State) (k : Nat), k < 32 → (s.m.clu k).busy = true → ∃ m, exec (.pbWriteApplied k) s = .next { s with m := m }
      ∧ (m.clu k).busy = false ∧ (m.clu k).freeze = (s.m.clu k).freeze ∧ (∀ c, 80 * k ≤ c → c < 80 * k + 80 → (s.m.clu
      k).clr.getLsbD 0 = true → (s.m.clu k).freeze.getLsbD 0 = true → (m.core c).cnt.meBusy = 0 ∧ (m.core c).cnt.meSkip =
      0) ∧ (∀ c, 80 * k ≤ c → c < 80 * k + 80 → (s.m.clu k).clr.getLsbD 0 = false → (m.core c).cnt.meBusy = (s.m.core
      c).cnt.meBusy) ∧ (∀ c, 80 * k ≤ c → c < 80 * k + 80 → (s.m.clu k).clr.getLsbD 1 = true → (s.m.clu k).freeze.getLsbD
      1 = true → (m.core c).cnt.veIssue = 0) ∧ (∀ c, 80 * k ≤ c → c < 80 * k + 80 → (s.m.clu k).clr.getLsbD 1 = false →
      (m.core c).cnt.veIssue = (s.m.core c).cnt.veIssue) ∧ (∀ c, c < 80 * k ∨ 80 * k + 80 ≤ c → m.core c = s.m.core c) ∧
      (∀ j, j ≠ k → m.clu j = s.m.clu j) ∧ m = { s.m with clusters := m.clusters, cores := m.cores, freeCtr := m.freeCtr }) ∧
  (∀ (s : State) (fn : Nat) (v : Word), WriteActs s.m fn blkRing 0 → ∃ m, exec (.registerWrite fn 0 0x100000 (leBytes
      v.toNat 4) [true, true, true, true]) s = .next { s with m := m } ∧ m.fn fn =
      { s.m.fn fn with sel := { (s.m.fn fn).sel with ring := v.toNat % 16 } } ∧ (∀ g, g ≠ fn → m.fn g = s.m.fn g) ∧ m =
      { s.m with fns := m.fns }) ∧
  (∀ (s : State) (fn off : Nat) (data : List Byte) (enables : List Bool), fnOk fn = true → reaches s.m fn = true →
      data.length = enables.length → data ≠ [] → accessOk off data enables = false → isMsix off = false → ∃ m, exec
      (.registerWrite fn 0 off data enables) s = .next { s with m := m } ∧ ((s.m.fn fn).err.writeErr = false → (m.fn
      fn).err = { (s.m.fn fn).err with writeErr := true, cause := 2, addr := off } ∧ Raised s.m m 0x0106 (fnPart s.m fn)
      [off, 2]) ∧ ((s.m.fn fn).err.writeErr = true → m.fn fn =
      { s.m.fn fn with err := { (s.m.fn fn).err with ovf := true } } ∧ (∀ g, g ≠ fn → m.fn g = s.m.fn g) ∧ m.start =
      s.m.start) ∧ m = { s.m with start := m.start, fns := m.fns }) ∧
  (∀ (s : State) (off : Nat) (data : List Byte) (enables : List Bool), bellReaches s.m 0 = true → data.length =
      enables.length → enables.all id = true → 0x181000 ≤ off → off + data.length ≤ 0x200000 → off < 0x200000 → ∃ m, exec
      (.registerWrite 0 4 off data enables) s = .next { s with m := m } ∧ (∀ k, k < data.length → (m.fn 0).staging.get
      (off - 0x181000 + k) = data.getD k 0) ∧ (∀ a, a < off - 0x181000 ∨ off - 0x181000 + data.length ≤ a → (m.fn
      0).staging.get a = (s.m.fn 0).staging.get a) ∧ m.fn 0 = { s.m.fn 0 with staging := (m.fn 0).staging } ∧ (∀ g, g ≠ 0
      → m.fn g = s.m.fn g) ∧ m = { s.m with fns := m.fns }) ∧
  (∀ (s : State) (off : Nat) (data : List Byte) (enables : List Bool), data.length = enables.length → accessOk off data
      enables = true → debugHit s.m 0 0 off = true → exec (.registerWrite 0 0 off data enables) s = .refused .debugKit) ∧
  (∀ (s : State), reaches s.m 0 = true → regRead s.m 0 0 4 = (s.m, .bytes [0x10, 0x00, 0x20, 0x41])) ∧
  (∀ (s : State) (fn a v : Nat), reaches s.m fn = true → a < barBytes fn → debugHit s.m fn 0 a = false → a % 4 = 0 →
      readWord s.m fn a = some v → regRead s.m fn a 4 = (s.m, .bytes (leBytes v 4))) ∧
  (∀ (s : State) (fn a n : Nat), reaches s.m fn = true → a < barBytes fn → debugHit s.m fn 0 a = false → readSizeOk a n =
      false ∨ readWord s.m fn (a / 4 * 4) = none → ∃ m, regRead s.m fn a n = (m, .completerAbort) ∧ m.fn fn =
      { s.m.fn fn with aerAbort := true } ∧ (∀ g, g ≠ fn → m.fn g = s.m.fn g) ∧ m = { s.m with fns := m.fns }) ∧
  (∀ (s : State) (k : Nat), k < 32 → reaches s.m 0 = true → s.m.start.startFail = false → s.m.power.domains.getLsbD (2560
      + k) = true → regRead s.m 0 (0x1000000 + k * 0x80000 + 0xC) 4 = (s.m, .bytes [0, 0, 0, 0]) ∧ regRead s.m 0
      (0x1000000 + k * 0x80000 + 0xA) 2 = (s.m, .bytes [0, 0]))

/-- ABORT, SYNC and QUERY. An ABORT of an item that may still be stopped claims its cell: the target is ABORTED and the ABORT DONE
with the CSN of that completion; of a decided one within the window it is ABORT_LATE; of an SSN that is still to come it
waits; of any other it is REJ_STATE. A SYNC completes DONE with the number of items it waited for once they have settled.
QUERY writes the 64-byte result block and completes DONE, or counts a wait while the partition's host bucket is empty (R307,
R315, R317 to R319, R351). ABORT, SYNC and QUERY complete with their own effect on the conditions that each clause puts on the
state and the operands alone. -/
def Obligations.CellsAndSyncs : Prop :=
  (∀ (s : State) (i : ItemRef) (x y : Item) (p : Nat), ItemAt s.m i x p opAbort .dispatched → findItem s.m (targetOf i
      x.desc) = some y → [opAbort, opSync, opQuery].contains y.opcode = false → y.st = .fetched ∨ y.st = .dispatched →
      unstoppable s.m p (targetOf i x.desc) y = false → ∃ m, exec (.abort i) s = .next { s with m := m } ∧ (findItem m
      (targetOf i x.desc)).map (·.st) = some .decided ∧ (findItem m (targetOf i x.desc)).map (·.status) = some (some
      .aborted) ∧ (findItem m i).map (·.st) = some .decided ∧ (findItem m i).map (·.status) = some (some .done) ∧ m =
      { s.m with start := m.start, fw := m.fw, fns := m.fns, fabParts := m.fabParts, nodes := m.nodes,
                 hedgeOut := m.hedgeOut, freeCtr := m.freeCtr }) ∧
  (∀ (s : State) (i : ItemRef) (x y : Item) (p : Nat), ItemAt s.m i x p opAbort .dispatched → findItem s.m (targetOf i
      x.desc) = some y → [opAbort, opSync, opQuery].contains y.opcode = false → y.terminal = true → inWindow (s.m.ring
      (targetOf i x.desc).fn (targetOf i x.desc).ring) (targetOf i x.desc).ssn = true → ∃ m, exec (.abort i) s = .next
      { s with m := m } ∧ Finished s.m m i x .abortLate (.csnOf (targetOf i x.desc)) (some (targetOf i x.desc)) ∧ findItem
      m (targetOf i x.desc) = some y ∧ m = { s.m with fns := m.fns }) ∧
  (∀ (s : State) (i : ItemRef) (x : Item) (p : Nat), ItemAt s.m i x p opAbort .dispatched → findItem s.m (targetOf i
      x.desc) = none → toCome (s.m.ring (targetOf i x.desc).fn (targetOf i x.desc).ring) (targetOf i x.desc).ssn = true →
      (s.m.ring (targetOf i x.desc).fn (targetOf i x.desc).ring).sqEn = true → (s.m.fn i.fn).pendAborts.length < 64 → ∃ m,
      exec (.abort i) s = .next { s with m := m } ∧ (m.fn i.fn).pendAborts = (s.m.fn i.fn).pendAborts ++
      [(i.ring, i.ssn, (targetOf i x.desc).ring, (targetOf i x.desc).ssn)] ∧ (findItem m i).map (·.st) = some .running ∧
      (∀ g, g ≠ i.fn → m.fn g = s.m.fn g) ∧ m = { s.m with fns := m.fns }) ∧
  (∀ (s : State) (i : ItemRef) (x : Item) (p : Nat), ItemAt s.m i x p opAbort .dispatched → findItem s.m (targetOf i
      x.desc) = none → toCome (s.m.ring (targetOf i x.desc).fn (targetOf i x.desc).ring) (targetOf i x.desc).ssn = false →
      ∃ m, exec (.abort i) s = .next { s with m := m } ∧ Finished s.m m i x .rejState (.val 0) none ∧ m =
      { s.m with fns := m.fns }) ∧
  (∀ (s : State) (i : ItemRef) (x : Item) (p : Nat), ItemAt s.m i x p opSync .dispatched → x.waits.all (settled s.m) =
      true → ∃ m, exec (.sync i) s = .next { s with m := m } ∧ (findItem m i).map (·.status) = some (some .done) ∧
      (findItem m i).map (·.waitCount) = some 0 ∧ (findItem m i).map (·.st) = some .decided ∧ m =
      { s.m with fns := m.fns }) ∧
  (∀ (s : State) (i : ItemRef) (x : Item) (p : Nat), ItemAt s.m i x p opSync .dispatched → x.waits.all (settled s.m) =
      false → ∃ m, exec (.sync i) s = .next { s with m := m } ∧ (findItem m i).map (·.waits) = some (x.waits.filter fun j
      => !settled s.m j) ∧ (findItem m i).map (·.waitCount) = some (x.waits.filter fun j => !settled s.m j).length ∧ m =
      { s.m with fns := m.fns }) ∧
  (∀ (s : State) (i : ItemRef) (x : Item) (p : Nat), ItemAt s.m i x p opQuery .dispatched → dfield x.desc 0x1A 2 = 0 →
      regEmpty s.m p 4 = false → (s.m.fn i.fn).resetting = false → ∃ m, exec (.query i) s = .next { s with m := m } ∧
      m.hostOut = .bytes (dfield x.desc 0x20 8) (queryItem s.m (targetOf i x.desc)) :: s.m.hostOut ∧ Finished s.m m i x
      .done (.val 0) none ∧ m = { s.m with fns := m.fns, parts := m.parts, hostOut := m.hostOut }) ∧
  (∀ (s : State) (i : ItemRef) (x : Item) (p slot : Nat) (q : Request), ItemAt s.m i x p opQuery .dispatched → dfield
      x.desc 0x1A 2 = 1 → regEmpty s.m p 4 = false → (s.m.fn i.fn).resetting = false → slotOf s.m (targetOf i x.desc) =
      some slot → s.m.slots.get slot = some q → ∃ m, exec (.query i) s = .next { s with m := m } ∧ m.hostOut = .bytes
      (dfield x.desc 0x20 8) (leBytes (if q.aborted = true then 3 else q.st.code) 1 ++ leBytes 0 1 ++ leBytes slot 2 ++
      leBytes q.main.mark 4 ++ leBytes q.generated.length 4 ++ leBytes (q.main.held + q.dcache.held) 4 ++ leBytes 0 48) ::
      s.m.hostOut ∧ Finished s.m m i x .done (.val 0) none ∧ m =
      { s.m with fns := m.fns, parts := m.parts, hostOut := m.hostOut }) ∧
  (∀ (s : State) (i : ItemRef) (x : Item) (p : Nat), ItemAt s.m i x p opQuery .dispatched → regEmpty s.m p 4 = true →
      exec (.query i) s = .next { s with m := s.m.setRegs p fun r => { r with waitHost := satAdd r.waitHost 1 } })

/-- STEP and RUN_GRAPH open runs. STEP and RUN_GRAPH of a whole model with no open run take the lowest free run number, start
their item and open a run of COUNT steps with the descriptor's overrides and limits. A STEP of a model of which no swath of
FOLD_INDEX 0 with a serving record is loaded or loading is REJ_STATE, one above the record's request or token limit REJ_FORMAT
at offset 0x26 or 0x28, and either of a model with an open run REJ_STATE (R264, R313). STEP and RUN_GRAPH complete with their
own effect on the conditions that each clause puts on the state and the operands alone. -/
def Obligations.RunsOpen : Prop :=
  (∀ (s : State) (i : ItemRef) (x : Item) (p n : Nat) (v : Serving), ItemAt s.m i x p opStep .dispatched → servingOf s.m
      p (dfield x.desc 0x18 8) = some v → dfield x.desc 0x26 2 ≤ v.reqMax → dfield x.desc 0x28 4 ≤ v.tokensMax → runOf s.m
      p (dfield x.desc 0x18 8) = none → modelBroken s.m p (dfield x.desc 0x18 8) = false → dfield x.desc 0x24 2 = 0 ∨
      capTooHigh s.m p (dfield x.desc 0x18 8) (dfield x.desc 0x24 2) = false → freeRun s.m p = some n → ∃ m, exec (.step
      i) s = .next { s with m := m } ∧ m.part p =
      { s.m.part p with runs := (s.m.part p).runs ++ [{
                          num := n, graph := false, model := dfield x.desc 0x18 8, item := i, count := dfield x.desc 0x20 4,
                            capOvr := dfield x.desc 0x24 2, reqLim := dfield x.desc 0x26 2, tokLim := dfield x.desc 0x28 4 }] }
      ∧ (∀ q, q ≠ p → m.part q = s.m.part q) ∧ findItem m i = some { x with st := .running } ∧ m =
      { s.m with fns := m.fns, parts := m.parts }) ∧
  (∀ (s : State) (i : ItemRef) (x : Item) (p : Nat), ItemAt s.m i x p opStep .dispatched → servingOf s.m p (dfield x.desc
      0x18 8) = none → ∃ m, exec (.step i) s = .next { s with m := m } ∧ Finished s.m m i x .rejState (.val 0) none ∧ m =
      { s.m with fns := m.fns }) ∧
  (∀ (s : State) (i : ItemRef) (x : Item) (p : Nat) (v : Serving), ItemAt s.m i x p opStep .dispatched → servingOf s.m p
      (dfield x.desc 0x18 8) = some v → v.reqMax < dfield x.desc 0x26 2 ∨ v.tokensMax < dfield x.desc 0x28 4 → ∃ m, exec
      (.step i) s = .next { s with m := m } ∧ Finished s.m m i x .rejFormat (.val (if v.reqMax < dfield x.desc 0x26 2 then
      0x26 else 0x28)) none ∧ m = { s.m with fns := m.fns }) ∧
  (∀ (s : State) (i : ItemRef) (x : Item) (p n : Nat), ItemAt s.m i x p opRunGraph .dispatched → runOf s.m p (dfield
      x.desc 0x18 8) = none → modelBroken s.m p (dfield x.desc 0x18 8) = false → dfield x.desc 0x24 2 = 0 ∨ capTooHigh s.m
      p (dfield x.desc 0x18 8) (dfield x.desc 0x24 2) = false → freeRun s.m p = some n → ∃ m, exec (.runGraph i) s = .next
      { s with m := m } ∧ m.part p =
      { s.m.part p with runs := (s.m.part p).runs ++ [{
                          num := n, graph := true, model := dfield x.desc 0x18 8, item := i, count := dfield x.desc 0x20 4,
                            capOvr := dfield x.desc 0x24 2 }] }
      ∧ (∀ q, q ≠ p → m.part q = s.m.part q) ∧ findItem m i = some { x with st := .running } ∧ m =
      { s.m with fns := m.fns, parts := m.parts }) ∧
  (∀ (s : State) (i : ItemRef) (x : Item) (p : Nat) (r : Run), ItemAt s.m i x p opRunGraph .dispatched → runOf s.m p
      (dfield x.desc 0x18 8) = some r → ∃ m, exec (.runGraph i) s = .next { s with m := m } ∧ Finished s.m m i x .rejState
      (.val 0) none ∧ m = { s.m with fns := m.fns })

/-- ADMIT, PAUSE and RESUME. An ADMIT whose block passes takes the lowest free slot with the admission number and the fields of
its block, waiting or paused as its flag says, and the pages it reserves. A block with a field out of range is REJ_FORMAT in
structure 1, a partition at SRV_QUOTA is REJ_QUOTA; while an earlier ADMIT of the ring is undecided the command changes
nothing. PAUSE and RESUME of an active request start and mark it and nothing else, PROMOTE apart; of no active request they
are REJ_STATE (R256, R257, R261 to R263, R277 to R280, R305). ADMIT, PAUSE and RESUME complete with their own effect on the
conditions that each clause puts on the state and the operands alone. -/
def Obligations.Requests : Prop :=
  (∀ (s : State) (i : ItemRef) (block : List Byte) (prompt : List Nat) (x : Item) (p slot : Nat) (v : Serving) (a :
      Asked) (r : SMap Nat 0) (m1 : Module), ItemAt s.m i x p opAdmit .dispatched → earlierAdmit s.m x = false →
      block.length = 128 → regEmpty s.m p 4 = false → servingReady s.m p (leNat (block.take 8)) = some v → blockBad
      (regTake s.m p 4 ((128 + 4 * prompt.length + 63) / 64)) p block (some v) = none → askedOf (regTake s.m p 4 ((128 + 4
      * prompt.length + 63) / 64)) i x p block prompt v = some a → prompt.length = leNat ((block.drop 0x18).take 4) →
      (reqsOf s.m p).length < (s.m.part p).regs.srvQuota → lowestFree s.m 0 65536 = some slot → reserve (regTake s.m p 4
      ((128 + 4 * prompt.length + 63) / 64)) p (firstTierOf s.m p) a.pages = some (r, m1) → (startLists m1 i p a.q).2 =
      true → ∃ m q, exec (.admitReq i block prompt) s = .next { s with m := m } ∧ m.slots.get slot = some q ∧ (∀ k, k ≠
      slot → m.slots.get k = s.m.slots.get k) ∧ q = { a.q with resv := r } ∧ q.part = p ∧ q.item = i ∧ q.model = leNat
      (block.take 8) ∧ q.prompt = prompt ∧ q.maxNew = leNat ((block.drop 0x1C).take 4) ∧ q.st = (if bit (dfield x.desc 5
      1) 1 = true then .paused else .waiting) ∧ q.dropOnMiss = bit (dfield x.desc 5 1) 0 ∧ q.admitNo = (if leNat
      ((block.drop 8).take 8) = 0 then (s.m.part p).admitCtr + 1 else leNat ((block.drop 8).take 8)) ∧ (m.part p).admitCtr
      = q.admitNo ∧ m = { s.m with mem := m.mem, fns := m.fns, parts := m.parts, slots := m.slots, freeCtr := m.freeCtr }) ∧
  (∀ (s : State) (i : ItemRef) (block : List Byte) (prompt : List Nat) (x : Item) (p o : Nat), ItemAt s.m i x p opAdmit
      .dispatched → earlierAdmit s.m x = false → block.length = 128 → regEmpty s.m p 4 = false → blockBad (regTake s.m p 4
      ((128 + 4 * prompt.length + 63) / 64)) p block (servingReady s.m p (leNat (block.take 8))) = some o → ∃ m, exec
      (.admitReq i block prompt) s = .next { s with m := m } ∧ Finished s.m m i x .rejFormat (.val (65536 + o % 65536))
      none ∧ m.slots = s.m.slots ∧ m = { s.m with fns := m.fns, parts := m.parts }) ∧
  (∀ (s : State) (i : ItemRef) (block : List Byte) (prompt : List Nat) (x : Item) (p : Nat) (v : Serving) (a : Asked),
      ItemAt s.m i x p opAdmit .dispatched → earlierAdmit s.m x = false → block.length = 128 → regEmpty s.m p 4 = false →
      servingReady s.m p (leNat (block.take 8)) = some v → blockBad (regTake s.m p 4 ((128 + 4 * prompt.length + 63) /
      64)) p block (some v) = none → askedOf (regTake s.m p 4 ((128 + 4 * prompt.length + 63) / 64)) i x p block prompt v
      = some a → prompt.length = leNat ((block.drop 0x18).take 4) → (s.m.part p).regs.srvQuota ≤ (reqsOf s.m p).length → ∃
      m, exec (.admitReq i block prompt) s = .next { s with m := m } ∧ Finished s.m m i x .rejQuota (.val 0) none ∧
      m.slots = s.m.slots ∧ (m.part p).admitCtr = (s.m.part p).admitCtr ∧ m = { s.m with fns := m.fns, parts := m.parts }) ∧
  (∀ (s : State) (i : ItemRef) (block : List Byte) (prompt : List Nat) (x : Item) (p : Nat), ItemAt s.m i x p opAdmit
      .dispatched → block.length = 128 → earlierAdmit s.m x = true → exec (.admitReq i block prompt) s = .next s) ∧
  (∀ (s : State) (i : ItemRef) (x : Item) (p slot : Nat) (q : Request), ItemAt s.m i x p opPause .dispatched → slotOf s.m
      (targetOf i x.desc) = some slot → s.m.slots.get slot = some q → q.st = .waiting ∨ q.st = .running → ∃ m, exec
      (.pause i) s = .next { s with m := m } ∧ m.slots.get slot = some
      { q with pauseBy := q.pauseBy ++ [(i.ring, i.ssn)] } ∧ (∀ k, k ≠ slot → m.slots.get k = s.m.slots.get k) ∧ findItem
      m i = some { x with st := .running } ∧ m = { s.m with fns := m.fns, slots := m.slots }) ∧
  (∀ (s : State) (i : ItemRef) (x : Item) (p : Nat), ItemAt s.m i x p opPause .dispatched → slotOf s.m (targetOf i
      x.desc) = none → ∃ m, exec (.pause i) s = .next { s with m := m } ∧ Finished s.m m i x .rejState (.val 0) none ∧ m =
      { s.m with fns := m.fns }) ∧
  (∀ (s : State) (i : ItemRef) (x : Item) (p slot : Nat) (q : Request), ItemAt s.m i x p opResume .dispatched → slotOf
      s.m (targetOf i x.desc) = some slot → s.m.slots.get slot = some q → q.st = .paused → ∃ m, exec (.resume i) s = .next
      { s with m := m } ∧ m.slots.get slot = some
      { q with resumeBy := q.resumeBy ++ [(i.ring, i.ssn)], promoting := q.promoting || bit (dfield x.desc 0x1A 2) 0 } ∧
      (∀ k, k ≠ slot → m.slots.get k = s.m.slots.get k) ∧ findItem m i = some { x with st := .running } ∧ (bit (dfield
      x.desc 0x1A 2) 0 = false → m.mem = s.m.mem ∧ m.parts = s.m.parts ∧ m.freeCtr = s.m.freeCtr) ∧ m =
      { s.m with mem := m.mem, fns := m.fns, parts := m.parts, slots := m.slots, freeCtr := m.freeCtr }) ∧
  (∀ (s : State) (i : ItemRef) (x : Item) (p : Nat), ItemAt s.m i x p opResume .dispatched → slotOf s.m (targetOf i
      x.desc) = none → ∃ m, exec (.resume i) s = .next { s with m := m } ∧ Finished s.m m i x .rejState (.val 0) none ∧ m
      = { s.m with fns := m.fns })

/-- Loading a swath. A LOAD_SWATH whose list, headers, schedules and serving records pass is admitted (its worst case reserved,
its item started, its images placed from the first group on), if every signature verifies under a key of the partition; one
that does not is REJ_SIGNATURE, is counted, and leaves planes and memory alone. Images that have streamed and pass their
checks are READY where their hashes match, each core's plane holding its payload, and the command is DONE; a hash that differs
is REJ_SIGNATURE and counted, and nothing of the load stays (R189, R190, R196, R308, R436). LOAD_SWATH and
LOAD_SWATH_STREAM_END complete with their own effect on the conditions that each clause puts on the state and the operands
alone. -/
def Obligations.SwathLoads : Prop :=
  (∀ (s : State) (i : ItemRef) (x : Item) (p : Nat), ItemAt s.m i x p opLoadSwath .dispatched → earlierLoad s.m p x =
      false → (badRun s.m p i (dfield x.desc 0x18 8) (64 * dfield x.desc 0x20 1)).isNone = true → listBad (loadList s.m p
      x.desc) = none → (loadImages s.m p i x).isSome = true → (loadList s.m p x.desc).all (fun e => (badRun s.m p i
      e.signature sigBytes).isNone) = true → ∃ m, exec (.loadSwath i) s = .next { s with m := m } ∧ (if (((loadList s.m p
      x.desc).zip ((loadImages s.m p i x).getD [])).all fun y => (checkSignature s.m p y.1 y.2).isSome) = true then m =
      admitLoad s.m p i x (((loadList s.m p x.desc).zip ((loadImages s.m p i x).getD [])).filterMap fun y =>
      checkSignature s.m p y.1 y.2) else Finished s.m m i x .rejSignature (.val 0) none ∧ m.sec =
      { s.m.sec with sigFail := s.m.sec.sigFail.upd p fun n => satAdd n 1 } ∧ m.parts = s.m.parts ∧ m.cores = s.m.cores) ∧
      m =
      { s.m with start := m.start, sec := m.sec, mem := m.mem, fns := m.fns, parts := m.parts, fabParts := m.fabParts,
                 cores := m.cores, nodes := m.nodes, hedgeOut := m.hedgeOut, freeCtr := m.freeCtr }) ∧
  (∀ (s : State) (i : ItemRef) (x : Item) (p : Nat), ItemAt s.m i x p opLoadSwath .running → x.progress = 1 → (loadList
      s.m p x.desc).any (fun e => tierWaits s.m p e.image e.bytes) = false → streamBad (loading s.m p i) = none → ∃ m,
      exec (.loadSwathStreamEnd i) s = .next { s with m := m } ∧ loading m p i = [] ∧ (if (loading s.m p i).all hashesOk =
      true then (findItem m i).map (·.status) = some (some .done) ∧ (findItem m i).map (·.st) = some .decided ∧ m.sec =
      s.m.sec ∧ (∀ w, loading s.m p i = [w] → w.cores.Nodup → ∀ l, l < w.cores.length → (m.core (w.cores.getD l
      0)).planes.get w.plane =
      { st := .ready, part := p, swath := w.id, logical := some l, bytes := payload w.image w.info.planeOff l }) else
      (findItem m i).map (·.status) = some (some .rejSignature) ∧ m.sec =
      { s.m.sec with hashFail := s.m.sec.hashFail.upd p fun n => satAdd n 1 } ∧ (∀ w, w ∈ loading s.m p i → (m.part
      p).swaths.any (fun v => v.id == w.id) = false)) ∧ m =
      { s.m with start := m.start, sec := m.sec, ras := m.ras, fns := m.fns, parts := m.parts, fabParts := m.fabParts,
                 cores := m.cores, nodes := m.nodes, hedgeOut := m.hedgeOut, freeCtr := m.freeCtr })

/-- Loading weights, chunk by chunk. A LOAD_WEIGHTS whose manifest has its form and whose source can serve it starts if its
signature verifies under a key of the partition, and is REJ_SIGNATURE otherwise with nothing backed. A chunk from host memory
stands at its place in the destination, is counted when its hash is the manifest's, and ends the load with REJ_SIGNATURE and
its number when it is not; after the last the manifest is recorded and the load DONE. A rank before that ended early fails a
load from the fabric; a rank after it only ends the forwarding (R309, R384, R385, R438, R439). LOAD_WEIGHTS, CHUNK_LAND and
FWD_ABORT complete with their own effect on the conditions that each clause puts on the state and the operands alone. -/
def Obligations.WeightLoads : Prop :=
  (∀ (s : State) (i : ItemRef) (x : Item) (p : Nat), ItemAt s.m i x p opLoadWeights .dispatched → wSource x ≠ 1 → wSource
      x = 3 → (s.m.fab p).en = true ∧ (s.m.fab p).rank ≠ 0 → (manifestsOf s.m p).length < 256 → (badRun s.m p i (wManifest
      x) 0x80).isNone = true → manifestBad s.m p (wManifest x) = none → dfield x.desc 0x38 8 = (manifestAt s.m p
      (wManifest x)).total → 0 < (manifestAt s.m p (wManifest x)).total → (badRun s.m p i (wManifest x) ((manifestAt s.m p
      (wManifest x)).bytes + sigBytes)).isNone = true → wDst x + (manifestAt s.m p (wManifest x)).total ≤ rangeEnd s.m p →
      wSource x ≠ 2 → (backForWrite s.m p (if dfield x.desc 0x31 1 = 0xFF then firstTierOf s.m p else dfield x.desc 0x31
      1) (wDst x) (manifestAt s.m p (wManifest x)).total).2 = none → x.att = none → x.progress = 0 → x.landed = {} → ∃ m,
      exec (.loadWeights i) s = .next { s with m := m } ∧ (∀ att, publisherOk s.m p (devRead s.m p (wManifest x +
      (manifestAt s.m p (wManifest x)).bytes) sigBytes) 4 (sha3 (devRead s.m p (wManifest x) (manifestAt s.m p (wManifest
      x)).bytes)) noDigest noDigest = some att → findItem m i = some
      { x with st := .running, att := some { att with obj := (manifestAt s.m p (wManifest x)).model }, eth := [] } ∧ m.sec
      = s.m.sec) ∧ (publisherOk s.m p (devRead s.m p (wManifest x + (manifestAt s.m p (wManifest x)).bytes) sigBytes) 4
      (sha3 (devRead s.m p (wManifest x) (manifestAt s.m p (wManifest x)).bytes)) noDigest noDigest = none → Finished s.m
      m i x .rejSignature (.val 0) none ∧ m.sec = { s.m.sec with sigFail := s.m.sec.sigFail.upd p fun n => satAdd n 1 } ∧
      m.parts = s.m.parts) ∧ (wSource x ≠ 3 → m.fabric = s.m.fabric ∧ m.netOut = s.m.netOut) ∧ (wSource x = 2 → m.mem =
      s.m.mem ∧ m.freeCtr = s.m.freeCtr) ∧ m =
      { s.m with sec := m.sec, mem := m.mem, fns := m.fns, parts := m.parts, fabric := m.fabric, netOut := m.netOut,
                 freeCtr := m.freeCtr }) ∧
  (∀ (s : State) (i : ItemRef) (x : Item) (p : Nat), ItemAt s.m i x p opLoadWeights .dispatched → wSource x = 1 →
      (manifestsOf s.m p).length < 256 → (badRun s.m p i (wManifest x) 0x80).isNone = true → manifestBad s.m p (wManifest
      x) = none → dfield x.desc 0x38 8 = (manifestAt s.m p (wManifest x)).total → 0 < (manifestAt s.m p (wManifest
      x)).total → (badRun s.m p i (wManifest x) ((manifestAt s.m p (wManifest x)).bytes + sigBytes)).isNone = true → wDst
      x + (manifestAt s.m p (wManifest x)).total ≤ rangeEnd s.m p → dfield x.desc 0x28 8 + 64 ≤ rangeEnd s.m p →
      ethBlockOk s.m p (dfield x.desc 0x28 8) = true → ethConnected s.m (ethBlock s.m p (dfield x.desc 0x28 8)) = true →
      (ethPorts (ethBlock s.m p (dfield x.desc 0x28 8))).all (fun port => !heldOff s.m (2649 + port) && (s.m.eth.get
      port).linkUp) = true → (backForWrite s.m p (if dfield x.desc 0x31 1 = 0xFF then firstTierOf s.m p else dfield x.desc
      0x31 1) (wDst x) (manifestAt s.m p (wManifest x)).total).2 = none → x.att = none → x.progress = 0 → x.landed = {} →
      ∃ m, exec (.loadWeights i) s = .next { s with m := m } ∧ (∀ att, publisherOk s.m p (devRead s.m p (wManifest x +
      (manifestAt s.m p (wManifest x)).bytes) sigBytes) 4 (sha3 (devRead s.m p (wManifest x) (manifestAt s.m p (wManifest
      x)).bytes)) noDigest noDigest = some att → (findItem m i).map (·.st) = some .running ∧ (findItem m i).map (·.att) =
      some (some { att with obj := (manifestAt s.m p (wManifest x)).model }) ∧ (findItem m i).map (·.eth) = some (ethBlock
      s.m p (dfield x.desc 0x28 8)) ∧ m.sec = s.m.sec) ∧ (publisherOk s.m p (devRead s.m p (wManifest x + (manifestAt s.m
      p (wManifest x)).bytes) sigBytes) 4 (sha3 (devRead s.m p (wManifest x) (manifestAt s.m p (wManifest x)).bytes))
      noDigest noDigest = none → Finished s.m m i x .rejSignature (.val 0) none ∧ m.sec =
      { s.m.sec with sigFail := s.m.sec.sigFail.upd p fun n => satAdd n 1 } ∧ m.parts = s.m.parts) ∧ m =
      { s.m with sec := m.sec, mem := m.mem, fns := m.fns, parts := m.parts, eth := m.eth, netOut := m.netOut,
                 freeCtr := m.freeCtr }) ∧
  (∀ (s : State) (i : ItemRef) (data : List Byte) (x : Item) (p : Nat), ItemAt s.m i x p opLoadWeights .running → wSource
      x = 0 → x.progress < (manifestAt s.m p (wManifest x)).chunks → data.length = (manifestAt s.m p (wManifest x)).len
      x.progress → tierWaits s.m p (wDst x + x.progress * (manifestAt s.m p (wManifest x)).chunk) data.length = false →
      (badRun s.m p i (wDst x + x.progress * (manifestAt s.m p (wManifest x)).chunk) data.length).isNone = true → regEmpty
      s.m p 4 = false → (s.m.fab p).en = false → ∃ m, exec (.chunkLand i data) s = .next { s with m := m } ∧ devRead m p
      (wDst x + x.progress * (manifestAt s.m p (wManifest x)).chunk) data.length = data ∧ (∀ a, a < wDst x + x.progress *
      (manifestAt s.m p (wManifest x)).chunk ∨ wDst x + x.progress * (manifestAt s.m p (wManifest x)).chunk + data.length
      ≤ a → (m.part p).range.get a = (s.m.part p).range.get a) ∧ (sha3 data ≠ chunkHash (devWrite s.m p (wDst x +
      x.progress * (manifestAt s.m p (wManifest x)).chunk) data) p (wManifest x) x.progress → (findItem m i).map
      (·.status) = some (some .rejSignature) ∧ m.sec =
      { s.m.sec with hashFail := s.m.sec.hashFail.upd p fun n => satAdd n 1 }) ∧ (sha3 data = chunkHash (devWrite s.m p
      (wDst x + x.progress * (manifestAt s.m p (wManifest x)).chunk) data) p (wManifest x) x.progress → (x.progress + 1 <
      (manifestAt s.m p (wManifest x)).chunks → x.landed.get (x.progress + 1) ≠ (manifestAt s.m p (wManifest x)).len
      (x.progress + 1) → findItem m i = some
      { x with landed := x.landed.put x.progress data.length, progress := x.progress + 1 }) ∧ (x.progress + 1 =
      (manifestAt s.m p (wManifest x)).chunks → (findItem m i).map (·.status) = some (some .done) ∧ (m.part p).attested =
      (s.m.part p).attested ++ x.att.toList)) ∧ m.fab p = { s.m.fab p with fwdReady := (m.fab p).fwdReady } ∧ (∀ q, q ≠ p
      → m.part q = s.m.part q ∧ m.fab q = s.m.fab q) ∧ m =
      { s.m with sec := m.sec, fns := m.fns, parts := m.parts, fabParts := m.fabParts, eth := m.eth }) ∧
  (∀ (s : State) (i : ItemRef) (data : List Byte) (x : Item) (p : Nat), ItemAt s.m i x p opLoadWeights .running → wSource
      x = 1 ∨ wSource x = 3 ∨ (manifestAt s.m p (wManifest x)).chunks ≤ x.progress → exec (.chunkLand i data) s = .next s) ∧
  (∀ (s : State) (i : ItemRef) (x : Item) (p : Nat), ItemAt s.m i x p opLoadWeights .running → wSource x = 3 → ∃ m v,
      exec (.fwdAbort i false) s = .next { s with m := m } ∧ Raised s.m m 0x0504 p [v % 12, v / 12] ∧ (findItem m i).map
      (·.status) = some (some .failFault) ∧ (findItem m i).map (·.st) = some .decided ∧ m =
      { s.m with start := m.start, fns := m.fns, nodes := m.nodes, hedgeOut := m.hedgeOut, freeCtr := m.freeCtr }) ∧
  (∀ (s : State) (i : ItemRef) (x : Item) (p : Nat), ItemAt s.m i x p opLoadWeights .running → (s.m.fab p).en = true →
      (s.m.fab p).fwd = true → (s.m.fab p).rank + 1 < (s.m.fab p).nranks → x.fwdBroken = false → ∃ m v, exec (.fwdAbort i
      true) s = .next { s with m := m } ∧ Raised s.m m 0x0505 p [v % 12, v / 12] ∧ findItem m i = some
      { x with fwdBroken := true } ∧ m =
      { s.m with start := m.start, fns := m.fns, nodes := m.nodes, hedgeOut := m.hedgeOut, freeCtr := m.freeCtr })

/-- Swaps, moves and evictions. A SWAP_WEIGHTS of a manifest recorded for the model holds it from the next seal; the copy starts
once the held model is quiet and its target is backed; at the end the target reads as the stage and DETAIL is the step index
of the model's next launch. A MOVE of a KIND 1 writes the bytes of the range to host memory, of KIND 2 the host's bytes to the
range, of KIND 3 copies within it, and is DONE when all have landed. A RETIER sends every page to its tier. EVICT unbacks
pages that nothing keeps, and they read zero (R211 to R213, R238, R310 to R312). SWAP_WEIGHTS, SWAP_COPY_START,
SWAP_COPY_DONE, MOVE_RETIER, MOVE_COPY, MOVE_COPY_DONE and EVICT complete with their own effect on the conditions that each
clause puts on the state and the operands alone. -/
def Obligations.SwapsAndMoves : Prop :=
  (∀ (s : State) (i : ItemRef) (x : Item) (p : Nat), ItemAt s.m i x p opSwap .dispatched → (badRun s.m p i (dfield x.desc
      0x20 8) 0x80).isNone = true → dfield x.desc 0x28 8 + dfield x.desc 0x38 8 ≤ rangeEnd s.m p → dfield x.desc 0x30 8 +
      dfield x.desc 0x38 8 ≤ rangeEnd s.m p → ∃ m, exec (.swapWeights i) s = .next { s with m := m } ∧ (if (manifestsOf
      s.m p).any (fun t => t.digest0 == sha3 (devRead s.m p (dfield x.desc 0x20 8) (manifestAt s.m p (dfield x.desc 0x20
      8)).bytes)) = true ∧ (manifestAt s.m p (dfield x.desc 0x20 8)).model = dfield x.desc 0x18 8 then m.part p =
      { (noteRead s.m p (dfield x.desc 0x20 8) (manifestAt s.m p (dfield x.desc 0x20 8)).bytes).part p with
        swaps := (s.m.part p).swaps ++ [{
          item := i, model := dfield x.desc 0x18 8, manifest := dfield x.desc 0x20 8, stage := dfield x.desc 0x28 8,
            target := dfield x.desc 0x30 8, bytes := dfield x.desc 0x38 8 }] }
      ∧ findItem m i = some { x with st := .running } else Finished s.m m i x .rejState (.val 0) none ∧ m.parts =
      s.m.parts) ∧ (∀ q, q ≠ p → m.part q = s.m.part q) ∧ m = { s.m with fns := m.fns, parts := m.parts }) ∧
  (∀ (s : State) (i : ItemRef) (x : Item) (p : Nat) (w : Swap), ItemAt s.m i x p opSwap .running → (s.m.part
      p).swaps.find? (fun t => t.item == i) = some w → w.held = true → w.copying = false → modelBusy s.m p w.model = false
      → (backForWrite s.m p (firstTierOf s.m p) w.target w.bytes).2 = none → ∃ m, exec (.swapCopyStart i) s = .next
      { s with m := m } ∧ (m.part p).swaps = ((s.m.part p).swaps.map fun t => if t.item = i then
      { t with copying := true } else t) ∧ findItem m i = some x ∧ m =
      { s.m with mem := m.mem, parts := m.parts, freeCtr := m.freeCtr }) ∧
  (∀ (s : State) (i : ItemRef) (x : Item) (p : Nat) (w : Swap), ItemAt s.m i x p opSwap .running → (s.m.part
      p).swaps.find? (fun t => t.item == i) = some w → w.copying = true → tierWaits s.m p w.stage w.bytes = false →
      tierWaits s.m p w.target w.bytes = false → poisonedIn s.m p w.stage w.bytes = none → poisonedIn s.m p w.target
      w.bytes = none → ∃ m, exec (.swapCopyDone i) s = .next { s with m := m } ∧ Finished s.m m i x .done (.val ((s.m.part
      p).launches.get w.model % 4294967296)) none ∧ devRead m p w.target w.bytes = devRead s.m p w.stage w.bytes ∧ (∀ a, a
      < w.target ∨ w.target + w.bytes ≤ a → (m.part p).range.get a = (s.m.part p).range.get a) ∧ (m.part p).swaps =
      ((s.m.part p).swaps.filter fun t => !(t.item == i)) ∧ m = { s.m with fns := m.fns, parts := m.parts }) ∧
  (∀ (s : State) (i : ItemRef) (x : Item) (p : Nat), ItemAt s.m i x p opMove .dispatched → mvKind x = 0 → dfield x.desc
      0x19 1 ≤ 2 → dfield x.desc 0x19 1 = 2 → homeFits s.m (mvPlace x) ((range' (mvSrc x / pageSize) (mvLen x /
      pageSize)).filter fun g => !inPlace s.m ((s.m.part p).pages.get g) (dfield x.desc 0x19 1) (mvPlace x)).length = true
      → (badRun s.m p i (mvSrc x) (mvLen x)).isNone = true → (range' (mvSrc x / pageSize) (mvLen x / pageSize)).all (fun g
      => ((s.m.part p).pages.get g).mig.isNone) = true → (range' (mvSrc x / pageSize) (mvLen x / pageSize)).all (fun g =>
      !((s.m.part p).pages.get g).locked && !(fixedPages s.m p).contains g) = true → ((range' (mvSrc x / pageSize) (mvLen
      x / pageSize)).filter fun g => !inPlace s.m ((s.m.part p).pages.get g) (dfield x.desc 0x19 1) (mvPlace x)).length ≤
      min (quotaRoom s.m p (dfield x.desc 0x19 1)) (freeIn s.m (dfield x.desc 0x19 1)) → ∃ m, exec (.moveRetier i) s =
      .next { s with m := m } ∧ (∀ g, g ∈ range' (mvSrc x / pageSize) (mvLen x / pageSize) → (((s.m.part p).pages.get
      g).tier = none → ((m.part p).pages.get g).tier = some (tierOf (dfield x.desc 0x19 1)) ∧ ((m.part p).pages.get
      g).locked = bit (dfield x.desc 0x1B 1) 0) ∧ (inPlace s.m ((s.m.part p).pages.get g) (dfield x.desc 0x19 1) (mvPlace
      x) = true → (m.part p).pages.get g = { (s.m.part p).pages.get g with locked := bit (dfield x.desc 0x1B 1) 0 }) ∧
      (((s.m.part p).pages.get g).tier ≠ none → inPlace s.m ((s.m.part p).pages.get g) (dfield x.desc 0x19 1) (mvPlace x)
      = false → (∃ pl, (dfield x.desc 0x19 1 ≤ 1 → pl = mvPlace x) ∧ (m.part p).pages.get g =
      { (s.m.part p).pages.get g with mig := some {
                                        toTier := tierOf (dfield x.desc 0x19 1), toPlace := pl, item := some i,
                                          lockAfter := bit (dfield x.desc 0x1B 1) 0 } })
      ∧ (findItem m i).map (·.st) = some .running)) ∧ (∀ g, g ∉ range' (mvSrc x / pageSize) (mvLen x / pageSize) → (m.part
      p).pages.get g = (s.m.part p).pages.get g) ∧ (m.part p).range = (s.m.part p).range ∧ m =
      { s.m with fns := m.fns, parts := m.parts, freeCtr := m.freeCtr }) ∧
  (∀ (s : State) (i : ItemRef) (x : Item) (p : Nat), ItemAt s.m i x p opMove .dispatched → mvKind x = 0 → bit (dfield
      x.desc 0x1B 1) 1 = false → (badRun s.m p i (mvSrc x) (mvLen x)).isNone = true → (range' (mvSrc x / pageSize) (mvLen
      x / pageSize)).all (fun g => ((s.m.part p).pages.get g).mig.isNone) = true → (range' (mvSrc x / pageSize) (mvLen x /
      pageSize)).any (fun g => ((s.m.part p).pages.get g).locked && ((s.m.part p).pages.get g).tier == some .sward) = true
      → dfield x.desc 0x19 1 = 1 → ∃ m, exec (.moveRetier i) s = .next { s with m := m } ∧ Finished s.m m i x .rejState
      (.val 0) none ∧ m = { s.m with fns := m.fns }) ∧
  (∀ (s : State) (i : ItemRef) (x : Item) (p : Nat), ItemAt s.m i x p opMove .dispatched → mvKind x = 1 → (badRun s.m p i
      (mvSrc x) (mvLen x)).isNone = true → regEmpty s.m p 4 = false → ∃ m, exec (.moveCopy i []) s = .next
      { s with m := m } ∧ findItem m i = some { x with st := .running } ∧ (∀ a, (m.part p).range.get a = (s.m.part
      p).range.get a) ∧ m = { s.m with fns := m.fns, parts := m.parts, hostOut := m.hostOut }) ∧
  (∀ (s : State) (i : ItemRef) (data : List Byte) (x : Item) (p : Nat), ItemAt s.m i x p opMove .running → mvKind x = 1 →
      data.length % 64 = 0 → (badRun s.m p i (mvSrc x + x.progress) data.length).isNone = true → x.progress + data.length
      ≤ mvLen x → tierWaits s.m p (mvSrc x + x.progress) data.length = false → regEmpty s.m p 4 = false → (s.m.fn
      i.fn).resetting = false → ∃ m, exec (.moveCopy i data) s = .next { s with m := m } ∧ m.hostOut = .bytes (mvDst x +
      x.progress) (devRead s.m p (mvSrc x + x.progress) data.length) :: s.m.hostOut ∧ findItem m i = some
      { x with progress := x.progress + data.length } ∧ (m.part p).range = (s.m.part p).range ∧ m =
      { s.m with fns := m.fns, parts := m.parts, hostOut := m.hostOut }) ∧
  (∀ (s : State) (i : ItemRef) (data : List Byte) (x : Item) (p : Nat), ItemAt s.m i x p opMove .running → mvKind x = 2 →
      data.length % 64 = 0 → (badRun s.m p i (mvDst x + x.progress) data.length).isNone = true → x.progress + data.length
      ≤ mvLen x → tierWaits s.m p (mvDst x + x.progress) data.length = false → regEmpty s.m p 4 = false → ∃ m, exec
      (.moveCopy i data) s = .next { s with m := m } ∧ devRead m p (mvDst x + x.progress) data.length = data ∧ findItem m
      i = some { x with progress := x.progress + data.length } ∧ (∀ a, a < mvDst x + x.progress ∨ mvDst x + x.progress +
      data.length ≤ a → (m.part p).range.get a = (s.m.part p).range.get a) ∧ m =
      { s.m with fns := m.fns, parts := m.parts }) ∧
  (∀ (s : State) (i : ItemRef) (data : List Byte) (x : Item) (p : Nat), ItemAt s.m i x p opMove .running → mvKind x = 3 →
      data.length % 64 = 0 → (badRun s.m p i (mvSrc x + x.progress) data.length).isNone = true → (badRun s.m p i (mvDst x
      + x.progress) data.length).isNone = true → x.progress + data.length ≤ mvLen x → tierWaits s.m p (mvSrc x +
      x.progress) data.length = false → tierWaits s.m p (mvDst x + x.progress) data.length = false → mvSrc x + mvLen x ≤
      mvDst x ∨ mvDst x + mvLen x ≤ mvSrc x → ∃ m, exec (.moveCopy i data) s = .next { s with m := m } ∧ devRead m p
      (mvDst x + x.progress) data.length = devRead s.m p (mvSrc x + x.progress) data.length ∧ findItem m i = some
      { x with progress := x.progress + data.length } ∧ (∀ a, a < mvDst x + x.progress ∨ mvDst x + x.progress +
      data.length ≤ a → (m.part p).range.get a = (s.m.part p).range.get a) ∧ m =
      { s.m with fns := m.fns, parts := m.parts }) ∧
  (∀ (s : State) (i : ItemRef) (x : Item) (p : Nat), ItemAt s.m i x p opMove .running → mvKind x ≠ 0 → x.progress = mvLen
      x → ∃ m, exec (.moveCopyDone i) s = .next { s with m := m } ∧ Finished s.m m i x .done (.val 0) none ∧ m =
      { s.m with fns := m.fns }) ∧
  (∀ (s : State) (i : ItemRef) (x : Item) (p : Nat), ItemAt s.m i x p opEvict .dispatched → dfield x.desc 0x18 1 = 3 →
      dfield x.desc 0x30 8 + dfield x.desc 0x38 8 ≤ rangeEnd s.m p → (range' (dfield x.desc 0x30 8 / pageSize) (dfield
      x.desc 0x38 8 / pageSize)).all (fun g => ((s.m.part p).pages.get g).mig.isNone) = true → (range' (dfield x.desc 0x30
      8 / pageSize) (dfield x.desc 0x38 8 / pageSize)).all (fun g => !((s.m.part p).pages.get g).locked && !(fixedPages
      s.m p).contains g && ((s.m.part p).pages.get g).heldBy == 0) = true → ∃ m, exec (.evict i) s = .next
      { s with m := m } ∧ Finished s.m m i x .done (.val 0) none ∧ (∀ g, g ∈ range' (dfield x.desc 0x30 8 / pageSize)
      (dfield x.desc 0x38 8 / pageSize) → ((m.part p).pages.get g).tier = none ∧ (((s.m.part p).pages.get g).tier ≠ none →
      ∀ k, k < pageSize → (m.part p).range.get (g * pageSize + k) = unlistedByte)) ∧ (∀ g, g ∉ range' (dfield x.desc 0x30
      8 / pageSize) (dfield x.desc 0x38 8 / pageSize) → (m.part p).pages.get g = (s.m.part p).pages.get g) ∧ m =
      { s.m with fns := m.fns, parts := m.parts }) ∧
  (∀ (s : State) (i : ItemRef) (x : Item) (p : Nat), ItemAt s.m i x p opEvict .dispatched → dfield x.desc 0x18 1 = 0 →
      (s.m.part p).swaths.any (fun w => w.id == dfield x.desc 0x20 8) = true → (s.m.part p).swaths.all (fun w => w.id !=
      dfield x.desc 0x20 8 || !(swathBusy s.m p w || hasRun s.m p w.model)) = true → ∃ m, exec (.evict i) s = .next
      { s with m := m } ∧ Finished s.m m i x .done (.val 0) none ∧ (m.part p).swaths = ((s.m.part p).swaths.filter fun w
      => w.id != dfield x.desc 0x20 8) ∧ m = { s.m with fns := m.fns, parts := m.parts, cores := m.cores }) ∧
  (∀ (s : State) (i : ItemRef) (x : Item) (p : Nat), ItemAt s.m i x p opEvict .dispatched → dfield x.desc 0x18 1 = 0 →
      (s.m.part p).swaths.any (fun w => w.id == dfield x.desc 0x20 8) = false → ∃ m, exec (.evict i) s = .next
      { s with m := m } ∧ Finished s.m m i x .rejState (.val 0) none ∧ m = { s.m with fns := m.fns }) ∧
  (∀ (s : State) (i : ItemRef) (x : Item) (p : Nat), ItemAt s.m i x p opEvict .dispatched → dfield x.desc 0x18 1 = 1 →
      (s.m.part p).swaths.any (fun w => w.model == dfield x.desc 0x20 8) = true ∨ (s.m.part p).prefixes.any (fun z =>
      z.model == dfield x.desc 0x20 8) = true → hasRun s.m p (dfield x.desc 0x20 8) = false → (s.m.part p).swaths.all (fun
      w => w.model != dfield x.desc 0x20 8 || !swathBusy s.m p w) = true → (s.m.part p).pages.cells.all (fun c =>
      c.2.mig.isNone) = true → ∃ m, exec (.evict i) s = .next { s with m := m } ∧ Finished s.m m i x .done (.val 0) none ∧
      (m.part p).prefixes = ((s.m.part p).prefixes.filter fun z => z.model != dfield x.desc 0x20 8) ∧ (∀ w, w ∈ (m.part
      p).swaths → w ∈ (s.m.part p).swaths ∧ w.model ≠ dfield x.desc 0x20 8) ∧ (∀ a, a ∈ (m.part p).attested → a ∈
      (s.m.part p).attested ∧ ¬(a.kind = 4 ∧ a.obj = dfield x.desc 0x20 8)) ∧ m =
      { s.m with fns := m.fns, parts := m.parts, cores := m.cores }) ∧
  (∀ (s : State) (i : ItemRef) (x : Item) (p : Nat), ItemAt s.m i x p opEvict .dispatched → dfield x.desc 0x18 1 = 2 →
      (s.m.part p).prefixes.any (fun z => z.model == dfield x.desc 0x20 8 && z.num == dfield x.desc 0x28 2) = true →
      hasRun s.m p (dfield x.desc 0x20 8) = false → (s.m.part p).pages.cells.all (fun c => c.2.mig.isNone) = true → ∃ m,
      exec (.evict i) s = .next { s with m := m } ∧ Finished s.m m i x .done (.val 0) none ∧ (m.part p).prefixes =
      ((s.m.part p).prefixes.filter fun z => !(z.model == dfield x.desc 0x20 8 && z.num == dfield x.desc 0x28 2)) ∧
      (m.part p).swaths = (s.m.part p).swaths ∧ m = { s.m with fns := m.fns, parts := m.parts })

/-- Fences, corrected and uncorrectable errors, re-placement. A write of RAS_FENCE with a live core fences it; another is refused
with BAD_WRITE. A corrected error is counted and fences a core past RAS_CE_LIMIT in an hour; an uncorrectable error in a
core's storage is counted and fences it; a latent one marks its line and nothing stops. A re-placement that succeeds for a
partition without a step to replay ends its recovery and starts the oldest queued fence; while the control core is absent the
request waits (R193, R401, R449 to R452, R457). RAS_FENCE, CORRECTED, UNCORRECTABLE, LATENT, PATROL_SCRUB and REPLACEMENT_DONE
complete with their own effect on the conditions that each clause puts on the state and the operands alone. -/
def Obligations.Fences : Prop :=
  (∀ (s : State) (value : Word), WriteActs s.m 0 blkRas 4 → value.toNat % 4096 < 2560 → s.m.live (value.toNat % 4096) =
      true → ∃ m, exec (.rasFence 0 value) s = .next { s with m := m } ∧ Fenced s.m m (value.toNat % 4096) ∧
      m.ras.badWrite = s.m.ras.badWrite ∧ m =
      { s.m with start := m.start, power := m.power, flash := m.flash, ras := m.ras, fns := m.fns, parts := m.parts,
                 fabParts := m.fabParts, slots := m.slots, clusters := m.clusters, cores := m.cores, nodes := m.nodes,
                   hedgeOut := m.hedgeOut, fabric := m.fabric, xfers := m.xfers, netOut := m.netOut, freeCtr := m.freeCtr }) ∧
  (∀ (s : State) (value : Word), WriteActs s.m 0 blkRas 4 → s.m.live (value.toNat % 4096) = false → ∃ m, exec (.rasFence
      0 value) s = .next { s with m := m } ∧ m.ras = { s.m.ras with badWrite := true } ∧ Raised s.m m 0x0106 255
      [barOff blkRas 4, 0] ∧ m = { s.m with start := m.start, ras := m.ras, fns := m.fns }) ∧
  (∀ (s : State) (place : ErrPlace), place.ok = true → ownCore place = none ∨ ((s.m.ras.ceTimes.get ((ownCore place).getD
      0)).filter fun t => s.m.tick.ns < t + 3600000000000).length < s.m.ras.ceLimit → ∃ m, exec (.corrected place) s =
      .next { s with m := m } ∧ m.ras.ceCount = satAdd s.m.ras.ceCount 1 ∧ m.ras.liveMap = s.m.ras.liveMap ∧ m =
      { s.m with start := m.start, ras := m.ras, fns := m.fns, nodes := m.nodes, hedgeOut := m.hedgeOut }) ∧
  (∀ (s : State) (c k a : Nat), (ErrPlace.core c k a).ok = true → s.m.live c = true → s.m.ras.ceLimit ≤
      ((s.m.ras.ceTimes.get c).filter fun t => s.m.tick.ns < t + 3600000000000).length → ∃ m, exec (.corrected (.core c k
      a)) s = .next { s with m := m } ∧ m.ras.ceCount = satAdd s.m.ras.ceCount 1 ∧ Fenced s.m m c ∧ m =
      { s.m with start := m.start, power := m.power, flash := m.flash, ras := m.ras, fns := m.fns, parts := m.parts,
                 fabParts := m.fabParts, slots := m.slots, clusters := m.clusters, cores := m.cores, nodes := m.nodes,
                   hedgeOut := m.hedgeOut, fabric := m.fabric, xfers := m.xfers, netOut := m.netOut, freeCtr := m.freeCtr }) ∧
  (∀ (s : State) (c k a : Nat), (ErrPlace.core c k a).ok = true → s.m.live c = true → ∃ m, exec (.uncorrectable (.core c
      k a)) s = .next { s with m := m } ∧ m.ras.ue = satAdd s.m.ras.ue 1 ∧ m.ras.ueBit = true ∧ Fenced s.m m c ∧ m =
      { s.m with start := m.start, power := m.power, flash := m.flash, ras := m.ras, fns := m.fns, parts := m.parts,
                 fabParts := m.fabParts, slots := m.slots, clusters := m.clusters, cores := m.cores, nodes := m.nodes,
                   hedgeOut := m.hedgeOut, fabric := m.fabric, xfers := m.xfers, netOut := m.netOut, freeCtr := m.freeCtr }) ∧
  (∀ (s : State) (c a : Nat), (ErrPlace.core c 0 a).ok = true → ∃ m, exec (.latent (.core c 0 a)) s = .next
      { s with m := m } ∧ m.ras =
      { s.m.ras with latent := satAdd s.m.ras.latent 1,
                     poisonLs := s.m.ras.poisonLs.put (16384 * c + a / 64 % 16384) (BitVec.allOnes 512) }
      ∧ m = { s.m with start := m.start, ras := m.ras, fns := m.fns, nodes := m.nodes, hedgeOut := m.hedgeOut }) ∧
  (∀ (s : State) (k u : Nat), (ErrPlace.path k u).ok = true → ∃ m, exec (.latent (.path k u)) s = .next { s with m := m }
      ∧ m.ras = { s.m.ras with latent := satAdd s.m.ras.latent 1 } ∧ Raised s.m m 0x0302 255 [128 + k, u, 0] ∧ m =
      { s.m with start := m.start, ras := m.ras, fns := m.fns }) ∧
  (∀ (s : State) (unit lines : Nat), unit < 8 → s.m.mem.healthSward.getLsbD unit = true → exec (.patrolScrub unit lines)
      s = .next { s with m := s.m.setRas fun r => { r with scrub := r.scrub.upd unit (· + lines) } }) ∧
  (∀ (s : State) (part core : Nat) (r : Recovery), partOk part = true → coreOk core = true → s.m.ras.active.find? (fun r
      => r.part = part && r.core = core && r.placed.isEmpty) = some r → (s.m.proc (32 + core / 80)).st = .running →
      (replaceAll s.m part (groupOf core)).2 = true → ((replaceAll s.m part (groupOf core)).1.part part).replay = none →
      (s.m.ras.queues.get part).head?.all (fun q => q.abort.isNone) = true → ∃ m, exec (.replacementDone part core) s =
      .next { s with m := m } ∧ m.ras.active = (s.m.ras.active.filter fun x => x.part ≠ part) ++ (s.m.ras.queues.get
      part).head?.toList ∧ m.ras.queues.get part = (s.m.ras.queues.get part).tail ∧ m =
      { s.m with ras := m.ras, parts := m.parts, cores := m.cores }) ∧
  (∀ (s : State) (part core : Nat) (r : Recovery), partOk part = true → coreOk core = true → s.m.ras.active.find? (fun r
      => r.part = part && r.core = core && r.placed.isEmpty) = some r → (s.m.proc (32 + core / 80)).st ≠ .running → core ∉
      (s.m.clu (core / 80)).holding → (s.m.clu (core / 80)).holding.length < 256 → ∃ m, exec (.replacementDone part core)
      s = .next { s with m := m } ∧ (m.clu (core / 80)).holding = (s.m.clu (core / 80)).holding ++ [core] ∧ m =
      { s.m with clusters := m.clusters })

/-- Losses of locations, units, planes and dies. A failed location of a backed page poisons the page and counts it; where no
command and no step used it, the page is marked and nothing else of the partition changes but its MEM_STAT. A unit that stops
answering is mapped out of health and capacity; a link that does goes DOWN. With one Hedgerow plane lost a die's messages are
taken from the other, with both the die is lost; a lost compute die takes its 320 cores out of the live map, the fabric I/O
die turns every link off, the host I/O die ends the host link (R27, R206, R234, R361, R459). TIER_FAILURE, UNIT_LOSS,
PLANE_LOSS and DIE_LOST complete with their own effect on the conditions that each clause puts on the state and the operands
alone. -/
def Obligations.Losses : Prop :=
  (∀ (s : State) (tier unit part page : Nat), tier < 3 → partOk part = true → unit < 64 → onUnit ((s.m.part
      part).pages.get page) tier unit = true → ((s.m.part part).pages.get page).poison = false → (runningItems s.m
      part).all (fun x => !(itemPages s.m part x).contains page) = true → (stepPages s.m part).contains page = false → ∃
      m, exec (.tierFailure tier unit part page) s = .next { s with m := m } ∧ (m.part part).pages.get page =
      { (s.m.part part).pages.get page with poison := true, mig := none } ∧ (∀ g, g ≠ page → (m.part part).pages.get g =
      (s.m.part part).pages.get g) ∧ (m.part part).mem.poisonPages = satAdd (s.m.part part).mem.poisonPages 1 ∧ (m.part
      part).mem.poisonBit = true ∧ m.part part =
      { s.m.part part with pages := (m.part part).pages, mem := (m.part part).mem } ∧ Raised s.m m 0x0305 part
      [tier, unit, page] ∧ m =
      { s.m with start := m.start, fns := m.fns, parts := m.parts, nodes := m.nodes, hedgeOut := m.hedgeOut }) ∧
  (∀ (s : State) (tier unit part page : Nat), tier < 3 → partOk part = true → unit < 64 → onUnit ((s.m.part
      part).pages.get page) tier unit = false → exec (.tierFailure tier unit part page) s = .next s) ∧
  (∀ (s : State) (k : Nat), k < 8 → s.m.mem.healthSward.getLsbD k = true → ∃ m, exec (.unitLoss (.sward k)) s = .next
      { s with m := m } ∧ m.mem =
      { s.m.mem with healthSward := s.m.mem.healthSward &&& ~~~(BitVec.twoPow 8 k), capSward := s.m.mem.capSward - 18416 }
      ∧ m.mem.healthSward.getLsbD k = false) ∧
  (∀ (s : State) (c : Nat), c < 64 → s.m.mem.lostLey.getLsbD c = false → ∃ m, exec (.unitLoss (.leyChannel c)) s = .next
      { s with m := m } ∧ m.mem =
      { s.m.mem with lostLey := s.m.mem.lostLey ||| BitVec.twoPow 64 c, capLey := s.m.mem.capLey - 16368,
                     healthLey := s.m.mem.healthLey &&& ~~~(BitVec.twoPow 16 (c / 4)) }) ∧
  (∀ (s : State) (l : Nat), l < 12 → (s.m.link l).st = .up ∨ (s.m.link l).st = .check ∨ (s.m.link l).st = .train → ∃ m,
      exec (.unitLoss (.fabricLink l)) s = .next { s with m := m } ∧ (m.link l).st = .down ∧ (m.link l).downs = satAdd
      (s.m.link l).downs 1 ∧ m.mem = s.m.mem) ∧
  (∀ (s : State) (die : Nat) (plane : Bool), dieOk die = true → (s.m.nodes.get die).planes = .both → ∃ m, exec
      (.planeLoss die plane) s = .next { s with m := m } ∧ m.nodes.get die =
      { s.m.nodes.get die with planes := (if plane = true then .onlyA else .onlyB) } ∧ (∀ d, d ≠ die → m.nodes.get d =
      s.m.nodes.get d) ∧ Raised s.m m 0x0404 255 [die, b2n plane] ∧ m =
      { s.m with start := m.start, fns := m.fns, nodes := m.nodes }) ∧
  (∀ (s : State) (die : Nat) (plane : Bool), dieOk die = true → (s.m.nodes.get die).planes = (if plane = true then
      PlaneUse.onlyB else PlaneUse.onlyA) → ∃ m, exec (.planeLoss die plane) s = .next { s with m := m } ∧ (m.nodes.get
      die).planes = .lost ∧ die ∈ m.ras.lostDies) ∧
  (∀ (s : State) (die : Nat), die < 16 → s.m.ras.lostDies.contains die = false → ∃ m, exec (.dieLost die) s = .next
      { s with m := m } ∧ die ∈ m.ras.lostDies ∧ (∀ c, 320 * (die % 8) ≤ c → c < 320 * (die % 8) + 320 → m.live c = false)
      ∧ (m.nodes.get die).planes = .lost ∧ m =
      { s.m with start := m.start, power := m.power, flash := m.flash, ras := m.ras, mem := m.mem, fns := m.fns,
                 parts := m.parts, fabParts := m.fabParts, slots := m.slots, clusters := m.clusters, cores := m.cores,
                   nodes := m.nodes, hedgeOut := m.hedgeOut, hostOut := m.hostOut, fabric := m.fabric, xfers := m.xfers,
                     netOut := m.netOut, freeCtr := m.freeCtr }) ∧
  (∀ (s : State), s.m.ras.lostDies.contains 17 = false → ∃ m, exec (.dieLost 17) s = .next { s with m := m } ∧ 17 ∈
      m.ras.lostDies ∧ (∀ l, l < 12 → (m.link l).st = .off) ∧ m =
      { s.m with start := m.start, power := m.power, flash := m.flash, ras := m.ras, mem := m.mem, fns := m.fns,
                 parts := m.parts, fabParts := m.fabParts, slots := m.slots, clusters := m.clusters, cores := m.cores,
                   nodes := m.nodes, hedgeOut := m.hedgeOut, hostOut := m.hostOut, fabric := m.fabric, xfers := m.xfers,
                     netOut := m.netOut, freeCtr := m.freeCtr }) ∧
  (∀ (s : State), s.m.ras.lostDies.contains 16 = false → ∃ m, exec (.dieLost 16) s = .next { s with m := m } ∧ 16 ∈
      m.ras.lostDies ∧ m.start.linkUp = false ∧ m.hostOut = s.m.hostOut ∧ m =
      { s.m with start := m.start, power := m.power, flash := m.flash, ras := m.ras, mem := m.mem, fns := m.fns,
                 parts := m.parts, fabParts := m.fabParts, slots := m.slots, clusters := m.clusters, cores := m.cores,
                   nodes := m.nodes, hedgeOut := m.hedgeOut, hostOut := m.hostOut, fabric := m.fabric, xfers := m.xfers,
                     netOut := m.netOut, freeCtr := m.freeCtr })

/-- Self-tests and calibrations. A test whose target exists and whose condition holds starts with the tick kept; a CORE_BIST takes
its group out of placement and overwrites the local stores of its live cores, a CORE_RETEST powers the core alone, a LEY_PHY
is due in the next reserve. SCRUB_STAT writes its result block and is DONE at once. A target that does not exist is REJ_FORMAT
at 0x1C, or REJ_STATE on a VF. A core that passes its retest is live again, one that fails is powered off and DETAIL is 1; a
test ends DONE with the number of failed units (R314, R452, R460 to R463). CORE_BIST, CORE_RETEST, SCRUB_STAT, SWARD_MARCH,
LEY_MARCH, HEATH_PORT, LINK_LOOPBACK, FABRIC_LANES, LEY_PHY, SENSORS and TEST_COMPLETE complete with their own effect on the
conditions that each clause puts on the state and the operands alone. -/
def Obligations.Tests : Prop :=
  (∀ (s : State) (i : ItemRef) (x : Item) (p : Nat), TestAt s.m i x p opSelftest 0x0001 → testTarget x < 160 → i.fn = 0 →
      (s.m.ras.testing.get (testTarget x)).isNone = true → groupIdle s.m (testTarget x) = true → (liveIn s.m (testTarget
      x)).all (fun c => !heldOff s.m c) = true → ∃ m, exec (.coreBist i) s = .next { s with m := m } ∧ m.ras =
      { s.m.ras with testing := s.m.ras.testing.put (testTarget x) (some i), poisonLs := m.ras.poisonLs } ∧ findItem m i =
      some { x with st := .running, progress := s.m.tick.count } ∧ (∀ c, m.core c =
      { s.m.core c with ls := (m.core c).ls }) ∧ (∀ c, c ∉ liveIn s.m (testTarget x) → m.core c = s.m.core c) ∧ m =
      { s.m with ras := m.ras, fns := m.fns, cores := m.cores, freeCtr := m.freeCtr }) ∧
  (∀ (s : State) (i : ItemRef) (x : Item) (p : Nat), TestAt s.m i x p opSelftest 0x0002 → testTarget x < 2560 → s.m.live
      (testTarget x) = false → s.m.flash.liveMap.getLsbD (testTarget x) = true → s.m.power.domains.getLsbD (2560 +
      clusterOf (testTarget x)) = true → heldOff s.m (testTarget x) = false → ∃ m, exec (.coreRetest i) s = .next
      { s with m := m } ∧ m.power = { s.m.power with domains := s.m.power.domains ||| BitVec.twoPow 2662 (testTarget x) }
      ∧ findItem m i = some { x with st := .running, progress := s.m.tick.count } ∧ m =
      { s.m with power := m.power, fns := m.fns }) ∧
  (∀ (s : State) (i : ItemRef) (x : Item) (p : Nat), TestAt s.m i x p opSelftest 0x0010 → testTarget x < 72 → i.fn = 0 →
      dfield x.desc 0x20 8 ≠ 0 → regEmpty s.m p 4 = false → (s.m.fn 0).resetting = false → ∃ m, exec (.scrubStat i) s =
      .next { s with m := m } ∧ m.hostOut = .bytes (dfield x.desc 0x20 8) (leBytes 0x0010 2 ++ leBytes 0 2 ++ leBytes
      (testTarget x) 4 ++ leBytes s.m.tick.count 8 ++ leBytes s.m.tick.count 8 ++ leBytes 0 4 ++ leBytes
      (s.m.ras.scrub.get (testTarget x)) 228) :: s.m.hostOut ∧ Finished s.m m i x .done (.val 0) none ∧ m =
      { s.m with fns := m.fns, parts := m.parts, hostOut := m.hostOut }) ∧
  (∀ (s : State) (i : ItemRef) (x : Item) (p : Nat), TestAt s.m i x p opSelftest 0x0011 → testTarget x < 8 → unitInUse
      s.m 0 (testTarget x) = false → heldOff s.m (2608 + testTarget x) = false → ∃ m, exec (.swardMarch i) s = .next
      { s with m := m } ∧ findItem m i = some { x with st := .running, progress := s.m.tick.count } ∧ m =
      { s.m with fns := m.fns }) ∧
  (∀ (s : State) (i : ItemRef) (x : Item) (p : Nat), TestAt s.m i x p opSelftest 0x0020 → testTarget x < 64 → unitInUse
      s.m 1 (testTarget x) = false → heldOff s.m (2616 + testTarget x / 4) = false → ∃ m, exec (.leyMarch i) s = .next
      { s with m := m } ∧ findItem m i = some { x with st := .running, progress := s.m.tick.count } ∧ m =
      { s.m with fns := m.fns }) ∧
  (∀ (s : State) (i : ItemRef) (x : Item) (p : Nat), TestAt s.m i x p opSelftest 0x0040 → testTarget x < 4 → unitInUse
      s.m 2 (testTarget x) = false → heldOff s.m (2632 + testTarget x) = false → ∃ m, exec (.heathPort i) s = .next
      { s with m := m } ∧ findItem m i = some { x with st := .running, progress := s.m.tick.count } ∧ m =
      { s.m with fns := m.fns }) ∧
  (∀ (s : State) (i : ItemRef) (x : Item) (p : Nat), TestAt s.m i x p opSelftest 0x0040 → 4 ≤ testTarget x → ∃ m, exec
      (.heathPort i) s = .next { s with m := m } ∧ (if i.fn = 0 then Finished s.m m i x .rejFormat (.val 0x1C) none else
      Finished s.m m i x .rejState (.val 0) none) ∧ m = { s.m with fns := m.fns }) ∧
  (∀ (s : State) (i : ItemRef) (x : Item) (p : Nat), TestAt s.m i x p opSelftest 0x0030 → testTarget x < 12 → (jobsOn s.m
      (ownCoord s.m) (testTarget x)).all (fun q => (s.m.part q).regs.drained) = true → heldOff s.m (2637 + testTarget x) =
      false → ∃ m, exec (.linkLoopback i) s = .next { s with m := m } ∧ findItem m i = some
      { x with st := .running, progress := s.m.tick.count } ∧ m = { s.m with fns := m.fns }) ∧
  (∀ (s : State) (i : ItemRef) (x : Item) (p : Nat), TestAt s.m i x p opCalibrate 0x0002 → testTarget x < 12 → (jobsOn
      s.m (ownCoord s.m) (testTarget x)).all (fun q => (s.m.part q).regs.drained) = true → heldOff s.m (2637 + testTarget
      x) = false → ∃ m, exec (.fabricLanes i) s = .next { s with m := m } ∧ findItem m i = some
      { x with st := .running, progress := s.m.tick.count } ∧ m = { s.m with fns := m.fns }) ∧
  (∀ (s : State) (i : ItemRef) (x : Item) (p : Nat), TestAt s.m i x p opCalibrate 0x0001 → testTarget x < 16 ∨ testTarget
      x = 0xFFFF → ∃ m, exec (.leyPhy i) s = .next { s with m := m } ∧ findItem m i = some
      { x with st := .running, progress := s.m.tick.count } ∧ m.tick =
      { s.m.tick with due := s.m.tick.due ++ [.leyPhy i] } ∧ m = { s.m with tick := m.tick, fns := m.fns }) ∧
  (∀ (s : State) (i : ItemRef) (x : Item) (p : Nat), TestAt s.m i x p opCalibrate 0x0003 → testTarget x = 0 → ∃ m, exec
      (.sensors i) s = .next { s with m := m } ∧ findItem m i = some { x with st := .running, progress := s.m.tick.count }
      ∧ m = { s.m with fns := m.fns }) ∧
  (∀ (s : State) (i : ItemRef) (failed : List Nat) (x : Item) (p : Nat), ItemAt s.m i x p opSelftest .running →
      failed.all coreOk = true → testCode x = 0x0002 → testTarget x < 2560 → dfield x.desc 0x20 8 = 0 → s.m.live
      (testTarget x) = false → failed.contains (testTarget x) = false → ∃ m, exec (.testComplete i failed) s = .next
      { s with m := m } ∧ m.live (testTarget x) = true ∧ (∀ c, c ≠ testTarget x → m.live c = s.m.live c) ∧ m.ras.liveCount
      = s.m.ras.liveCount + 1 ∧ testTarget x ∉ m.flash.fences ∧ (m.core (testTarget x)).halted = false ∧ Finished s.m m i
      x .done (.val 0) none ∧ m =
      { s.m with flash := m.flash, ras := m.ras, fns := m.fns, clusters := m.clusters, cores := m.cores }) ∧
  (∀ (s : State) (i : ItemRef) (failed : List Nat) (x : Item) (p : Nat), ItemAt s.m i x p opSelftest .running →
      failed.all coreOk = true → testCode x = 0x0002 → testTarget x < 2560 → dfield x.desc 0x20 8 = 0 → s.m.live
      (testTarget x) = false → failed.contains (testTarget x) = true → ∃ m, exec (.testComplete i failed) s = .next
      { s with m := m } ∧ m.power =
      { s.m.power with domains := s.m.power.domains &&& ~~~(BitVec.twoPow 2662 (testTarget x)) } ∧ Finished s.m m i x
      .done (.val 1) none ∧ m = { s.m with power := m.power, fns := m.fns }) ∧
  (∀ (s : State) (i : ItemRef) (failed : List Nat) (x : Item) (p : Nat), ItemAt s.m i x p opCalibrate .running →
      failed.all coreOk = true → testCode x = 0x0003 → dfield x.desc 0x20 8 = 0 → ∃ m, exec (.testComplete i failed) s =
      .next { s with m := m } ∧ Finished s.m m i x .done (.val (min failed.length 1)) none ∧ m = { s.m with fns := m.fns })

/-- Links, sync words and the slice's tick. A trained link is in CHECK with the neighbour it found, and a word that measures its
delay takes it UP, or to MISWIRED or LONG; a link that goes DOWN counts it; RETRAIN starts a DOWN link unless an open job uses
it. The manager arms the next boundary; a module whose next boundary is not armed stops, its counter holds, and a fall of the
clock that is due is made at once; a standby manager that has stopped takes over with the next epoch. Sync words leave on
links in CHECK or UP with the newest state held (R361, R364, R367 to R373). LINK_TRAINED, LINK_DOWN, RETRAIN, SYNC_WORD_SEND,
SYNC_WORD_RECEIVE, BOUNDARY_ARM, SYNC_STOP and TAKEOVER complete with their own effect on the conditions that each clause puts
on the state and the operands alone. -/
def Obligations.FabricLinks : Prop :=
  (∀ (s : State) (link slice : Nat) (coord : Coord) (peer delay : Nat), linkOk link = true → linkOk peer = true →
      (s.m.link link).st = .train → s.m.power.domains.getLsbD (2637 + link) = true → ∃ m, exec (.linkTrained link slice
      coord peer delay) s = .next { s with m := m } ∧ m.link link =
      { s.m.link link with st := .check, peer := some (slice, coord, peer), delay := min delay 65535, rxSeq := 0, txSeq := 0,
                           replayBuf := [], replays := 0, waiting := [], echo := 0, echoRx := 0 }
      ∧ (∀ l, l ≠ link → m.link l = s.m.link l) ∧ m = { s.m with fabric := m.fabric }) ∧
  (∀ (s : State) (link cause : Nat), linkOk link = true → (s.m.link link).st = .up ∨ (s.m.link link).st = .check ∨
      (s.m.link link).st = .train → ∃ m, exec (.linkDown link cause) s = .next { s with m := m } ∧ (m.link link).st =
      .down ∧ (m.link link).downs = satAdd (s.m.link link).downs 1 ∧ (∀ l, l ≠ link → (m.link l).st = (s.m.link l).st) ∧ m
      =
      { s.m with start := m.start, ras := m.ras, fns := m.fns, parts := m.parts, fabParts := m.fabParts, slots := m.slots,
                 clusters := m.clusters, cores := m.cores, nodes := m.nodes, hedgeOut := m.hedgeOut, fabric := m.fabric,
                   xfers := m.xfers, netOut := m.netOut, freeCtr := m.freeCtr }) ∧
  (∀ (s : State) (value : Word), WriteActs s.m 0 blkFab 8 → value.getLsbD 0 = true → (s.m.fn 0).sel.link < 12 → jobsOn
      s.m (ownCoord s.m) (s.m.fn 0).sel.link = [] → (s.m.link (s.m.fn 0).sel.link).st = .down → ∃ m, exec (.retrain 0
      value) s = .next { s with m := m } ∧ m.link (s.m.fn 0).sel.link = { s.m.link (s.m.fn 0).sel.link with st := .train }
      ∧ (∀ l, l ≠ (s.m.fn 0).sel.link → m.link l = s.m.link l) ∧ m = { s.m with fabric := m.fabric }) ∧
  (∀ (s : State) (value : Word), WriteActs s.m 0 blkFab 8 → value.getLsbD 0 = true → (s.m.fn 0).sel.link < 12 → jobsOn
      s.m (ownCoord s.m) (s.m.fn 0).sel.link ≠ [] → ∃ m, exec (.retrain 0 value) s = .next { s with m := m } ∧ m.fabric =
      { s.m.fabric with badWrite := true } ∧ Raised s.m m 0x0106 255 [barOff blkFab 8, 0] ∧ m =
      { s.m with start := m.start, fns := m.fns, fabric := m.fabric }) ∧
  (∀ (s : State) (link : Nat) (fwd : Bool), linkOk link = true → (s.m.link link).st = .check ∨ (s.m.link link).st = .up →
      ∃ m w, exec (.syncWordSend link fwd) s = .next { s with m := m } ∧ m.netOut = .syncWord link w :: s.m.netOut ∧
      (w.fwd = true ↔ fwd = true ∨ s.m.tick.role = .manager) ∧ (w.parent = true ↔ parentLink s.m = some link) ∧ w.coord =
      ownCoord s.m ∧ w.link = link ∧ w.mgr = s.m.fabric.follow ∧ w.epoch = s.m.fabric.mgrEpoch ∧ w.hops = s.m.fabric.hops
      ∧ w.takeover = s.m.fabric.takeover ∧ w.boundary = s.m.tick.count ∧ w.boundaryNs = onTimeBase s.m (nextBoundaryNs s.m
      - s.m.tick.period) ∧ w.armed = s.m.tick.armed ∧ w.period = s.m.tick.period ∧ w.nextPeriod = (s.m.fabric.announce.map
      (·.1)).getD 0 ∧ w.nextFrom = (s.m.fabric.announce.map (·.2)).getD 0 ∧ w.echo = (s.m.link link).echo ∧ w.tx = 65536 *
      onTimeBase s.m s.m.tick.ns ∧ m = { s.m with netOut := m.netOut }) ∧
  (∀ (s : State) (link : Nat) (w : SyncWord) (sl : SliceRec), linkOk link = true → s.m.fabric.slice = some sl → (s.m.link
      link).st = .check → w.echo ≠ 0 → ∃ m, exec (.syncWordReceive link w) s = .next { s with m := m } ∧ (m.link
      link).peer = some (w.slice, w.coord, w.link) ∧ (m.link link).st = (if w.slice = sl.slice ∧ w.coord = neighbour
      sl.dim sl.at_ (linkDir sl.mode3 link).1 (linkDir sl.mode3 link).2.1 ∧ w.link = (dirLinks sl.mode3 (linkDir sl.mode3
      link).1 (!(linkDir sl.mode3 link).2.1)).getD (linkDir sl.mode3 link).2.2 0 then (if fix500 < (((w.rx : Int) -
      w.echo) - (w.resid : Int) * 256) / 2 then .long else .up) else .miswired)) ∧
  (∀ (s : State), s.m.tick.role = .manager → s.m.tick.sync = .locked → exec .boundaryArm s = .next
      { s with m := s.m.setTick fun t => { t with
                 ns := max t.ns (nextBoundaryNs s.m - 32000), armed := max t.armed (t.count + 1) } }) ∧
  (∀ (s : State), s.m.tick.role ≠ .manager ∨ s.m.tick.sync ≠ .locked → exec .boundaryArm s = .next s) ∧
  (∀ (s : State), s.m.tick.sync = .acquire ∨ s.m.tick.sync = .locked → s.m.tick.armed < s.m.tick.count + 1 →
      s.m.tick.due.contains .safeFall = false → ∃ m, exec .syncStop s = .next { s with m := m } ∧ m.tick =
      { s.m.tick with ns := max s.m.tick.ns (nextBoundaryNs s.m - 4000), sync := .stopped, goodWords := 0, wasStopped := true }
      ∧ (s.m.tick.sync = .locked → Raised s.m m 0x0103 255 [3, 0]) ∧ (s.m.tick.sync = .acquire → m.start = s.m.start ∧
      m.fns = s.m.fns ∧ m.nodes = s.m.nodes ∧ m.hedgeOut = s.m.hedgeOut) ∧ m =
      { s.m with tick := m.tick, start := m.start, fns := m.fns, nodes := m.nodes, hedgeOut := m.hedgeOut }) ∧
  (∀ (s : State), s.m.tick.sync = .acquire ∨ s.m.tick.sync = .locked → s.m.tick.armed < s.m.tick.count + 1 →
      s.m.tick.due.contains .safeFall = true → ∃ m, exec .syncStop s = .next { s with m := m } ∧ m.tick.sync = .stopped ∧
      m.tick.due = s.m.tick.due.erase .safeFall ∧ m.power = { s.m.power with setPoint := 0 } ∧ m =
      { s.m with tick := m.tick, start := m.start, power := m.power, fns := m.fns, parts := m.parts, nodes := m.nodes,
                 hedgeOut := m.hedgeOut }) ∧
  (∀ (s : State), s.m.tick.role = .standby → s.m.tick.sync = .stopped → (upLinks s.m).isEmpty = false → ∃ m, exec
      .takeover s = .next { s with m := m } ∧ m.tick.role = .manager ∧ m.tick.sync = .locked ∧ m.tick.armed = max
      s.m.tick.armed (s.m.tick.count + 1) ∧ m.tick.nextAt = some (max (s.m.tick.boundaryNs + 3 * s.m.tick.period)
      (m.tick.ns + 32000)) ∧ m.fabric.mgrEpoch = (s.m.fabric.mgrEpoch + 1) % 65536 ∧ m.fabric.follow = ownCoord s.m ∧
      m.fabric.takeover = true ∧ (m.sb.out.getLast?.map (·.rtype)) = some 0x83 ∧ Raised s.m m 0x0508 255
      [0, (s.m.fabric.mgrEpoch + 1) % 65536] ∧ m =
      { s.m with tick := m.tick, start := m.start, power := m.power, fns := m.fns, nodes := m.nodes, hedgeOut := m.hedgeOut,
                 fabric := m.fabric, netOut := m.netOut, sb := m.sb })

/-- Jobs of several modules. A write of FAB_JOB with EN opens a job whose rank map names this module, and refuses another identity
while it is open. The first copy of an order from an UP link is recorded and acts: a ramp order is held for its boundary, a
stop order stops the jobs it names, a replay order abandons the step it names until its boundary. A frame that fails its check
is counted and dropped, one in sequence is taken; one for no open job is discarded and counted. A transfer whose turn has come
is issued, or counts a wait; when everything has landed it is done and counted (R358 to R360, R374, R375, R379 to R382, R386,
R420, R455, R456). FAB_JOB_EN, RAMP_ORDER, JOB_STOP_ORDER, REPLAY_ORDER, FRAME_RECEIVE, TRANSFER_ISSUE and TRANSFER_COMPLETE
complete with their own effect on the conditions that each clause puts on the state and the operands alone. -/
def Obligations.FabricJobs : Prop :=
  (∀ (s : State) (fn : Nat) (value : Word), WriteActs s.m fn blkFab 0x104 → (s.m.fab (selPart s.m fn blkFab)).en = false
      → value.getLsbD 0 = true → bits value.toNat 16 16 ≠ 0 → (s.m.part (selPart s.m fn blkFab)).runs = [] → mapOk s.m
      (selPart s.m fn blkFab) = true → ∃ m, exec (.fabJobEn fn value) s = .next { s with m := m } ∧ m.fab (selPart s.m fn
      blkFab) =
      { s.m.fab (selPart s.m fn blkFab) with
        job := bits value.toNat 16 16, gen := bits value.toNat 8 8, fwd := value.getLsbD 1, en := true,
          map := rankMap s.m (selPart s.m fn blkFab), halted := false }
      ∧ (∀ p, p ≠ selPart s.m fn blkFab → m.fab p = s.m.fab p) ∧ m.parts = (noteRead s.m (selPart s.m fn blkFab) (s.m.fab
      (selPart s.m fn blkFab)).mapAddr (4 * (s.m.fab (selPart s.m fn blkFab)).nranks)).parts ∧ m =
      { s.m with parts := m.parts, fabParts := m.fabParts }) ∧
  (∀ (s : State) (fn : Nat) (value : Word), WriteActs s.m fn blkFab 0x104 → (s.m.fab (selPart s.m fn blkFab)).en = true →
      bits value.toNat 16 16 ≠ (s.m.fab (selPart s.m fn blkFab)).job → ∃ m, exec (.fabJobEn fn value) s = .next
      { s with m := m } ∧ m.fab (selPart s.m fn blkFab) = { s.m.fab (selPart s.m fn blkFab) with badWrite := true } ∧
      Raised s.m m 0x0106 (selPart s.m fn blkFab) [barOff blkFab 0x104, 0] ∧ m =
      { s.m with start := m.start, fns := m.fns, fabParts := m.fabParts }) ∧
  (∀ (s : State) (link : Nat) (origin : Coord) (oseq slope boundary : Nat), linkOk link = true → (s.m.link link).st = .up
      → s.m.fabric.seen.contains (origin, oseq) = false → ∃ m, exec (.rampOrder link origin oseq slope boundary) s = .next
      { s with m := m } ∧ m.power = { s.m.power with rampOrder := some ⟨slope, boundary⟩ } ∧ m.fabric.seen = (origin,
      oseq) :: s.m.fabric.seen ∧ (∀ l, (m.link l).st = (s.m.link l).st) ∧ m =
      { s.m with power := m.power, fabric := m.fabric, netOut := m.netOut }) ∧
  (∀ (s : State) (link : Nat) (origin : Coord) (oseq slope boundary : Nat), linkOk link = true → (s.m.link link).st ≠ .up
      ∨ s.m.fabric.seen.contains (origin, oseq) = true → exec (.rampOrder link origin oseq slope boundary) s = .next s) ∧
  (∀ (s : State) (link : Nat) (origin : Coord) (oseq job gen core : Nat), linkOk link = true → coreOk core = true →
      (s.m.link link).st = .up → s.m.fabric.seen.contains (origin, oseq) = false → ∃ m, exec (.jobStopOrder link origin
      oseq none job gen core) s = .next { s with m := m } ∧ (∀ p, p ∈ jobParts s.m job gen → (m.fab p).halted = true ∧
      (m.fab p).stopped = true) ∧ (∀ p, p ∉ jobParts s.m job gen → m.fab p =
      { s.m.fab p with fwdReady := (m.fab p).fwdReady }) ∧ m.fabric.seen = (origin, oseq) :: s.m.fabric.seen) ∧
  (∀ (s : State) (job gen model step boundary p : Nat) (rs : List RunStep), jobParts s.m job gen = [p] → (s.m.fab
      p).halted = false → (s.m.part p).replay = none → stepNamed s.m p model step = some rs → ∃ m, exec (.replayOrder job
      gen model step boundary) s = .next { s with m := m } ∧ (m.part p).replay = some
      { runs := rs, core := 0xFFFF, at? := some boundary, waitRanks := true } ∧ (m.part p).results = [] ∧ (m.part p).step
      = none ∧ (m.part p).range = (s.m.part p).range) ∧
  (∀ (s : State) (link : Nat) (frame : Frame), linkOk link = true → (s.m.link link).st = .up → exec (.frameReceive link
      frame false) s = .next { s with m := s.m.setLink link fun k => { k with fecUncorr := satAdd k.fecUncorr 1 } }) ∧
  (∀ (s : State) (link : Nat) (frame : Frame) (origin : Coord) (oseq slope boundary : Nat), linkOk link = true →
      (s.m.link link).st = .up → frame.body = .hedge origin oseq 2 [slope, boundary] → frame.seq = (s.m.link link).rxSeq →
      s.m.fabric.seen.contains (origin, oseq) = false → ∃ m, exec (.frameReceive link frame true) s = .next
      { s with m := m } ∧ (m.link link).rxSeq = ((s.m.link link).rxSeq + 1) % 4096 ∧ m.power.rampOrder = some
      ⟨slope, boundary⟩ ∧ m.fabric.seen = (origin, oseq) :: s.m.fabric.seen ∧ m =
      { s.m with power := m.power, fabric := m.fabric, netOut := m.netOut }) ∧
  (∀ (s : State) (link : Nat) (frame : Frame) (origin : Coord) (oseq cls : Nat) (payload : List Nat), linkOk link = true
      → (s.m.link link).st = .up → frame.body = .hedge origin oseq cls payload → frame.seq ≠ (s.m.link link).rxSeq → ∃ m,
      exec (.frameReceive link frame true) s = .next { s with m := m } ∧ m.link link =
      { s.m.link link with replayBuf := (m.link link).replayBuf, replays := (m.link link).replays,
                           txSeq := (m.link link).txSeq, waiting := (m.link link).waiting }
      ∧ (∀ l, l ≠ link → m.link l = s.m.link l) ∧ m.fabric = { s.m.fabric with links := m.fabric.links } ∧ m =
      { s.m with fabric := m.fabric, netOut := m.netOut }) ∧
  (∀ (s : State) (link p : Nat) (frame : Frame) (job gen chan lane place src off : Nat) (shape : List Nat) (bs : List
      Byte) (last : Bool), linkOk link = true → (s.m.link link).st = .up → frame.body = .data job gen chan (ownCoord s.m)
      lane place shape src off bs last → frame.seq = (s.m.link link).rxSeq → jobParts s.m job gen = [] →
      s.m.fabParts.keys.find? (fun q => (s.m.fab q).job == job) = some p → ∃ m, exec (.frameReceive link frame true) s =
      .next { s with m := m } ∧ (m.link link).rxSeq = ((s.m.link link).rxSeq + 1) % 4096 ∧ m.fab p =
      { s.m.fab p with discard := satAdd (s.m.fab p).discard 1 } ∧ (∀ q, q ≠ p → m.fab q = s.m.fab q) ∧ m =
      { s.m with fabParts := m.fabParts, fabric := m.fabric, netOut := m.netOut }) ∧
  (∀ (s : State) (part prog idx : Nat) (w : Swath) (d : XfDesc), partOk part = true → swathOf s.m part prog = some w →
      descOf s.m part prog idx = some d → d.op = 1 → mayIssue s.m part prog idx w d = true → ((s.m.fab part).rank +
      d.shift) % (s.m.fab part).nranks ≠ (s.m.fab part).rank → regEmpty s.m part 3 = false → tierWaits s.m part d.send
      d.slot = false → d.send + d.slot ≤ rangeEnd s.m part → poisonedIn s.m part d.send d.slot = none → ∃ m, exec
      (.transferIssue part prog idx) s = .next { s with m := m } ∧ (xferOf m part prog idx).issued = true ∧ (m.part
      part).range = (s.m.part part).range ∧ m =
      { s.m with parts := m.parts, fabParts := m.fabParts, fabric := m.fabric, xfers := m.xfers, netOut := m.netOut,
                 freeCtr := m.freeCtr }) ∧
  (∀ (s : State) (part prog idx : Nat) (w : Swath) (d : XfDesc), partOk part = true → swathOf s.m part prog = some w →
      descOf s.m part prog idx = some d → mayIssue s.m part prog idx w d = true → regEmpty s.m part 3 = true → exec
      (.transferIssue part prog idx) s = .next
      { s with m := s.m.setRegs part fun r => { r with waitFab := satAdd r.waitFab 1 } }) ∧
  (∀ (s : State) (part prog idx : Nat) (w : Swath) (d : XfDesc), partOk part = true → swathOf s.m part prog = some w →
      descOf s.m part prog idx = some d → (xferOf s.m part prog idx).done = false → (xferOf s.m part prog idx).issued =
      true → allLanded (s.m.fab part) d (xferOf s.m part prog idx) = true → (modelRuns s.m part w).isSome = true → d.rxQ =
      0xFF → ∃ m, exec (.transferComplete part prog idx) s = .next { s with m := m } ∧ (xferOf m part prog idx).done =
      true ∧ m.fab part = { s.m.fab part with xfer := satAdd (s.m.fab part).xfer 1 } ∧ m =
      { s.m with fabParts := m.fabParts, xfers := m.xfers })

/-- A tick boundary, the reserve and its work. An armed boundary advances the counter by one, at the later of now and its due
time, clears what was staged, ends the reserve and the mark of a stop, and the replicas of both nodes of every die follow; a
partition without a step is charged the engine time of the tick by its share. A boundary that is not armed, or on a module
that raises none or has lost the tick's die, changes nothing. The reserve begins once a tick, at the end of the budget, and
runs the work that fits; calibration that falls due waits for it, or, while no boundary is raised, for no step; within a
second of a calibration that the timer made due a further one is that of a temperature step (log 69). TICK_BOUNDARY,
RESERVE_START, LEY_CALIBRATION_DUE and DEFERRED_RESERVE_WORK complete with their own effect (R32, R34, R36, R45 to R48, R342,
R371, R514). -/
def Obligations.Boundaries : Prop :=
  (∀ (s : State), noBoundary s.m = false → s.m.tick.count + 1 ≤ s.m.tick.armed → s.m.ras.lostDies.contains 17 = false → ∃
      m, exec .tickBoundary s = .next { s with m := m } ∧ m.tick.count = s.m.tick.count + 1 ∧ m.tick.ns = max s.m.tick.ns
      (nextBoundaryNs s.m) ∧ m.tick.boundaryNs = max s.m.tick.ns (nextBoundaryNs s.m) ∧ m.tick.inReserve = false ∧
      m.tick.wasStopped = false ∧ m.tick.staged = {} ∧ m.tick.nextAt = none ∧ (∀ v, s.m.tick.nextPeriod = some v →
      m.tick.period = v) ∧ (∀ d, d < 18 → (s.m.nodes.get d).planes ≠ .lost → (m.nodes.get d).replica = (if (s.m.nodes.get
      d).reload.isSome = true then s.m.tick.count + 1 else (s.m.nodes.get d).replica + 1) ∧ (m.nodes.get d).replicaB = (if
      (s.m.nodes.get d).reloadB.isSome = true then s.m.tick.count + 1 else (s.m.nodes.get d).replicaB + 1)) ∧ m =
      { s.m with tick := m.tick, start := m.start, power := m.power, fw := m.fw, flash := m.flash, ras := m.ras,
                 mem := m.mem, fns := m.fns, parts := m.parts, fabParts := m.fabParts, slots := m.slots,
                   clusters := m.clusters, cores := m.cores, nodes := m.nodes, barriers := m.barriers,
                     hedgeOut := m.hedgeOut, hostOut := m.hostOut, fabric := m.fabric, xfers := m.xfers, netOut := m.netOut,
                       freeCtr := m.freeCtr }) ∧
  (∀ (s : State), noBoundary s.m = true ∨ s.m.tick.armed < s.m.tick.count + 1 ∨ s.m.ras.lostDies.contains 17 = true →
      exec .tickBoundary s = .next s) ∧
  (∀ (s : State) (p : Nat), noBoundary s.m = false → s.m.tick.count + 1 ≤ s.m.tick.armed → s.m.ras.lostDies.contains 17 =
      false → p ∈ s.m.parts.keys → (s.m.part p).step = none → ∃ m, exec .tickBoundary s = .next { s with m := m } ∧
      (m.part p).regs.engineCc = ((s.m.part p).regs.engineCc + (s.m.part p).regs.tickCc) % 2 ^ 64 ∧ (m.part p).regs.vtime
      = ((s.m.part p).regs.vtime + (s.m.part p).regs.tickCc * 65536 / (s.m.part p).regs.share) % 2 ^ 64 ∧ (m.part
      p).regs.tickCc = 0) ∧
  (∀ (s : State) (b : Bool), noBoundary s.m = false → s.m.tick.inReserve = false → s.m.tick.due = [.leyCal b] → 2000 ≤
      s.m.tick.period - s.m.tick.period * (100 - s.m.tick.pct) / 100 → ∃ m, exec .reserveStart s = .next { s with m := m }
      ∧ m.tick =
      { s.m.tick with inReserve := true,
                      ns := max s.m.tick.ns (s.m.tick.boundaryNs + s.m.tick.period * (100 - s.m.tick.pct) / 100), due := [] }
      ∧ (s.m.start.ready = false → m.fns = s.m.fns ∧ m.hostOut = s.m.hostOut) ∧ m =
      { s.m with tick := m.tick, fns := m.fns, hostOut := m.hostOut }) ∧
  (∀ (s : State), noBoundary s.m = true ∨ s.m.tick.inReserve = true → exec .reserveStart s = .next s) ∧
  (∀ (s : State), s.m.power.dark = false → s.m.start.tripped = false → exec .leyCalibrationDue s = .next
      { s with m := s.m.setTick fun t => { t with
                 due := t.due ++ [.leyCal (t.lastCalNs.any fun x => decide (t.ns < x + 1000000000))],
                   lastCalNs := if (t.lastCalNs.any fun x => decide (t.ns < x + 1000000000)) = true then t.lastCalNs else
                     some t.ns } }) ∧
  (∀ (s : State) (b : Bool), noBoundary s.m = true → s.m.tick.due = [.leyCal b] → s.m.parts.keys.all (fun p =>
      (runningStep s.m p).isNone) = true → exec .deferredReserveWork s = .next
      { s with m := s.m.setTick fun t => { t with due := [], workEnds := max t.workEnds (t.ns + 2000) } })

/-- The seal, the end of a step, switches and results. On a LOCKED module with the next boundary armed the scheduler seals once,
5,000 ns before it: the boundary is marked sealed, and a hold when reserve work does not fit. With both feeds bad the seal is
counted and nothing sealed; with the scheduler absent only the instant comes. A step whose runs have drained ends, its cores
release their planes and its results wait. A core that switches is the partition's. A processed decode result appends its
token, moves the watermark, writes the token to the output buffer and posts a record (R46, R47, R200 to R202, R264 to R271,
R346, R402, R412). SEAL_LAUNCH_SET, STEP_FINISH, SWITCH_COMPLETE and STEP_RESULTS_PROCESS complete with their own effect on
the conditions that each clause puts on the state and the operands alone. -/
def Obligations.SealsAndSteps : Prop :=
  (∀ (s : State), s.m.start.ready = true → s.m.start.startFail = false → s.m.tick.sync = .locked → s.m.tick.count + 1 ≤
      s.m.tick.armed → s.m.tick.sealedFor ≠ some (s.m.tick.count + 1) → s.m.power.loss = .none → (s.m.proc 0).st =
      .running → ∃ m, exec .sealLaunchSet s = .next { s with m := m } ∧ m.tick =
      { s.m.tick with ns := max s.m.tick.ns (nextBoundaryNs s.m - 5000), sealedFor := some (s.m.tick.count + 1),
                      holdNext := holdDue s.m }
      ∧ (holdDue s.m = true → ∀ p, p ∈ s.m.parts.keys → (m.part p).sealedSet = none) ∧ m =
      { s.m with tick := m.tick, start := m.start, power := m.power, fw := m.fw, mem := m.mem, fns := m.fns,
                 parts := m.parts, fabParts := m.fabParts, slots := m.slots, clusters := m.clusters, nodes := m.nodes,
                   hedgeOut := m.hedgeOut, freeCtr := m.freeCtr }) ∧
  (∀ (s : State), s.m.start.ready = true → s.m.start.startFail = false → s.m.tick.sync = .locked → s.m.tick.count + 1 ≤
      s.m.tick.armed → s.m.tick.sealedFor ≠ some (s.m.tick.count + 1) → s.m.power.loss ≠ .none ∨ (s.m.proc 0).st ≠
      .running → ∃ m, exec .sealLaunchSet s = .next { s with m := m } ∧ m.tick =
      { s.m.tick with ns := max s.m.tick.ns (nextBoundaryNs s.m - 5000) } ∧ m.power = (if s.m.power.loss = .bad then
      { s.m.power with lossSeals := s.m.power.lossSeals + 1 } else s.m.power) ∧ m =
      { s.m with tick := m.tick, power := m.power }) ∧
  (∀ (s : State) (part : Nat) (t : PartStep), partOk part = true → runningStep s.m part = some t → t.runs.all (runDone
      s.m part) = true → t.switching = [] → ∃ m, exec (.stepFinish part) s = .next { s with m := m } ∧ (m.part part).step
      = none ∧ (m.part part).results = (s.m.part part).results ++ (t.runs.filter fun r => !r.entries.isEmpty) ∧
      m.ras.replayCnt.get part = 0 ∧ (∀ c, c ∈ t.cores → (m.core c).drained = false ∧ ∀ k, ((m.core c).planes.get k).st ≠
      .active) ∧ m =
      { s.m with tick := m.tick, start := m.start, ras := m.ras, fns := m.fns, parts := m.parts, fabParts := m.fabParts,
                 clusters := m.clusters, cores := m.cores, nodes := m.nodes, hedgeOut := m.hedgeOut, freeCtr := m.freeCtr }) ∧
  (∀ (s : State) (part : Nat), partOk part = true → runningStep s.m part = none → exec (.stepFinish part) s = .next s) ∧
  (∀ (s : State) (core part : Nat) (t : PartStep), coreOk core = true → partOk part = true → (s.m.part part).step = some
      t → t.switching.contains core = true → (s.m.core core).lastPart = none → ∃ m, exec (.switchComplete core part) s =
      .next { s with m := m } ∧ (m.core core).lastPart = some part ∧ (m.core core).halted = false ∧ ((m.part
      part).step.map (·.switching)) = some (t.switching.filter (· ≠ core)) ∧ ((m.part part).step.map (·.cores)) = some
      (t.cores ++ [core]) ∧ (∀ c, c ≠ core → m.core c = s.m.core c) ∧ m =
      { s.m with ras := m.ras, parts := m.parts, clusters := m.clusters, cores := m.cores }) ∧
  (∀ (s : State) (part t : Nat) (rs : RunStep) (e : SetEntry) (q : Request) (v : Serving), partOk part = true → (s.m.part
      part).results = [rs] → (s.m.proc 0).st = .running → regEmpty s.m part 4 = false → rs.entries = [e] → s.m.slots.get
      e.slot = some q → q.st = .running → q.part = part → q.aborted = false → q.orphan = false → q.model = rs.model →
      q.srv = some v → e.kind = 1 → q.prefixPin = 0 → q.pauseDue = false → (s.m.fn q.fn).resetting = false → entryOk e
      (resultEntry s.m part v rs.index 0) = true → (resultEntry s.m part v rs.index 0).tokens = [t] → (resultEntry s.m
      part v rs.index 0).noToken = false → (resultEntry s.m part v rs.index 0).final = false → stopReason v q
      (q.generated.length + 1) (q.prompt.length + q.generated.length) t = none → ∃ m q', exec (.stepResultsProcess part) s
      = .next { s with m := m } ∧ m.slots.get e.slot = some q' ∧ q'.generated = q.generated ++ [t] ∧ q'.main.mark =
      e.firstPos + e.npos ∧ q'.main.prov = [] ∧ q'.inStep = none ∧ q'.st = .running ∧ m.hostOut = .bytes (q.outAddr + 4 *
      q.generated.length) (leBytes t 4) :: s.m.hostOut ∧ ((m.ring q.fn q.ring).waiting.getLast?.map fun w => (w.ref,
      w.status, w.terminal, w.detail)) = some (q.item, .done, false, .val 1) ∧ (m.part part).results = [] ∧ (∀ k, k ≠
      e.slot → m.slots.get k = s.m.slots.get k))

/-- Tick check words, halt and fence orders, error events and firmware messages. Each of a die's two nodes compares the tick
message with its replica while its plane serves: one that differs raises 0x0105 and loads the number at the next boundary;
where both agree, or the die is lost, nothing changes. A pre-emption order halts its core in place, a fence or abort order
stops it: its run number advances and its queues are empty. An error event is one class 3 message on both planes under its
source's next sequence number with the overflow count, or, within 100 ns of the last, one more coalesced event. A firmware
message of class 4 goes out at most every 100 ns. A second copy of a message is never taken. TICK_MESSAGE, HALT_FENCE_ORDER,
ERROR_EVENT_MESSAGE and FIRMWARE_CONTROL_MESSAGE complete with their own effect (R25, R26, R27, R31, R32). -/
def Obligations.Hedgerow : Prop :=
  (∀ (s : State) (die tick : Nat), dieOk die = true → ∃ m, exec (.tickMessage die tick) s = .next { s with m := m } ∧
      (m.nodes.get die).reload = (if ((s.m.nodes.get die).planes = .both ∨ (s.m.nodes.get die).planes = .onlyA) ∧
      (s.m.nodes.get die).replica ≠ tick then some tick else (s.m.nodes.get die).reload) ∧ (m.nodes.get die).reloadB = (if
      ((s.m.nodes.get die).planes = .both ∨ (s.m.nodes.get die).planes = .onlyB) ∧ (s.m.nodes.get die).replicaB ≠ tick
      then some tick else (s.m.nodes.get die).reloadB) ∧ (m.nodes.get die).replica = (s.m.nodes.get die).replica ∧
      (m.nodes.get die).replicaB = (s.m.nodes.get die).replicaB ∧ (m.nodes.get die).planes = (s.m.nodes.get die).planes ∧
      (∀ d, d ≠ die → m.nodes.get d = s.m.nodes.get d) ∧ m =
      { s.m with start := m.start, fns := m.fns, nodes := m.nodes, hedgeOut := m.hedgeOut }) ∧
  (∀ (s : State) (die tick : Nat), dieOk die = true → (s.m.nodes.get die).planes = .both ∨ (s.m.nodes.get die).planes =
      .onlyA → (s.m.nodes.get die).replica ≠ tick → (s.m.nodes.get die).replicaB = tick ∨ (s.m.nodes.get die).planes =
      .onlyA → ∃ m, exec (.tickMessage die tick) s = .next { s with m := m } ∧ (m.nodes.get die).reload = some tick ∧
      Raised s.m m 0x0105 255 [(s.m.nodes.get die).replica, tick]) ∧
  (∀ (s : State) (die tick : Nat), dieOk die = true → (s.m.nodes.get die).planes = .lost ∨ ((s.m.nodes.get die).replica =
      tick ∧ (s.m.nodes.get die).replicaB = tick) → ∃ m, exec (.tickMessage die tick) s = .next { s with m := m } ∧ (∀ d,
      m.nodes.get d = s.m.nodes.get d) ∧ m = { s.m with nodes := m.nodes }) ∧
  (∀ (s : State) (core : Nat), coreOk core = true → exec (.haltFenceOrder core .preempt) s = .next
      { s with m := s.m.setCore core fun c => { c with halted := true, haltNs := some s.m.tick.ns } }) ∧
  (∀ (s : State) (core : Nat), coreOk core = true → (s.m.core core).outq.wf = true → ∃ m, exec (.haltFenceOrder core
      .stop) s = .next { s with m := m } ∧ (m.core core).halted = true ∧ (m.core core).haltNs = some s.m.tick.ns ∧ (m.core
      core).run = ((s.m.core core).run + 1) % 256 ∧ (m.core core).inq = {} ∧ (m.core core).su = {} ∧ (m.core
      core).ve.handler = none ∧ (m.core core).me = {} ∧ (m.core core).rings = {} ∧ (∀ q, (m.core core).outq.get q =
      { inFlight := ((s.m.core core).outq.get q).inFlight }) ∧ (m.core core).ls = (s.m.core core).ls ∧ (∀ c, c ≠ core →
      m.core c = s.m.core c) ∧ m = { s.m with cores := m.cores }) ∧
  (∀ (s : State) (die code : Nat) (payload : List Nat), dieOk die = true → (s.m.nodes.get die).planes ≠ .lost → within100
      s.m (s.m.nodes.get die).lastErrNs = true → exec (.errorEventMessage die code payload) s = .next
      { s with m := { s.m with nodes := s.m.nodes.upd die fun h => { h with overflow := h.overflow + 1 } } }) ∧
  (∀ (s : State) (die code : Nat) (payload : List Nat), dieOk die = true → (s.m.nodes.get die).planes = .lost → exec
      (.errorEventMessage die code payload) s = .next s) ∧
  (∀ (s : State) (die code : Nat) (payload : List Nat), dieOk die = true → (s.m.nodes.get die).planes ≠ .lost → within100
      s.m (s.m.nodes.get die).lastErrNs = false → ∃ m x, exec (.errorEventMessage die code payload) s = .next
      { s with m := m } ∧ SentOne s.m m die 3 (BitVec.ofNat 96 (code % 65536 + 65536 * (s.m.nodes.get die).overflow)) x ∧
      (m.nodes.get die).lastErrNs = some s.m.tick.ns ∧ (m.nodes.get die).overflow = 0 ∧ (m.nodes.get die).planes =
      (s.m.nodes.get die).planes ∧ (code ≠ 0x0303 → code ≠ 0x0401 → Raised s.m m code 255 payload) ∧ m =
      { s.m with start := m.start, fns := m.fns, nodes := m.nodes, hedgeOut := m.hedgeOut }) ∧
  (∀ (s : State) (proc : Nat) (payload : BitVec 96), procOk proc = true → (s.m.proc proc).st = .running → within100 s.m
      (s.m.proc proc).msgNs = false → (s.m.nodes.get (dieOfProc proc)).planes ≠ .lost → ∃ m x, exec
      (.firmwareControlMessage proc payload) s = .next { s with m := m } ∧ SentOne s.m m (dieOfProc proc) 4 payload x ∧
      m.proc proc = { s.m.proc proc with msgNs := some s.m.tick.ns } ∧ (∀ p, p ≠ proc → m.proc p = s.m.proc p) ∧ m =
      { s.m with fw := m.fw, nodes := m.nodes, hedgeOut := m.hedgeOut }) ∧
  (∀ (s : State) (proc : Nat) (payload : BitVec 96), procOk proc = true → (s.m.proc proc).st ≠ .running ∨ within100 s.m
      (s.m.proc proc).msgNs = true ∨ (s.m.nodes.get (dieOfProc proc)).planes = .lost → exec (.firmwareControlMessage proc
      payload) s = .next s)

/-- Flits, credits, steering, barriers, the stall detector and Lark. A flit of the run in progress joins the tail of its
destination queue, or of its extension while the queue is full or the extension holds flits; without room it stays in flight,
and one of another run is discarded. A returned credit sends a staged flit. Action 0 without a token sends the bundle to the
rule's outbound queue. A drained core marks its arrival at the roots of the planes that serve its die; the last one releases
the barrier and the run's fold is done; after the last fold nothing is activated. A step whose stall count has reached
LARK_STALL_LIMIT, no transfer of it moving, is aborted and recorded; below the limit nothing happens. A sample takes 64 bytes
a core and one header in the Lark ring, or is dropped. FLIT_ARRIVAL, CREDIT_RETURN, EXTENSION_MOVE, SU_HEADER_MATCH,
CORE_DRAINED, BARRIER_ARRIVAL, BARRIER_RELEASE, STALL_CYCLE and LARK_SAMPLE complete with their own effect (R28, R147, R156 to
R158, R165 to R170, R174 to R180, R201, R202). -/
def Obligations.FlitsAndBarriers : Prop :=
  (∀ (s : State) (core : Nat) (queue : BitVec 4) (f : Flit) (r : List Flit), coreOk core = true → (outQ s.m core
      queue.toNat).inFlight = f :: r → f.run ≠ (s.m.core core).run → exec (.flitArrival core queue) s = .next
      { s with m := setOut s.m core queue.toNat fun o => { o with inFlight := r } }) ∧
  (∀ (s : State) (core g : Nat) (queue : BitVec 4) (f : Flit) (r : List Flit), coreOk core = true → (outQ s.m core
      queue.toNat).inFlight = f :: r → f.run = (s.m.core core).run → globalOf s.m core (outBind s.m core
      queue.toNat).destCore = some g → (s.m.core g).run = f.run → (activePlane (s.m.core g)).isSome = true → (inBind s.m g
      (outBind s.m core queue.toNat).destQ).consumer ≠ 5 → (inBind s.m g (outBind s.m core queue.toNat).destQ).consumer ≠
      6 → (inQ s.m g (outBind s.m core queue.toNat).destQ).feed = [] → (inQ s.m g (outBind s.m core
      queue.toNat).destQ).ext = [] → (inQ s.m g (outBind s.m core queue.toNat).destQ).flits.length < 32 → suIdle s.m g =
      true → ∃ m, exec (.flitArrival core queue) s = .next { s with m := m } ∧ outQ m core queue.toNat =
      { outQ s.m core queue.toNat with inFlight := r } ∧ inQ m g (outBind s.m core queue.toNat).destQ =
      { inQ s.m g (outBind s.m core queue.toNat).destQ with flits := (inQ s.m g (outBind s.m core queue.toNat).destQ).flits ++ [f] }
      ∧ (∀ q, q ≠ (outBind s.m core queue.toNat).destQ → inQ m g q = inQ s.m g q) ∧ (m.core g).cnt = (s.m.core g).cnt ∧ (∀
      c, c ≠ core → c ≠ g → m.core c = s.m.core c) ∧ m = { s.m with parts := m.parts, cores := m.cores }) ∧
  (∀ (s : State) (core g : Nat) (queue : BitVec 4) (f : Flit) (r : List Flit), coreOk core = true → (outQ s.m core
      queue.toNat).inFlight = f :: r → f.run = (s.m.core core).run → globalOf s.m core (outBind s.m core
      queue.toNat).destCore = some g → (s.m.core g).run = f.run → (activePlane (s.m.core g)).isSome = true → (inBind s.m g
      (outBind s.m core queue.toNat).destQ).consumer ≠ 5 → (inBind s.m g (outBind s.m core queue.toNat).destQ).consumer ≠
      6 → (inQ s.m g (outBind s.m core queue.toNat).destQ).feed = [] → (inQ s.m g (outBind s.m core
      queue.toNat).destQ).ext ≠ [] ∨ 32 ≤ (inQ s.m g (outBind s.m core queue.toNat).destQ).flits.length → (inQ s.m g
      (outBind s.m core queue.toNat).destQ).ext.length < (inBind s.m g (outBind s.m core queue.toNat).destQ).ext → suIdle
      s.m g = true → ∃ m, exec (.flitArrival core queue) s = .next { s with m := m } ∧ outQ m core queue.toNat =
      { outQ s.m core queue.toNat with inFlight := r } ∧ inQ m g (outBind s.m core queue.toNat).destQ =
      { inQ s.m g (outBind s.m core queue.toNat).destQ with ext := (inQ s.m g (outBind s.m core queue.toNat).destQ).ext ++ [f] }
      ∧ ((s.m.clu (g / 80)).freeze = 0 → (m.core g).cnt.qSpill = satAdd (s.m.core g).cnt.qSpill 1) ∧ (∀ c, c ≠ core → c ≠
      g → m.core c = s.m.core c) ∧ m = { s.m with parts := m.parts, cores := m.cores }) ∧
  (∀ (s : State) (core g : Nat) (queue : BitVec 4) (f : Flit) (r : List Flit), coreOk core = true → (outQ s.m core
      queue.toNat).inFlight = f :: r → f.run = (s.m.core core).run → globalOf s.m core (outBind s.m core
      queue.toNat).destCore = some g → (s.m.core g).run = f.run → (activePlane (s.m.core g)).isSome = true → inRoom s.m g
      (outBind s.m core queue.toNat).destQ = 0 → exec (.flitArrival core queue) s = .next s) ∧
  (∀ (s : State) (core : Nat) (queue : BitVec 4) (f : Flit) (r : List Flit), coreOk core = true → (outQ s.m core
      queue.toNat).creditsBack ≠ 0 → (outQ s.m core queue.toNat).credit = 0 → (outQ s.m core queue.toNat).staging = f :: r
      → suIdle s.m core = true → ∃ m, exec (.creditReturn core queue) s = .next { s with m := m } ∧ outQ m core
      queue.toNat =
      { outQ s.m core queue.toNat with creditsBack := (outQ s.m core queue.toNat).creditsBack - 1, staging := r,
                                       inFlight := (outQ s.m core queue.toNat).inFlight ++ [{ f with run := (s.m.core core).run }] }
      ∧ (∀ c, c ≠ core → m.core c = s.m.core c) ∧ m = { s.m with parts := m.parts, cores := m.cores }) ∧
  (∀ (s : State) (core : Nat) (queue : BitVec 4) (f : Flit) (r : List Flit), coreOk core = true → (inQ s.m core
      queue.toNat).ext = f :: r → (inQ s.m core queue.toNat).feed = [] → (inQ s.m core queue.toNat).flits.length < 32 →
      (inBind s.m core queue.toNat).consumer ≠ 5 → (inBind s.m core queue.toNat).consumer ≠ 6 → suIdle s.m core = true → ∃
      m, exec (.extensionMove core queue) s = .next { s with m := m } ∧ inQ m core queue.toNat =
      { inQ s.m core queue.toNat with flits := (inQ s.m core queue.toNat).flits ++ [f], ext := r } ∧ (∀ c, c ≠ core →
      m.core c = s.m.core c) ∧ m = { s.m with parts := m.parts, cores := m.cores }) ∧
  (∀ (s : State) (core o : Nat) (pair : BitVec 3) (h : BitVec 512) (r : List Flit) (d : SuRule), coreOk core = true →
      inUse s.m core = true → suRule (planeBytes (s.m.core core)) pair.toNat = d → d.action = 0 → d.inToken = 255 →
      d.inData ≠ 255 → d.outQ = o → suIdle s.m core = true → (outQ s.m core o).openBundle = false → (outQ s.m core o).room
      1 = true → (inQ s.m core d.inData).feed = [] → r.head?.all (·.first) = true → (inQ s.m core d.inData).flits =
      { data := h, first := true, last := true } :: r → headerBad h = false → isClosing h = false → ∃ m, exec
      (.suHeaderMatch core pair false) s = .next { s with m := m } ∧ (inQ m core d.inData).flits = r ∧ ((outQ m core
      o).inFlight ++ (outQ m core o).staging).map (·.data) = ((outQ s.m core o).inFlight ++ (outQ s.m core o).staging).map
      (·.data) ++
      [if d.restamp = true then withWords h (fun i => if i = 2 then some (outQ s.m core o).seq else none) else h] ∧ (outQ
      m core o).seq = ((outQ s.m core o).seq + 1) % 4294967296 ∧ (outQ m core o).sinceClose = (outQ s.m core o).sinceClose
      + 1 ∧ (suPair m core pair.toNat).data = [] ∧ m = { s.m with parts := m.parts, cores := m.cores }) ∧
  (∀ (s : State) (core : Nat) (pair : BitVec 3) (token : Bool), coreOk core = true → inUse s.m core = false → exec
      (.suHeaderMatch core pair token) s = .next s) ∧
  (∀ (s : State) (core part : Nat), coreOk core = true → corePart s.m core = some part → (runningStep s.m part).isSome =
      true → isDrained s.m core = true → (s.m.core core).drained = false → exec (.coreDrained core) s = .next
      { s with m := s.m.setCore core fun c => { c with drained := true } }) ∧
  (∀ (s : State) (part run node : Nat) (b : Barrier) (u : PlaneUse), run < 64 → node < 4096 → s.m.barriers.get (64 * part
      + run) = b → b.released = false → b.expected.contains node = true → b.arrived.contains node = false →
      b.arrivedB.contains node = false → (s.m.core node).drained = true → (s.m.nodes.get (dieOfCluster (clusterOf
      node))).planes = u → u ≠ .lost → b.expected.all (fun n => n = node || b.arrived.contains n || b.arrivedB.contains n)
      = false → ∃ m, exec (.barrierArrival (64 * part + run) node) s = .next { s with m := m } ∧ m.barriers.get (64 * part
      + run) =
      { b with arrived := (if u = .onlyB then b.arrived else b.arrived ++ [node]),
               arrivedB := (if u = .onlyA then b.arrivedB else b.arrivedB ++ [node]) }
      ∧ (∀ k, k ≠ 64 * part + run → m.barriers.get k = s.m.barriers.get k) ∧ m =
      { s.m with nodes := m.nodes, barriers := m.barriers, hedgeOut := m.hedgeOut }) ∧
  (∀ (s : State) (part run node : Nat) (b : Barrier) (u : PlaneUse), run < 64 → node < 4096 → s.m.barriers.get (64 * part
      + run) = b → b.released = false → b.expected.contains node = true → b.arrived.contains node = false →
      b.arrivedB.contains node = false → (s.m.core node).drained = true → (s.m.nodes.get (dieOfCluster (clusterOf
      node))).planes = u → u ≠ .lost → b.expected.all (fun n => n = node || b.arrived.contains n || b.arrivedB.contains n)
      = true → ∃ m, exec (.barrierArrival (64 * part + run) node) s = .next { s with m := m } ∧ m.barriers.get (64 * part
      + run) =
      { b with arrived := (if u = .onlyB then b.arrived else b.arrived ++ [node]),
               arrivedB := (if u = .onlyA then b.arrivedB else b.arrivedB ++ [node]), released := true }
      ∧ ((m.part part).step.map fun t => t.runs.map fun r => (r.run, r.foldDone)) = ((s.m.part part).step.map fun t =>
      t.runs.map fun r => (r.run, (if r.run = run then true else r.foldDone))) ∧ m =
      { s.m with parts := m.parts, nodes := m.nodes, barriers := m.barriers, hedgeOut := m.hedgeOut }) ∧
  (∀ (s : State) (part run : Nat) (t : PartStep) (r : RunStep), partOk part = true → run < 64 → runningStep s.m part =
      some t → t.runs.find? (fun r => r.run == run && r.foldDone) = some r → foldSwath s.m part r.model (r.fold + 1) =
      none → exec (.barrierRelease part run) s = .next s) ∧
  (∀ (s : State) (part run : Nat) (t : PartStep) (r : RunStep) (old new : Swath), partOk part = true → run < 64 →
      runningStep s.m part = some t → t.runs.find? (fun r => r.run == run && r.foldDone) = some r → foldSwath s.m part
      r.model r.fold = some old → foldSwath s.m part r.model (r.fold + 1) = some new → new.cores.any t.switching.contains
      = false → old.cores.any (fun c => (s.m.core c).halted) = false → ∃ m, exec (.barrierRelease part run) s = .next
      { s with m := m } ∧ m.barriers.get (64 * part + run) = { expected := new.cores } ∧ ((m.part part).step.map fun t =>
      t.runs.map fun y => (y.run, y.fold, y.foldDone)) = some (t.runs.map fun y => if y.run = run then (y.run, y.fold + 1,
      false) else (y.run, y.fold, y.foldDone)) ∧ (∀ c, c ∈ new.cores → ((m.core c).planes.get new.plane).st = .active ∧
      (m.core c).inq = {} ∧ (m.core c).drained = false ∧ (m.core c).me.pass = none ∧ (m.core c).ls = (s.m.core c).ls) ∧ (∀
      c, c ∉ old.cores → c ∉ new.cores → m.core c = s.m.core c) ∧ m =
      { s.m with parts := m.parts, cores := m.cores, barriers := m.barriers }) ∧
  (∀ (s : State) (part : Nat) (t : PartStep), partOk part = true → runningStep s.m part = some t → t.replayOf = none →
      (s.m.part part).lark.stallLimit ≤ t.stall → xferMoves s.m part = false → recovering s.m part = false → ∃ m, exec
      (.stallCycle part) s = .next { s with m := m } ∧ (m.part part).step = none ∧ (m.part part).lark.stallCount = satAdd
      (s.m.part part).lark.stallCount 1 ∧ (m.part part).lark.stallNq = ((t.cores.flatMap (blockedOf
      s.m)).eraseDups).length ∧ (∀ q, q ∈ (m.part part).lark.stallQid → q = 0xFFFFFFFF ∨ q ∈ t.cores.flatMap (blockedOf
      s.m)) ∧ m =
      { s.m with start := m.start, ras := m.ras, fns := m.fns, parts := m.parts, fabParts := m.fabParts, slots := m.slots,
                 clusters := m.clusters, cores := m.cores, nodes := m.nodes, hedgeOut := m.hedgeOut, fabric := m.fabric,
                   xfers := m.xfers, netOut := m.netOut, freeCtr := m.freeCtr }) ∧
  (∀ (s : State) (part : Nat) (t : PartStep), partOk part = true → runningStep s.m part = some t → t.stall < (s.m.part
      part).lark.stallLimit ∨ xferMoves s.m part = true → exec (.stallCycle part) s = .next s) ∧
  (∀ (s : State) (part : Nat), partOk part = true → runningStep s.m part = none → exec (.stallCycle part) s = .next s) ∧
  (∀ (s : State) (part offset : Nat) (t : PartStep), partOk part = true → runningStep s.m part = some t → (s.m.part
      part).lark.en = true → (s.m.part part).lark.ringPages ≠ 0 → (s.m.part part).lark.committed = true → (s.m.part
      part).lark.wrap = true → offset % (s.m.part part).lark.interval = 0 → ∃ m, exec (.larkSample part offset) s = .next
      { s with m := m } ∧ (m.part part).lark =
      { (s.m.part part).lark with wrOff := ((s.m.part part).lark.wrOff + 64 * ((t.cores.filter s.m.live).length + 1)) %
                                  ((s.m.part part).lark.ringPages * pageSize),
                                    sampleSeq := ((s.m.part part).lark.sampleSeq + 1) % 4294967296 }
      ∧ (∀ p, p ≠ part → m.part p = s.m.part p) ∧ m = { s.m with parts := m.parts }) ∧
  (∀ (s : State) (part offset : Nat), partOk part = true → runningStep s.m part = none ∨ (s.m.part part).lark.en = false
      ∨ offset % (s.m.part part).lark.interval ≠ 0 → exec (.larkSample part offset) s = .next s)

/-- Integer lane operations. IALU computes on INT32 lanes modulo 2^32: MUL the low 32 bits, shifts by the low 5 bits of B, SHR
with zeros and SRA with the sign bit, MINU and MAXU unsigned. B is a vector lane or the low 32 bits of a scalar. Active lanes
of D take the result, masked lanes keep theirs or take 0 under ZM, and nothing else of the module changes but the issue (R123;
clause by clause with the frame of R113, R114). IALU_ADD, IALU_SUB, IALU_MUL, IALU_AND, IALU_OR, IALU_XOR, IALU_SHL, IALU_SHR,
IALU_SRA, IALU_MIN, IALU_MAX, IALU_MINU and IALU_MAXU complete with their own effect while a handler runs on the core, on the
conditions that each clause puts on the state and the operands alone. -/
def Obligations.VectorIntegers : Prop :=
  (∀ (s : State) (core : Nat) (o : AluOps), Runs s.m core → ∃ m, exec (.ialuAdd core o) s = .next { s with m := m } ∧
      WritesActive s.m m core o.toThreeOps (fun l => ((veOf s.m core).lane o.a.toNat l) + (aluB o (veOf s.m core) l))) ∧
  (∀ (s : State) (core : Nat) (o : AluOps), Runs s.m core → ∃ m, exec (.ialuSub core o) s = .next { s with m := m } ∧
      WritesActive s.m m core o.toThreeOps (fun l => ((veOf s.m core).lane o.a.toNat l) - (aluB o (veOf s.m core) l))) ∧
  (∀ (s : State) (core : Nat) (o : AluOps), Runs s.m core → ∃ m, exec (.ialuMul core o) s = .next { s with m := m } ∧
      WritesActive s.m m core o.toThreeOps (fun l => BitVec.ofNat 32 (((veOf s.m core).lane o.a.toNat l).toNat * (aluB o
      (veOf s.m core) l).toNat))) ∧
  (∀ (s : State) (core : Nat) (o : AluOps), Runs s.m core → ∃ m, exec (.ialuAnd core o) s = .next { s with m := m } ∧
      WritesActive s.m m core o.toThreeOps (fun l => ((veOf s.m core).lane o.a.toNat l) &&& (aluB o (veOf s.m core) l))) ∧
  (∀ (s : State) (core : Nat) (o : AluOps), Runs s.m core → ∃ m, exec (.ialuOr core o) s = .next { s with m := m } ∧
      WritesActive s.m m core o.toThreeOps (fun l => ((veOf s.m core).lane o.a.toNat l) ||| (aluB o (veOf s.m core) l))) ∧
  (∀ (s : State) (core : Nat) (o : AluOps), Runs s.m core → ∃ m, exec (.ialuXor core o) s = .next { s with m := m } ∧
      WritesActive s.m m core o.toThreeOps (fun l => ((veOf s.m core).lane o.a.toNat l) ^^^ (aluB o (veOf s.m core) l))) ∧
  (∀ (s : State) (core : Nat) (o : AluOps), Runs s.m core → ∃ m, exec (.ialuShl core o) s = .next { s with m := m } ∧
      WritesActive s.m m core o.toThreeOps (fun l => BitVec.ofNat 32 (((veOf s.m core).lane o.a.toNat l).toNat * 2 ^
      ((aluB o (veOf s.m core) l).toNat % 32)))) ∧
  (∀ (s : State) (core : Nat) (o : AluOps), Runs s.m core → ∃ m, exec (.ialuShr core o) s = .next { s with m := m } ∧
      WritesActive s.m m core o.toThreeOps (fun l => BitVec.ofNat 32 (((veOf s.m core).lane o.a.toNat l).toNat / 2 ^
      ((aluB o (veOf s.m core) l).toNat % 32)))) ∧
  (∀ (s : State) (core : Nat) (o : AluOps), Runs s.m core → ∃ m, exec (.ialuSra core o) s = .next { s with m := m } ∧
      WritesActive s.m m core o.toThreeOps (fun l => BitVec.ofInt 32 (((veOf s.m core).lane o.a.toNat l).toInt / 2 ^
      ((aluB o (veOf s.m core) l).toNat % 32)))) ∧
  (∀ (s : State) (core : Nat) (o : AluOps), Runs s.m core → ∃ m, exec (.ialuMin core o) s = .next { s with m := m } ∧
      WritesActive s.m m core o.toThreeOps (fun l => BitVec.ofInt 32 (min ((veOf s.m core).lane o.a.toNat l).toInt (aluB o
      (veOf s.m core) l).toInt))) ∧
  (∀ (s : State) (core : Nat) (o : AluOps), Runs s.m core → ∃ m, exec (.ialuMax core o) s = .next { s with m := m } ∧
      WritesActive s.m m core o.toThreeOps (fun l => BitVec.ofInt 32 (max ((veOf s.m core).lane o.a.toNat l).toInt (aluB o
      (veOf s.m core) l).toInt))) ∧
  (∀ (s : State) (core : Nat) (o : AluOps), Runs s.m core → ∃ m, exec (.ialuMinu core o) s = .next { s with m := m } ∧
      WritesActive s.m m core o.toThreeOps (fun l => BitVec.ofNat 32 (min ((veOf s.m core).lane o.a.toNat l).toNat (aluB o
      (veOf s.m core) l).toNat))) ∧
  (∀ (s : State) (core : Nat) (o : AluOps), Runs s.m core → ∃ m, exec (.ialuMaxu core o) s = .next { s with m := m } ∧
      WritesActive s.m m core o.toThreeOps (fun l => BitVec.ofNat 32 (max ((veOf s.m core).lane o.a.toNat l).toNat (aluB o
      (veOf s.m core) l).toNat)))

/-- Floating-point lane operations and functions. FALU writes to each active lane the FP32 operation of its sources, FMA of three,
ABS and NEG change the sign bit alone and MOV copies. XF writes the function of the lane. Masked lanes keep their value or
take 0 under ZM; nothing else changes but the issue and the exception counts of the partition (R81, R113, R114, R122, R128).
FALU_ADD, FALU_SUB, FALU_MUL, FALU_MIN, FALU_MAX, FALU_FMA, FALU_ABS, FALU_NEG, FALU_MOV, EXP, EXP2, LOG, LOG2, RCP, RSQRT,
SQRT, TANH, SIGMOID, SIN, COS and ERF complete with their own effect while a handler runs on the core, on the conditions that
each clause puts on the state and the operands alone. -/
def Obligations.VectorFloats : Prop :=
  (∀ (s : State) (core : Nat) (o : AluOps), Runs s.m core → ∃ m, exec (.faluAdd core o) s = .next { s with m := m } ∧
      WritesActive s.m m core o.toThreeOps (fun l => fadd ((veOf s.m core).lane o.a.toNat l) (aluB o (veOf s.m core) l))) ∧
  (∀ (s : State) (core : Nat) (o : AluOps), Runs s.m core → ∃ m, exec (.faluSub core o) s = .next { s with m := m } ∧
      WritesActive s.m m core o.toThreeOps (fun l => fsub ((veOf s.m core).lane o.a.toNat l) (aluB o (veOf s.m core) l))) ∧
  (∀ (s : State) (core : Nat) (o : AluOps), Runs s.m core → ∃ m, exec (.faluMul core o) s = .next { s with m := m } ∧
      WritesActive s.m m core o.toThreeOps (fun l => fmul ((veOf s.m core).lane o.a.toNat l) (aluB o (veOf s.m core) l))) ∧
  (∀ (s : State) (core : Nat) (o : AluOps), Runs s.m core → ∃ m, exec (.faluMin core o) s = .next { s with m := m } ∧
      WritesActive s.m m core o.toThreeOps (fun l => fmin ((veOf s.m core).lane o.a.toNat l) (aluB o (veOf s.m core) l))) ∧
  (∀ (s : State) (core : Nat) (o : AluOps), Runs s.m core → ∃ m, exec (.faluMax core o) s = .next { s with m := m } ∧
      WritesActive s.m m core o.toThreeOps (fun l => fmax ((veOf s.m core).lane o.a.toNat l) (aluB o (veOf s.m core) l))) ∧
  (∀ (s : State) (core : Nat) (o : AluOps), Runs s.m core → ∃ m, exec (.faluFma core o) s = .next { s with m := m } ∧
      WritesActive s.m m core o.toThreeOps (fun l => ffma ((veOf s.m core).lane o.a.toNat l) (aluB o (veOf s.m core) l)
      ((veOf s.m core).lane o.c.toNat l))) ∧
  (∀ (s : State) (core : Nat) (o : AluOps), Runs s.m core → ∃ m, exec (.faluAbs core o) s = .next { s with m := m } ∧
      WritesActive s.m m core o.toThreeOps (fun l => BitVec.ofNat 32 (((veOf s.m core).lane o.a.toNat l).toNat % 2 ^ 31))) ∧
  (∀ (s : State) (core : Nat) (o : AluOps), Runs s.m core → ∃ m, exec (.faluNeg core o) s = .next { s with m := m } ∧
      WritesActive s.m m core o.toThreeOps (fun l => ((veOf s.m core).lane o.a.toNat l) ^^^ 0x80000000)) ∧
  (∀ (s : State) (core : Nat) (o : AluOps), Runs s.m core → ∃ m, exec (.faluMov core o) s = .next { s with m := m } ∧
      WritesActive s.m m core o.toThreeOps (fun l => ((veOf s.m core).lane o.a.toNat l))) ∧
  (∀ (s : State) (core : Nat) (o : ThreeOps), Runs s.m core → ∃ m, exec (.exp core o) s = .next { s with m := m } ∧
      WritesActive s.m m core o (fun l => xf .exp ((veOf s.m core).lane o.a.toNat l))) ∧
  (∀ (s : State) (core : Nat) (o : ThreeOps), Runs s.m core → ∃ m, exec (.exp2 core o) s = .next { s with m := m } ∧
      WritesActive s.m m core o (fun l => xf .exp2 ((veOf s.m core).lane o.a.toNat l))) ∧
  (∀ (s : State) (core : Nat) (o : ThreeOps), Runs s.m core → ∃ m, exec (.log core o) s = .next { s with m := m } ∧
      WritesActive s.m m core o (fun l => xf .log ((veOf s.m core).lane o.a.toNat l))) ∧
  (∀ (s : State) (core : Nat) (o : ThreeOps), Runs s.m core → ∃ m, exec (.log2 core o) s = .next { s with m := m } ∧
      WritesActive s.m m core o (fun l => xf .log2 ((veOf s.m core).lane o.a.toNat l))) ∧
  (∀ (s : State) (core : Nat) (o : ThreeOps), Runs s.m core → ∃ m, exec (.rcp core o) s = .next { s with m := m } ∧
      WritesActive s.m m core o (fun l => xf .rcp ((veOf s.m core).lane o.a.toNat l))) ∧
  (∀ (s : State) (core : Nat) (o : ThreeOps), Runs s.m core → ∃ m, exec (.rsqrt core o) s = .next { s with m := m } ∧
      WritesActive s.m m core o (fun l => xf .rsqrt ((veOf s.m core).lane o.a.toNat l))) ∧
  (∀ (s : State) (core : Nat) (o : ThreeOps), Runs s.m core → ∃ m, exec (.sqrt core o) s = .next { s with m := m } ∧
      WritesActive s.m m core o (fun l => xf .sqrt ((veOf s.m core).lane o.a.toNat l))) ∧
  (∀ (s : State) (core : Nat) (o : ThreeOps), Runs s.m core → ∃ m, exec (.tanh core o) s = .next { s with m := m } ∧
      WritesActive s.m m core o (fun l => xf .tanh ((veOf s.m core).lane o.a.toNat l))) ∧
  (∀ (s : State) (core : Nat) (o : ThreeOps), Runs s.m core → ∃ m, exec (.sigmoid core o) s = .next { s with m := m } ∧
      WritesActive s.m m core o (fun l => xf .sigmoid ((veOf s.m core).lane o.a.toNat l))) ∧
  (∀ (s : State) (core : Nat) (o : ThreeOps), Runs s.m core → ∃ m, exec (.sin core o) s = .next { s with m := m } ∧
      WritesActive s.m m core o (fun l => xf .sin ((veOf s.m core).lane o.a.toNat l))) ∧
  (∀ (s : State) (core : Nat) (o : ThreeOps), Runs s.m core → ∃ m, exec (.cos core o) s = .next { s with m := m } ∧
      WritesActive s.m m core o (fun l => xf .cos ((veOf s.m core).lane o.a.toNat l))) ∧
  (∀ (s : State) (core : Nat) (o : ThreeOps), Runs s.m core → ∃ m, exec (.erf core o) s = .next { s with m := m } ∧
      WritesActive s.m m core o (fun l => xf .erf ((veOf s.m core).lane o.a.toNat l)))

/-- Compares and conversions. CMP sets bit i of mask D exactly for the active lanes whose predicate holds and clears every other
bit. CVT to a lane format writes the converted active lanes; to a packed format it writes the active elements of group PART
and the two scale bytes of S (R124 to R127). CMP_EQ, CMP_NE, CMP_LT, CMP_LE, CMP_GT, CMP_GE, CMP_UNORD, CMP_ORD and CVT
complete with their own effect while a handler runs on the core, on the conditions that each clause puts on the state and the
operands alone. -/
def Obligations.VectorCompares : Prop :=
  (∀ (s : State) (core : Nat) (o : CmpOps), Runs s.m core → o.ok = true → ∃ m x, exec (.cmpEq core o) s = .next
      { s with m := m } ∧ WritesMask s.m m core o.d.toNat x ∧ (∀ l, l < 64 → (x.getLsbD l = true ↔ (veOf s.m core).active
      o.msk.toNat l = true ∧ (if o.int = true then CmpFn.int .eq o.uns ((veOf s.m core).lane o.a.toNat l) (if o.bs = true
      then (veOf s.m core).low o.b.toNat else (veOf s.m core).lane o.b.toNat l) else CmpFn.fp .eq ((veOf s.m core).lane
      o.a.toNat l) (if o.bs = true then (veOf s.m core).low o.b.toNat else (veOf s.m core).lane o.b.toNat l)) = true))) ∧
  (∀ (s : State) (core : Nat) (o : CmpOps), Runs s.m core → o.ok = true → ∃ m x, exec (.cmpNe core o) s = .next
      { s with m := m } ∧ WritesMask s.m m core o.d.toNat x ∧ (∀ l, l < 64 → (x.getLsbD l = true ↔ (veOf s.m core).active
      o.msk.toNat l = true ∧ (if o.int = true then CmpFn.int .ne o.uns ((veOf s.m core).lane o.a.toNat l) (if o.bs = true
      then (veOf s.m core).low o.b.toNat else (veOf s.m core).lane o.b.toNat l) else CmpFn.fp .ne ((veOf s.m core).lane
      o.a.toNat l) (if o.bs = true then (veOf s.m core).low o.b.toNat else (veOf s.m core).lane o.b.toNat l)) = true))) ∧
  (∀ (s : State) (core : Nat) (o : CmpOps), Runs s.m core → o.ok = true → ∃ m x, exec (.cmpLt core o) s = .next
      { s with m := m } ∧ WritesMask s.m m core o.d.toNat x ∧ (∀ l, l < 64 → (x.getLsbD l = true ↔ (veOf s.m core).active
      o.msk.toNat l = true ∧ (if o.int = true then CmpFn.int .lt o.uns ((veOf s.m core).lane o.a.toNat l) (if o.bs = true
      then (veOf s.m core).low o.b.toNat else (veOf s.m core).lane o.b.toNat l) else CmpFn.fp .lt ((veOf s.m core).lane
      o.a.toNat l) (if o.bs = true then (veOf s.m core).low o.b.toNat else (veOf s.m core).lane o.b.toNat l)) = true))) ∧
  (∀ (s : State) (core : Nat) (o : CmpOps), Runs s.m core → o.ok = true → ∃ m x, exec (.cmpLe core o) s = .next
      { s with m := m } ∧ WritesMask s.m m core o.d.toNat x ∧ (∀ l, l < 64 → (x.getLsbD l = true ↔ (veOf s.m core).active
      o.msk.toNat l = true ∧ (if o.int = true then CmpFn.int .le o.uns ((veOf s.m core).lane o.a.toNat l) (if o.bs = true
      then (veOf s.m core).low o.b.toNat else (veOf s.m core).lane o.b.toNat l) else CmpFn.fp .le ((veOf s.m core).lane
      o.a.toNat l) (if o.bs = true then (veOf s.m core).low o.b.toNat else (veOf s.m core).lane o.b.toNat l)) = true))) ∧
  (∀ (s : State) (core : Nat) (o : CmpOps), Runs s.m core → o.ok = true → ∃ m x, exec (.cmpGt core o) s = .next
      { s with m := m } ∧ WritesMask s.m m core o.d.toNat x ∧ (∀ l, l < 64 → (x.getLsbD l = true ↔ (veOf s.m core).active
      o.msk.toNat l = true ∧ (if o.int = true then CmpFn.int .gt o.uns ((veOf s.m core).lane o.a.toNat l) (if o.bs = true
      then (veOf s.m core).low o.b.toNat else (veOf s.m core).lane o.b.toNat l) else CmpFn.fp .gt ((veOf s.m core).lane
      o.a.toNat l) (if o.bs = true then (veOf s.m core).low o.b.toNat else (veOf s.m core).lane o.b.toNat l)) = true))) ∧
  (∀ (s : State) (core : Nat) (o : CmpOps), Runs s.m core → o.ok = true → ∃ m x, exec (.cmpGe core o) s = .next
      { s with m := m } ∧ WritesMask s.m m core o.d.toNat x ∧ (∀ l, l < 64 → (x.getLsbD l = true ↔ (veOf s.m core).active
      o.msk.toNat l = true ∧ (if o.int = true then CmpFn.int .ge o.uns ((veOf s.m core).lane o.a.toNat l) (if o.bs = true
      then (veOf s.m core).low o.b.toNat else (veOf s.m core).lane o.b.toNat l) else CmpFn.fp .ge ((veOf s.m core).lane
      o.a.toNat l) (if o.bs = true then (veOf s.m core).low o.b.toNat else (veOf s.m core).lane o.b.toNat l)) = true))) ∧
  (∀ (s : State) (core : Nat) (o : CmpOps), Runs s.m core → o.ok = true → o.int = false → ∃ m x, exec (.cmpUnord core o)
      s = .next { s with m := m } ∧ WritesMask s.m m core o.d.toNat x ∧ (∀ l, l < 64 → (x.getLsbD l = true ↔ (veOf s.m
      core).active o.msk.toNat l = true ∧ (if o.int = true then CmpFn.int .unord o.uns ((veOf s.m core).lane o.a.toNat l)
      (if o.bs = true then (veOf s.m core).low o.b.toNat else (veOf s.m core).lane o.b.toNat l) else CmpFn.fp .unord
      ((veOf s.m core).lane o.a.toNat l) (if o.bs = true then (veOf s.m core).low o.b.toNat else (veOf s.m core).lane
      o.b.toNat l)) = true))) ∧
  (∀ (s : State) (core : Nat) (o : CmpOps), Runs s.m core → o.ok = true → o.int = false → ∃ m x, exec (.cmpOrd core o) s
      = .next { s with m := m } ∧ WritesMask s.m m core o.d.toNat x ∧ (∀ l, l < 64 → (x.getLsbD l = true ↔ (veOf s.m
      core).active o.msk.toNat l = true ∧ (if o.int = true then CmpFn.int .ord o.uns ((veOf s.m core).lane o.a.toNat l)
      (if o.bs = true then (veOf s.m core).low o.b.toNat else (veOf s.m core).lane o.b.toNat l) else CmpFn.fp .ord ((veOf
      s.m core).lane o.a.toNat l) (if o.bs = true then (veOf s.m core).low o.b.toNat else (veOf s.m core).lane o.b.toNat
      l)) = true))) ∧
  (∀ (s : State) (core : Nat) (o : CvtOps), Runs s.m core → o.ok = true → narrowFmt o.dst.toNat = false → ∃ m, exec (.cvt
      core o) s = .next { s with m := m } ∧ WritesActive s.m m core o.toThreeOps (fun l => BitVec.ofNat 32 (convertWide
      o.dst.toNat o.rmode.toNat (cvtRand (veOf s.m core) o l) (codeD o.src.toNat o.dst.toNat) (cvtSrc (veOf s.m core) o
      l)).code)) ∧
  (∀ (s : State) (core : Nat) (o : CvtOps), Runs s.m core → o.ok = true → narrowFmt o.dst.toNat = true → ∃ m, exec (.cvt
      core o) s = .next { s with m := m } ∧ VeFrame s.m m core ∧ Went s.m m core (veOf s.m core).vl ∧ (o.d ≠ o.s → ∀ e, e
      ∈ (cvtBlock (veOf s.m core) o 0).2 ++ (cvtBlock (veOf s.m core) o 1).2 → bits ((veOf m core).regNat o.d.toNat)
      (packedAt o.part.toNat (fmtWidth o.dst.toNat) e.1) (fmtWidth o.dst.toNat) = e.2.code % 2 ^ fmtWidth o.dst.toNat) ∧
      bits ((veOf m core).regNat o.s.toNat) (8 * (8 + 2 * o.part.toNat)) 8 = (cvtBlock (veOf s.m core) o 0).1 % 256 ∧ bits
      ((veOf m core).regNat o.s.toNat) (8 * (9 + 2 * o.part.toNat)) 8 = (cvtBlock (veOf s.m core) o 1).1 % 256 ∧ (o.d ≠
      o.s → (∀ k, k < 256 → k ≠ 8 + 2 * o.part.toNat → k ≠ 9 + 2 * o.part.toNat → bits ((veOf m core).regNat o.s.toNat) (8
      * k) 8 = bits ((veOf s.m core).regNat o.s.toNat) (8 * k) 8) ∧ (∀ k, k < 2048 → (∀ l, l < 64 → l < (veOf s.m core).vl
      → k < packedAt o.part.toNat (fmtWidth o.dst.toNat) l ∨ packedAt o.part.toNat (fmtWidth o.dst.toNat) l + fmtWidth
      o.dst.toNat ≤ k) → bits ((veOf m core).regNat o.d.toNat) k 1 = bits ((veOf s.m core).regNat o.d.toNat) k 1)) ∧ (∀ r,
      r < 32 → r ≠ o.d.toNat → r ≠ o.s.toNat → ∀ l, l < 64 → (veOf m core).lane r l = (veOf s.m core).lane r l) ∧
      SameMasks (veOf s.m core) (veOf m core) ∧ SameScalars (veOf s.m core) (veOf m core) ∧ SameSeeds (veOf s.m core)
      (veOf m core))

/-- Reductions, sampling operations. RSUM, RAMAX and RFIN leave a pair in sD and sD + 1, RMAX, RMIN and RISUM a value in sD, all
folded over the active lanes in increasing index. MFILL, SCAN and RAND write lanes of D, SCAN its carry to sB as well, TOPK
the first k lanes of D and D + 1 (R129, R130, R137 to R140). RSUM, RAMAX, RFIN, RMAX, RMIN, RISUM, MFILL, RAND, SCAN and TOPK
complete with their own effect while a handler runs on the core, on the conditions that each clause puts on the state and the
operands alone. -/
def Obligations.VectorReductions : Prop :=
  (∀ (s : State) (core : Nat) (o : ThreeOps), Runs s.m core → o.evenD = true → ∃ m, exec (.rsum core o) s = .next
      { s with m := m } ∧ WritesScalars s.m m core fun v w => PairIs v w o.d.toNat ((rsumPair v o).1.setWidth 64)
      ((rsumPair v o).2.setWidth 64)) ∧
  (∀ (s : State) (core : Nat) (o : ThreeOps), Runs s.m core → o.evenD = true → ∃ m, exec (.ramax core o) s = .next
      { s with m := m } ∧ WritesScalars s.m m core fun v w => PairIs v w o.d.toNat ((ramaxPair v o).1.setWidth 64)
      (ramaxPair v o).2) ∧
  (∀ (s : State) (core : Nat) (o : ThreeOps), Runs s.m core → o.evenD = true → ∃ m, exec (.rfin core o) s = .next
      { s with m := m } ∧ WritesScalars s.m m core fun v w => PairIs v w o.d.toNat ((fadd (v.low o.d.toNat) (v.low
      (o.d.toNat + 1))).setWidth 64) 0) ∧
  (∀ (s : State) (core : Nat) (o : ThreeOps), Runs s.m core → ∃ m, exec (.rmax core o) s = .next { s with m := m } ∧
      WritesScalar s.m m core o.d.toNat ((((veOf s.m core).actives o.msk.toNat).foldl (fun x l => fmax x ((veOf s.m
      core).lane o.a.toNat l)) ((veOf s.m core).low o.d.toNat)).setWidth 64)) ∧
  (∀ (s : State) (core : Nat) (o : ThreeOps), Runs s.m core → ∃ m, exec (.rmin core o) s = .next { s with m := m } ∧
      WritesScalar s.m m core o.d.toNat ((((veOf s.m core).actives o.msk.toNat).foldl (fun x l => fmin x ((veOf s.m
      core).lane o.a.toNat l)) ((veOf s.m core).low o.d.toNat)).setWidth 64)) ∧
  (∀ (s : State) (core : Nat) (o : ThreeOps), Runs s.m core → ∃ m, exec (.risum core o) s = .next { s with m := m } ∧
      WritesScalar s.m m core o.d.toNat (((veOf s.m core).actives o.msk.toNat).foldl (fun x l => x + ((veOf s.m core).lane
      o.a.toNat l).signExtend 64) ((veOf s.m core).scalar o.d.toNat))) ∧
  (∀ (s : State) (core : Nat) (o : SampOps), Runs s.m core → ∃ m, exec (.mfill core o) s = .next { s with m := m } ∧
      WritesLanes s.m m core o.d.toNat (fun l => if ((veOf s.m core).maskOf o.msk.toNat).getLsbD l = true then ((veOf s.m
      core).lane o.a.toNat l) else 0xFF800000)) ∧
  (∀ (s : State) (core : Nat) (o : SampOps), Runs s.m core → ∃ m, exec (.rand core o) s = .next { s with m := m } ∧
      WritesActive s.m m core o.toThreeOps (fun l => randLane (veOf s.m core).seed.toNat (veOf s.m core).stream.toNat
      ((((veOf s.m core).scalar o.a.toNat).toNat + l) % 2 ^ 48))) ∧
  (∀ (s : State) (core : Nat) (o : SampOps), Runs s.m core → ∃ m, exec (.scan core o) s = .next { s with m := m } ∧
      VeFrame s.m m core ∧ Went s.m m core (veOf s.m core).vl ∧ LanesAre (veOf s.m core) (veOf m core) o.d.toNat (fun l =>
      (scanSums (veOf s.m core) o).1.getD l 0) ∧ SameMasks (veOf s.m core) (veOf m core) ∧ ScalarIs (veOf s.m core) (veOf
      m core) o.b.toNat ((scanSums (veOf s.m core) o).2.setWidth 64) ∧ SameSeeds (veOf s.m core) (veOf m core)) ∧
  (∀ (s : State) (core : Nat) (o : SampOps), Runs s.m core → o.evenD = true → ∃ m, exec (.topk core o) s = .next
      { s with m := m } ∧ VeFrame s.m m core ∧ Went s.m m core (veOf s.m core).vl ∧ (∀ r, r < 32 → ∀ l, l < 64 → (veOf m
      core).lane r l = if r = o.d.toNat ∧ l ≤ o.km1.toNat then ((topkList (veOf s.m core) o).getD l (0, 0)).1 else if r =
      o.d.toNat + 1 ∧ l ≤ o.km1.toNat then ((topkList (veOf s.m core) o).getD l (0, 0)).2 else (veOf s.m core).lane r l) ∧
      SameMasks (veOf s.m core) (veOf m core) ∧ SameScalars (veOf s.m core) (veOf m core) ∧ SameSeeds (veOf s.m core)
      (veOf m core))

/-- Mask operations; permutations. MAND, MOR, MXOR, MANDN and MNOT act on all 64 bits of the masks. MSET writes mask D from sA and
MGET sD from mask A; MPOP writes the number of set bits of mask A below VL and MFIRST the lowest of them or 64. MFROMV sets
bit i exactly when lane i is below VL and not zero. Nothing else changes but the issue (R136). BCAST, PERMV, SLIDEUP, SLIDEDN,
EXPAND and IOTA write the active lanes of D as their table row says; COMPRESS moves the active lanes of A down and the rest
below VL follow ZM; SEL picks A or B for every lane below VL. Nothing else changes but the issue (R131). MAND, MOR, MXOR,
MANDN, MNOT, MSET, MGET, MPOP, MFIRST, MFROMV, BCAST, PERMV, SLIDEUP, SLIDEDN, EXPAND, IOTA, COMPRESS and SEL complete with
their own effect while a handler runs on the core, on the conditions that each clause puts on the state and the operands
alone. -/
def Obligations.VectorMasks : Prop :=
  (∀ (s : State) (core : Nat) (o : ThreeOps), Runs s.m core → o.noMask = true → o.maskD = true → o.maskA = true → o.maskB
      = true → ∃ m, exec (.mand core o) s = .next { s with m := m } ∧ WritesMask s.m m core o.d.toNat (((veOf s.m
      core).maskOf o.a.toNat) &&& ((veOf s.m core).maskOf o.b.toNat))) ∧
  (∀ (s : State) (core : Nat) (o : ThreeOps), Runs s.m core → o.noMask = true → o.maskD = true → o.maskA = true → o.maskB
      = true → ∃ m, exec (.mor core o) s = .next { s with m := m } ∧ WritesMask s.m m core o.d.toNat (((veOf s.m
      core).maskOf o.a.toNat) ||| ((veOf s.m core).maskOf o.b.toNat))) ∧
  (∀ (s : State) (core : Nat) (o : ThreeOps), Runs s.m core → o.noMask = true → o.maskD = true → o.maskA = true → o.maskB
      = true → ∃ m, exec (.mxor core o) s = .next { s with m := m } ∧ WritesMask s.m m core o.d.toNat (((veOf s.m
      core).maskOf o.a.toNat) ^^^ ((veOf s.m core).maskOf o.b.toNat))) ∧
  (∀ (s : State) (core : Nat) (o : ThreeOps), Runs s.m core → o.noMask = true → o.maskD = true → o.maskA = true → o.maskB
      = true → ∃ m, exec (.mandn core o) s = .next { s with m := m } ∧ WritesMask s.m m core o.d.toNat (((veOf s.m
      core).maskOf o.a.toNat) &&& ~~~((veOf s.m core).maskOf o.b.toNat))) ∧
  (∀ (s : State) (core : Nat) (o : ThreeOps), Runs s.m core → o.noMask = true → o.maskD = true → o.maskA = true → ∃ m,
      exec (.mnot core o) s = .next { s with m := m } ∧ WritesMask s.m m core o.d.toNat (~~~((veOf s.m core).maskOf
      o.a.toNat))) ∧
  (∀ (s : State) (core : Nat) (o : ThreeOps), Runs s.m core → o.noMask = true → o.maskD = true → ∃ m, exec (.mset core o)
      s = .next { s with m := m } ∧ WritesMask s.m m core o.d.toNat ((veOf s.m core).scalar o.a.toNat)) ∧
  (∀ (s : State) (core : Nat) (o : ThreeOps), Runs s.m core → o.noMask = true → o.maskA = true → ∃ m, exec (.mget core o)
      s = .next { s with m := m } ∧ WritesScalar s.m m core o.d.toNat ((veOf s.m core).maskOf o.a.toNat)) ∧
  (∀ (s : State) (core : Nat) (o : ThreeOps), Runs s.m core → o.noMask = true → o.maskA = true → ∃ m, exec (.mpop core o)
      s = .next { s with m := m } ∧ WritesScalar s.m m core o.d.toNat (BitVec.ofNat 64 ((List.range 64).filter fun l =>
      decide (l < (veOf s.m core).vl) && ((veOf s.m core).maskOf o.a.toNat).getLsbD l).length)) ∧
  (∀ (s : State) (core : Nat) (o : ThreeOps), Runs s.m core → o.noMask = true → o.maskA = true → ∃ m, exec (.mfirst core
      o) s = .next { s with m := m } ∧ WritesScalar s.m m core o.d.toNat (BitVec.ofNat 64 ((((List.range 64).filter fun l
      => decide (l < (veOf s.m core).vl) && ((veOf s.m core).maskOf o.a.toNat).getLsbD l).head?).getD 64))) ∧
  (∀ (s : State) (core : Nat) (o : ThreeOps), Runs s.m core → o.noMask = true → o.maskD = true → ∃ m x, exec (.mfromv
      core o) s = .next { s with m := m } ∧ WritesMask s.m m core o.d.toNat x ∧ (∀ l, l < 64 → (x.getLsbD l = true ↔ l <
      (veOf s.m core).vl ∧ ((veOf s.m core).lane o.a.toNat l) ≠ 0))) ∧
  (∀ (s : State) (core : Nat) (o : PermOps), Runs s.m core → ∃ m, exec (.bcast core o) s = .next { s with m := m } ∧
      WritesActive s.m m core o.toThreeOps (fun _ => (veOf s.m core).low o.a.toNat)) ∧
  (∀ (s : State) (core : Nat) (o : PermOps), Runs s.m core → ∃ m, exec (.permv core o) s = .next { s with m := m } ∧
      WritesActive s.m m core o.toThreeOps (fun l => if ((veOf s.m core).lane o.b.toNat l).toNat < 64 then (veOf s.m
      core).lane o.a.toNat ((veOf s.m core).lane o.b.toNat l).toNat else 0)) ∧
  (∀ (s : State) (core : Nat) (o : PermOps), Runs s.m core → ∃ m, exec (.slideup core o) s = .next { s with m := m } ∧
      WritesActive s.m m core o.toThreeOps (fun l => if l < o.sh.toNat then 0 else (veOf s.m core).lane o.a.toNat (l -
      o.sh.toNat))) ∧
  (∀ (s : State) (core : Nat) (o : PermOps), Runs s.m core → ∃ m, exec (.slidedn core o) s = .next { s with m := m } ∧
      WritesActive s.m m core o.toThreeOps (fun l => if 63 < l + o.sh.toNat then 0 else (veOf s.m core).lane o.a.toNat (l
      + o.sh.toNat))) ∧
  (∀ (s : State) (core : Nat) (o : PermOps), Runs s.m core → ∃ m, exec (.expand core o) s = .next { s with m := m } ∧
      WritesActive s.m m core o.toThreeOps (fun l => (veOf s.m core).lane o.a.toNat (((veOf s.m core).actives
      o.msk.toNat).filter fun x => x < l).length)) ∧
  (∀ (s : State) (core : Nat) (o : PermOps), Runs s.m core → ∃ m, exec (.iota core o) s = .next { s with m := m } ∧
      WritesActive s.m m core o.toThreeOps (fun l => (veOf s.m core).low o.a.toNat + BitVec.ofNat 32 l)) ∧
  (∀ (s : State) (core : Nat) (o : PermOps), Runs s.m core → ∃ m, exec (.compress core o) s = .next { s with m := m } ∧
      WritesLanes s.m m core o.d.toNat (fun l => ((((veOf s.m core).actives o.msk.toNat)[l]?).map ((veOf s.m core).lane
      o.a.toNat)).getD (if o.zm = true then 0 else (veOf s.m core).lane o.d.toNat l))) ∧
  (∀ (s : State) (core : Nat) (o : PermOps), Runs s.m core → ∃ m, exec (.sel core o) s = .next { s with m := m } ∧
      WritesLanes s.m m core o.d.toNat (fun l => if ((veOf s.m core).maskOf o.msk.toNat).getLsbD l = true then ((veOf s.m
      core).lane o.a.toNat l) else ((veOf s.m core).lane o.b.toNat l)))

/-- Loads from the local store. LD, LDS and LDX load lane-form elements of the active lanes from their addresses, LD of a packed
format the active elements of group PART, LDM a mask. Nothing else changes but the issue. An address at or beyond 1 MiB or not
aligned faults: no register and no byte of the store changes, the task is aborted (R112, R115, R132, R133). LD, LDS, LDX and
LDM complete with their own effect while a handler runs on the core, on the conditions that each clause puts on the state and
the operands alone. -/
def Obligations.VectorLoads : Prop :=
  (∀ (s : State) (core : Nat) (o : MemOps), Runs s.m core → o.anyFmt = true → packedFmt o.fmt.toNat = false → Accessible
      s.m core (laneSize o.fmt.toNat) (((veOf s.m core).actives o.msk.toNat).map (laneAddr (veOf s.m core) o (fun l => l *
      laneSize o.fmt.toNat))) → ∃ m, exec (.ld core o) s = .next { s with m := m } ∧ WritesActive s.m m core o.toThreeOps
      (fun l => BitVec.ofNat 32 ((s.m.core core).ls.rd (laneAddr (veOf s.m core) o (fun l => l * laneSize o.fmt.toNat) l)
      (laneSize o.fmt.toNat)))) ∧
  (∀ (s : State) (core : Nat) (o : MemOps), Runs s.m core → o.wideFmt = true → Accessible s.m core (laneSize o.fmt.toNat)
      (((veOf s.m core).actives o.msk.toNat).map (laneAddr (veOf s.m core) o (fun l => l * ((veOf s.m core).scalar
      o.b.toNat).toNat))) → ∃ m, exec (.lds core o) s = .next { s with m := m } ∧ WritesActive s.m m core o.toThreeOps
      (fun l => BitVec.ofNat 32 ((s.m.core core).ls.rd (laneAddr (veOf s.m core) o (fun l => l * ((veOf s.m core).scalar
      o.b.toNat).toNat) l) (laneSize o.fmt.toNat)))) ∧
  (∀ (s : State) (core : Nat) (o : MemOps), Runs s.m core → o.wideFmt = true → Accessible s.m core (laneSize o.fmt.toNat)
      (((veOf s.m core).actives o.msk.toNat).map (laneAddr (veOf s.m core) o (fun l => ((veOf s.m core).lane o.b.toNat
      l).toNat))) → ∃ m, exec (.ldx core o) s = .next { s with m := m } ∧ WritesActive s.m m core o.toThreeOps (fun l =>
      BitVec.ofNat 32 ((s.m.core core).ls.rd (laneAddr (veOf s.m core) o (fun l => ((veOf s.m core).lane o.b.toNat
      l).toNat) l) (laneSize o.fmt.toNat)))) ∧
  (∀ (s : State) (core : Nat) (o : MemOps), Runs s.m core → o.anyFmt = true → packedFmt o.fmt.toNat = true → Accessible
      s.m core 1 (packedAddrs (veOf s.m core) o) → ∃ m, exec (.ld core o) s = .next { s with m := m } ∧ VeFrame s.m m core
      ∧ Went s.m m core (veOf s.m core).vl ∧ (∀ l, l ∈ (veOf s.m core).actives o.msk.toNat → bits ((veOf m core).regNat
      o.d.toNat) (packedAt o.part.toNat (fmtWidth o.fmt.toNat) l) (fmtWidth o.fmt.toNat) = (s.m.core core).ls.rdBits (8 *
      (veOf s.m core).base o + fmtWidth o.fmt.toNat * l) (fmtWidth o.fmt.toNat)) ∧ (∀ k, k < 2048 → (∀ l, l < 64 → l <
      (veOf s.m core).vl → k < packedAt o.part.toNat (fmtWidth o.fmt.toNat) l ∨ packedAt o.part.toNat (fmtWidth
      o.fmt.toNat) l + fmtWidth o.fmt.toNat ≤ k) → bits ((veOf m core).regNat o.d.toNat) k 1 = bits ((veOf s.m
      core).regNat o.d.toNat) k 1) ∧ (∀ r, r < 32 → r ≠ o.d.toNat → ∀ l, l < 64 → (veOf m core).lane r l = (veOf s.m
      core).lane r l) ∧ SameMasks (veOf s.m core) (veOf m core) ∧ SameScalars (veOf s.m core) (veOf m core) ∧ SameSeeds
      (veOf s.m core) (veOf m core)) ∧
  (∀ (s : State) (core : Nat) (o : MemOps), Runs s.m core → o.maskD = true → Accessible s.m core 8
      [(veOf s.m core).base o] → ∃ m, exec (.ldm core o) s = .next { s with m := m } ∧ WritesMask s.m m core o.d.toNat
      (BitVec.ofNat 64 ((s.m.core core).ls.rd ((veOf s.m core).base o) 8))) ∧
  (∀ (s : State) (core part : Nat) (o : MemOps), Runs s.m core → o.anyFmt = true → packedFmt o.fmt.toNat = false →
      (addrFault (laneSize o.fmt.toNat) (((veOf s.m core).actives o.msk.toNat).map (laneAddr (veOf s.m core) o (fun l => l
      * laneSize o.fmt.toNat)))).isSome = true → corePart s.m core = some part → (s.m.part part).step.bind (·.replayOf) =
      none → recovering s.m part = false → ∃ m, exec (.ld core o) s = .next { s with m := m } ∧ SameLanes (veOf s.m core)
      (veOf m core) ∧ SameMasks (veOf s.m core) (veOf m core) ∧ SameScalars (veOf s.m core) (veOf m core) ∧ (m.core
      core).ls = (s.m.core core).ls ∧ (m.part part).step = none ∧ m =
      { s.m with start := m.start, power := m.power, flash := m.flash, ras := m.ras, fns := m.fns, parts := m.parts,
                 fabParts := m.fabParts, slots := m.slots, clusters := m.clusters, cores := m.cores, nodes := m.nodes,
                   hedgeOut := m.hedgeOut, fabric := m.fabric, xfers := m.xfers, netOut := m.netOut, freeCtr := m.freeCtr })

/-- Stores to the local store. ST, STS and STX store the active lanes at their addresses, ST of a packed format the bits of the
active elements of group PART, STM a mask. Every other byte of every local store is as before, and so are all registers. A bad
address faults and stores nothing (R112, R115, R132, R133). ST, STS, STX and STM complete with their own effect while a
handler runs on the core, on the conditions that each clause puts on the state and the operands alone. -/
def Obligations.VectorStores : Prop :=
  (∀ (s : State) (core : Nat) (o : MemOps), Runs s.m core → o.anyFmt = true → packedFmt o.fmt.toNat = false → addrFault
      (laneSize o.fmt.toNat) (((veOf s.m core).actives o.msk.toNat).map (laneAddr (veOf s.m core) o (fun l => l * laneSize
      o.fmt.toNat))) = none → ∃ m, exec (.st core o) s = .next { s with m := m } ∧ StoresLanes s.m m core o (fun l => l *
      laneSize o.fmt.toNat) ∧ StoreFrame s.m m core) ∧
  (∀ (s : State) (core : Nat) (o : MemOps), Runs s.m core → o.wideFmt = true → addrFault (laneSize o.fmt.toNat) (((veOf
      s.m core).actives o.msk.toNat).map (laneAddr (veOf s.m core) o (fun l => l * ((veOf s.m core).scalar
      o.b.toNat).toNat))) = none → ∃ m, exec (.sts core o) s = .next { s with m := m } ∧ StoresLanes s.m m core o (fun l
      => l * ((veOf s.m core).scalar o.b.toNat).toNat) ∧ StoreFrame s.m m core) ∧
  (∀ (s : State) (core : Nat) (o : MemOps), Runs s.m core → o.wideFmt = true → addrFault (laneSize o.fmt.toNat) (((veOf
      s.m core).actives o.msk.toNat).map (laneAddr (veOf s.m core) o (fun l => ((veOf s.m core).lane o.b.toNat l).toNat)))
      = none → ∃ m, exec (.stx core o) s = .next { s with m := m } ∧ StoresLanes s.m m core o (fun l => ((veOf s.m
      core).lane o.b.toNat l).toNat) ∧ StoreFrame s.m m core) ∧
  (∀ (s : State) (core : Nat) (o : MemOps), Runs s.m core → o.anyFmt = true → packedFmt o.fmt.toNat = true → addrFault 1
      (packedAddrs (veOf s.m core) o) = none → ∃ m, exec (.st core o) s = .next { s with m := m } ∧ (∀ l, l ∈ (veOf s.m
      core).actives o.msk.toNat → (m.core core).ls.rdBits (8 * (veOf s.m core).base o + fmtWidth o.fmt.toNat * l)
      (fmtWidth o.fmt.toNat) = bits ((veOf s.m core).regNat o.a.toNat) (packedAt o.part.toNat (fmtWidth o.fmt.toNat) l)
      (fmtWidth o.fmt.toNat)) ∧ (∀ l, l < (veOf s.m core).vl → l < 64 → (veOf s.m core).active o.msk.toNat l = false →
      (m.core core).ls.rdBits (8 * (veOf s.m core).base o + fmtWidth o.fmt.toNat * l) (fmtWidth o.fmt.toNat) = (s.m.core
      core).ls.rdBits (8 * (veOf s.m core).base o + fmtWidth o.fmt.toNat * l) (fmtWidth o.fmt.toNat)) ∧ Went s.m m core
      (veOf s.m core).vl ∧ SameLanes (veOf s.m core) (veOf m core) ∧ SameMasks (veOf s.m core) (veOf m core) ∧ SameScalars
      (veOf s.m core) (veOf m core) ∧ StoreFrame s.m m core ∧ (∀ a, a ∉ packedAddrs (veOf s.m core) o → (m.core
      core).ls.get a = (s.m.core core).ls.get a)) ∧
  (∀ (s : State) (core : Nat) (o : MemOps), Runs s.m core → o.maskA = true → addrFault 8 [(veOf s.m core).base o] = none
      → ∃ m, exec (.stm core o) s = .next { s with m := m } ∧ (m.core core).ls.rd ((veOf s.m core).base o) 8 = ((veOf s.m
      core).maskOf o.a.toNat).toNat ∧ Went s.m m core (veOf s.m core).vl ∧ SameLanes (veOf s.m core) (veOf m core) ∧
      SameMasks (veOf s.m core) (veOf m core) ∧ SameScalars (veOf s.m core) (veOf m core) ∧ StoreFrame s.m m core ∧ (∀ a,
      a < (veOf s.m core).base o ∨ (veOf s.m core).base o + 8 ≤ a → (m.core core).ls.get a = (s.m.core core).ls.get a)) ∧
  (∀ (s : State) (core part : Nat) (o : MemOps), Runs s.m core → o.maskA = true → addrFault 8 [(veOf s.m core).base o] ≠
      none → corePart s.m core = some part → (s.m.part part).step.bind (·.replayOf) = none → recovering s.m part = false →
      ∃ m, exec (.stm core o) s = .next { s with m := m } ∧ (m.core core).ls = (s.m.core core).ls ∧ SameLanes (veOf s.m
      core) (veOf m core) ∧ (m.part part).step = none ∧ m =
      { s.m with start := m.start, power := m.power, flash := m.flash, ras := m.ras, fns := m.fns, parts := m.parts,
                 fabParts := m.fabParts, slots := m.slots, clusters := m.clusters, cores := m.cores, nodes := m.nodes,
                   hedgeOut := m.hedgeOut, fabric := m.fabric, xfers := m.xfers, netOut := m.netOut, freeCtr := m.freeCtr })

/-- Scalar and control operations. LI, LIH, SADD, SSUB, SMUL and SADDI write sD; RDHDR a word of the latched header. SETVL sets VL
to min(64, sA) and writes it to sD, SETSR the stochastic-rounding state. LOOP opens a level of the loop stack with its count
read once, or skips its body on a count of 0; END ends the handler. A core without a handler is left as it is (R116 to R118,
R127, R141). LI, LIH, SADD, SSUB, SMUL, SADDI, RDHDR, SETVL, SETSR, LOOP and END complete with their own effect while a
handler runs on the core, on the conditions that each clause puts on the state and the operands alone. -/
def Obligations.VectorScalars : Prop :=
  (∀ (s : State) (core : Nat) (o : SctlOps), Runs s.m core → ∃ m, exec (.li core o) s = .next { s with m := m } ∧
      WritesScalar s.m m core o.d.toNat (o.imm.signExtend 64)) ∧
  (∀ (s : State) (core : Nat) (o : SctlOps), Runs s.m core → ∃ m, exec (.lih core o) s = .next { s with m := m } ∧
      WritesScalar s.m m core o.d.toNat (o.imm ++ (veOf s.m core).low o.d.toNat)) ∧
  (∀ (s : State) (core : Nat) (o : SctlOps), Runs s.m core → ∃ m, exec (.sadd core o) s = .next { s with m := m } ∧
      WritesScalar s.m m core o.d.toNat ((veOf s.m core).scalar o.a.toNat + (veOf s.m core).scalar o.b.toNat)) ∧
  (∀ (s : State) (core : Nat) (o : SctlOps), Runs s.m core → ∃ m, exec (.ssub core o) s = .next { s with m := m } ∧
      WritesScalar s.m m core o.d.toNat ((veOf s.m core).scalar o.a.toNat - (veOf s.m core).scalar o.b.toNat)) ∧
  (∀ (s : State) (core : Nat) (o : SctlOps), Runs s.m core → ∃ m, exec (.smul core o) s = .next { s with m := m } ∧
      WritesScalar s.m m core o.d.toNat ((veOf s.m core).scalar o.a.toNat * (veOf s.m core).scalar o.b.toNat)) ∧
  (∀ (s : State) (core : Nat) (o : SctlOps), Runs s.m core → ∃ m, exec (.saddi core o) s = .next { s with m := m } ∧
      WritesScalar s.m m core o.d.toNat ((veOf s.m core).scalar o.a.toNat + o.imm.signExtend 64)) ∧
  (∀ (s : State) (core : Nat) (o : SctlOps) (h : Handler), coreOk core = true → (veOf s.m core).handler = some h → ∃ m,
      exec (.rdhdr core o) s = .next { s with m := m } ∧ WritesScalar s.m m core o.d.toNat (BitVec.ofNat 64 (hword
      h.header (o.imm.toNat % 16)))) ∧
  (∀ (s : State) (core : Nat) (o : SctlOps), Runs s.m core → ∃ m, exec (.setvl core o) s = .next { s with m := m } ∧
      VeFrame s.m m core ∧ Went s.m m core (min 64 ((veOf s.m core).scalar o.a.toNat).toNat) ∧ SameLanes (veOf s.m core)
      (veOf m core) ∧ SameMasks (veOf s.m core) (veOf m core) ∧ ScalarIs (veOf s.m core) (veOf m core) o.d.toNat
      (BitVec.ofNat 64 (min 64 ((veOf s.m core).scalar o.a.toNat).toNat)) ∧ SameSeeds (veOf s.m core) (veOf m core)) ∧
  (∀ (s : State) (core : Nat) (o : SctlOps), Runs s.m core → ∃ m, exec (.setsr core o) s = .next { s with m := m } ∧
      VeFrame s.m m core ∧ Went s.m m core (veOf s.m core).vl ∧ SameLanes (veOf s.m core) (veOf m core) ∧ SameMasks (veOf
      s.m core) (veOf m core) ∧ SameScalars (veOf s.m core) (veOf m core) ∧ (veOf m core).seed = (veOf s.m core).scalar
      o.a.toNat ∧ (veOf m core).stream = ((veOf s.m core).scalar o.b.toNat).setWidth 16) ∧
  (∀ (s : State) (core : Nat) (o : SctlOps), Runs s.m core → o.bodyOk = true → (veOf s.m core).scalar o.a.toNat ≠ 0 → ∃
      m, exec (.loop core o) s = .next { s with m := m } ∧ VeFrame s.m m core ∧ SameLanes (veOf s.m core) (veOf m core) ∧
      SameMasks (veOf s.m core) (veOf m core) ∧ SameScalars (veOf s.m core) (veOf m core) ∧ SameSeeds (veOf s.m core)
      (veOf m core) ∧ (veOf m core).handler = (veOf s.m core).handler ∧ (veOf m core).pc = (veOf s.m core).pc + 1 ∧ (veOf
      m core).vl = (if o.strip = true then min 64 ((veOf s.m core).scalar o.a.toNat).toNat else (veOf s.m core).vl) ∧
      (veOf m core).loops =
      { bodyStart := (veOf s.m core).pc + 1, bodyEnd := (veOf s.m core).pc + 1 + o.imm.toNat % 4096,
        total := (if o.strip = true then (((veOf s.m core).scalar o.a.toNat).toNat + 63) / 64 else ((veOf s.m core).scalar
          o.a.toNat).toNat), iter := 0, strip := o.strip, count := ((veOf s.m core).scalar o.a.toNat).toNat,
            savedVl := (veOf s.m core).vl }
      :: (veOf s.m core).loops) ∧
  (∀ (s : State) (core : Nat) (o : SctlOps), Runs s.m core → o.bodyOk = true → (veOf s.m core).scalar o.a.toNat = 0 → ∃
      m, exec (.loop core o) s = .next { s with m := m } ∧ VeFrame s.m m core ∧ SameLanes (veOf s.m core) (veOf m core) ∧
      SameMasks (veOf s.m core) (veOf m core) ∧ SameScalars (veOf s.m core) (veOf m core) ∧ SameSeeds (veOf s.m core)
      (veOf m core) ∧ ((veOf m core).loops, (veOf m core).pc, (veOf m core).vl) = loopEnds (veOf s.m core).loops ((veOf
      s.m core).pc + 1 + o.imm.toNat % 4096) (veOf s.m core).vl) ∧
  (∀ (s : State) (core : Nat) (o : SctlOps), Runs s.m core → ∃ m, exec (.endHandler core o) s = .next { s with m := m } ∧
      VeFrame s.m m core ∧ SameLanes (veOf s.m core) (veOf m core) ∧ SameMasks (veOf s.m core) (veOf m core) ∧ SameScalars
      (veOf s.m core) (veOf m core) ∧ SameSeeds (veOf s.m core) (veOf m core) ∧ (veOf m core).handler = none ∧ (veOf m
      core).loops = [] ∧ (veOf m core).vl = (veOf s.m core).vl) ∧
  (∀ (s : State) (core : Nat) (w : Nat) (i : Instr), coreOk core = true → handling s.m core = false → veDecode core w =
      some i → exec i s = .next s)

/-- Handlers and queue operations. A triggering bundle of a table entry, first of those at the heads of the engine's queues,
starts its handler: VL is 64, the loop stack empty, the header is latched and the flit popped; a marker is skipped and passed
on; a tag without an entry aborts the task. RECV takes payload flits into D and their number into sB, or waits; SEND stages a
new bundle, more of an open one, a token or a CLOSE, and SENDE a marker or a CLOSE, each bundle with the next SEQ, while there
is room, or they wait. HANDLER_START, RECV, SEND and SENDE complete with their own effect (R118, R119, R135, R144, R149 to
R153, R155, R186). -/
def Obligations.VectorQueues : Prop :=
  (∀ (s : State) (core : Nat) (queue : BitVec 4) (f : Flit) (r : List Flit) (e : HandlerEntry), coreOk core = true →
      handling s.m core = false → (s.m.core core).halted = false → inUse s.m core = true → (inBind s.m core
      queue.toNat).consumer = 1 → handlerBefore s.m core queue.toNat = false → (inQ s.m core queue.toNat).flits = f :: r →
      f.first = true → headerBad f.data = false → isMarker f.data = false → handlerFor s.m core queue.toNat (htag f.data)
      = some e → ∃ m, exec (.handlerStart core queue) s = .next { s with m := m } ∧ veOf m core =
      { veOf s.m core with vl := 64, pc := e.start, loops := [], handler := some {
                             inQ := queue.toNat, header := f.data, outMask := e.outMask, startCc := (veOf s.m core).cc,
                               ended := f.last } }
      ∧ (inQ m core queue.toNat).flits.take r.length = r ∧ ((inQ s.m core queue.toNat).feed = [] → (inQ m core
      queue.toNat).flits = r) ∧ (m.core core).ls = (s.m.core core).ls ∧ m =
      { s.m with parts := m.parts, cores := m.cores }) ∧
  (∀ (s : State) (core : Nat) (queue : BitVec 4) (f : Flit) (r : List Flit) (e : HandlerEntry), coreOk core = true →
      handling s.m core = false → (s.m.core core).halted = false → inUse s.m core = true → (inBind s.m core
      queue.toNat).consumer = 1 → handlerBefore s.m core queue.toNat = false → (inQ s.m core queue.toNat).flits = f :: r →
      f.first = true → headerBad f.data = false → isMarker f.data = true → handlerFor s.m core queue.toNat (htag f.data) =
      some e → (maskQueues e.outMask).all (fun x => (outQ s.m core x).takes 1) = true → ∃ m, exec (.handlerStart core
      queue) s = .next { s with m := m } ∧ veOf m core = veOf s.m core ∧ ((inQ s.m core queue.toNat).feed = [] → (inQ m
      core queue.toNat).flits = r) ∧ (∀ q, q ∈ maskQueues e.outMask → ((outQ m core q).inFlight ++ (outQ m core
      q).staging).map (·.data) = ((outQ s.m core q).inFlight ++ (outQ s.m core q).staging).map (·.data) ++
      [withWords (markerOf (htag f.data) f.data) (fun i => if i = 2 then some (outQ s.m core q).seq else none)]) ∧
      ((s.m.clu (core / 80)).freeze = 0 → (m.core core).cnt.veSkip = satAdd (s.m.core core).cnt.veSkip 1) ∧ m =
      { s.m with parts := m.parts, cores := m.cores }) ∧
  (∀ (s : State) (core part : Nat) (queue : BitVec 4) (f : Flit) (r : List Flit), coreOk core = true → handling s.m core
      = false → (s.m.core core).halted = false → inUse s.m core = true → (inBind s.m core queue.toNat).consumer = 1 →
      handlerBefore s.m core queue.toNat = false → (inQ s.m core queue.toNat).flits = f :: r → f.first = true → handlerFor
      s.m core queue.toNat (htag f.data) = none → corePart s.m core = some part → (s.m.part part).step.bind (·.replayOf) =
      none → recovering s.m part = false → ∃ m, exec (.handlerStart core queue) s = .next { s with m := m } ∧ (m.part
      part).step = none ∧ (m.core core).ls = (s.m.core core).ls ∧ m =
      { s.m with start := m.start, ras := m.ras, fns := m.fns, parts := m.parts, fabParts := m.fabParts, slots := m.slots,
                 clusters := m.clusters, cores := m.cores, nodes := m.nodes, hedgeOut := m.hedgeOut, fabric := m.fabric,
                   xfers := m.xfers, netOut := m.netOut, freeCtr := m.freeCtr }) ∧
  (∀ (s : State) (core : Nat) (queue : BitVec 4), coreOk core = true → handling s.m core = true ∨ (s.m.core core).halted
      = true ∨ inUse s.m core = false ∨ handlerBefore s.m core queue.toNat = true ∨ (inQ s.m core queue.toNat).flits = []
      → exec (.handlerStart core queue) s = .next s) ∧
  (∀ (s : State) (core : Nat) (o : QioOps) (pop pay : List Flit), Runs s.m core → recvFlits s.m core o.q.toNat
      (o.nf.toNat + 1) = some (pop, pay) → pop.all (fun f => !f.first || !headerBad f.data) = true → ∃ m, exec (.recv core
      o) s = .next { s with m := m } ∧ ((inQ s.m core o.q.toNat).feed = [] → (inQ m core o.q.toNat).flits = (inQ s.m core
      o.q.toNat).flits.drop pop.length) ∧ (∀ i, i < pay.length → bits ((veOf m core).regNat o.d.toNat) (512 * i) 512 =
      (pay.map (·.data.toNat)).getD i 0) ∧ (∀ i, pay.length ≤ i → i < 4 → bits ((veOf m core).regNat o.d.toNat) (512 * i)
      512 = bits ((veOf s.m core).regNat o.d.toNat) (512 * i) 512) ∧ (∀ r, r < 32 → r ≠ o.d.toNat → ∀ l, l < 64 → (veOf m
      core).lane r l = (veOf s.m core).lane r l) ∧ ScalarIs (veOf s.m core) (veOf m core) o.b.toNat (BitVec.ofNat 64
      pay.length) ∧ SameMasks (veOf s.m core) (veOf m core) ∧ (m.core core).ls = (s.m.core core).ls ∧ m =
      { s.m with parts := m.parts, cores := m.cores }) ∧
  (∀ (s : State) (core part : Nat) (o : QioOps) (f : Flit) (pop pay : List Flit), Runs s.m core → recvFlits s.m core
      o.q.toNat (o.nf.toNat + 1) = some (f :: pop, pay) → f.first = true → headerBad f.data = true → corePart s.m core =
      some part → (s.m.part part).step.bind (·.replayOf) = none → recovering s.m part = false → ∃ m, exec (.recv core o) s
      = .next { s with m := m } ∧ (m.part part).step = none ∧ SameLanes (veOf s.m core) (veOf m core) ∧ (m.core core).ls =
      (s.m.core core).ls ∧ m =
      { s.m with start := m.start, ras := m.ras, fns := m.fns, parts := m.parts, fabParts := m.fabParts, slots := m.slots,
                 clusters := m.clusters, cores := m.cores, nodes := m.nodes, hedgeOut := m.hedgeOut, fabric := m.fabric,
                   xfers := m.xfers, netOut := m.netOut, freeCtr := m.freeCtr }) ∧
  (∀ (s : State) (core : Nat) (o : QioOps), Runs s.m core → recvFlits s.m core o.q.toNat (o.nf.toNat + 1) = none → ∃ m,
      exec (.recv core o) s = .next { s with m := m } ∧ veOf m core = veOf s.m core ∧ inQ m core o.q.toNat = inQ s.m core
      o.q.toNat ∧ m = { s.m with parts := m.parts, clusters := m.clusters, cores := m.cores }) ∧
  (∀ (s : State) (core : Nat) (o : QioOps), Runs s.m core → (outQ s.m core o.q.toNat).room (sendCount s.m core o) = true
      → (outQ s.m core o.q.toNat).openBundle = false → o.tag.toNat ≠ closeTag → (outBind s.m core o.q.toNat).tokenQ =
      false → ∃ m, exec (.send core o) s = .next { s with m := m } ∧ ((outQ m core o.q.toNat).inFlight ++ (outQ m core
      o.q.toNat).staging).map (·.data) = ((outQ s.m core o.q.toNat).inFlight ++ (outQ s.m core o.q.toNat).staging).map
      (·.data) ++ withWords (sendHeader s.m core kData o.tag.toNat) (fun i => if i = 2 then some (outQ s.m core
      o.q.toNat).seq else none) :: regFlits (veOf s.m core) o.a.toNat (o.nf.toNat + 1) ∧ (outQ m core o.q.toNat).seq =
      ((outQ s.m core o.q.toNat).seq + 1) % 4294967296 ∧ (outQ m core o.q.toNat).sinceClose = (outQ s.m core
      o.q.toNat).sinceClose + 1 ∧ (outQ m core o.q.toNat).openBundle = !o.last ∧ Went s.m m core (veOf s.m core).vl ∧
      SameLanes (veOf s.m core) (veOf m core) ∧ SameMasks (veOf s.m core) (veOf m core) ∧ SameScalars (veOf s.m core)
      (veOf m core) ∧ (∀ c, c ≠ core → m.core c = s.m.core c) ∧ m = { s.m with parts := m.parts, cores := m.cores }) ∧
  (∀ (s : State) (core : Nat) (o : QioOps), Runs s.m core → (outQ s.m core o.q.toNat).room (sendCount s.m core o) = true
      → (outQ s.m core o.q.toNat).openBundle = true → ∃ m, exec (.send core o) s = .next { s with m := m } ∧ ((outQ m core
      o.q.toNat).inFlight ++ (outQ m core o.q.toNat).staging).map (·.data) = ((outQ s.m core o.q.toNat).inFlight ++ (outQ
      s.m core o.q.toNat).staging).map (·.data) ++ (if (outQ s.m core o.q.toNat).openDrops = true then [] else regFlits
      (veOf s.m core) o.a.toNat (o.nf.toNat + 1)) ∧ (outQ m core o.q.toNat).seq = (outQ s.m core o.q.toNat).seq ∧ (outQ m
      core o.q.toNat).sinceClose = (outQ s.m core o.q.toNat).sinceClose ∧ (outQ m core o.q.toNat).openBundle = !o.last ∧
      Went s.m m core (veOf s.m core).vl ∧ SameLanes (veOf s.m core) (veOf m core) ∧ SameMasks (veOf s.m core) (veOf m
      core) ∧ SameScalars (veOf s.m core) (veOf m core) ∧ (∀ c, c ≠ core → m.core c = s.m.core c) ∧ m =
      { s.m with parts := m.parts, cores := m.cores }) ∧
  (∀ (s : State) (core : Nat) (o : QioOps), Runs s.m core → (outQ s.m core o.q.toNat).takes 1 = true → o.tag.toNat =
      closeTag → ∃ m, exec (.send core o) s = .next { s with m := m } ∧ ((outQ m core o.q.toNat).inFlight ++ (outQ m core
      o.q.toNat).staging).map (·.data) = ((outQ s.m core o.q.toNat).inFlight ++ (outQ s.m core o.q.toNat).staging).map
      (·.data) ++
      [withWords (sendHeader s.m core kData o.tag.toNat) (fun i => if i = 0 then some (tagWord kClose closeTag) else if i = 1
        then some 0 else if i = 2 then some (outQ s.m core o.q.toNat).seq else if i = 3 then some (outQ s.m core
          o.q.toNat).sinceClose else none)]
      ∧ (outQ m core o.q.toNat).seq = ((outQ s.m core o.q.toNat).seq + 1) % 4294967296 ∧ (outQ m core
      o.q.toNat).sinceClose = 0 ∧ Went s.m m core (veOf s.m core).vl ∧ SameLanes (veOf s.m core) (veOf m core) ∧ SameMasks
      (veOf s.m core) (veOf m core) ∧ SameScalars (veOf s.m core) (veOf m core) ∧ (∀ c, c ≠ core → m.core c = s.m.core c)
      ∧ m = { s.m with parts := m.parts, cores := m.cores }) ∧
  (∀ (s : State) (core : Nat) (o : QioOps), Runs s.m core → (outQ s.m core o.q.toNat).takes 1 = true → o.tag.toNat ≠
      closeTag → (outBind s.m core o.q.toNat).tokenQ = true → ∃ m, exec (.send core o) s = .next { s with m := m } ∧
      ((outQ m core o.q.toNat).inFlight ++ (outQ m core o.q.toNat).staging).map (·.data) = ((outQ s.m core
      o.q.toNat).inFlight ++ (outQ s.m core o.q.toNat).staging).map (·.data) ++
      [withWords (tokenHeader (sendHeader s.m core kData o.tag.toNat) ((regFlits (veOf s.m core) o.a.toNat 1).getD 0 0)) (fun
        i => if i = 2 then some (outQ s.m core o.q.toNat).seq else none)]
      ∧ (outQ m core o.q.toNat).seq = ((outQ s.m core o.q.toNat).seq + 1) % 4294967296 ∧ (outQ m core
      o.q.toNat).sinceClose = (outQ s.m core o.q.toNat).sinceClose + 1 ∧ Went s.m m core (veOf s.m core).vl ∧ SameLanes
      (veOf s.m core) (veOf m core) ∧ SameMasks (veOf s.m core) (veOf m core) ∧ SameScalars (veOf s.m core) (veOf m core)
      ∧ (∀ c, c ≠ core → m.core c = s.m.core c) ∧ m = { s.m with parts := m.parts, cores := m.cores }) ∧
  (∀ (s : State) (core : Nat) (o : QioOps), Runs s.m core → (outQ s.m core o.q.toNat).room (sendCount s.m core o) = false
      → ∃ m, exec (.send core o) s = .next { s with m := m } ∧ veOf m core = veOf s.m core ∧ outQ m core o.q.toNat = outQ
      s.m core o.q.toNat ∧ m = { s.m with parts := m.parts, cores := m.cores }) ∧
  (∀ (s : State) (core : Nat) (o : QioOps), Runs s.m core → (outQ s.m core o.q.toNat).takes 1 = true → o.tag.toNat ≠
      closeTag → ∃ m, exec (.sende core o) s = .next { s with m := m } ∧ ((outQ m core o.q.toNat).inFlight ++ (outQ m core
      o.q.toNat).staging).map (·.data) = ((outQ s.m core o.q.toNat).inFlight ++ (outQ s.m core o.q.toNat).staging).map
      (·.data) ++
      [withWords (markerOf o.tag.toNat (sendHeader s.m core kData o.tag.toNat)) (fun i => if i = 2 then some (outQ s.m core
        o.q.toNat).seq else none)]
      ∧ (outQ m core o.q.toNat).seq = ((outQ s.m core o.q.toNat).seq + 1) % 4294967296 ∧ (outQ m core
      o.q.toNat).sinceClose = (outQ s.m core o.q.toNat).sinceClose + 1 ∧ Went s.m m core (veOf s.m core).vl ∧ SameLanes
      (veOf s.m core) (veOf m core) ∧ SameMasks (veOf s.m core) (veOf m core) ∧ SameScalars (veOf s.m core) (veOf m core)
      ∧ (∀ c, c ≠ core → m.core c = s.m.core c) ∧ m = { s.m with parts := m.parts, cores := m.cores }) ∧
  (∀ (s : State) (core : Nat) (o : QioOps), Runs s.m core → (outQ s.m core o.q.toNat).takes 1 = true → o.tag.toNat =
      closeTag → ∃ m, exec (.sende core o) s = .next { s with m := m } ∧ ((outQ m core o.q.toNat).inFlight ++ (outQ m core
      o.q.toNat).staging).map (·.data) = ((outQ s.m core o.q.toNat).inFlight ++ (outQ s.m core o.q.toNat).staging).map
      (·.data) ++
      [withWords (sendHeader s.m core kData o.tag.toNat) (fun i => if i = 0 then some (tagWord kClose closeTag) else if i = 1
        then some 0 else if i = 2 then some (outQ s.m core o.q.toNat).seq else if i = 3 then some (outQ s.m core
          o.q.toNat).sinceClose else none)]
      ∧ (outQ m core o.q.toNat).seq = ((outQ s.m core o.q.toNat).seq + 1) % 4294967296 ∧ (outQ m core
      o.q.toNat).sinceClose = 0 ∧ Went s.m m core (veOf s.m core).vl ∧ SameLanes (veOf s.m core) (veOf m core) ∧ SameMasks
      (veOf s.m core) (veOf m core) ∧ SameScalars (veOf s.m core) (veOf m core) ∧ (∀ c, c ≠ core → m.core c = s.m.core c)
      ∧ m = { s.m with parts := m.parts, cores := m.cores }) ∧
  (∀ (s : State) (core : Nat) (o : QioOps), Runs s.m core → (outQ s.m core o.q.toNat).takes 1 = false → ∃ m, exec (.sende
      core o) s = .next { s with m := m } ∧ veOf m core = veOf s.m core ∧ outQ m core o.q.toNat = outQ s.m core o.q.toNat
      ∧ (∀ c, c ≠ core → m.core c = s.m.core c) ∧ m = { s.m with parts := m.parts, cores := m.cores })

/-- The matrix engine: runs, passes, seeds and block records. The next run starts a pass of its descriptor, its rows free where
ACC_INIT says so and its first local-store block in W_NEXT, waiting for its ring where it must; a marker skips it and is
forwarded. A pass of a narrow descriptor enters the block results of every row and column in increasing block order and goes
on to the next weight block; after the last one the descriptor writes its rows where it must, and the run list goes on. A seed
bundle starts the next waiting row from its pairs. The next block record of a row is combined, a late or second one is an
error, one ahead is held while there are slots and waits otherwise, and a marker closes its producer's part. ME_RUN_ENTRY,
ME_PASS_COMPLETE, ME_SEED_ARRIVAL and ME_MERGE_RECORD complete with their own effect (R88 to R100, R105, R106, R187, R188). -/
def Obligations.Matrix : Prop :=
  (∀ (s : State) (core : Nat), coreOk core = true → (runList (planeBytes (s.m.core core)))[(s.m.core core).me.runIdx]? =
      none ∨ (activePlane (s.m.core core)).isNone = true ∨ inUse s.m core = false ∨ (s.m.core core).halted = true ∨
      (s.m.core core).me.pass.isSome = true → exec (.meRunEntry core) s = .next s) ∧
  (∀ (s : State) (core : Nat) (e : RunEntry), coreOk core = true → (runList (planeBytes (s.m.core
      core)))[(s.m.core core).me.runIdx]? = some e → inUse s.m core = true → (s.m.core core).halted = false → (s.m.core
      core).me.pass = none → e.wait = false → ∃ m, exec (.meRunEntry core) s = .next { s with m := m } ∧ (m.core
      core).me.pass = some
      { desc := e.desc, rows := (if (s.m.core core).side.get (rowsKey (meDesc (planeBytes (s.m.core core)) e.desc).actAddr) =
          0 then (meDesc (planeBytes (s.m.core core)) e.desc).m else min (meDesc (planeBytes (s.m.core core)) e.desc).m
            ((s.m.core core).side.get (rowsKey (meDesc (planeBytes (s.m.core core)) e.desc).actAddr)).toNat), ring := none,
              slotAddr := (meDesc (planeBytes (s.m.core core)) e.desc).actAddr }
      ∧ (m.core core).me.runIdx = (s.m.core core).me.runIdx ∧ ((meDesc (planeBytes (s.m.core core)) e.desc).accInit = true
      → merges s.m core (meDesc (planeBytes (s.m.core core)) e.desc) = false → (s.m.core core).me.acc.wf = true → ∀ k,
      keyTile k = plainTile → keyRow k < (if (s.m.core core).side.get (rowsKey (meDesc (planeBytes (s.m.core core))
      e.desc).actAddr) = 0 then (meDesc (planeBytes (s.m.core core)) e.desc).m else min (meDesc (planeBytes (s.m.core
      core)) e.desc).m ((s.m.core core).side.get (rowsKey (meDesc (planeBytes (s.m.core core)) e.desc).actAddr)).toNat) →
      (m.core core).me.acc.get k = {}) ∧ ((meDesc (planeBytes (s.m.core core)) e.desc).fromTm = false → (meDesc
      (planeBytes (s.m.core core)) e.desc).mode = 0 → 0 < (meDesc (planeBytes (s.m.core core)) e.desc).blocks → (s.m.core
      core).me.front = [] → (s.m.core core).me.wNext = none → (m.core core).me.wNext = some ((s.m.core core).ls.bytes
      (meDesc (planeBytes (s.m.core core)) e.desc).wgtAddr (meDesc (planeBytes (s.m.core core)) e.desc).blockBytes)) ∧ (∀
      c, c ≠ core → m.core c = s.m.core c) ∧ m = { s.m with parts := m.parts, cores := m.cores }) ∧
  (∀ (s : State) (core : Nat) (e : RunEntry) (r : List Bool), coreOk core = true → (runList (planeBytes (s.m.core
      core)))[(s.m.core core).me.runIdx]? = some e → inUse s.m core = true → (s.m.core core).halted = false → (s.m.core
      core).me.pass = none → e.wait = true → ((s.m.core core).rings.get e.ring).order = false :: r → ∃ m, exec
      (.meRunEntry core) s = .next { s with m := m } ∧ (m.core core).me.pass = some
      { desc := e.desc, rows := (if (s.m.core core).side.get (rowsKey ((ringEntry (planeBytes (s.m.core core)) e.ring).base +
          ((s.m.core core).rings.get e.ring).head * (ringEntry (planeBytes (s.m.core core)) e.ring).flits * 64)) = 0 then
            (meDesc (planeBytes (s.m.core core)) e.desc).m else min (meDesc (planeBytes (s.m.core core)) e.desc).m ((s.m.core
              core).side.get (rowsKey ((ringEntry (planeBytes (s.m.core core)) e.ring).base + ((s.m.core core).rings.get
                e.ring).head * (ringEntry (planeBytes (s.m.core core)) e.ring).flits * 64))).toNat), ring := some e.ring,
                  slotAddr := ((ringEntry (planeBytes (s.m.core core)) e.ring).base + ((s.m.core core).rings.get e.ring).head
                    * (ringEntry (planeBytes (s.m.core core)) e.ring).flits * 64) }
      ∧ (m.core core).me.runIdx = (s.m.core core).me.runIdx ∧ (m.core core).rings = (s.m.core core).rings ∧ ((meDesc
      (planeBytes (s.m.core core)) e.desc).accInit = true → merges s.m core (meDesc (planeBytes (s.m.core core)) e.desc) =
      false → (s.m.core core).me.acc.wf = true → ∀ k, keyTile k = plainTile → keyRow k < (if (s.m.core core).side.get
      (rowsKey ((ringEntry (planeBytes (s.m.core core)) e.ring).base + ((s.m.core core).rings.get e.ring).head *
      (ringEntry (planeBytes (s.m.core core)) e.ring).flits * 64)) = 0 then (meDesc (planeBytes (s.m.core core)) e.desc).m
      else min (meDesc (planeBytes (s.m.core core)) e.desc).m ((s.m.core core).side.get (rowsKey ((ringEntry (planeBytes
      (s.m.core core)) e.ring).base + ((s.m.core core).rings.get e.ring).head * (ringEntry (planeBytes (s.m.core core))
      e.ring).flits * 64))).toNat) → (m.core core).me.acc.get k = {}) ∧ ((meDesc (planeBytes (s.m.core core))
      e.desc).fromTm = false → (meDesc (planeBytes (s.m.core core)) e.desc).mode = 0 → 0 < (meDesc (planeBytes (s.m.core
      core)) e.desc).blocks → (s.m.core core).me.front = [] → (s.m.core core).me.wNext = none → (m.core core).me.wNext =
      some ((s.m.core core).ls.bytes (meDesc (planeBytes (s.m.core core)) e.desc).wgtAddr (meDesc (planeBytes (s.m.core
      core)) e.desc).blockBytes)) ∧ (∀ c, c ≠ core → m.core c = s.m.core c) ∧ m =
      { s.m with parts := m.parts, cores := m.cores }) ∧
  (∀ (s : State) (core : Nat) (e : RunEntry), coreOk core = true → (runList (planeBytes (s.m.core
      core)))[(s.m.core core).me.runIdx]? = some e → inUse s.m core = true → (s.m.core core).halted = false → (s.m.core
      core).me.pass = none → e.wait = true → ((s.m.core core).rings.get e.ring).order = [] → ∃ m, exec (.meRunEntry core)
      s = .next { s with m := m } ∧ m = { s.m with parts := m.parts }) ∧
  (∀ (s : State) (core : Nat) (e : RunEntry) (r : List Bool), coreOk core = true → (runList (planeBytes (s.m.core
      core)))[(s.m.core core).me.runIdx]? = some e → inUse s.m core = true → (s.m.core core).halted = false → (s.m.core
      core).me.pass = none → e.wait = true → ((s.m.core core).rings.get e.ring).order = true :: r → merges s.m core
      (meDesc (planeBytes (s.m.core core)) e.desc) = false → (meDesc (planeBytes (s.m.core core)) e.desc).outKind = 0 ∨
      (outQ s.m core (meDesc (planeBytes (s.m.core core)) e.desc).outQ).takes 1 = true → ∃ m, exec (.meRunEntry core) s =
      .next { s with m := m } ∧ ((m.core core).rings.get e.ring).order = r ∧ (m.core core).me.pass = none ∧ (m.core
      core).me.acc = (s.m.core core).me.acc ∧ ((meDesc (planeBytes (s.m.core core)) e.desc).outKind ≠ 0 → ((outQ m core
      (meDesc (planeBytes (s.m.core core)) e.desc).outQ).inFlight ++ (outQ m core (meDesc (planeBytes (s.m.core core))
      e.desc).outQ).staging).map (·.data) = ((outQ s.m core (meDesc (planeBytes (s.m.core core)) e.desc).outQ).inFlight ++
      (outQ s.m core (meDesc (planeBytes (s.m.core core)) e.desc).outQ).staging).map (·.data) ++
      [withWords (meHeader kData (meDesc (planeBytes (s.m.core core)) e.desc).outTag 0 (meDesc (planeBytes (s.m.core core))
        e.desc).mergeId 0 0 0) (fun i => if i = 2 then some (outQ s.m core (meDesc (planeBytes (s.m.core core))
          e.desc).outQ).seq else if i = 1 then some 1 else none)])
      ∧ ((s.m.clu (core / 80)).freeze = 0 → (m.core core).cnt.meSkip = satAdd (s.m.core core).cnt.meSkip 1) ∧ (∀ c, c ≠
      core → m.core c = s.m.core c) ∧ m = { s.m with parts := m.parts, cores := m.cores } ∧ (if (s.m.core core).me.runRep
      + 1 < e.times then (m.core core).me.runIdx = (s.m.core core).me.runIdx ∧ (m.core core).me.runRep = (s.m.core
      core).me.runRep + 1 else (m.core core).me.runIdx = (s.m.core core).me.runIdx + 1 ∧ (m.core core).me.runRep = 0)) ∧
  (∀ (s : State) (core : Nat) (e : RunEntry) (r : List Bool), coreOk core = true → (runList (planeBytes (s.m.core
      core)))[(s.m.core core).me.runIdx]? = some e → inUse s.m core = true → (s.m.core core).halted = false → (s.m.core
      core).me.pass = none → e.wait = true → ((s.m.core core).rings.get e.ring).order = true :: r → (meDesc (planeBytes
      (s.m.core core)) e.desc).outKind ≠ 0 → (outQ s.m core (meDesc (planeBytes (s.m.core core)) e.desc).outQ).takes 1 =
      false → ∃ m, exec (.meRunEntry core) s = .next { s with m := m } ∧ (m.core core).me = (s.m.core core).me ∧ (m.core
      core).rings = (s.m.core core).rings ∧ (m.core core).outq = (s.m.core core).outq ∧ (∀ c, c ≠ core → m.core c =
      s.m.core c) ∧ m = { s.m with parts := m.parts, cores := m.cores }) ∧
  (∀ (s : State) (core : Nat), coreOk core = true → (s.m.core core).me.pass = none → (s.m.core
      core).me.tiles.cells.isEmpty = true → exec (.mePassComplete core) s = .next s ∧ exec (.meSeedArrival core) s = .next
      s) ∧
  (∀ (s : State) (core : Nat) (p : Pass) (d : MeDesc) (w : List Byte), coreOk core = true → (s.m.core
      core).me.tiles.cells.isEmpty = true → (s.m.core core).me.pass = some p → meDesc (planeBytes (s.m.core core)) p.desc
      = d → p.live = false → (s.m.core core).halted = false → seedsIn (s.m.core core).me d p.rows = true → p.blk + 1 <
      d.blocks → (s.m.core core).me.wNext = some w → passPoison s.m core d p = none → d.mode = 0 → d.narrow = true →
      d.outKind ≠ 2 → merges s.m core d = false → ∃ m, exec (.mePassComplete core) s = .next { s with m := m } ∧ (m.core
      core).me.pass = some { p with blk := p.blk + 1, live := false, sent := 0 } ∧ (m.core core).me.wAct = w ∧ (∀ r, r <
      p.rows → ∀ n, n < 64 → (m.core core).me.acc.get (accKey plainTile 0 r n) = ((List.range (if d.isFp44 = true then 4
      else 2)).filter fun j => d.inK p.blk (32 * j)).foldl (fun q j => q.enter (blockResult (s.m.core core) d w p.slotAddr
      p.blk r n j).1 (blockResult (s.m.core core) d w p.slotAddr p.blk r n j).2.1 (blockResult (s.m.core core) d w
      p.slotAddr p.blk r n j).2.2) ((s.m.core core).me.acc.get (accKey plainTile 0 r n))) ∧ ((s.m.clu (core / 80)).freeze
      = 0 → (m.core core).cnt.meBusy = satAdd (s.m.core core).cnt.meBusy (p.rows * d.step)) ∧ (m.core core).ls = (s.m.core
      core).ls ∧ (∀ c, c ≠ core → m.core c = s.m.core c) ∧ m = { s.m with parts := m.parts, cores := m.cores }) ∧
  (∀ (s : State) (core : Nat) (p : Pass) (d : MeDesc) (e : RunEntry), coreOk core = true → (s.m.core
      core).me.tiles.cells.isEmpty = true → (s.m.core core).me.pass = some p → meDesc (planeBytes (s.m.core core)) p.desc
      = d → seedsIn (s.m.core core).me d p.rows = true → d.blocks ≤ p.blk → d.outKind ≠ 3 → d.writeOut = false → (runList
      (planeBytes (s.m.core core)))[(s.m.core core).me.runIdx]? = some e → ∃ m, exec (.mePassComplete core) s = .next
      { s with m := m } ∧ (m.core core).me = Me.advance
      { (s.m.core core).me with pass := none, seeded := {}, wNext := none } e ∧ (m.core core).ls = (s.m.core core).ls ∧ (∀
      c, c ≠ core → m.core c = s.m.core c) ∧ m = { s.m with parts := m.parts, cores := m.cores }) ∧
  (∀ (s : State) (core : Nat) (p : Pass) (d : MeDesc), coreOk core = true → (s.m.core core).me.tiles.cells.isEmpty = true
      → (s.m.core core).me.pass = some p → meDesc (planeBytes (s.m.core core)) p.desc = d → seedsIn (s.m.core core).me d
      p.rows = true → d.blocks ≤ p.blk → p.sent = 0 → d.outKind = 0 → d.writeOut = true → merges s.m core d = false →
      (s.m.core core).me.acc.wf = true → ∃ m, exec (.mePassComplete core) s = .next { s with m := m } ∧ (m.core
      core).me.pass = none ∧ (∀ r, r < p.rows → (m.core core).ls.bytes (d.outAddr + r * (meRowBytes d (meRow d (s.m.core
      core).me.acc plainTile r).1 (meRow d (s.m.core core).me.acc plainTile r).2).length) (meRowBytes d (meRow d (s.m.core
      core).me.acc plainTile r).1 (meRow d (s.m.core core).me.acc plainTile r).2).length = (meRowBytes d (meRow d
      (s.m.core core).me.acc plainTile r).1 (meRow d (s.m.core core).me.acc plainTile r).2)) ∧ (∀ k, keyTile k = plainTile
      → keyRow k < p.rows → (m.core core).me.acc.get k = {}) ∧ (∀ c, c ≠ core → m.core c = s.m.core c) ∧ m =
      { s.m with ras := m.ras, parts := m.parts, cores := m.cores }) ∧
  (∀ (s : State) (core : Nat) (p : Pass) (d : MeDesc), coreOk core = true → (s.m.core core).me.tiles.cells.isEmpty = true
      → (s.m.core core).me.pass = some p → meDesc (planeBytes (s.m.core core)) p.desc = d → seedsIn (s.m.core core).me d
      p.rows = false → ∃ m, exec (.mePassComplete core) s = .next { s with m := m } ∧ (m.core core).me = (s.m.core
      core).me ∧ (m.core core).ls = (s.m.core core).ls ∧ (∀ c, c ≠ core → m.core c = s.m.core c) ∧ m =
      { s.m with parts := m.parts, cores := m.cores }) ∧
  (∀ (s : State) (core q r x : Nat) (p : Pass) (d : MeDesc) (h : BitVec 512) (payload : List (BitVec 512)), coreOk core =
      true → (s.m.core core).me.pass = some p → meDesc (planeBytes (s.m.core core)) p.desc = d → d.seeds = some q →
      ((List.range p.rows).flatMap fun r => (List.range (if d.isFp32 = true then 4 else 1)).map fun x => (x, r)).find?
      (fun k => !(s.m.core core).me.seeded.get (k.1 * 256 + k.2)) = some (x, r) → headBundle s.m core q = some (h,
      payload) → headerBad h = false → isClosing h = false → ∃ m, exec (.meSeedArrival core) s = .next { s with m := m } ∧
      (m.core core).me.seeded = (s.m.core core).me.seeded.put (x * 256 + r) true ∧ (∀ n, n < 64 → (m.core core).me.acc.get
      (accKey (s.m.core core).me.tile x r n) = Pair.ofSeed (payloadPair payload n).1 (payloadPair payload n).2) ∧ (∀ k, k
      / 64 ≠ ((s.m.core core).me.tile * 4 + x) * 256 + r → (m.core core).me.acc.get k = (s.m.core core).me.acc.get k) ∧
      ((inQ s.m core q).feed = [] → (inQ m core q).flits = (inQ s.m core q).flits.drop (payload.length + 1)) ∧ m =
      { s.m with parts := m.parts, cores := m.cores }) ∧
  (∀ (s : State) (core j row stream : Nat) (queue : BitVec 4) (h : BitVec 512) (payload : List (BitVec 512)), coreOk core
      = true → inUse s.m core = true → (inBind s.m core queue.toNat).consumer = 3 → headBundle s.m core queue.toNat = some
      (h, payload) → headerBad h = false → isClosing h = false → stream = hword h 9 % 16 → row = hword h 10 % 256 → j =
      hword h 11 → (s.m.core core).me.nextJ.get (nextKey stream row) ≤ j → inOrder s.m core stream row j = true →
      (s.m.core core).me.held = [] → (s.m.core core).me.tiles.get stream = none → ∃ m, exec (.meMergeRecord core queue) s
      = .next { s with m := m } ∧ (m.core core).me.nextJ = (s.m.core core).me.nextJ.put (nextKey stream row) (j + 1) ∧ (∀
      n, n < 64 → (m.core core).me.acc.get (accKey stream 0 row n) = ((s.m.core core).me.acc.get (accKey stream 0 row
      n)).enter (payloadPair payload n).1 (payloadPair payload n).2 (exactNegZero (payloadPair payload n).1 (payloadPair
      payload n).2)) ∧ (∀ k, k / 64 ≠ stream * 1024 + row → (m.core core).me.acc.get k = (s.m.core core).me.acc.get k) ∧
      ((inQ s.m core queue.toNat).feed = [] → (inQ m core queue.toNat).flits = (inQ s.m core queue.toNat).flits.drop
      (payload.length + 1)) ∧ m = { s.m with parts := m.parts, cores := m.cores }) ∧
  (∀ (s : State) (core part : Nat) (queue : BitVec 4) (h : BitVec 512) (payload : List (BitVec 512)), coreOk core = true
      → inUse s.m core = true → (inBind s.m core queue.toNat).consumer = 3 → headBundle s.m core queue.toNat = some (h,
      payload) → headerBad h = false → isClosing h = false → hword h 11 < (s.m.core core).me.nextJ.get (nextKey (hword h 9
      % 16) (hword h 10 % 256)) ∨ (s.m.core core).me.held.any (fun y => y.stream == hword h 9 % 16 && y.row == hword h 10
      % 256 && y.block == hword h 11) = true → corePart s.m core = some part → (s.m.part part).step.bind (·.replayOf) =
      none → recovering s.m part = false → ∃ m, exec (.meMergeRecord core queue) s = .next { s with m := m } ∧ (m.part
      part).step = none ∧ m =
      { s.m with start := m.start, ras := m.ras, fns := m.fns, parts := m.parts, fabParts := m.fabParts, slots := m.slots,
                 clusters := m.clusters, cores := m.cores, nodes := m.nodes, hedgeOut := m.hedgeOut, fabric := m.fabric,
                   xfers := m.xfers, netOut := m.netOut, freeCtr := m.freeCtr }) ∧
  (∀ (s : State) (core : Nat) (queue : BitVec 4) (h : BitVec 512) (payload : List (BitVec 512)), coreOk core = true →
      inUse s.m core = true → (inBind s.m core queue.toNat).consumer = 3 → headBundle s.m core queue.toNat = some (h,
      payload) → headerBad h = false → isClosing h = false → (s.m.core core).me.nextJ.get (nextKey (hword h 9 % 16) (hword
      h 10 % 256)) < hword h 11 → inOrder s.m core (hword h 9 % 16) (hword h 10 % 256) (hword h 11) = false → (s.m.core
      core).me.held = [] → 0 < mergeDepthOf (planeBytes (s.m.core core)) (hword h 9 % 16) → ∃ m, exec (.meMergeRecord core
      queue) s = .next { s with m := m } ∧ (m.core core).me.held.map (fun x => (x.stream, x.row, x.block)) =
      [(hword h 9 % 16, hword h 10 % 256, hword h 11)] ∧ (m.core core).me.acc = (s.m.core core).me.acc ∧ (m.core
      core).me.nextJ = (s.m.core core).me.nextJ ∧ ((inQ s.m core queue.toNat).feed = [] → (inQ m core queue.toNat).flits =
      (inQ s.m core queue.toNat).flits.drop (payload.length + 1)) ∧ m = { s.m with parts := m.parts, cores := m.cores }) ∧
  (∀ (s : State) (core : Nat) (queue : BitVec 4) (h : BitVec 512) (payload : List (BitVec 512)), coreOk core = true →
      inUse s.m core = true → (inBind s.m core queue.toNat).consumer = 3 → headBundle s.m core queue.toNat = some (h,
      payload) → headerBad h = false → isClosing h = false → (s.m.core core).me.nextJ.get (nextKey (hword h 9 % 16) (hword
      h 10 % 256)) < hword h 11 → inOrder s.m core (hword h 9 % 16) (hword h 10 % 256) (hword h 11) = false → mergeDepthOf
      (planeBytes (s.m.core core)) (hword h 9 % 16) = 0 → (s.m.core core).me.held = [] → ∃ m, exec (.meMergeRecord core
      queue) s = .next { s with m := m } ∧ (m.core core).me = (s.m.core core).me ∧ inQ m core queue.toNat = inQ s.m core
      queue.toNat ∧ (∀ c, c ≠ core → m.core c = s.m.core c) ∧ m = { s.m with parts := m.parts, cores := m.cores }) ∧
  (∀ (s : State) (core : Nat) (queue : BitVec 4) (h : BitVec 512) (payload : List (BitVec 512)), coreOk core = true →
      inUse s.m core = true → (inBind s.m core queue.toNat).consumer = 3 → headBundle s.m core queue.toNat = some (h,
      payload) → headerBad h = false → isMarker h = true → markerFits s.m core queue.toNat (hword h 9 % 16) = true →
      (s.m.core core).me.held = [] → (s.m.core core).me.tiles.get (hword h 9 % 16) = none → ∃ m, exec (.meMergeRecord core
      queue) s = .next { s with m := m } ∧ (m.core core).me.skipped = (s.m.core core).me.skipped.upd (skipKey (hword h 9 %
      16) queue.toNat) (· + 1) ∧ (m.core core).me.acc = (s.m.core core).me.acc ∧ (m.core core).me.nextJ = (s.m.core
      core).me.nextJ ∧ ((inQ s.m core queue.toNat).feed = [] → (inQ m core queue.toNat).flits = (inQ s.m core
      queue.toNat).flits.drop (payload.length + 1)) ∧ m = { s.m with parts := m.parts, cores := m.cores })

/-- Tile-mover streams and page migration. A schedule entry that is triggered is issued on a free tile mover of its cluster, or
waits while there is none; one whose gate count is 0 ends cancelled at once. A gate count, noted on arrival or named, is
appended to its gate in the step, and 0 cancels the stream that takes it. The data of a position is written at its destination
address: PAD_VALUE for a FILL, else the element of the range at its source address; that of a cancelled stream is discarded. A
stream that has delivered everything, or is cancelled, ends. A copy pass with more than 64 lines left is followed by another;
otherwise the page is switched to its new tier. TM_STREAM_ISSUE, TM_GATE_COUNT, TM_READ_RETURN, TM_STREAM_END and
MIGRATION_PASS complete with their own effect (R212, R219 to R231). -/
def Obligations.TileMovers : Prop :=
  (∀ (s : State) (part swath entry : Nat), partOk part = true → swath < 2 ^ 64 → entry < 65536 → ((s.m.part
      part).swaths.any fun w => w.id == swath && w.ready) = false → exec (.tmStreamIssue part swath entry) s = .next s) ∧
  (∀ (s : State) (part entry cl mv n : Nat) (w : Swath) (d : TmDesc), partOk part = true → w.id < 2 ^ 64 → entry < 65536
      → entry < w.entries → swathOf s.m part w.id = some w → w.ready = true → tmDesc w.schedule entry = d → nextIssue
      (s.m.part part) w d entry = n → (s.m.part part).swaps = [] → n ≤ (s.m.part part).steps.get w.id + 1 → triggered s.m
      part w d n = true → (openStreams s.m part).any (fun x => x.swath == w.id && x.entry == entry) = false → clusterFor w
      d.lcluster = some cl → d.gate = 0 → d.trig ≠ 2 ∨ d.prev = true ∨ (s.m.part part).issueCancelled.get (entryKey w.id
      d.dep) ≠ n → (List.range 8).find? (fun i => ((s.m.clu cl).tm.get i).isNone) = some mv → ∃ m, exec (.tmStreamIssue
      part w.id entry) s = .next { s with m := m } ∧ (m.clu cl).tm.get mv = some
      { part := part, swath := w.id, entry := entry, stepP1 := n - 1, outer := d.cnt (d.dimAt 0) } ∧ m.part part =
      { (s.m.part part) with issued := (s.m.part part).issued.put (entryKey w.id entry) n,
                             tmWait := (s.m.part part).tmWait.erase (entryKey w.id entry) }
      ∧ (∀ p, p ≠ part → m.part p = s.m.part p) ∧ (∀ i, i ≠ mv → (m.clu cl).tm.get i = (s.m.clu cl).tm.get i) ∧ (∀ c, c ≠
      cl → m.clu c = s.m.clu c) ∧ m = { s.m with parts := m.parts, clusters := m.clusters }) ∧
  (∀ (s : State) (part entry cl n : Nat) (w : Swath) (d : TmDesc), partOk part = true → w.id < 2 ^ 64 → entry < 65536 →
      entry < w.entries → swathOf s.m part w.id = some w → w.ready = true → tmDesc w.schedule entry = d → nextIssue
      (s.m.part part) w d entry = n → (s.m.part part).swaps = [] → n ≤ (s.m.part part).steps.get w.id + 1 → triggered s.m
      part w d n = true → (openStreams s.m part).any (fun x => x.swath == w.id && x.entry == entry) = false → clusterFor w
      d.lcluster = some cl → d.gate = 0 → d.trig ≠ 2 ∨ d.prev = true ∨ (s.m.part part).issueCancelled.get (entryKey w.id
      d.dep) ≠ n → (List.range 8).find? (fun i => ((s.m.clu cl).tm.get i).isNone) = none → ∃ m, exec (.tmStreamIssue part
      w.id entry) s = .next { s with m := m } ∧ m.part part =
      { (s.m.part part) with tmWait := if (s.m.part part).tmWait.contains (entryKey w.id entry) = true then (s.m.part
                               part).tmWait else (s.m.part part).tmWait ++ [(entryKey w.id entry)] }
      ∧ (∀ p, p ≠ part → m.part p = s.m.part p) ∧ m = { s.m with parts := m.parts }) ∧
  (∀ (s : State) (part entry cl n : Nat) (w : Swath) (d : TmDesc), partOk part = true → w.id < 2 ^ 64 → entry < 65536 →
      entry < w.entries → swathOf s.m part w.id = some w → w.ready = true → tmDesc w.schedule entry = d → nextIssue
      (s.m.part part) w d entry = n → (s.m.part part).swaps = [] → n ≤ (s.m.part part).steps.get w.id + 1 → triggered s.m
      part w d n = true → (openStreams s.m part).any (fun x => x.swath == w.id && x.entry == entry) = false → clusterFor w
      d.lcluster = some cl → d.gate ≠ 0 → n ≠ 1 → d.dstLvl ≠ 3 → d.dstLvl ≠ 4 → ((s.m.part part).gates.get (entryGate w d
      (n - 1)))[(s.m.part part).gateTaken.get (entryGate w d (n - 1))]? = some 0 → ∃ m, exec (.tmStreamIssue part w.id
      entry) s = .next { s with m := m } ∧ (m.part part).issueEnded.get (entryKey w.id entry) = n ∧ (m.part
      part).issueCancelled.get (entryKey w.id entry) = n ∧ (m.part part).gateTaken.get (entryGate w d (n - 1)) = (s.m.part
      part).gateTaken.get (entryGate w d (n - 1)) + 1 ∧ (∀ c, (m.clu c).tm = (s.m.clu c).tm) ∧ m =
      { s.m with parts := m.parts, clusters := m.clusters }) ∧
  (∀ (s : State) (core count n ix : Nat) (queue : BitVec 4) (pl : Plane), coreOk core = true → activePlane (s.m.core
      core) = some (ix, pl) → n = ((s.m.core core).closings.get queue.toNat).headD count → n ≠ 0 → (s.m.part
      pl.part).tmWait = [] → ∃ m, exec (.tmGateCount core queue count) s = .next { s with m := m } ∧ m.part pl.part =
      { s.m.part pl.part with gates := (s.m.part pl.part).gates.upd (gateKey pl.swath ((s.m.part pl.part).steps.get pl.swath)
                                core queue.toNat) (· ++ [n]) }
      ∧ m.core core =
      { s.m.core core with closings := (s.m.core core).closings.put queue.toNat ((s.m.core core).closings.get queue.toNat).tail }
      ∧ (∀ c, c ≠ core → m.core c = s.m.core c) ∧ (∀ p, p ≠ pl.part → m.part p = s.m.part p) ∧ m =
      { s.m with parts := m.parts, cores := m.cores }) ∧
  (∀ (s : State) (core ix cl mv count : Nat) (queue : BitVec 4) (pl : Plane) (x : Stream) (w : Swath) (d : TmDesc),
      coreOk core = true → activePlane (s.m.core core) = some (ix, pl) → ((s.m.core core).closings.get queue.toNat).headD
      count = 0 → (s.m.part pl.part).tmWait = [] → (s.m.part pl.part).savedStreams = [] → (s.m.clu cl).tm.get mv = some x
      → x.part = pl.part → x.swath = pl.swath → x.stepP1 = (s.m.part pl.part).steps.get pl.swath → streamInfo s.m x = some
      (w, d) → d.gate = 1 → entryGate w d x.stepP1 = (gateKey pl.swath ((s.m.part pl.part).steps.get pl.swath) core
      queue.toNat) → x.gateIx = some ((s.m.part pl.part).gates.get (gateKey pl.swath ((s.m.part pl.part).steps.get
      pl.swath) core queue.toNat)).length → streamsOf s.m pl.part = [(cl, mv, x)] → ∃ m, exec (.tmGateCount core queue
      count) s = .next { s with m := m } ∧ (m.clu cl).tm.get mv = some { x with cancelled := true } ∧ (m.part
      pl.part).gates.get (gateKey pl.swath ((s.m.part pl.part).steps.get pl.swath) core queue.toNat) = (s.m.part
      pl.part).gates.get (gateKey pl.swath ((s.m.part pl.part).steps.get pl.swath) core queue.toNat) ++ [0] ∧ (m.core
      core).closings.get queue.toNat = ((s.m.core core).closings.get queue.toNat).tail ∧ (∀ c, c ≠ cl → m.clu c = s.m.clu
      c) ∧ m = { s.m with parts := m.parts, clusters := m.clusters, cores := m.cores }) ∧
  (∀ (s : State) (cluster : Nat) (mover : BitVec 3) (count : Nat), clusterOk cluster = true → (s.m.clu cluster).tm.get
      mover.toNat = none → exec (.tmReadReturn cluster mover count) s = .next s ∧ exec (.tmStreamEnd cluster mover) s =
      .next s) ∧
  (∀ (s : State) (cluster core count : Nat) (mover : BitVec 3) (x : Stream) (w : Swath) (d : TmDesc), clusterOk cluster =
      true → (s.m.clu cluster).tm.get mover.toNat = some x → streamInfo s.m x = some (w, d) → returnSize s.m x w d count =
      1 → x.cancelled = false → d.op = 1 → d.dstLvl = 2 → d.skew = 0 → d.scales = false → targets w d = [core] → ∃ m, exec
      (.tmReadReturn cluster mover count) s = .next { s with m := m } ∧ ((m.clu cluster).tm.get mover.toNat).map (·.pos) =
      some (x.pos + 1) ∧ (m.core core).ls.rdBits (dstBit d x.stepP1 (d.indexAt x.pos)).toNat (fmtWidth d.fmt) = d.pad % 2
      ^ fmtWidth d.fmt ∧ (∀ a, 8 * a + 8 ≤ (dstBit d x.stepP1 (d.indexAt x.pos)).toNat ∨ (dstBit d x.stepP1 (d.indexAt
      x.pos)).toNat + fmtWidth d.fmt ≤ 8 * a → (m.core core).ls.get a = (s.m.core core).ls.get a) ∧ (∀ c, c ≠ core →
      m.core c = s.m.core c) ∧ m = { s.m with ras := m.ras, parts := m.parts, clusters := m.clusters, cores := m.cores }) ∧
  (∀ (s : State) (cluster core count : Nat) (mover : BitVec 3) (x : Stream) (w : Swath) (d : TmDesc), clusterOk cluster =
      true → (s.m.clu cluster).tm.get mover.toNat = some x → streamInfo s.m x = some (w, d) → returnSize s.m x w d count =
      1 → x.cancelled = false → d.op = 0 → d.srcLvl = 0 → d.dstLvl = 2 → d.skew = 0 → d.scales = false → d.padEn = false →
      targets w d = [core] → (linesOf [(srcBit d x.stepP1 (d.indexAt x.pos))]).all (fun l => !((s.m.part x.part).pages.get
      (l * 64 / pageSize)).poison && ((s.m.part x.part).pages.get (l * 64 / pageSize)).tier.all (fun t => !regEmpty s.m
      x.part t.idx)) = true → outOfRange s.m x.part [(srcBit d x.stepP1 (d.indexAt x.pos))] = none → ∃ m, exec
      (.tmReadReturn cluster mover count) s = .next { s with m := m } ∧ ((m.clu cluster).tm.get mover.toNat).map (·.pos) =
      some (x.pos + 1) ∧ (m.core core).ls.rdBits (dstBit d x.stepP1 (d.indexAt x.pos)).toNat (fmtWidth d.fmt) = (s.m.part
      x.part).range.rdBits (srcBit d x.stepP1 (d.indexAt x.pos)).toNat (fmtWidth d.fmt) ∧ (∀ a, 8 * a + 8 ≤ (dstBit d
      x.stepP1 (d.indexAt x.pos)).toNat ∨ (dstBit d x.stepP1 (d.indexAt x.pos)).toNat + fmtWidth d.fmt ≤ 8 * a → (m.core
      core).ls.get a = (s.m.core core).ls.get a) ∧ (∀ c, c ≠ core → m.core c = s.m.core c) ∧ (m.part x.part).range =
      (s.m.part x.part).range ∧ m = { s.m with ras := m.ras, parts := m.parts, clusters := m.clusters, cores := m.cores }) ∧
  (∀ (s : State) (cluster count : Nat) (mover : BitVec 3) (x : Stream) (w : Swath) (d : TmDesc), clusterOk cluster = true
      → (s.m.clu cluster).tm.get mover.toNat = some x → streamInfo s.m x = some (w, d) → returnSize s.m x w d count ≠ 0 →
      x.cancelled = true → ∃ m, exec (.tmReadReturn cluster mover count) s = .next { s with m := m } ∧ (m.clu
      cluster).tm.get mover.toNat = some { x with pos := x.pos + returnSize s.m x w d count } ∧ (∀ i, i ≠ mover.toNat →
      (m.clu cluster).tm.get i = (s.m.clu cluster).tm.get i) ∧ (m.clu cluster).cs = (s.m.clu cluster).cs ∧ (∀ c, c ≠
      cluster → m.clu c = s.m.clu c) ∧ m = { s.m with clusters := m.clusters }) ∧
  (∀ (s : State) (cluster : Nat) (mover : BitVec 3) (x : Stream) (w : Swath) (d : TmDesc), clusterOk cluster = true →
      (s.m.clu cluster).tm.get mover.toNat = some x → streamInfo s.m x = some (w, d) → delivered s.m w d = true →
      x.cancelled = false → s.m.parts.cells.all (fun c => c.2.tmWait.isEmpty) = true → ∃ m, exec (.tmStreamEnd cluster
      mover) s = .next { s with m := m } ∧ (if d.positions x.outer ≤ x.pos then (m.clu cluster).tm.get mover.toNat = none
      ∧ (m.part x.part).issueEnded.get (entryKey x.swath x.entry) = x.stepP1 + 1 ∧ (m.part x.part).issueCancelled =
      (s.m.part x.part).issueCancelled else m = s.m) ∧ m =
      { s.m with parts := m.parts, clusters := m.clusters, cores := m.cores }) ∧
  (∀ (s : State) (cluster : Nat) (mover : BitVec 3) (x : Stream) (w : Swath) (d : TmDesc), clusterOk cluster = true →
      (s.m.clu cluster).tm.get mover.toNat = some x → streamInfo s.m x = some (w, d) → d.dstLvl ≠ 4 → x.cancelled = true →
      s.m.parts.cells.all (fun c => c.2.tmWait.isEmpty) = true → ∃ m, exec (.tmStreamEnd cluster mover) s = .next
      { s with m := m } ∧ (m.clu cluster).tm.get mover.toNat = none ∧ (m.part x.part).issueEnded.get (entryKey x.swath
      x.entry) = x.stepP1 + 1 ∧ (m.part x.part).issueCancelled.get (entryKey x.swath x.entry) = x.stepP1 + 1 ∧ m =
      { s.m with parts := m.parts, clusters := m.clusters, cores := m.cores }) ∧
  (∀ (s : State) (part page dirty : Nat) (g : Migration), partOk part = true → ((s.m.part part).pages.get page).mig =
      some g → ((s.m.part part).pages.get page).tier.all (fun t => !regEmpty s.m part t.idx) = true → regEmpty s.m part
      g.toTier.idx = false → 64 < max dirty g.dirty.length → ∃ m, exec (.migrationPass part page dirty) s = .next
      { s with m := m } ∧ (m.part part).pages.get page =
      { (s.m.part part).pages.get page with mig := some { g with dirty := [], pass := g.pass + 1 } } ∧ (∀ k, k ≠ page →
      (m.part part).pages.get k = (s.m.part part).pages.get k) ∧ (∀ p, p ≠ part → m.part p = s.m.part p) ∧ m =
      { s.m with parts := m.parts }) ∧
  (∀ (s : State) (part page dirty : Nat) (g : Migration), partOk part = true → ((s.m.part part).pages.get page).mig =
      some g → ((s.m.part part).pages.get page).tier.all (fun t => !regEmpty s.m part t.idx) = true → regEmpty s.m part
      g.toTier.idx = false → max dirty g.dirty.length ≤ 64 → g.item = none → ∃ m, exec (.migrationPass part page dirty) s
      = .next { s with m := m } ∧ ((m.part part).pages.get page).tier = some g.toTier ∧ ((m.part part).pages.get
      page).place = g.toPlace ∧ ((m.part part).pages.get page).mig = none ∧ ((m.part part).pages.get page).poison =
      ((s.m.part part).pages.get page).poison ∧ (m.part part).mem.migrated = satAdd (s.m.part part).mem.migrated 1 ∧
      (m.part part).range = (s.m.part part).range ∧ (∀ k, k ≠ page → (m.part part).pages.get k = (s.m.part part).pages.get
      k) ∧ (∀ p, p ≠ part → m.part p = s.m.part p) ∧ m = { s.m with parts := m.parts, freeCtr := m.freeCtr }) ∧
  (∀ (s : State) (part page dirty : Nat), partOk part = true → ((s.m.part part).pages.get page).mig = none → exec
      (.migrationPass part page dirty) s = .next s)
end

