-- ==== Sys2Proof/Laws/Map.lean ====
section
/-! SUPPORT. Laws of the keyed maps and of the byte memories: what a write reads back as, that it leaves every other place alone, and
that every operation keeps the canonical form. -/

namespace Sys2Proof

/-! ### Lists of cells -/

theorem lookupCell_setCell_same {α : Type} (l : List (Nat × α)) (k : Nat) (v : α) :
    lookupCell (setCell l k v) k = some v := by
  induction l with
  | nil => simp [setCell, lookupCell]
  | cons c r ih =>
    obtain ⟨k', w⟩ := c
    simp only [setCell]
    split
    · simp [lookupCell]
    · split
      · simp [lookupCell]
      · next h1 h2 =>
        have : k' ≠ k := fun h => h2 h.symm
        simp [lookupCell, this, ih]

theorem lookupCell_setCell_other {α : Type} (l : List (Nat × α)) {k k2 : Nat} (v : α) (h : k2 ≠ k) :
    lookupCell (setCell l k v) k2 = lookupCell l k2 := by
  induction l with
  | nil => simp [setCell, lookupCell, h.symm]
  | cons c r ih =>
    obtain ⟨k', w⟩ := c
    simp only [setCell]
    split
    · simp [lookupCell, h.symm]
    · split
      · next h2 => simp [lookupCell, ← h2, h.symm]
      · simp [lookupCell, ih]

theorem lookupCell_filter_same {α : Type} (l : List (Nat × α)) (k : Nat) :
    lookupCell (l.filter fun c => decide (c.1 ≠ k)) k = none := by
  induction l with
  | nil => rfl
  | cons c r ih =>
    obtain ⟨k', w⟩ := c
    by_cases h : k' = k
    · simpa [List.filter_cons, h] using ih
    · simpa [List.filter_cons, h, lookupCell] using ih

theorem lookupCell_filter_other {α : Type} (l : List (Nat × α)) {k k2 : Nat} (h : k2 ≠ k) :
    lookupCell (l.filter fun c => decide (c.1 ≠ k)) k2 = lookupCell l k2 := by
  induction l with
  | nil => rfl
  | cons c r ih =>
    obtain ⟨k', w⟩ := c
    by_cases h1 : k' = k
    · have : k' ≠ k2 := fun e => h (e.symm.trans h1)
      rw [List.filter_cons, if_neg (by simp [h1]), ih, lookupCell, if_neg this]
    · rw [List.filter_cons, if_pos (by simp [h1]), lookupCell, lookupCell, ih]

/-- A key that a set list holds is the one set, or one that the list held. -/
theorem mem_setCell {α : Type} {l : List (Nat × α)} {k : Nat} {v : α} {c : Nat × α} (h : c ∈ setCell l k v) :
    c = (k, v) ∨ c ∈ l := by
  induction l with
  | nil => simpa [setCell] using h
  | cons d r ih =>
    obtain ⟨k', w⟩ := d
    simp only [setCell] at h
    split at h
    · simpa using h
    · split at h
      · rcases List.mem_cons.1 h with h | h
        · exact Or.inl h
        · exact Or.inr (List.mem_cons_of_mem _ h)
      · rcases List.mem_cons.1 h with h | h
        · exact Or.inr (h ▸ List.mem_cons_self)
        · rcases ih h with h | h
          · exact Or.inl h
          · exact Or.inr (List.mem_cons_of_mem _ h)

/-- Keys in strictly rising order. -/
def Rising {α : Type} (l : List (Nat × α)) : Prop := (l.map (·.1)).Pairwise (· < ·)

theorem Rising.set {α : Type} {l : List (Nat × α)} (k : Nat) (v : α) (h : Rising l) : Rising (setCell l k v) := by
  induction l with
  | nil => simp [setCell, Rising]
  | cons c r ih =>
    obtain ⟨k', w⟩ := c
    simp only [Rising, List.map_cons, List.pairwise_cons] at h
    obtain ⟨h1, h2⟩ := h
    simp only [setCell]
    split
    · next hk =>
      simp only [Rising, List.map_cons, List.pairwise_cons]
      refine ⟨fun x hx => ?_, h1, h2⟩
      rcases List.mem_cons.1 hx with rfl | hx
      · exact hk
      · exact Nat.lt_trans hk (h1 x hx)
    · split
      · next hk =>
        subst hk
        simp only [Rising, List.map_cons, List.pairwise_cons]
        exact ⟨h1, h2⟩
      · next hk1 hk2 =>
        simp only [Rising, List.map_cons, List.pairwise_cons]
        refine ⟨fun x hx => ?_, ih h2⟩
        obtain ⟨c, hc, rfl⟩ := List.mem_map.1 hx
        rcases mem_setCell hc with rfl | hc
        · simp only; omega
        · exact h1 _ (List.mem_map.2 ⟨c, hc, rfl⟩)

theorem Rising.filter {α : Type} {l : List (Nat × α)} (p : Nat × α → Bool) (h : Rising l) : Rising (l.filter p) :=
  List.Pairwise.sublist ((List.filter_sublist).map _) h

/-- Dropping and changing cells that keep their keys keeps the order. -/
theorem Rising.filterMap {α β : Type} {l : List (Nat × α)} (f : Nat × α → Option (Nat × β))
    (hf : ∀ c d, f c = some d → d.1 = c.1) (h : Rising l) : Rising (l.filterMap f) := by
  induction l with
  | nil => simp [Rising]
  | cons c r ih =>
    simp only [Rising, List.map_cons, List.pairwise_cons] at h
    obtain ⟨h1, h2⟩ := h
    rw [List.filterMap_cons]
    cases hc : f c with
    | none => exact ih h2
    | some d =>
      simp only [Rising, List.map_cons, List.pairwise_cons]
      refine ⟨fun x hx => ?_, ih h2⟩
      obtain ⟨e, he, rfl⟩ := List.mem_map.1 hx
      obtain ⟨c', hc', he'⟩ := List.mem_filterMap.1 he
      rw [hf c d hc, hf c' e he']
      exact h1 _ (List.mem_map.2 ⟨c', hc', rfl⟩)

/-! ### Keyed maps -/

namespace SMap

variable {α : Type} {d : α} [DecidableEq α]

omit [DecidableEq α] in
@[simp] theorem get_empty (k : Nat) : SMap.get ({} : SMap α d) k = d := rfl

@[simp] theorem get_put_same (m : SMap α d) (k : Nat) (v : α) : (m.put k v).get k = v := by
  unfold put get
  by_cases h : v = d
  · simp only [h, if_true, putCell, lookupCell_filter_same]
  · simp only [h, if_false, putCell, lookupCell_setCell_same]

theorem get_put_other (m : SMap α d) {k k2 : Nat} (v : α) (h : k2 ≠ k) : (m.put k v).get k2 = m.get k2 := by
  unfold put get
  by_cases hv : v = d
  · simp only [hv, if_true, putCell, lookupCell_filter_other _ h]
  · simp only [hv, if_false, putCell, lookupCell_setCell_other _ _ h]

theorem get_put (m : SMap α d) (k k2 : Nat) (v : α) : (m.put k v).get k2 = if k2 = k then v else m.get k2 := by
  by_cases h : k2 = k
  · subst h; simp
  · simp [h, get_put_other m v h]

@[simp] theorem get_upd_same (m : SMap α d) (k : Nat) (f : α → α) : (m.upd k f).get k = f (m.get k) := by simp [upd]

theorem get_upd_other (m : SMap α d) {k k2 : Nat} (f : α → α) (h : k2 ≠ k) : (m.upd k f).get k2 = m.get k2 := by
  simp [upd, get_put_other m _ h]

theorem get_upd (m : SMap α d) (k k2 : Nat) (f : α → α) : (m.upd k f).get k2 = if k2 = k then f (m.get k) else m.get k2 := by
  simp [upd, get_put]

theorem wf_iff (m : SMap α d) : m.wf = true ↔ Rising m.cells ∧ ∀ c ∈ m.cells, c.2 ≠ d := by
  simp [wf, Rising]

theorem wf_empty : SMap.wf ({} : SMap α d) = true := by simp [wf_iff, Rising]

theorem wf_put {m : SMap α d} (k : Nat) (v : α) (h : m.wf = true) : (m.put k v).wf = true := by
  rw [wf_iff] at h ⊢
  unfold put
  by_cases hv : v = d
  · simp only [hv, if_true, putCell]
    exact ⟨h.1.filter _, fun c hc => h.2 c (List.mem_filter.1 hc).1⟩
  · simp only [hv, if_false, putCell]
    refine ⟨h.1.set k v, fun c hc => ?_⟩
    rcases mem_setCell hc with rfl | hc
    · exact hv
    · exact h.2 c hc

theorem wf_upd {m : SMap α d} (k : Nat) (f : α → α) (h : m.wf = true) : (m.upd k f).wf = true := wf_put k _ h

theorem wf_mapV {m : SMap α d} (f : Nat → α → α) (h : m.wf = true) : (m.mapV f).wf = true := by
  rw [wf_iff] at h ⊢
  unfold mapV
  refine ⟨h.1.filterMap _ fun c e he => ?_, fun e he => ?_⟩
  · simp only at he
    split at he
    · cases he
    · cases he; rfl
  · obtain ⟨c, -, hc⟩ := List.mem_filterMap.1 he
    simp only at hc
    split at hc
    · cases hc
    · next hn => cases hc; exact hn

end SMap

/-! ### Byte memories -/

namespace Mem

@[simp] theorem get_nil (a : Nat) : Mem.get [] a = unlistedByte := rfl

@[simp] theorem get_put_same (m : Mem) (a : Nat) (v : Byte) : (m.put a v).get a = v := by
  unfold put get
  by_cases h : v = unlistedByte
  · simp only [h, if_true, putCell, lookupCell_filter_same]
  · simp only [h, if_false, putCell, lookupCell_setCell_same]

theorem get_put_other (m : Mem) {a b : Nat} (v : Byte) (h : b ≠ a) : (m.put a v).get b = m.get b := by
  unfold put get
  by_cases hv : v = unlistedByte
  · simp only [hv, if_true, putCell, lookupCell_filter_other _ h]
  · simp only [hv, if_false, putCell, lookupCell_setCell_other _ _ h]

theorem get_store_below (m : Mem) (a b : Nat) (l : List Byte) (h : b < a) : (m.store a l).get b = m.get b := by
  induction l generalizing m a with
  | nil => rfl
  | cons x r ih => rw [store, ih _ _ (by omega), get_put_other _ _ (by omega)]

/-- A byte outside those stored reads as before. -/
theorem get_store_other (m : Mem) (a b : Nat) (l : List Byte) (h : b < a ∨ a + l.length ≤ b) :
    (m.store a l).get b = m.get b := by
  induction l generalizing m a with
  | nil => rfl
  | cons x r ih =>
    simp only [List.length_cons] at h
    rw [store, ih _ _ (by omega), get_put_other _ _ (by omega)]

/-- A byte stored reads back. -/
theorem get_store_at (m : Mem) (a i : Nat) (l : List Byte) (h : i < l.length) : (m.store a l).get (a + i) = l[i] := by
  induction l generalizing m a i with
  | nil => simp at h
  | cons x r ih =>
    cases i with
    | zero => rw [store, Nat.add_zero, get_store_below _ _ _ _ (by omega)]; simp
    | succ i =>
      rw [store, show a + (i + 1) = (a + 1) + i by omega, ih]
      · simp
      · simpa using h

@[simp] theorem length_leBytes (v n : Nat) : (leBytes v n).length = n := by
  induction n generalizing v with
  | zero => rfl
  | succ n ih => simp [leBytes, ih]

theorem get_wr_other (m : Mem) (a n v b : Nat) (h : b < a ∨ a + n ≤ b) : (m.wr a n v).get b = m.get b :=
  get_store_other _ _ _ _ (by simpa using h)

/-- Bytes that hold none of the bits written read as before. -/
theorem get_wrBits_other (m : Mem) (a w v b : Nat) (h : b < a / 8 ∨ a / 8 + (a % 8 + w + 7) / 8 ≤ b) :
    (m.wrBits a w v).get b = m.get b := get_wr_other _ _ _ _ _ h

theorem wf_iff (m : Mem) : m.wf = true ↔ Rising m ∧ ∀ c ∈ m, c.2 ≠ unlistedByte := by simp [wf, Rising]

theorem wf_nil : Mem.wf [] = true := rfl

theorem wf_put {m : Mem} (a : Nat) (v : Byte) (h : m.wf = true) : (m.put a v).wf = true := by
  rw [wf_iff] at h ⊢
  unfold put
  by_cases hv : v = unlistedByte
  · simp only [hv, if_true, putCell]
    exact ⟨h.1.filter _, fun c hc => h.2 c (List.mem_filter.1 hc).1⟩
  · simp only [hv, if_false, putCell]
    refine ⟨h.1.set a v, fun c hc => ?_⟩
    rcases mem_setCell hc with rfl | hc
    · exact hv
    · exact h.2 c hc

theorem wf_store {m : Mem} (a : Nat) (l : List Byte) (h : m.wf = true) : (m.store a l).wf = true := by
  induction l generalizing m a with
  | nil => exact h
  | cons x r ih => exact ih _ (wf_put a x h)

theorem wf_wr {m : Mem} (a n v : Nat) (h : m.wf = true) : (m.wr a n v).wf = true := wf_store a _ h

theorem wf_wrBits {m : Mem} (a w v : Nat) (h : m.wf = true) : (m.wrBits a w v).wf = true := wf_wr _ _ _ h

theorem wf_filter {m : Mem} (p : Host.Cell → Bool) (h : m.wf = true) : Mem.wf (m.filter p) = true := by
  rw [wf_iff] at h ⊢
  exact ⟨h.1.filter p, fun c hc => h.2 c (List.mem_filter.1 hc).1⟩

/-- Moving cells by a fixed distance, and dropping some, keeps the order. -/
theorem rising_shift {m : Mem} (p : Host.Cell → Bool) (g : Nat → Nat) (hg : ∀ c ∈ m, ∀ e ∈ m, p c = true → p e = true →
    c.1 < e.1 → g c.1 < g e.1) (h : Rising m) :
    Rising (m.filterMap fun c => if p c then some (g c.1, c.2) else none) := by
  induction m with
  | nil => simp [Rising]
  | cons c r ih =>
    simp only [Rising, List.map_cons, List.pairwise_cons] at h
    obtain ⟨h1, h2⟩ := h
    have hr := ih (fun c hc e he => hg c (List.mem_cons_of_mem _ hc) e (List.mem_cons_of_mem _ he)) h2
    rw [List.filterMap_cons]
    by_cases hp : p c = true
    · simp only [hp, if_true]
      simp only [Rising, List.map_cons, List.pairwise_cons]
      refine ⟨fun x hx => ?_, hr⟩
      obtain ⟨e, he, rfl⟩ := List.mem_map.1 hx
      obtain ⟨c', hc', he'⟩ := List.mem_filterMap.1 he
      by_cases hp' : p c' = true
      · rw [if_pos hp'] at he'
        cases he'
        exact hg c (by simp) c' (List.mem_cons_of_mem _ hc') hp hp' (h1 _ (List.mem_map.2 ⟨c', hc', rfl⟩))
      · rw [if_neg hp'] at he'; cases he'
    · simp only [hp]; exact hr

theorem wf_slice {m : Mem} (lo len : Nat) (h : m.wf = true) : (m.slice lo len).wf = true := by
  rw [wf_iff] at h ⊢
  refine ⟨?_, fun c hc => ?_⟩
  · refine rising_shift (fun c => decide (lo ≤ c.1) && decide (c.1 < lo + len)) (· - lo) (fun c _ e _ hc he hce => ?_) h.1
    simp only [Bool.and_eq_true, decide_eq_true_eq] at hc he
    omega
  · obtain ⟨e, he, hc⟩ := List.mem_filterMap.1 hc
    split at hc
    · cases hc; exact h.2 e he
    · cases hc

theorem rising_append {m n : Mem} (hm : Rising m) (hn : Rising n) (h : ∀ c ∈ m, ∀ e ∈ n, c.1 < e.1) : Rising (m ++ n) := by
  simp only [Rising, List.map_append, List.pairwise_append]
  refine ⟨hm, hn, fun a ha b hb => ?_⟩
  obtain ⟨c, hc, rfl⟩ := List.mem_map.1 ha
  obtain ⟨e, he, rfl⟩ := List.mem_map.1 hb
  exact h c hc e he

theorem wf_overlay {m src : Mem} (lo len : Nat) (h : m.wf = true) (hs : src.wf = true) : (m.overlay lo len src).wf = true := by
  rw [wf_iff] at h hs ⊢
  have hmid : Rising (src.filterMap fun c => if c.1 < len then some (c.1 + lo, c.2) else none) := by
    have := rising_shift (m := src) (fun c => decide (c.1 < len)) (· + lo) (fun c _ e _ _ _ hce => by omega) hs.1
    simpa using this
  have midle : ∀ c ∈ src.filterMap (fun c => if c.1 < len then some (c.1 + lo, c.2) else none), lo ≤ c.1 ∧ c.1 < lo + len ∧
      c.2 ≠ unlistedByte := by
    intro c hc
    obtain ⟨e, he, hc⟩ := List.mem_filterMap.1 hc
    split at hc
    · next hl => cases hc; exact ⟨by simp, by simp only; omega, hs.2 e he⟩
    · cases hc
  refine ⟨rising_append (rising_append (h.1.filter _) hmid ?_) (h.1.filter _) ?_, ?_⟩
  · intro c hc e he
    have := (List.mem_filter.1 hc).2
    simp only [decide_eq_true_eq] at this
    exact Nat.lt_of_lt_of_le this (midle e he).1
  · intro c hc e he
    have he' := (List.mem_filter.1 he).2
    simp only [decide_eq_true_eq] at he'
    rcases List.mem_append.1 hc with hc | hc
    · have := (List.mem_filter.1 hc).2
      simp only [decide_eq_true_eq] at this
      omega
    · exact Nat.lt_of_lt_of_le (midle c hc).2.1 he'
  · intro c hc
    rcases List.mem_append.1 hc with hc | hc
    · rcases List.mem_append.1 hc with hc | hc
      · exact h.2 c (List.mem_filter.1 hc).1
      · exact (midle c hc).2.2
    · exact h.2 c (List.mem_filter.1 hc).1

/-- Memories in canonical form that read alike everywhere are equal. -/
theorem ext_of_wf {m n : Mem} (hm : m.wf = true) (hn : n.wf = true) (h : ∀ a, m.get a = n.get a) : m = n := by
  rw [wf_iff] at hm hn
  have low : ∀ {l : Mem} {k : Nat}, (∀ c ∈ l, k < c.1) → l.get k = unlistedByte := by
    intro l k hl
    induction l with
    | nil => rfl
    | cons c r ih =>
      have : c.1 ≠ k := Nat.ne_of_gt (hl c (by simp))
      have := ih fun e he => hl e (List.mem_cons_of_mem _ he)
      simp_all [get, lookupCell]
  induction m generalizing n with
  | nil =>
    cases n with
    | nil => rfl
    | cons c r =>
      exfalso
      have := h c.1
      simp only [get, lookupCell] at this
      exact hn.2 c (by simp) (by simpa using this.symm)
  | cons c r ih =>
    obtain ⟨h1, h2⟩ := hm
    simp only [Rising, List.map_cons, List.pairwise_cons] at h1
    cases n with
    | nil =>
      exfalso
      have := h c.1
      simp only [get, lookupCell] at this
      exact h2 c (by simp) (by simpa using this)
    | cons e q =>
      obtain ⟨g1, g2⟩ := hn
      simp only [Rising, List.map_cons, List.pairwise_cons] at g1
      have hr : ∀ x ∈ r, c.1 < x.1 := fun x hx => h1.1 _ (List.mem_map.2 ⟨x, hx, rfl⟩)
      have hq : ∀ x ∈ q, e.1 < x.1 := fun x hx => g1.1 _ (List.mem_map.2 ⟨x, hx, rfl⟩)
      have key : c.1 = e.1 := by
        rcases Nat.lt_trichotomy c.1 e.1 with hl | he | hl
        · exfalso
          have := h c.1
          rw [show Mem.get (e :: q) c.1 = unlistedByte from low fun x hx => by
            rcases List.mem_cons.1 hx with rfl | hx
            · exact hl
            · exact Nat.lt_trans hl (hq x hx)] at this
          simp only [get, lookupCell, if_true] at this
          exact h2 c (by simp) this
        · exact he
        · exfalso
          have := h e.1
          rw [show Mem.get (c :: r) e.1 = unlistedByte from low fun x hx => by
            rcases List.mem_cons.1 hx with rfl | hx
            · exact hl
            · exact Nat.lt_trans hl (hr x hx)] at this
          simp only [get, lookupCell, if_true] at this
          exact g2 e (by simp) this.symm
      have val : c.2 = e.2 := by
        have := h c.1
        simp only [get, lookupCell, key, if_true] at this
        exact this
      have tail : r = q := by
        refine ih ⟨h1.2, fun x hx => h2 x (List.mem_cons_of_mem _ hx)⟩
          ⟨g1.2, fun x hx => g2 x (List.mem_cons_of_mem _ hx)⟩ fun a => ?_
        by_cases ha : a = c.1
        · rw [ha, show Mem.get r c.1 = unlistedByte from low hr, key, show Mem.get q e.1 = unlistedByte from low hq]
        · have := h a
          simp only [get, lookupCell] at this ⊢
          rwa [if_neg (fun e => ha e.symm), if_neg (fun e' => ha (e'.symm.trans key.symm))] at this
      rw [tail, Prod.ext key val]

end Mem

end Sys2Proof
end

