-- ==== Sys2Proof/Laws/State.lean ====
section
/-! SUPPORT. Each update of the module beside each of its fields: what it leaves alone, and what the updated unit reads as. -/

namespace Sys2Proof.Machine

/-! ### What an update writes -/

@[simp] theorem Module.setTick_tick (m : Module) (g : Tick → Tick) : (m.setTick g).tick = g m.tick := rfl
@[simp] theorem Module.setPower_power (m : Module) (g : Power → Power) : (m.setPower g).power = g m.power := rfl
@[simp] theorem Module.setRas_ras (m : Module) (g : Ras → Ras) : (m.setRas g).ras = g m.ras := rfl
@[simp] theorem Module.setSec_sec (m : Module) (g : Sec → Sec) : (m.setSec g).sec = g m.sec := rfl
@[simp] theorem Module.setSb_sb (m : Module) (g : Sideband → Sideband) : (m.setSb g).sb = g m.sb := rfl
@[simp] theorem Module.setStart_start (m : Module) (g : Start → Start) : (m.setStart g).start = g m.start := rfl
@[simp] theorem Module.setFabric_fabric (m : Module) (g : Fabric → Fabric) : (m.setFabric g).fabric = g m.fabric := rfl
@[simp] theorem Module.setUnits_mem (m : Module) (g : MemUnits → MemUnits) : (m.setUnits g).mem = g m.mem := rfl
@[simp] theorem Module.setFn_fn_same (m : Module) (k : Nat) (g : Fn → Fn) : (m.setFn k g).fn k = g (m.fn k) := SMap.get_upd_same _ _ _
theorem Module.setFn_fn_other (m : Module) {k k2 : Nat} (g : Fn → Fn) (h : k2 ≠ k) : (m.setFn k g).fn k2 = m.fn k2 :=
  SMap.get_upd_other _ _ h
theorem Module.setFn_fn (m : Module) (k k2 : Nat) (g : Fn → Fn) :
    (m.setFn k g).fn k2 = if k2 = k then g (m.fn k) else m.fn k2 := SMap.get_upd _ _ _ _
@[simp] theorem Module.setPart_part_same (m : Module) (k : Nat) (g : Part → Part) : (m.setPart k g).part k = g (m.part k) := SMap.get_upd_same _ _ _
theorem Module.setPart_part_other (m : Module) {k k2 : Nat} (g : Part → Part) (h : k2 ≠ k) : (m.setPart k g).part k2 = m.part k2 :=
  SMap.get_upd_other _ _ h
theorem Module.setPart_part (m : Module) (k k2 : Nat) (g : Part → Part) :
    (m.setPart k g).part k2 = if k2 = k then g (m.part k) else m.part k2 := SMap.get_upd _ _ _ _
@[simp] theorem Module.setFab_fab_same (m : Module) (k : Nat) (g : FabPart → FabPart) : (m.setFab k g).fab k = g (m.fab k) := SMap.get_upd_same _ _ _
theorem Module.setFab_fab_other (m : Module) {k k2 : Nat} (g : FabPart → FabPart) (h : k2 ≠ k) : (m.setFab k g).fab k2 = m.fab k2 :=
  SMap.get_upd_other _ _ h
theorem Module.setFab_fab (m : Module) (k k2 : Nat) (g : FabPart → FabPart) :
    (m.setFab k g).fab k2 = if k2 = k then g (m.fab k) else m.fab k2 := SMap.get_upd _ _ _ _
@[simp] theorem Module.setCore_core_same (m : Module) (k : Nat) (g : Core → Core) : (m.setCore k g).core k = g (m.core k) := SMap.get_upd_same _ _ _
theorem Module.setCore_core_other (m : Module) {k k2 : Nat} (g : Core → Core) (h : k2 ≠ k) : (m.setCore k g).core k2 = m.core k2 :=
  SMap.get_upd_other _ _ h
theorem Module.setCore_core (m : Module) (k k2 : Nat) (g : Core → Core) :
    (m.setCore k g).core k2 = if k2 = k then g (m.core k) else m.core k2 := SMap.get_upd _ _ _ _
@[simp] theorem Module.setClu_clu_same (m : Module) (k : Nat) (g : Cluster → Cluster) : (m.setClu k g).clu k = g (m.clu k) := SMap.get_upd_same _ _ _
theorem Module.setClu_clu_other (m : Module) {k k2 : Nat} (g : Cluster → Cluster) (h : k2 ≠ k) : (m.setClu k g).clu k2 = m.clu k2 :=
  SMap.get_upd_other _ _ h
theorem Module.setClu_clu (m : Module) (k k2 : Nat) (g : Cluster → Cluster) :
    (m.setClu k g).clu k2 = if k2 = k then g (m.clu k) else m.clu k2 := SMap.get_upd _ _ _ _
@[simp] theorem Module.setProc_proc_same (m : Module) (k : Nat) (g : FwProc → FwProc) : (m.setProc k g).proc k = g (m.proc k) := SMap.get_upd_same _ _ _
theorem Module.setProc_proc_other (m : Module) {k k2 : Nat} (g : FwProc → FwProc) (h : k2 ≠ k) : (m.setProc k g).proc k2 = m.proc k2 :=
  SMap.get_upd_other _ _ h
theorem Module.setProc_proc (m : Module) (k k2 : Nat) (g : FwProc → FwProc) :
    (m.setProc k g).proc k2 = if k2 = k then g (m.proc k) else m.proc k2 := SMap.get_upd _ _ _ _
@[simp] theorem Module.setLink_link_same (m : Module) (k : Nat) (g : Link → Link) : (m.setLink k g).link k = g (m.link k) :=
  SMap.get_upd_same _ _ _
theorem Module.setLink_link_other (m : Module) {k k2 : Nat} (g : Link → Link) (h : k2 ≠ k) : (m.setLink k g).link k2 = m.link k2 :=
  SMap.get_upd_other _ _ h
@[simp] theorem Module.setEth_get_same (m : Module) (p : Nat) (g : EthPort → EthPort) : (m.setEth p g).eth.get p = g (m.eth.get p) :=
  SMap.get_upd_same _ _ _
theorem Module.setEth_get_other (m : Module) {p q : Nat} (g : EthPort → EthPort) (h : q ≠ p) : (m.setEth p g).eth.get q = m.eth.get q :=
  SMap.get_upd_other _ _ h
@[simp] theorem Module.setRing_ring_same (m : Module) (f r : Nat) (g : Ringp → Ringp) : (m.setRing f r g).ring f r = g (m.ring f r) := by
  simp [Module.setRing, Module.ring]
theorem Module.setRing_ring_other (m : Module) {f r f2 r2 : Nat} (g : Ringp → Ringp) (h : f2 ≠ f ∨ r2 ≠ r) :
    (m.setRing f r g).ring f2 r2 = m.ring f2 r2 := by
  by_cases hf : f2 = f
  · subst hf
    have hr : r2 ≠ r := by rcases h with h | h; exact absurd rfl h; exact h
    simp [Module.setRing, Module.ring, SMap.get_upd_other _ _ hr]
  · simp [Module.setRing, Module.ring, Module.setFn_fn_other m _ hf]
@[simp] theorem Module.setRegs_part_same (m : Module) (p : Nat) (g : PartRegs → PartRegs) :
    (m.setRegs p g).part p = { m.part p with regs := g (m.part p).regs } := Module.setPart_part_same _ _ _
@[simp] theorem Module.setMemRegs_part_same (m : Module) (p : Nat) (g : MemRegs → MemRegs) :
    (m.setMemRegs p g).part p = { m.part p with mem := g (m.part p).mem } := Module.setPart_part_same _ _ _
@[simp] theorem Module.setLark_part_same (m : Module) (p : Nat) (g : LarkRegs → LarkRegs) :
    (m.setLark p g).part p = { m.part p with lark := g (m.part p).lark } := Module.setPart_part_same _ _ _
@[simp] theorem Module.setVe_core_same (m : Module) (c : Nat) (g : Ve → Ve) :
    (m.setVe c g).core c = { m.core c with ve := g (m.core c).ve } := Module.setCore_core_same _ _ _
@[simp] theorem Module.setMe_core_same (m : Module) (c : Nat) (g : Me → Me) :
    (m.setMe c g).core c = { m.core c with me := g (m.core c).me } := Module.setCore_core_same _ _ _
@[simp] theorem Module.setCnt_core_same (m : Module) (c : Nat) (g : CoreCnt → CoreCnt) :
    (m.setCnt c g).core c =
      { m.core c with cnt := (m.core c).cnt.counted (m.clu (c / 80)).freeze (g (m.core c).cnt) } := Module.setCore_core_same _ _ _
@[simp] theorem emit_hostOut (m : Module) (w : HostWrite) : (emit m w).hostOut = w :: m.hostOut := rfl
@[simp] theorem emitNet_netOut (m : Module) (w : NetOut) : (emitNet m w).netOut = w :: m.netOut := rfl
@[simp] theorem takeFree_freeCtr (m : Module) : (takeFree m).2 = { m with freeCtr := m.freeCtr + 1 } := rfl

/-! ### What an update leaves alone -/

@[simp] theorem Module.setFn_tick (m : Module) (f : Nat) (g : Fn → Fn) : (m.setFn f g).tick = m.tick := rfl
@[simp] theorem Module.setFn_start (m : Module) (f : Nat) (g : Fn → Fn) : (m.setFn f g).start = m.start := rfl
@[simp] theorem Module.setFn_power (m : Module) (f : Nat) (g : Fn → Fn) : (m.setFn f g).power = m.power := rfl
@[simp] theorem Module.setFn_fw (m : Module) (f : Nat) (g : Fn → Fn) : (m.setFn f g).fw = m.fw := rfl
@[simp] theorem Module.setFn_fwBadWrite (m : Module) (f : Nat) (g : Fn → Fn) : (m.setFn f g).fwBadWrite = m.fwBadWrite := rfl
@[simp] theorem Module.setFn_activation (m : Module) (f : Nat) (g : Fn → Fn) : (m.setFn f g).activation = m.activation := rfl
@[simp] theorem Module.setFn_flash (m : Module) (f : Nat) (g : Fn → Fn) : (m.setFn f g).flash = m.flash := rfl
@[simp] theorem Module.setFn_sec (m : Module) (f : Nat) (g : Fn → Fn) : (m.setFn f g).sec = m.sec := rfl
@[simp] theorem Module.setFn_ras (m : Module) (f : Nat) (g : Fn → Fn) : (m.setFn f g).ras = m.ras := rfl
@[simp] theorem Module.setFn_mem (m : Module) (f : Nat) (g : Fn → Fn) : (m.setFn f g).mem = m.mem := rfl
@[simp] theorem Module.setFn_pool (m : Module) (f : Nat) (g : Fn → Fn) : (m.setFn f g).pool = m.pool := rfl
@[simp] theorem Module.setFn_parts (m : Module) (f : Nat) (g : Fn → Fn) : (m.setFn f g).parts = m.parts := rfl
@[simp] theorem Module.setFn_fabParts (m : Module) (f : Nat) (g : Fn → Fn) : (m.setFn f g).fabParts = m.fabParts := rfl
@[simp] theorem Module.setFn_slots (m : Module) (f : Nat) (g : Fn → Fn) : (m.setFn f g).slots = m.slots := rfl
@[simp] theorem Module.setFn_clusters (m : Module) (f : Nat) (g : Fn → Fn) : (m.setFn f g).clusters = m.clusters := rfl
@[simp] theorem Module.setFn_cores (m : Module) (f : Nat) (g : Fn → Fn) : (m.setFn f g).cores = m.cores := rfl
@[simp] theorem Module.setFn_nodes (m : Module) (f : Nat) (g : Fn → Fn) : (m.setFn f g).nodes = m.nodes := rfl
@[simp] theorem Module.setFn_ports (m : Module) (f : Nat) (g : Fn → Fn) : (m.setFn f g).ports = m.ports := rfl
@[simp] theorem Module.setFn_barriers (m : Module) (f : Nat) (g : Fn → Fn) : (m.setFn f g).barriers = m.barriers := rfl
@[simp] theorem Module.setFn_hedgeOut (m : Module) (f : Nat) (g : Fn → Fn) : (m.setFn f g).hedgeOut = m.hedgeOut := rfl
@[simp] theorem Module.setFn_hostOut (m : Module) (f : Nat) (g : Fn → Fn) : (m.setFn f g).hostOut = m.hostOut := rfl
@[simp] theorem Module.setFn_fabric (m : Module) (f : Nat) (g : Fn → Fn) : (m.setFn f g).fabric = m.fabric := rfl
@[simp] theorem Module.setFn_xfers (m : Module) (f : Nat) (g : Fn → Fn) : (m.setFn f g).xfers = m.xfers := rfl
@[simp] theorem Module.setFn_eth (m : Module) (f : Nat) (g : Fn → Fn) : (m.setFn f g).eth = m.eth := rfl
@[simp] theorem Module.setFn_netOut (m : Module) (f : Nat) (g : Fn → Fn) : (m.setFn f g).netOut = m.netOut := rfl
@[simp] theorem Module.setFn_sb (m : Module) (f : Nat) (g : Fn → Fn) : (m.setFn f g).sb = m.sb := rfl
@[simp] theorem Module.setFn_freeCtr (m : Module) (f : Nat) (g : Fn → Fn) : (m.setFn f g).freeCtr = m.freeCtr := rfl
@[simp] theorem Module.setFn_part (m : Module) (f : Nat) (g : Fn → Fn) (n : Nat) : (m.setFn f g).part n = m.part n := rfl
@[simp] theorem Module.setFn_fab (m : Module) (f : Nat) (g : Fn → Fn) (n : Nat) : (m.setFn f g).fab n = m.fab n := rfl
@[simp] theorem Module.setFn_core (m : Module) (f : Nat) (g : Fn → Fn) (n : Nat) : (m.setFn f g).core n = m.core n := rfl
@[simp] theorem Module.setFn_clu (m : Module) (f : Nat) (g : Fn → Fn) (n : Nat) : (m.setFn f g).clu n = m.clu n := rfl
@[simp] theorem Module.setFn_proc (m : Module) (f : Nat) (g : Fn → Fn) (n : Nat) : (m.setFn f g).proc n = m.proc n := rfl
@[simp] theorem Module.setFn_link (m : Module) (f : Nat) (g : Fn → Fn) (n : Nat) : (m.setFn f g).link n = m.link n := rfl
@[simp] theorem Module.setFn_live (m : Module) (f : Nat) (g : Fn → Fn) (n : Nat) : (m.setFn f g).live n = m.live n := rfl
@[simp] theorem Module.setPart_tick (m : Module) (p : Nat) (g : Part → Part) : (m.setPart p g).tick = m.tick := rfl
@[simp] theorem Module.setPart_start (m : Module) (p : Nat) (g : Part → Part) : (m.setPart p g).start = m.start := rfl
@[simp] theorem Module.setPart_power (m : Module) (p : Nat) (g : Part → Part) : (m.setPart p g).power = m.power := rfl
@[simp] theorem Module.setPart_fw (m : Module) (p : Nat) (g : Part → Part) : (m.setPart p g).fw = m.fw := rfl
@[simp] theorem Module.setPart_fwBadWrite (m : Module) (p : Nat) (g : Part → Part) : (m.setPart p g).fwBadWrite = m.fwBadWrite := rfl
@[simp] theorem Module.setPart_activation (m : Module) (p : Nat) (g : Part → Part) : (m.setPart p g).activation = m.activation := rfl
@[simp] theorem Module.setPart_flash (m : Module) (p : Nat) (g : Part → Part) : (m.setPart p g).flash = m.flash := rfl
@[simp] theorem Module.setPart_sec (m : Module) (p : Nat) (g : Part → Part) : (m.setPart p g).sec = m.sec := rfl
@[simp] theorem Module.setPart_ras (m : Module) (p : Nat) (g : Part → Part) : (m.setPart p g).ras = m.ras := rfl
@[simp] theorem Module.setPart_mem (m : Module) (p : Nat) (g : Part → Part) : (m.setPart p g).mem = m.mem := rfl
@[simp] theorem Module.setPart_pool (m : Module) (p : Nat) (g : Part → Part) : (m.setPart p g).pool = m.pool := rfl
@[simp] theorem Module.setPart_fns (m : Module) (p : Nat) (g : Part → Part) : (m.setPart p g).fns = m.fns := rfl
@[simp] theorem Module.setPart_fabParts (m : Module) (p : Nat) (g : Part → Part) : (m.setPart p g).fabParts = m.fabParts := rfl
@[simp] theorem Module.setPart_slots (m : Module) (p : Nat) (g : Part → Part) : (m.setPart p g).slots = m.slots := rfl
@[simp] theorem Module.setPart_clusters (m : Module) (p : Nat) (g : Part → Part) : (m.setPart p g).clusters = m.clusters := rfl
@[simp] theorem Module.setPart_cores (m : Module) (p : Nat) (g : Part → Part) : (m.setPart p g).cores = m.cores := rfl
@[simp] theorem Module.setPart_nodes (m : Module) (p : Nat) (g : Part → Part) : (m.setPart p g).nodes = m.nodes := rfl
@[simp] theorem Module.setPart_ports (m : Module) (p : Nat) (g : Part → Part) : (m.setPart p g).ports = m.ports := rfl
@[simp] theorem Module.setPart_barriers (m : Module) (p : Nat) (g : Part → Part) : (m.setPart p g).barriers = m.barriers := rfl
@[simp] theorem Module.setPart_hedgeOut (m : Module) (p : Nat) (g : Part → Part) : (m.setPart p g).hedgeOut = m.hedgeOut := rfl
@[simp] theorem Module.setPart_hostOut (m : Module) (p : Nat) (g : Part → Part) : (m.setPart p g).hostOut = m.hostOut := rfl
@[simp] theorem Module.setPart_fabric (m : Module) (p : Nat) (g : Part → Part) : (m.setPart p g).fabric = m.fabric := rfl
@[simp] theorem Module.setPart_xfers (m : Module) (p : Nat) (g : Part → Part) : (m.setPart p g).xfers = m.xfers := rfl
@[simp] theorem Module.setPart_eth (m : Module) (p : Nat) (g : Part → Part) : (m.setPart p g).eth = m.eth := rfl
@[simp] theorem Module.setPart_netOut (m : Module) (p : Nat) (g : Part → Part) : (m.setPart p g).netOut = m.netOut := rfl
@[simp] theorem Module.setPart_sb (m : Module) (p : Nat) (g : Part → Part) : (m.setPart p g).sb = m.sb := rfl
@[simp] theorem Module.setPart_freeCtr (m : Module) (p : Nat) (g : Part → Part) : (m.setPart p g).freeCtr = m.freeCtr := rfl
@[simp] theorem Module.setPart_fn (m : Module) (p : Nat) (g : Part → Part) (n : Nat) : (m.setPart p g).fn n = m.fn n := rfl
@[simp] theorem Module.setPart_fab (m : Module) (p : Nat) (g : Part → Part) (n : Nat) : (m.setPart p g).fab n = m.fab n := rfl
@[simp] theorem Module.setPart_core (m : Module) (p : Nat) (g : Part → Part) (n : Nat) : (m.setPart p g).core n = m.core n := rfl
@[simp] theorem Module.setPart_clu (m : Module) (p : Nat) (g : Part → Part) (n : Nat) : (m.setPart p g).clu n = m.clu n := rfl
@[simp] theorem Module.setPart_proc (m : Module) (p : Nat) (g : Part → Part) (n : Nat) : (m.setPart p g).proc n = m.proc n := rfl
@[simp] theorem Module.setPart_link (m : Module) (p : Nat) (g : Part → Part) (n : Nat) : (m.setPart p g).link n = m.link n := rfl
@[simp] theorem Module.setPart_live (m : Module) (p : Nat) (g : Part → Part) (n : Nat) : (m.setPart p g).live n = m.live n := rfl
@[simp] theorem Module.setPart_ring (m : Module) (p : Nat) (g : Part → Part) (n q : Nat) : (m.setPart p g).ring n q = m.ring n q := rfl
@[simp] theorem Module.setRegs_tick (m : Module) (p : Nat) (g : PartRegs → PartRegs) : (m.setRegs p g).tick = m.tick := rfl
@[simp] theorem Module.setRegs_start (m : Module) (p : Nat) (g : PartRegs → PartRegs) : (m.setRegs p g).start = m.start := rfl
@[simp] theorem Module.setRegs_power (m : Module) (p : Nat) (g : PartRegs → PartRegs) : (m.setRegs p g).power = m.power := rfl
@[simp] theorem Module.setRegs_fw (m : Module) (p : Nat) (g : PartRegs → PartRegs) : (m.setRegs p g).fw = m.fw := rfl
@[simp] theorem Module.setRegs_fwBadWrite (m : Module) (p : Nat) (g : PartRegs → PartRegs) : (m.setRegs p g).fwBadWrite = m.fwBadWrite := rfl
@[simp] theorem Module.setRegs_activation (m : Module) (p : Nat) (g : PartRegs → PartRegs) : (m.setRegs p g).activation = m.activation := rfl
@[simp] theorem Module.setRegs_flash (m : Module) (p : Nat) (g : PartRegs → PartRegs) : (m.setRegs p g).flash = m.flash := rfl
@[simp] theorem Module.setRegs_sec (m : Module) (p : Nat) (g : PartRegs → PartRegs) : (m.setRegs p g).sec = m.sec := rfl
@[simp] theorem Module.setRegs_ras (m : Module) (p : Nat) (g : PartRegs → PartRegs) : (m.setRegs p g).ras = m.ras := rfl
@[simp] theorem Module.setRegs_mem (m : Module) (p : Nat) (g : PartRegs → PartRegs) : (m.setRegs p g).mem = m.mem := rfl
@[simp] theorem Module.setRegs_pool (m : Module) (p : Nat) (g : PartRegs → PartRegs) : (m.setRegs p g).pool = m.pool := rfl
@[simp] theorem Module.setRegs_fns (m : Module) (p : Nat) (g : PartRegs → PartRegs) : (m.setRegs p g).fns = m.fns := rfl
@[simp] theorem Module.setRegs_fabParts (m : Module) (p : Nat) (g : PartRegs → PartRegs) : (m.setRegs p g).fabParts = m.fabParts := rfl
@[simp] theorem Module.setRegs_slots (m : Module) (p : Nat) (g : PartRegs → PartRegs) : (m.setRegs p g).slots = m.slots := rfl
@[simp] theorem Module.setRegs_clusters (m : Module) (p : Nat) (g : PartRegs → PartRegs) : (m.setRegs p g).clusters = m.clusters := rfl
@[simp] theorem Module.setRegs_cores (m : Module) (p : Nat) (g : PartRegs → PartRegs) : (m.setRegs p g).cores = m.cores := rfl
@[simp] theorem Module.setRegs_nodes (m : Module) (p : Nat) (g : PartRegs → PartRegs) : (m.setRegs p g).nodes = m.nodes := rfl
@[simp] theorem Module.setRegs_ports (m : Module) (p : Nat) (g : PartRegs → PartRegs) : (m.setRegs p g).ports = m.ports := rfl
@[simp] theorem Module.setRegs_barriers (m : Module) (p : Nat) (g : PartRegs → PartRegs) : (m.setRegs p g).barriers = m.barriers := rfl
@[simp] theorem Module.setRegs_hedgeOut (m : Module) (p : Nat) (g : PartRegs → PartRegs) : (m.setRegs p g).hedgeOut = m.hedgeOut := rfl
@[simp] theorem Module.setRegs_hostOut (m : Module) (p : Nat) (g : PartRegs → PartRegs) : (m.setRegs p g).hostOut = m.hostOut := rfl
@[simp] theorem Module.setRegs_fabric (m : Module) (p : Nat) (g : PartRegs → PartRegs) : (m.setRegs p g).fabric = m.fabric := rfl
@[simp] theorem Module.setRegs_xfers (m : Module) (p : Nat) (g : PartRegs → PartRegs) : (m.setRegs p g).xfers = m.xfers := rfl
@[simp] theorem Module.setRegs_eth (m : Module) (p : Nat) (g : PartRegs → PartRegs) : (m.setRegs p g).eth = m.eth := rfl
@[simp] theorem Module.setRegs_netOut (m : Module) (p : Nat) (g : PartRegs → PartRegs) : (m.setRegs p g).netOut = m.netOut := rfl
@[simp] theorem Module.setRegs_sb (m : Module) (p : Nat) (g : PartRegs → PartRegs) : (m.setRegs p g).sb = m.sb := rfl
@[simp] theorem Module.setRegs_freeCtr (m : Module) (p : Nat) (g : PartRegs → PartRegs) : (m.setRegs p g).freeCtr = m.freeCtr := rfl
@[simp] theorem Module.setRegs_fn (m : Module) (p : Nat) (g : PartRegs → PartRegs) (n : Nat) : (m.setRegs p g).fn n = m.fn n := rfl
@[simp] theorem Module.setRegs_fab (m : Module) (p : Nat) (g : PartRegs → PartRegs) (n : Nat) : (m.setRegs p g).fab n = m.fab n := rfl
@[simp] theorem Module.setRegs_core (m : Module) (p : Nat) (g : PartRegs → PartRegs) (n : Nat) : (m.setRegs p g).core n = m.core n := rfl
@[simp] theorem Module.setRegs_clu (m : Module) (p : Nat) (g : PartRegs → PartRegs) (n : Nat) : (m.setRegs p g).clu n = m.clu n := rfl
@[simp] theorem Module.setRegs_proc (m : Module) (p : Nat) (g : PartRegs → PartRegs) (n : Nat) : (m.setRegs p g).proc n = m.proc n := rfl
@[simp] theorem Module.setRegs_link (m : Module) (p : Nat) (g : PartRegs → PartRegs) (n : Nat) : (m.setRegs p g).link n = m.link n := rfl
@[simp] theorem Module.setRegs_live (m : Module) (p : Nat) (g : PartRegs → PartRegs) (n : Nat) : (m.setRegs p g).live n = m.live n := rfl
@[simp] theorem Module.setRegs_ring (m : Module) (p : Nat) (g : PartRegs → PartRegs) (n q : Nat) : (m.setRegs p g).ring n q = m.ring n q := rfl
@[simp] theorem Module.setMemRegs_tick (m : Module) (p : Nat) (g : MemRegs → MemRegs) : (m.setMemRegs p g).tick = m.tick := rfl
@[simp] theorem Module.setMemRegs_start (m : Module) (p : Nat) (g : MemRegs → MemRegs) : (m.setMemRegs p g).start = m.start := rfl
@[simp] theorem Module.setMemRegs_power (m : Module) (p : Nat) (g : MemRegs → MemRegs) : (m.setMemRegs p g).power = m.power := rfl
@[simp] theorem Module.setMemRegs_fw (m : Module) (p : Nat) (g : MemRegs → MemRegs) : (m.setMemRegs p g).fw = m.fw := rfl
@[simp] theorem Module.setMemRegs_fwBadWrite (m : Module) (p : Nat) (g : MemRegs → MemRegs) : (m.setMemRegs p g).fwBadWrite = m.fwBadWrite := rfl
@[simp] theorem Module.setMemRegs_activation (m : Module) (p : Nat) (g : MemRegs → MemRegs) : (m.setMemRegs p g).activation = m.activation := rfl
@[simp] theorem Module.setMemRegs_flash (m : Module) (p : Nat) (g : MemRegs → MemRegs) : (m.setMemRegs p g).flash = m.flash := rfl
@[simp] theorem Module.setMemRegs_sec (m : Module) (p : Nat) (g : MemRegs → MemRegs) : (m.setMemRegs p g).sec = m.sec := rfl
@[simp] theorem Module.setMemRegs_ras (m : Module) (p : Nat) (g : MemRegs → MemRegs) : (m.setMemRegs p g).ras = m.ras := rfl
@[simp] theorem Module.setMemRegs_mem (m : Module) (p : Nat) (g : MemRegs → MemRegs) : (m.setMemRegs p g).mem = m.mem := rfl
@[simp] theorem Module.setMemRegs_pool (m : Module) (p : Nat) (g : MemRegs → MemRegs) : (m.setMemRegs p g).pool = m.pool := rfl
@[simp] theorem Module.setMemRegs_fns (m : Module) (p : Nat) (g : MemRegs → MemRegs) : (m.setMemRegs p g).fns = m.fns := rfl
@[simp] theorem Module.setMemRegs_fabParts (m : Module) (p : Nat) (g : MemRegs → MemRegs) : (m.setMemRegs p g).fabParts = m.fabParts := rfl
@[simp] theorem Module.setMemRegs_slots (m : Module) (p : Nat) (g : MemRegs → MemRegs) : (m.setMemRegs p g).slots = m.slots := rfl
@[simp] theorem Module.setMemRegs_clusters (m : Module) (p : Nat) (g : MemRegs → MemRegs) : (m.setMemRegs p g).clusters = m.clusters := rfl
@[simp] theorem Module.setMemRegs_cores (m : Module) (p : Nat) (g : MemRegs → MemRegs) : (m.setMemRegs p g).cores = m.cores := rfl
@[simp] theorem Module.setMemRegs_nodes (m : Module) (p : Nat) (g : MemRegs → MemRegs) : (m.setMemRegs p g).nodes = m.nodes := rfl
@[simp] theorem Module.setMemRegs_ports (m : Module) (p : Nat) (g : MemRegs → MemRegs) : (m.setMemRegs p g).ports = m.ports := rfl
@[simp] theorem Module.setMemRegs_barriers (m : Module) (p : Nat) (g : MemRegs → MemRegs) : (m.setMemRegs p g).barriers = m.barriers := rfl
@[simp] theorem Module.setMemRegs_hedgeOut (m : Module) (p : Nat) (g : MemRegs → MemRegs) : (m.setMemRegs p g).hedgeOut = m.hedgeOut := rfl
@[simp] theorem Module.setMemRegs_hostOut (m : Module) (p : Nat) (g : MemRegs → MemRegs) : (m.setMemRegs p g).hostOut = m.hostOut := rfl
@[simp] theorem Module.setMemRegs_fabric (m : Module) (p : Nat) (g : MemRegs → MemRegs) : (m.setMemRegs p g).fabric = m.fabric := rfl
@[simp] theorem Module.setMemRegs_xfers (m : Module) (p : Nat) (g : MemRegs → MemRegs) : (m.setMemRegs p g).xfers = m.xfers := rfl
@[simp] theorem Module.setMemRegs_eth (m : Module) (p : Nat) (g : MemRegs → MemRegs) : (m.setMemRegs p g).eth = m.eth := rfl
@[simp] theorem Module.setMemRegs_netOut (m : Module) (p : Nat) (g : MemRegs → MemRegs) : (m.setMemRegs p g).netOut = m.netOut := rfl
@[simp] theorem Module.setMemRegs_sb (m : Module) (p : Nat) (g : MemRegs → MemRegs) : (m.setMemRegs p g).sb = m.sb := rfl
@[simp] theorem Module.setMemRegs_freeCtr (m : Module) (p : Nat) (g : MemRegs → MemRegs) : (m.setMemRegs p g).freeCtr = m.freeCtr := rfl
@[simp] theorem Module.setMemRegs_fn (m : Module) (p : Nat) (g : MemRegs → MemRegs) (n : Nat) : (m.setMemRegs p g).fn n = m.fn n := rfl
@[simp] theorem Module.setMemRegs_fab (m : Module) (p : Nat) (g : MemRegs → MemRegs) (n : Nat) : (m.setMemRegs p g).fab n = m.fab n := rfl
@[simp] theorem Module.setMemRegs_core (m : Module) (p : Nat) (g : MemRegs → MemRegs) (n : Nat) : (m.setMemRegs p g).core n = m.core n := rfl
@[simp] theorem Module.setMemRegs_clu (m : Module) (p : Nat) (g : MemRegs → MemRegs) (n : Nat) : (m.setMemRegs p g).clu n = m.clu n := rfl
@[simp] theorem Module.setMemRegs_proc (m : Module) (p : Nat) (g : MemRegs → MemRegs) (n : Nat) : (m.setMemRegs p g).proc n = m.proc n := rfl
@[simp] theorem Module.setMemRegs_link (m : Module) (p : Nat) (g : MemRegs → MemRegs) (n : Nat) : (m.setMemRegs p g).link n = m.link n := rfl
@[simp] theorem Module.setMemRegs_live (m : Module) (p : Nat) (g : MemRegs → MemRegs) (n : Nat) : (m.setMemRegs p g).live n = m.live n := rfl
@[simp] theorem Module.setMemRegs_ring (m : Module) (p : Nat) (g : MemRegs → MemRegs) (n q : Nat) : (m.setMemRegs p g).ring n q = m.ring n q := rfl
@[simp] theorem Module.setLark_tick (m : Module) (p : Nat) (g : LarkRegs → LarkRegs) : (m.setLark p g).tick = m.tick := rfl
@[simp] theorem Module.setLark_start (m : Module) (p : Nat) (g : LarkRegs → LarkRegs) : (m.setLark p g).start = m.start := rfl
@[simp] theorem Module.setLark_power (m : Module) (p : Nat) (g : LarkRegs → LarkRegs) : (m.setLark p g).power = m.power := rfl
@[simp] theorem Module.setLark_fw (m : Module) (p : Nat) (g : LarkRegs → LarkRegs) : (m.setLark p g).fw = m.fw := rfl
@[simp] theorem Module.setLark_fwBadWrite (m : Module) (p : Nat) (g : LarkRegs → LarkRegs) : (m.setLark p g).fwBadWrite = m.fwBadWrite := rfl
@[simp] theorem Module.setLark_activation (m : Module) (p : Nat) (g : LarkRegs → LarkRegs) : (m.setLark p g).activation = m.activation := rfl
@[simp] theorem Module.setLark_flash (m : Module) (p : Nat) (g : LarkRegs → LarkRegs) : (m.setLark p g).flash = m.flash := rfl
@[simp] theorem Module.setLark_sec (m : Module) (p : Nat) (g : LarkRegs → LarkRegs) : (m.setLark p g).sec = m.sec := rfl
@[simp] theorem Module.setLark_ras (m : Module) (p : Nat) (g : LarkRegs → LarkRegs) : (m.setLark p g).ras = m.ras := rfl
@[simp] theorem Module.setLark_mem (m : Module) (p : Nat) (g : LarkRegs → LarkRegs) : (m.setLark p g).mem = m.mem := rfl
@[simp] theorem Module.setLark_pool (m : Module) (p : Nat) (g : LarkRegs → LarkRegs) : (m.setLark p g).pool = m.pool := rfl
@[simp] theorem Module.setLark_fns (m : Module) (p : Nat) (g : LarkRegs → LarkRegs) : (m.setLark p g).fns = m.fns := rfl
@[simp] theorem Module.setLark_fabParts (m : Module) (p : Nat) (g : LarkRegs → LarkRegs) : (m.setLark p g).fabParts = m.fabParts := rfl
@[simp] theorem Module.setLark_slots (m : Module) (p : Nat) (g : LarkRegs → LarkRegs) : (m.setLark p g).slots = m.slots := rfl
@[simp] theorem Module.setLark_clusters (m : Module) (p : Nat) (g : LarkRegs → LarkRegs) : (m.setLark p g).clusters = m.clusters := rfl
@[simp] theorem Module.setLark_cores (m : Module) (p : Nat) (g : LarkRegs → LarkRegs) : (m.setLark p g).cores = m.cores := rfl
@[simp] theorem Module.setLark_nodes (m : Module) (p : Nat) (g : LarkRegs → LarkRegs) : (m.setLark p g).nodes = m.nodes := rfl
@[simp] theorem Module.setLark_ports (m : Module) (p : Nat) (g : LarkRegs → LarkRegs) : (m.setLark p g).ports = m.ports := rfl
@[simp] theorem Module.setLark_barriers (m : Module) (p : Nat) (g : LarkRegs → LarkRegs) : (m.setLark p g).barriers = m.barriers := rfl
@[simp] theorem Module.setLark_hedgeOut (m : Module) (p : Nat) (g : LarkRegs → LarkRegs) : (m.setLark p g).hedgeOut = m.hedgeOut := rfl
@[simp] theorem Module.setLark_hostOut (m : Module) (p : Nat) (g : LarkRegs → LarkRegs) : (m.setLark p g).hostOut = m.hostOut := rfl
@[simp] theorem Module.setLark_fabric (m : Module) (p : Nat) (g : LarkRegs → LarkRegs) : (m.setLark p g).fabric = m.fabric := rfl
@[simp] theorem Module.setLark_xfers (m : Module) (p : Nat) (g : LarkRegs → LarkRegs) : (m.setLark p g).xfers = m.xfers := rfl
@[simp] theorem Module.setLark_eth (m : Module) (p : Nat) (g : LarkRegs → LarkRegs) : (m.setLark p g).eth = m.eth := rfl
@[simp] theorem Module.setLark_netOut (m : Module) (p : Nat) (g : LarkRegs → LarkRegs) : (m.setLark p g).netOut = m.netOut := rfl
@[simp] theorem Module.setLark_sb (m : Module) (p : Nat) (g : LarkRegs → LarkRegs) : (m.setLark p g).sb = m.sb := rfl
@[simp] theorem Module.setLark_freeCtr (m : Module) (p : Nat) (g : LarkRegs → LarkRegs) : (m.setLark p g).freeCtr = m.freeCtr := rfl
@[simp] theorem Module.setLark_fn (m : Module) (p : Nat) (g : LarkRegs → LarkRegs) (n : Nat) : (m.setLark p g).fn n = m.fn n := rfl
@[simp] theorem Module.setLark_fab (m : Module) (p : Nat) (g : LarkRegs → LarkRegs) (n : Nat) : (m.setLark p g).fab n = m.fab n := rfl
@[simp] theorem Module.setLark_core (m : Module) (p : Nat) (g : LarkRegs → LarkRegs) (n : Nat) : (m.setLark p g).core n = m.core n := rfl
@[simp] theorem Module.setLark_clu (m : Module) (p : Nat) (g : LarkRegs → LarkRegs) (n : Nat) : (m.setLark p g).clu n = m.clu n := rfl
@[simp] theorem Module.setLark_proc (m : Module) (p : Nat) (g : LarkRegs → LarkRegs) (n : Nat) : (m.setLark p g).proc n = m.proc n := rfl
@[simp] theorem Module.setLark_link (m : Module) (p : Nat) (g : LarkRegs → LarkRegs) (n : Nat) : (m.setLark p g).link n = m.link n := rfl
@[simp] theorem Module.setLark_live (m : Module) (p : Nat) (g : LarkRegs → LarkRegs) (n : Nat) : (m.setLark p g).live n = m.live n := rfl
@[simp] theorem Module.setLark_ring (m : Module) (p : Nat) (g : LarkRegs → LarkRegs) (n q : Nat) : (m.setLark p g).ring n q = m.ring n q := rfl
@[simp] theorem Module.setFab_tick (m : Module) (p : Nat) (g : FabPart → FabPart) : (m.setFab p g).tick = m.tick := rfl
@[simp] theorem Module.setFab_start (m : Module) (p : Nat) (g : FabPart → FabPart) : (m.setFab p g).start = m.start := rfl
@[simp] theorem Module.setFab_power (m : Module) (p : Nat) (g : FabPart → FabPart) : (m.setFab p g).power = m.power := rfl
@[simp] theorem Module.setFab_fw (m : Module) (p : Nat) (g : FabPart → FabPart) : (m.setFab p g).fw = m.fw := rfl
@[simp] theorem Module.setFab_fwBadWrite (m : Module) (p : Nat) (g : FabPart → FabPart) : (m.setFab p g).fwBadWrite = m.fwBadWrite := rfl
@[simp] theorem Module.setFab_activation (m : Module) (p : Nat) (g : FabPart → FabPart) : (m.setFab p g).activation = m.activation := rfl
@[simp] theorem Module.setFab_flash (m : Module) (p : Nat) (g : FabPart → FabPart) : (m.setFab p g).flash = m.flash := rfl
@[simp] theorem Module.setFab_sec (m : Module) (p : Nat) (g : FabPart → FabPart) : (m.setFab p g).sec = m.sec := rfl
@[simp] theorem Module.setFab_ras (m : Module) (p : Nat) (g : FabPart → FabPart) : (m.setFab p g).ras = m.ras := rfl
@[simp] theorem Module.setFab_mem (m : Module) (p : Nat) (g : FabPart → FabPart) : (m.setFab p g).mem = m.mem := rfl
@[simp] theorem Module.setFab_pool (m : Module) (p : Nat) (g : FabPart → FabPart) : (m.setFab p g).pool = m.pool := rfl
@[simp] theorem Module.setFab_fns (m : Module) (p : Nat) (g : FabPart → FabPart) : (m.setFab p g).fns = m.fns := rfl
@[simp] theorem Module.setFab_parts (m : Module) (p : Nat) (g : FabPart → FabPart) : (m.setFab p g).parts = m.parts := rfl
@[simp] theorem Module.setFab_slots (m : Module) (p : Nat) (g : FabPart → FabPart) : (m.setFab p g).slots = m.slots := rfl
@[simp] theorem Module.setFab_clusters (m : Module) (p : Nat) (g : FabPart → FabPart) : (m.setFab p g).clusters = m.clusters := rfl
@[simp] theorem Module.setFab_cores (m : Module) (p : Nat) (g : FabPart → FabPart) : (m.setFab p g).cores = m.cores := rfl
@[simp] theorem Module.setFab_nodes (m : Module) (p : Nat) (g : FabPart → FabPart) : (m.setFab p g).nodes = m.nodes := rfl
@[simp] theorem Module.setFab_ports (m : Module) (p : Nat) (g : FabPart → FabPart) : (m.setFab p g).ports = m.ports := rfl
@[simp] theorem Module.setFab_barriers (m : Module) (p : Nat) (g : FabPart → FabPart) : (m.setFab p g).barriers = m.barriers := rfl
@[simp] theorem Module.setFab_hedgeOut (m : Module) (p : Nat) (g : FabPart → FabPart) : (m.setFab p g).hedgeOut = m.hedgeOut := rfl
@[simp] theorem Module.setFab_hostOut (m : Module) (p : Nat) (g : FabPart → FabPart) : (m.setFab p g).hostOut = m.hostOut := rfl
@[simp] theorem Module.setFab_fabric (m : Module) (p : Nat) (g : FabPart → FabPart) : (m.setFab p g).fabric = m.fabric := rfl
@[simp] theorem Module.setFab_xfers (m : Module) (p : Nat) (g : FabPart → FabPart) : (m.setFab p g).xfers = m.xfers := rfl
@[simp] theorem Module.setFab_eth (m : Module) (p : Nat) (g : FabPart → FabPart) : (m.setFab p g).eth = m.eth := rfl
@[simp] theorem Module.setFab_netOut (m : Module) (p : Nat) (g : FabPart → FabPart) : (m.setFab p g).netOut = m.netOut := rfl
@[simp] theorem Module.setFab_sb (m : Module) (p : Nat) (g : FabPart → FabPart) : (m.setFab p g).sb = m.sb := rfl
@[simp] theorem Module.setFab_freeCtr (m : Module) (p : Nat) (g : FabPart → FabPart) : (m.setFab p g).freeCtr = m.freeCtr := rfl
@[simp] theorem Module.setFab_fn (m : Module) (p : Nat) (g : FabPart → FabPart) (n : Nat) : (m.setFab p g).fn n = m.fn n := rfl
@[simp] theorem Module.setFab_part (m : Module) (p : Nat) (g : FabPart → FabPart) (n : Nat) : (m.setFab p g).part n = m.part n := rfl
@[simp] theorem Module.setFab_core (m : Module) (p : Nat) (g : FabPart → FabPart) (n : Nat) : (m.setFab p g).core n = m.core n := rfl
@[simp] theorem Module.setFab_clu (m : Module) (p : Nat) (g : FabPart → FabPart) (n : Nat) : (m.setFab p g).clu n = m.clu n := rfl
@[simp] theorem Module.setFab_proc (m : Module) (p : Nat) (g : FabPart → FabPart) (n : Nat) : (m.setFab p g).proc n = m.proc n := rfl
@[simp] theorem Module.setFab_link (m : Module) (p : Nat) (g : FabPart → FabPart) (n : Nat) : (m.setFab p g).link n = m.link n := rfl
@[simp] theorem Module.setFab_live (m : Module) (p : Nat) (g : FabPart → FabPart) (n : Nat) : (m.setFab p g).live n = m.live n := rfl
@[simp] theorem Module.setFab_ring (m : Module) (p : Nat) (g : FabPart → FabPart) (n q : Nat) : (m.setFab p g).ring n q = m.ring n q := rfl
@[simp] theorem Module.setCore_tick (m : Module) (c : Nat) (g : Core → Core) : (m.setCore c g).tick = m.tick := rfl
@[simp] theorem Module.setCore_start (m : Module) (c : Nat) (g : Core → Core) : (m.setCore c g).start = m.start := rfl
@[simp] theorem Module.setCore_power (m : Module) (c : Nat) (g : Core → Core) : (m.setCore c g).power = m.power := rfl
@[simp] theorem Module.setCore_fw (m : Module) (c : Nat) (g : Core → Core) : (m.setCore c g).fw = m.fw := rfl
@[simp] theorem Module.setCore_fwBadWrite (m : Module) (c : Nat) (g : Core → Core) : (m.setCore c g).fwBadWrite = m.fwBadWrite := rfl
@[simp] theorem Module.setCore_activation (m : Module) (c : Nat) (g : Core → Core) : (m.setCore c g).activation = m.activation := rfl
@[simp] theorem Module.setCore_flash (m : Module) (c : Nat) (g : Core → Core) : (m.setCore c g).flash = m.flash := rfl
@[simp] theorem Module.setCore_sec (m : Module) (c : Nat) (g : Core → Core) : (m.setCore c g).sec = m.sec := rfl
@[simp] theorem Module.setCore_ras (m : Module) (c : Nat) (g : Core → Core) : (m.setCore c g).ras = m.ras := rfl
@[simp] theorem Module.setCore_mem (m : Module) (c : Nat) (g : Core → Core) : (m.setCore c g).mem = m.mem := rfl
@[simp] theorem Module.setCore_pool (m : Module) (c : Nat) (g : Core → Core) : (m.setCore c g).pool = m.pool := rfl
@[simp] theorem Module.setCore_fns (m : Module) (c : Nat) (g : Core → Core) : (m.setCore c g).fns = m.fns := rfl
@[simp] theorem Module.setCore_parts (m : Module) (c : Nat) (g : Core → Core) : (m.setCore c g).parts = m.parts := rfl
@[simp] theorem Module.setCore_fabParts (m : Module) (c : Nat) (g : Core → Core) : (m.setCore c g).fabParts = m.fabParts := rfl
@[simp] theorem Module.setCore_slots (m : Module) (c : Nat) (g : Core → Core) : (m.setCore c g).slots = m.slots := rfl
@[simp] theorem Module.setCore_clusters (m : Module) (c : Nat) (g : Core → Core) : (m.setCore c g).clusters = m.clusters := rfl
@[simp] theorem Module.setCore_nodes (m : Module) (c : Nat) (g : Core → Core) : (m.setCore c g).nodes = m.nodes := rfl
@[simp] theorem Module.setCore_ports (m : Module) (c : Nat) (g : Core → Core) : (m.setCore c g).ports = m.ports := rfl
@[simp] theorem Module.setCore_barriers (m : Module) (c : Nat) (g : Core → Core) : (m.setCore c g).barriers = m.barriers := rfl
@[simp] theorem Module.setCore_hedgeOut (m : Module) (c : Nat) (g : Core → Core) : (m.setCore c g).hedgeOut = m.hedgeOut := rfl
@[simp] theorem Module.setCore_hostOut (m : Module) (c : Nat) (g : Core → Core) : (m.setCore c g).hostOut = m.hostOut := rfl
@[simp] theorem Module.setCore_fabric (m : Module) (c : Nat) (g : Core → Core) : (m.setCore c g).fabric = m.fabric := rfl
@[simp] theorem Module.setCore_xfers (m : Module) (c : Nat) (g : Core → Core) : (m.setCore c g).xfers = m.xfers := rfl
@[simp] theorem Module.setCore_eth (m : Module) (c : Nat) (g : Core → Core) : (m.setCore c g).eth = m.eth := rfl
@[simp] theorem Module.setCore_netOut (m : Module) (c : Nat) (g : Core → Core) : (m.setCore c g).netOut = m.netOut := rfl
@[simp] theorem Module.setCore_sb (m : Module) (c : Nat) (g : Core → Core) : (m.setCore c g).sb = m.sb := rfl
@[simp] theorem Module.setCore_freeCtr (m : Module) (c : Nat) (g : Core → Core) : (m.setCore c g).freeCtr = m.freeCtr := rfl
@[simp] theorem Module.setCore_fn (m : Module) (c : Nat) (g : Core → Core) (n : Nat) : (m.setCore c g).fn n = m.fn n := rfl
@[simp] theorem Module.setCore_part (m : Module) (c : Nat) (g : Core → Core) (n : Nat) : (m.setCore c g).part n = m.part n := rfl
@[simp] theorem Module.setCore_fab (m : Module) (c : Nat) (g : Core → Core) (n : Nat) : (m.setCore c g).fab n = m.fab n := rfl
@[simp] theorem Module.setCore_clu (m : Module) (c : Nat) (g : Core → Core) (n : Nat) : (m.setCore c g).clu n = m.clu n := rfl
@[simp] theorem Module.setCore_proc (m : Module) (c : Nat) (g : Core → Core) (n : Nat) : (m.setCore c g).proc n = m.proc n := rfl
@[simp] theorem Module.setCore_link (m : Module) (c : Nat) (g : Core → Core) (n : Nat) : (m.setCore c g).link n = m.link n := rfl
@[simp] theorem Module.setCore_live (m : Module) (c : Nat) (g : Core → Core) (n : Nat) : (m.setCore c g).live n = m.live n := rfl
@[simp] theorem Module.setCore_ring (m : Module) (c : Nat) (g : Core → Core) (n q : Nat) : (m.setCore c g).ring n q = m.ring n q := rfl
@[simp] theorem Module.setVe_tick (m : Module) (c : Nat) (g : Ve → Ve) : (m.setVe c g).tick = m.tick := rfl
@[simp] theorem Module.setVe_start (m : Module) (c : Nat) (g : Ve → Ve) : (m.setVe c g).start = m.start := rfl
@[simp] theorem Module.setVe_power (m : Module) (c : Nat) (g : Ve → Ve) : (m.setVe c g).power = m.power := rfl
@[simp] theorem Module.setVe_fw (m : Module) (c : Nat) (g : Ve → Ve) : (m.setVe c g).fw = m.fw := rfl
@[simp] theorem Module.setVe_fwBadWrite (m : Module) (c : Nat) (g : Ve → Ve) : (m.setVe c g).fwBadWrite = m.fwBadWrite := rfl
@[simp] theorem Module.setVe_activation (m : Module) (c : Nat) (g : Ve → Ve) : (m.setVe c g).activation = m.activation := rfl
@[simp] theorem Module.setVe_flash (m : Module) (c : Nat) (g : Ve → Ve) : (m.setVe c g).flash = m.flash := rfl
@[simp] theorem Module.setVe_sec (m : Module) (c : Nat) (g : Ve → Ve) : (m.setVe c g).sec = m.sec := rfl
@[simp] theorem Module.setVe_ras (m : Module) (c : Nat) (g : Ve → Ve) : (m.setVe c g).ras = m.ras := rfl
@[simp] theorem Module.setVe_mem (m : Module) (c : Nat) (g : Ve → Ve) : (m.setVe c g).mem = m.mem := rfl
@[simp] theorem Module.setVe_pool (m : Module) (c : Nat) (g : Ve → Ve) : (m.setVe c g).pool = m.pool := rfl
@[simp] theorem Module.setVe_fns (m : Module) (c : Nat) (g : Ve → Ve) : (m.setVe c g).fns = m.fns := rfl
@[simp] theorem Module.setVe_parts (m : Module) (c : Nat) (g : Ve → Ve) : (m.setVe c g).parts = m.parts := rfl
@[simp] theorem Module.setVe_fabParts (m : Module) (c : Nat) (g : Ve → Ve) : (m.setVe c g).fabParts = m.fabParts := rfl
@[simp] theorem Module.setVe_slots (m : Module) (c : Nat) (g : Ve → Ve) : (m.setVe c g).slots = m.slots := rfl
@[simp] theorem Module.setVe_clusters (m : Module) (c : Nat) (g : Ve → Ve) : (m.setVe c g).clusters = m.clusters := rfl
@[simp] theorem Module.setVe_nodes (m : Module) (c : Nat) (g : Ve → Ve) : (m.setVe c g).nodes = m.nodes := rfl
@[simp] theorem Module.setVe_ports (m : Module) (c : Nat) (g : Ve → Ve) : (m.setVe c g).ports = m.ports := rfl
@[simp] theorem Module.setVe_barriers (m : Module) (c : Nat) (g : Ve → Ve) : (m.setVe c g).barriers = m.barriers := rfl
@[simp] theorem Module.setVe_hedgeOut (m : Module) (c : Nat) (g : Ve → Ve) : (m.setVe c g).hedgeOut = m.hedgeOut := rfl
@[simp] theorem Module.setVe_hostOut (m : Module) (c : Nat) (g : Ve → Ve) : (m.setVe c g).hostOut = m.hostOut := rfl
@[simp] theorem Module.setVe_fabric (m : Module) (c : Nat) (g : Ve → Ve) : (m.setVe c g).fabric = m.fabric := rfl
@[simp] theorem Module.setVe_xfers (m : Module) (c : Nat) (g : Ve → Ve) : (m.setVe c g).xfers = m.xfers := rfl
@[simp] theorem Module.setVe_eth (m : Module) (c : Nat) (g : Ve → Ve) : (m.setVe c g).eth = m.eth := rfl
@[simp] theorem Module.setVe_netOut (m : Module) (c : Nat) (g : Ve → Ve) : (m.setVe c g).netOut = m.netOut := rfl
@[simp] theorem Module.setVe_sb (m : Module) (c : Nat) (g : Ve → Ve) : (m.setVe c g).sb = m.sb := rfl
@[simp] theorem Module.setVe_freeCtr (m : Module) (c : Nat) (g : Ve → Ve) : (m.setVe c g).freeCtr = m.freeCtr := rfl
@[simp] theorem Module.setVe_fn (m : Module) (c : Nat) (g : Ve → Ve) (n : Nat) : (m.setVe c g).fn n = m.fn n := rfl
@[simp] theorem Module.setVe_part (m : Module) (c : Nat) (g : Ve → Ve) (n : Nat) : (m.setVe c g).part n = m.part n := rfl
@[simp] theorem Module.setVe_fab (m : Module) (c : Nat) (g : Ve → Ve) (n : Nat) : (m.setVe c g).fab n = m.fab n := rfl
@[simp] theorem Module.setVe_clu (m : Module) (c : Nat) (g : Ve → Ve) (n : Nat) : (m.setVe c g).clu n = m.clu n := rfl
@[simp] theorem Module.setVe_proc (m : Module) (c : Nat) (g : Ve → Ve) (n : Nat) : (m.setVe c g).proc n = m.proc n := rfl
@[simp] theorem Module.setVe_link (m : Module) (c : Nat) (g : Ve → Ve) (n : Nat) : (m.setVe c g).link n = m.link n := rfl
@[simp] theorem Module.setVe_live (m : Module) (c : Nat) (g : Ve → Ve) (n : Nat) : (m.setVe c g).live n = m.live n := rfl
@[simp] theorem Module.setVe_ring (m : Module) (c : Nat) (g : Ve → Ve) (n q : Nat) : (m.setVe c g).ring n q = m.ring n q := rfl
@[simp] theorem Module.setMe_tick (m : Module) (c : Nat) (g : Me → Me) : (m.setMe c g).tick = m.tick := rfl
@[simp] theorem Module.setMe_start (m : Module) (c : Nat) (g : Me → Me) : (m.setMe c g).start = m.start := rfl
@[simp] theorem Module.setMe_power (m : Module) (c : Nat) (g : Me → Me) : (m.setMe c g).power = m.power := rfl
@[simp] theorem Module.setMe_fw (m : Module) (c : Nat) (g : Me → Me) : (m.setMe c g).fw = m.fw := rfl
@[simp] theorem Module.setMe_fwBadWrite (m : Module) (c : Nat) (g : Me → Me) : (m.setMe c g).fwBadWrite = m.fwBadWrite := rfl
@[simp] theorem Module.setMe_activation (m : Module) (c : Nat) (g : Me → Me) : (m.setMe c g).activation = m.activation := rfl
@[simp] theorem Module.setMe_flash (m : Module) (c : Nat) (g : Me → Me) : (m.setMe c g).flash = m.flash := rfl
@[simp] theorem Module.setMe_sec (m : Module) (c : Nat) (g : Me → Me) : (m.setMe c g).sec = m.sec := rfl
@[simp] theorem Module.setMe_ras (m : Module) (c : Nat) (g : Me → Me) : (m.setMe c g).ras = m.ras := rfl
@[simp] theorem Module.setMe_mem (m : Module) (c : Nat) (g : Me → Me) : (m.setMe c g).mem = m.mem := rfl
@[simp] theorem Module.setMe_pool (m : Module) (c : Nat) (g : Me → Me) : (m.setMe c g).pool = m.pool := rfl
@[simp] theorem Module.setMe_fns (m : Module) (c : Nat) (g : Me → Me) : (m.setMe c g).fns = m.fns := rfl
@[simp] theorem Module.setMe_parts (m : Module) (c : Nat) (g : Me → Me) : (m.setMe c g).parts = m.parts := rfl
@[simp] theorem Module.setMe_fabParts (m : Module) (c : Nat) (g : Me → Me) : (m.setMe c g).fabParts = m.fabParts := rfl
@[simp] theorem Module.setMe_slots (m : Module) (c : Nat) (g : Me → Me) : (m.setMe c g).slots = m.slots := rfl
@[simp] theorem Module.setMe_clusters (m : Module) (c : Nat) (g : Me → Me) : (m.setMe c g).clusters = m.clusters := rfl
@[simp] theorem Module.setMe_nodes (m : Module) (c : Nat) (g : Me → Me) : (m.setMe c g).nodes = m.nodes := rfl
@[simp] theorem Module.setMe_ports (m : Module) (c : Nat) (g : Me → Me) : (m.setMe c g).ports = m.ports := rfl
@[simp] theorem Module.setMe_barriers (m : Module) (c : Nat) (g : Me → Me) : (m.setMe c g).barriers = m.barriers := rfl
@[simp] theorem Module.setMe_hedgeOut (m : Module) (c : Nat) (g : Me → Me) : (m.setMe c g).hedgeOut = m.hedgeOut := rfl
@[simp] theorem Module.setMe_hostOut (m : Module) (c : Nat) (g : Me → Me) : (m.setMe c g).hostOut = m.hostOut := rfl
@[simp] theorem Module.setMe_fabric (m : Module) (c : Nat) (g : Me → Me) : (m.setMe c g).fabric = m.fabric := rfl
@[simp] theorem Module.setMe_xfers (m : Module) (c : Nat) (g : Me → Me) : (m.setMe c g).xfers = m.xfers := rfl
@[simp] theorem Module.setMe_eth (m : Module) (c : Nat) (g : Me → Me) : (m.setMe c g).eth = m.eth := rfl
@[simp] theorem Module.setMe_netOut (m : Module) (c : Nat) (g : Me → Me) : (m.setMe c g).netOut = m.netOut := rfl
@[simp] theorem Module.setMe_sb (m : Module) (c : Nat) (g : Me → Me) : (m.setMe c g).sb = m.sb := rfl
@[simp] theorem Module.setMe_freeCtr (m : Module) (c : Nat) (g : Me → Me) : (m.setMe c g).freeCtr = m.freeCtr := rfl
@[simp] theorem Module.setMe_fn (m : Module) (c : Nat) (g : Me → Me) (n : Nat) : (m.setMe c g).fn n = m.fn n := rfl
@[simp] theorem Module.setMe_part (m : Module) (c : Nat) (g : Me → Me) (n : Nat) : (m.setMe c g).part n = m.part n := rfl
@[simp] theorem Module.setMe_fab (m : Module) (c : Nat) (g : Me → Me) (n : Nat) : (m.setMe c g).fab n = m.fab n := rfl
@[simp] theorem Module.setMe_clu (m : Module) (c : Nat) (g : Me → Me) (n : Nat) : (m.setMe c g).clu n = m.clu n := rfl
@[simp] theorem Module.setMe_proc (m : Module) (c : Nat) (g : Me → Me) (n : Nat) : (m.setMe c g).proc n = m.proc n := rfl
@[simp] theorem Module.setMe_link (m : Module) (c : Nat) (g : Me → Me) (n : Nat) : (m.setMe c g).link n = m.link n := rfl
@[simp] theorem Module.setMe_live (m : Module) (c : Nat) (g : Me → Me) (n : Nat) : (m.setMe c g).live n = m.live n := rfl
@[simp] theorem Module.setMe_ring (m : Module) (c : Nat) (g : Me → Me) (n q : Nat) : (m.setMe c g).ring n q = m.ring n q := rfl
@[simp] theorem Module.setCnt_tick (m : Module) (c : Nat) (g : CoreCnt → CoreCnt) : (m.setCnt c g).tick = m.tick := rfl
@[simp] theorem Module.setCnt_start (m : Module) (c : Nat) (g : CoreCnt → CoreCnt) : (m.setCnt c g).start = m.start := rfl
@[simp] theorem Module.setCnt_power (m : Module) (c : Nat) (g : CoreCnt → CoreCnt) : (m.setCnt c g).power = m.power := rfl
@[simp] theorem Module.setCnt_fw (m : Module) (c : Nat) (g : CoreCnt → CoreCnt) : (m.setCnt c g).fw = m.fw := rfl
@[simp] theorem Module.setCnt_fwBadWrite (m : Module) (c : Nat) (g : CoreCnt → CoreCnt) : (m.setCnt c g).fwBadWrite = m.fwBadWrite := rfl
@[simp] theorem Module.setCnt_activation (m : Module) (c : Nat) (g : CoreCnt → CoreCnt) : (m.setCnt c g).activation = m.activation := rfl
@[simp] theorem Module.setCnt_flash (m : Module) (c : Nat) (g : CoreCnt → CoreCnt) : (m.setCnt c g).flash = m.flash := rfl
@[simp] theorem Module.setCnt_sec (m : Module) (c : Nat) (g : CoreCnt → CoreCnt) : (m.setCnt c g).sec = m.sec := rfl
@[simp] theorem Module.setCnt_ras (m : Module) (c : Nat) (g : CoreCnt → CoreCnt) : (m.setCnt c g).ras = m.ras := rfl
@[simp] theorem Module.setCnt_mem (m : Module) (c : Nat) (g : CoreCnt → CoreCnt) : (m.setCnt c g).mem = m.mem := rfl
@[simp] theorem Module.setCnt_pool (m : Module) (c : Nat) (g : CoreCnt → CoreCnt) : (m.setCnt c g).pool = m.pool := rfl
@[simp] theorem Module.setCnt_fns (m : Module) (c : Nat) (g : CoreCnt → CoreCnt) : (m.setCnt c g).fns = m.fns := rfl
@[simp] theorem Module.setCnt_parts (m : Module) (c : Nat) (g : CoreCnt → CoreCnt) : (m.setCnt c g).parts = m.parts := rfl
@[simp] theorem Module.setCnt_fabParts (m : Module) (c : Nat) (g : CoreCnt → CoreCnt) : (m.setCnt c g).fabParts = m.fabParts := rfl
@[simp] theorem Module.setCnt_slots (m : Module) (c : Nat) (g : CoreCnt → CoreCnt) : (m.setCnt c g).slots = m.slots := rfl
@[simp] theorem Module.setCnt_clusters (m : Module) (c : Nat) (g : CoreCnt → CoreCnt) : (m.setCnt c g).clusters = m.clusters := rfl
@[simp] theorem Module.setCnt_nodes (m : Module) (c : Nat) (g : CoreCnt → CoreCnt) : (m.setCnt c g).nodes = m.nodes := rfl
@[simp] theorem Module.setCnt_ports (m : Module) (c : Nat) (g : CoreCnt → CoreCnt) : (m.setCnt c g).ports = m.ports := rfl
@[simp] theorem Module.setCnt_barriers (m : Module) (c : Nat) (g : CoreCnt → CoreCnt) : (m.setCnt c g).barriers = m.barriers := rfl
@[simp] theorem Module.setCnt_hedgeOut (m : Module) (c : Nat) (g : CoreCnt → CoreCnt) : (m.setCnt c g).hedgeOut = m.hedgeOut := rfl
@[simp] theorem Module.setCnt_hostOut (m : Module) (c : Nat) (g : CoreCnt → CoreCnt) : (m.setCnt c g).hostOut = m.hostOut := rfl
@[simp] theorem Module.setCnt_fabric (m : Module) (c : Nat) (g : CoreCnt → CoreCnt) : (m.setCnt c g).fabric = m.fabric := rfl
@[simp] theorem Module.setCnt_xfers (m : Module) (c : Nat) (g : CoreCnt → CoreCnt) : (m.setCnt c g).xfers = m.xfers := rfl
@[simp] theorem Module.setCnt_eth (m : Module) (c : Nat) (g : CoreCnt → CoreCnt) : (m.setCnt c g).eth = m.eth := rfl
@[simp] theorem Module.setCnt_netOut (m : Module) (c : Nat) (g : CoreCnt → CoreCnt) : (m.setCnt c g).netOut = m.netOut := rfl
@[simp] theorem Module.setCnt_sb (m : Module) (c : Nat) (g : CoreCnt → CoreCnt) : (m.setCnt c g).sb = m.sb := rfl
@[simp] theorem Module.setCnt_freeCtr (m : Module) (c : Nat) (g : CoreCnt → CoreCnt) : (m.setCnt c g).freeCtr = m.freeCtr := rfl
@[simp] theorem Module.setCnt_fn (m : Module) (c : Nat) (g : CoreCnt → CoreCnt) (n : Nat) : (m.setCnt c g).fn n = m.fn n := rfl
@[simp] theorem Module.setCnt_part (m : Module) (c : Nat) (g : CoreCnt → CoreCnt) (n : Nat) : (m.setCnt c g).part n = m.part n := rfl
@[simp] theorem Module.setCnt_fab (m : Module) (c : Nat) (g : CoreCnt → CoreCnt) (n : Nat) : (m.setCnt c g).fab n = m.fab n := rfl
@[simp] theorem Module.setCnt_clu (m : Module) (c : Nat) (g : CoreCnt → CoreCnt) (n : Nat) : (m.setCnt c g).clu n = m.clu n := rfl
@[simp] theorem Module.setCnt_proc (m : Module) (c : Nat) (g : CoreCnt → CoreCnt) (n : Nat) : (m.setCnt c g).proc n = m.proc n := rfl
@[simp] theorem Module.setCnt_link (m : Module) (c : Nat) (g : CoreCnt → CoreCnt) (n : Nat) : (m.setCnt c g).link n = m.link n := rfl
@[simp] theorem Module.setCnt_live (m : Module) (c : Nat) (g : CoreCnt → CoreCnt) (n : Nat) : (m.setCnt c g).live n = m.live n := rfl
@[simp] theorem Module.setCnt_ring (m : Module) (c : Nat) (g : CoreCnt → CoreCnt) (n q : Nat) : (m.setCnt c g).ring n q = m.ring n q := rfl
@[simp] theorem Module.setClu_tick (m : Module) (k : Nat) (g : Cluster → Cluster) : (m.setClu k g).tick = m.tick := rfl
@[simp] theorem Module.setClu_start (m : Module) (k : Nat) (g : Cluster → Cluster) : (m.setClu k g).start = m.start := rfl
@[simp] theorem Module.setClu_power (m : Module) (k : Nat) (g : Cluster → Cluster) : (m.setClu k g).power = m.power := rfl
@[simp] theorem Module.setClu_fw (m : Module) (k : Nat) (g : Cluster → Cluster) : (m.setClu k g).fw = m.fw := rfl
@[simp] theorem Module.setClu_fwBadWrite (m : Module) (k : Nat) (g : Cluster → Cluster) : (m.setClu k g).fwBadWrite = m.fwBadWrite := rfl
@[simp] theorem Module.setClu_activation (m : Module) (k : Nat) (g : Cluster → Cluster) : (m.setClu k g).activation = m.activation := rfl
@[simp] theorem Module.setClu_flash (m : Module) (k : Nat) (g : Cluster → Cluster) : (m.setClu k g).flash = m.flash := rfl
@[simp] theorem Module.setClu_sec (m : Module) (k : Nat) (g : Cluster → Cluster) : (m.setClu k g).sec = m.sec := rfl
@[simp] theorem Module.setClu_ras (m : Module) (k : Nat) (g : Cluster → Cluster) : (m.setClu k g).ras = m.ras := rfl
@[simp] theorem Module.setClu_mem (m : Module) (k : Nat) (g : Cluster → Cluster) : (m.setClu k g).mem = m.mem := rfl
@[simp] theorem Module.setClu_pool (m : Module) (k : Nat) (g : Cluster → Cluster) : (m.setClu k g).pool = m.pool := rfl
@[simp] theorem Module.setClu_fns (m : Module) (k : Nat) (g : Cluster → Cluster) : (m.setClu k g).fns = m.fns := rfl
@[simp] theorem Module.setClu_parts (m : Module) (k : Nat) (g : Cluster → Cluster) : (m.setClu k g).parts = m.parts := rfl
@[simp] theorem Module.setClu_fabParts (m : Module) (k : Nat) (g : Cluster → Cluster) : (m.setClu k g).fabParts = m.fabParts := rfl
@[simp] theorem Module.setClu_slots (m : Module) (k : Nat) (g : Cluster → Cluster) : (m.setClu k g).slots = m.slots := rfl
@[simp] theorem Module.setClu_cores (m : Module) (k : Nat) (g : Cluster → Cluster) : (m.setClu k g).cores = m.cores := rfl
@[simp] theorem Module.setClu_nodes (m : Module) (k : Nat) (g : Cluster → Cluster) : (m.setClu k g).nodes = m.nodes := rfl
@[simp] theorem Module.setClu_ports (m : Module) (k : Nat) (g : Cluster → Cluster) : (m.setClu k g).ports = m.ports := rfl
@[simp] theorem Module.setClu_barriers (m : Module) (k : Nat) (g : Cluster → Cluster) : (m.setClu k g).barriers = m.barriers := rfl
@[simp] theorem Module.setClu_hedgeOut (m : Module) (k : Nat) (g : Cluster → Cluster) : (m.setClu k g).hedgeOut = m.hedgeOut := rfl
@[simp] theorem Module.setClu_hostOut (m : Module) (k : Nat) (g : Cluster → Cluster) : (m.setClu k g).hostOut = m.hostOut := rfl
@[simp] theorem Module.setClu_fabric (m : Module) (k : Nat) (g : Cluster → Cluster) : (m.setClu k g).fabric = m.fabric := rfl
@[simp] theorem Module.setClu_xfers (m : Module) (k : Nat) (g : Cluster → Cluster) : (m.setClu k g).xfers = m.xfers := rfl
@[simp] theorem Module.setClu_eth (m : Module) (k : Nat) (g : Cluster → Cluster) : (m.setClu k g).eth = m.eth := rfl
@[simp] theorem Module.setClu_netOut (m : Module) (k : Nat) (g : Cluster → Cluster) : (m.setClu k g).netOut = m.netOut := rfl
@[simp] theorem Module.setClu_sb (m : Module) (k : Nat) (g : Cluster → Cluster) : (m.setClu k g).sb = m.sb := rfl
@[simp] theorem Module.setClu_freeCtr (m : Module) (k : Nat) (g : Cluster → Cluster) : (m.setClu k g).freeCtr = m.freeCtr := rfl
@[simp] theorem Module.setClu_fn (m : Module) (k : Nat) (g : Cluster → Cluster) (n : Nat) : (m.setClu k g).fn n = m.fn n := rfl
@[simp] theorem Module.setClu_part (m : Module) (k : Nat) (g : Cluster → Cluster) (n : Nat) : (m.setClu k g).part n = m.part n := rfl
@[simp] theorem Module.setClu_fab (m : Module) (k : Nat) (g : Cluster → Cluster) (n : Nat) : (m.setClu k g).fab n = m.fab n := rfl
@[simp] theorem Module.setClu_core (m : Module) (k : Nat) (g : Cluster → Cluster) (n : Nat) : (m.setClu k g).core n = m.core n := rfl
@[simp] theorem Module.setClu_proc (m : Module) (k : Nat) (g : Cluster → Cluster) (n : Nat) : (m.setClu k g).proc n = m.proc n := rfl
@[simp] theorem Module.setClu_link (m : Module) (k : Nat) (g : Cluster → Cluster) (n : Nat) : (m.setClu k g).link n = m.link n := rfl
@[simp] theorem Module.setClu_live (m : Module) (k : Nat) (g : Cluster → Cluster) (n : Nat) : (m.setClu k g).live n = m.live n := rfl
@[simp] theorem Module.setClu_ring (m : Module) (k : Nat) (g : Cluster → Cluster) (n q : Nat) : (m.setClu k g).ring n q = m.ring n q := rfl
@[simp] theorem Module.setRing_tick (m : Module) (f r : Nat) (g : Ringp → Ringp) : (m.setRing f r g).tick = m.tick := rfl
@[simp] theorem Module.setRing_start (m : Module) (f r : Nat) (g : Ringp → Ringp) : (m.setRing f r g).start = m.start := rfl
@[simp] theorem Module.setRing_power (m : Module) (f r : Nat) (g : Ringp → Ringp) : (m.setRing f r g).power = m.power := rfl
@[simp] theorem Module.setRing_fw (m : Module) (f r : Nat) (g : Ringp → Ringp) : (m.setRing f r g).fw = m.fw := rfl
@[simp] theorem Module.setRing_fwBadWrite (m : Module) (f r : Nat) (g : Ringp → Ringp) : (m.setRing f r g).fwBadWrite = m.fwBadWrite := rfl
@[simp] theorem Module.setRing_activation (m : Module) (f r : Nat) (g : Ringp → Ringp) : (m.setRing f r g).activation = m.activation := rfl
@[simp] theorem Module.setRing_flash (m : Module) (f r : Nat) (g : Ringp → Ringp) : (m.setRing f r g).flash = m.flash := rfl
@[simp] theorem Module.setRing_sec (m : Module) (f r : Nat) (g : Ringp → Ringp) : (m.setRing f r g).sec = m.sec := rfl
@[simp] theorem Module.setRing_ras (m : Module) (f r : Nat) (g : Ringp → Ringp) : (m.setRing f r g).ras = m.ras := rfl
@[simp] theorem Module.setRing_mem (m : Module) (f r : Nat) (g : Ringp → Ringp) : (m.setRing f r g).mem = m.mem := rfl
@[simp] theorem Module.setRing_pool (m : Module) (f r : Nat) (g : Ringp → Ringp) : (m.setRing f r g).pool = m.pool := rfl
@[simp] theorem Module.setRing_parts (m : Module) (f r : Nat) (g : Ringp → Ringp) : (m.setRing f r g).parts = m.parts := rfl
@[simp] theorem Module.setRing_fabParts (m : Module) (f r : Nat) (g : Ringp → Ringp) : (m.setRing f r g).fabParts = m.fabParts := rfl
@[simp] theorem Module.setRing_slots (m : Module) (f r : Nat) (g : Ringp → Ringp) : (m.setRing f r g).slots = m.slots := rfl
@[simp] theorem Module.setRing_clusters (m : Module) (f r : Nat) (g : Ringp → Ringp) : (m.setRing f r g).clusters = m.clusters := rfl
@[simp] theorem Module.setRing_cores (m : Module) (f r : Nat) (g : Ringp → Ringp) : (m.setRing f r g).cores = m.cores := rfl
@[simp] theorem Module.setRing_nodes (m : Module) (f r : Nat) (g : Ringp → Ringp) : (m.setRing f r g).nodes = m.nodes := rfl
@[simp] theorem Module.setRing_ports (m : Module) (f r : Nat) (g : Ringp → Ringp) : (m.setRing f r g).ports = m.ports := rfl
@[simp] theorem Module.setRing_barriers (m : Module) (f r : Nat) (g : Ringp → Ringp) : (m.setRing f r g).barriers = m.barriers := rfl
@[simp] theorem Module.setRing_hedgeOut (m : Module) (f r : Nat) (g : Ringp → Ringp) : (m.setRing f r g).hedgeOut = m.hedgeOut := rfl
@[simp] theorem Module.setRing_hostOut (m : Module) (f r : Nat) (g : Ringp → Ringp) : (m.setRing f r g).hostOut = m.hostOut := rfl
@[simp] theorem Module.setRing_fabric (m : Module) (f r : Nat) (g : Ringp → Ringp) : (m.setRing f r g).fabric = m.fabric := rfl
@[simp] theorem Module.setRing_xfers (m : Module) (f r : Nat) (g : Ringp → Ringp) : (m.setRing f r g).xfers = m.xfers := rfl
@[simp] theorem Module.setRing_eth (m : Module) (f r : Nat) (g : Ringp → Ringp) : (m.setRing f r g).eth = m.eth := rfl
@[simp] theorem Module.setRing_netOut (m : Module) (f r : Nat) (g : Ringp → Ringp) : (m.setRing f r g).netOut = m.netOut := rfl
@[simp] theorem Module.setRing_sb (m : Module) (f r : Nat) (g : Ringp → Ringp) : (m.setRing f r g).sb = m.sb := rfl
@[simp] theorem Module.setRing_freeCtr (m : Module) (f r : Nat) (g : Ringp → Ringp) : (m.setRing f r g).freeCtr = m.freeCtr := rfl
@[simp] theorem Module.setRing_part (m : Module) (f r : Nat) (g : Ringp → Ringp) (n : Nat) : (m.setRing f r g).part n = m.part n := rfl
@[simp] theorem Module.setRing_fab (m : Module) (f r : Nat) (g : Ringp → Ringp) (n : Nat) : (m.setRing f r g).fab n = m.fab n := rfl
@[simp] theorem Module.setRing_core (m : Module) (f r : Nat) (g : Ringp → Ringp) (n : Nat) : (m.setRing f r g).core n = m.core n := rfl
@[simp] theorem Module.setRing_clu (m : Module) (f r : Nat) (g : Ringp → Ringp) (n : Nat) : (m.setRing f r g).clu n = m.clu n := rfl
@[simp] theorem Module.setRing_proc (m : Module) (f r : Nat) (g : Ringp → Ringp) (n : Nat) : (m.setRing f r g).proc n = m.proc n := rfl
@[simp] theorem Module.setRing_link (m : Module) (f r : Nat) (g : Ringp → Ringp) (n : Nat) : (m.setRing f r g).link n = m.link n := rfl
@[simp] theorem Module.setRing_live (m : Module) (f r : Nat) (g : Ringp → Ringp) (n : Nat) : (m.setRing f r g).live n = m.live n := rfl
@[simp] theorem Module.setProc_tick (m : Module) (p : Nat) (g : FwProc → FwProc) : (m.setProc p g).tick = m.tick := rfl
@[simp] theorem Module.setProc_start (m : Module) (p : Nat) (g : FwProc → FwProc) : (m.setProc p g).start = m.start := rfl
@[simp] theorem Module.setProc_power (m : Module) (p : Nat) (g : FwProc → FwProc) : (m.setProc p g).power = m.power := rfl
@[simp] theorem Module.setProc_fwBadWrite (m : Module) (p : Nat) (g : FwProc → FwProc) : (m.setProc p g).fwBadWrite = m.fwBadWrite := rfl
@[simp] theorem Module.setProc_activation (m : Module) (p : Nat) (g : FwProc → FwProc) : (m.setProc p g).activation = m.activation := rfl
@[simp] theorem Module.setProc_flash (m : Module) (p : Nat) (g : FwProc → FwProc) : (m.setProc p g).flash = m.flash := rfl
@[simp] theorem Module.setProc_sec (m : Module) (p : Nat) (g : FwProc → FwProc) : (m.setProc p g).sec = m.sec := rfl
@[simp] theorem Module.setProc_ras (m : Module) (p : Nat) (g : FwProc → FwProc) : (m.setProc p g).ras = m.ras := rfl
@[simp] theorem Module.setProc_mem (m : Module) (p : Nat) (g : FwProc → FwProc) : (m.setProc p g).mem = m.mem := rfl
@[simp] theorem Module.setProc_pool (m : Module) (p : Nat) (g : FwProc → FwProc) : (m.setProc p g).pool = m.pool := rfl
@[simp] theorem Module.setProc_fns (m : Module) (p : Nat) (g : FwProc → FwProc) : (m.setProc p g).fns = m.fns := rfl
@[simp] theorem Module.setProc_parts (m : Module) (p : Nat) (g : FwProc → FwProc) : (m.setProc p g).parts = m.parts := rfl
@[simp] theorem Module.setProc_fabParts (m : Module) (p : Nat) (g : FwProc → FwProc) : (m.setProc p g).fabParts = m.fabParts := rfl
@[simp] theorem Module.setProc_slots (m : Module) (p : Nat) (g : FwProc → FwProc) : (m.setProc p g).slots = m.slots := rfl
@[simp] theorem Module.setProc_clusters (m : Module) (p : Nat) (g : FwProc → FwProc) : (m.setProc p g).clusters = m.clusters := rfl
@[simp] theorem Module.setProc_cores (m : Module) (p : Nat) (g : FwProc → FwProc) : (m.setProc p g).cores = m.cores := rfl
@[simp] theorem Module.setProc_nodes (m : Module) (p : Nat) (g : FwProc → FwProc) : (m.setProc p g).nodes = m.nodes := rfl
@[simp] theorem Module.setProc_ports (m : Module) (p : Nat) (g : FwProc → FwProc) : (m.setProc p g).ports = m.ports := rfl
@[simp] theorem Module.setProc_barriers (m : Module) (p : Nat) (g : FwProc → FwProc) : (m.setProc p g).barriers = m.barriers := rfl
@[simp] theorem Module.setProc_hedgeOut (m : Module) (p : Nat) (g : FwProc → FwProc) : (m.setProc p g).hedgeOut = m.hedgeOut := rfl
@[simp] theorem Module.setProc_hostOut (m : Module) (p : Nat) (g : FwProc → FwProc) : (m.setProc p g).hostOut = m.hostOut := rfl
@[simp] theorem Module.setProc_fabric (m : Module) (p : Nat) (g : FwProc → FwProc) : (m.setProc p g).fabric = m.fabric := rfl
@[simp] theorem Module.setProc_xfers (m : Module) (p : Nat) (g : FwProc → FwProc) : (m.setProc p g).xfers = m.xfers := rfl
@[simp] theorem Module.setProc_eth (m : Module) (p : Nat) (g : FwProc → FwProc) : (m.setProc p g).eth = m.eth := rfl
@[simp] theorem Module.setProc_netOut (m : Module) (p : Nat) (g : FwProc → FwProc) : (m.setProc p g).netOut = m.netOut := rfl
@[simp] theorem Module.setProc_sb (m : Module) (p : Nat) (g : FwProc → FwProc) : (m.setProc p g).sb = m.sb := rfl
@[simp] theorem Module.setProc_freeCtr (m : Module) (p : Nat) (g : FwProc → FwProc) : (m.setProc p g).freeCtr = m.freeCtr := rfl
@[simp] theorem Module.setProc_fn (m : Module) (p : Nat) (g : FwProc → FwProc) (n : Nat) : (m.setProc p g).fn n = m.fn n := rfl
@[simp] theorem Module.setProc_part (m : Module) (p : Nat) (g : FwProc → FwProc) (n : Nat) : (m.setProc p g).part n = m.part n := rfl
@[simp] theorem Module.setProc_fab (m : Module) (p : Nat) (g : FwProc → FwProc) (n : Nat) : (m.setProc p g).fab n = m.fab n := rfl
@[simp] theorem Module.setProc_core (m : Module) (p : Nat) (g : FwProc → FwProc) (n : Nat) : (m.setProc p g).core n = m.core n := rfl
@[simp] theorem Module.setProc_clu (m : Module) (p : Nat) (g : FwProc → FwProc) (n : Nat) : (m.setProc p g).clu n = m.clu n := rfl
@[simp] theorem Module.setProc_link (m : Module) (p : Nat) (g : FwProc → FwProc) (n : Nat) : (m.setProc p g).link n = m.link n := rfl
@[simp] theorem Module.setProc_live (m : Module) (p : Nat) (g : FwProc → FwProc) (n : Nat) : (m.setProc p g).live n = m.live n := rfl
@[simp] theorem Module.setProc_ring (m : Module) (p : Nat) (g : FwProc → FwProc) (n q : Nat) : (m.setProc p g).ring n q = m.ring n q := rfl
@[simp] theorem Module.setLink_tick (m : Module) (l : Nat) (g : Link → Link) : (m.setLink l g).tick = m.tick := rfl
@[simp] theorem Module.setLink_start (m : Module) (l : Nat) (g : Link → Link) : (m.setLink l g).start = m.start := rfl
@[simp] theorem Module.setLink_power (m : Module) (l : Nat) (g : Link → Link) : (m.setLink l g).power = m.power := rfl
@[simp] theorem Module.setLink_fw (m : Module) (l : Nat) (g : Link → Link) : (m.setLink l g).fw = m.fw := rfl
@[simp] theorem Module.setLink_fwBadWrite (m : Module) (l : Nat) (g : Link → Link) : (m.setLink l g).fwBadWrite = m.fwBadWrite := rfl
@[simp] theorem Module.setLink_activation (m : Module) (l : Nat) (g : Link → Link) : (m.setLink l g).activation = m.activation := rfl
@[simp] theorem Module.setLink_flash (m : Module) (l : Nat) (g : Link → Link) : (m.setLink l g).flash = m.flash := rfl
@[simp] theorem Module.setLink_sec (m : Module) (l : Nat) (g : Link → Link) : (m.setLink l g).sec = m.sec := rfl
@[simp] theorem Module.setLink_ras (m : Module) (l : Nat) (g : Link → Link) : (m.setLink l g).ras = m.ras := rfl
@[simp] theorem Module.setLink_mem (m : Module) (l : Nat) (g : Link → Link) : (m.setLink l g).mem = m.mem := rfl
@[simp] theorem Module.setLink_pool (m : Module) (l : Nat) (g : Link → Link) : (m.setLink l g).pool = m.pool := rfl
@[simp] theorem Module.setLink_fns (m : Module) (l : Nat) (g : Link → Link) : (m.setLink l g).fns = m.fns := rfl
@[simp] theorem Module.setLink_parts (m : Module) (l : Nat) (g : Link → Link) : (m.setLink l g).parts = m.parts := rfl
@[simp] theorem Module.setLink_fabParts (m : Module) (l : Nat) (g : Link → Link) : (m.setLink l g).fabParts = m.fabParts := rfl
@[simp] theorem Module.setLink_slots (m : Module) (l : Nat) (g : Link → Link) : (m.setLink l g).slots = m.slots := rfl
@[simp] theorem Module.setLink_clusters (m : Module) (l : Nat) (g : Link → Link) : (m.setLink l g).clusters = m.clusters := rfl
@[simp] theorem Module.setLink_cores (m : Module) (l : Nat) (g : Link → Link) : (m.setLink l g).cores = m.cores := rfl
@[simp] theorem Module.setLink_nodes (m : Module) (l : Nat) (g : Link → Link) : (m.setLink l g).nodes = m.nodes := rfl
@[simp] theorem Module.setLink_ports (m : Module) (l : Nat) (g : Link → Link) : (m.setLink l g).ports = m.ports := rfl
@[simp] theorem Module.setLink_barriers (m : Module) (l : Nat) (g : Link → Link) : (m.setLink l g).barriers = m.barriers := rfl
@[simp] theorem Module.setLink_hedgeOut (m : Module) (l : Nat) (g : Link → Link) : (m.setLink l g).hedgeOut = m.hedgeOut := rfl
@[simp] theorem Module.setLink_hostOut (m : Module) (l : Nat) (g : Link → Link) : (m.setLink l g).hostOut = m.hostOut := rfl
@[simp] theorem Module.setLink_xfers (m : Module) (l : Nat) (g : Link → Link) : (m.setLink l g).xfers = m.xfers := rfl
@[simp] theorem Module.setLink_eth (m : Module) (l : Nat) (g : Link → Link) : (m.setLink l g).eth = m.eth := rfl
@[simp] theorem Module.setLink_netOut (m : Module) (l : Nat) (g : Link → Link) : (m.setLink l g).netOut = m.netOut := rfl
@[simp] theorem Module.setLink_sb (m : Module) (l : Nat) (g : Link → Link) : (m.setLink l g).sb = m.sb := rfl
@[simp] theorem Module.setLink_freeCtr (m : Module) (l : Nat) (g : Link → Link) : (m.setLink l g).freeCtr = m.freeCtr := rfl
@[simp] theorem Module.setLink_fn (m : Module) (l : Nat) (g : Link → Link) (n : Nat) : (m.setLink l g).fn n = m.fn n := rfl
@[simp] theorem Module.setLink_part (m : Module) (l : Nat) (g : Link → Link) (n : Nat) : (m.setLink l g).part n = m.part n := rfl
@[simp] theorem Module.setLink_fab (m : Module) (l : Nat) (g : Link → Link) (n : Nat) : (m.setLink l g).fab n = m.fab n := rfl
@[simp] theorem Module.setLink_core (m : Module) (l : Nat) (g : Link → Link) (n : Nat) : (m.setLink l g).core n = m.core n := rfl
@[simp] theorem Module.setLink_clu (m : Module) (l : Nat) (g : Link → Link) (n : Nat) : (m.setLink l g).clu n = m.clu n := rfl
@[simp] theorem Module.setLink_proc (m : Module) (l : Nat) (g : Link → Link) (n : Nat) : (m.setLink l g).proc n = m.proc n := rfl
@[simp] theorem Module.setLink_live (m : Module) (l : Nat) (g : Link → Link) (n : Nat) : (m.setLink l g).live n = m.live n := rfl
@[simp] theorem Module.setLink_ring (m : Module) (l : Nat) (g : Link → Link) (n q : Nat) : (m.setLink l g).ring n q = m.ring n q := rfl
@[simp] theorem Module.setTick_start (m : Module) (g : Tick → Tick) : (m.setTick g).start = m.start := rfl
@[simp] theorem Module.setTick_power (m : Module) (g : Tick → Tick) : (m.setTick g).power = m.power := rfl
@[simp] theorem Module.setTick_fw (m : Module) (g : Tick → Tick) : (m.setTick g).fw = m.fw := rfl
@[simp] theorem Module.setTick_fwBadWrite (m : Module) (g : Tick → Tick) : (m.setTick g).fwBadWrite = m.fwBadWrite := rfl
@[simp] theorem Module.setTick_activation (m : Module) (g : Tick → Tick) : (m.setTick g).activation = m.activation := rfl
@[simp] theorem Module.setTick_flash (m : Module) (g : Tick → Tick) : (m.setTick g).flash = m.flash := rfl
@[simp] theorem Module.setTick_sec (m : Module) (g : Tick → Tick) : (m.setTick g).sec = m.sec := rfl
@[simp] theorem Module.setTick_ras (m : Module) (g : Tick → Tick) : (m.setTick g).ras = m.ras := rfl
@[simp] theorem Module.setTick_mem (m : Module) (g : Tick → Tick) : (m.setTick g).mem = m.mem := rfl
@[simp] theorem Module.setTick_pool (m : Module) (g : Tick → Tick) : (m.setTick g).pool = m.pool := rfl
@[simp] theorem Module.setTick_fns (m : Module) (g : Tick → Tick) : (m.setTick g).fns = m.fns := rfl
@[simp] theorem Module.setTick_parts (m : Module) (g : Tick → Tick) : (m.setTick g).parts = m.parts := rfl
@[simp] theorem Module.setTick_fabParts (m : Module) (g : Tick → Tick) : (m.setTick g).fabParts = m.fabParts := rfl
@[simp] theorem Module.setTick_slots (m : Module) (g : Tick → Tick) : (m.setTick g).slots = m.slots := rfl
@[simp] theorem Module.setTick_clusters (m : Module) (g : Tick → Tick) : (m.setTick g).clusters = m.clusters := rfl
@[simp] theorem Module.setTick_cores (m : Module) (g : Tick → Tick) : (m.setTick g).cores = m.cores := rfl
@[simp] theorem Module.setTick_nodes (m : Module) (g : Tick → Tick) : (m.setTick g).nodes = m.nodes := rfl
@[simp] theorem Module.setTick_ports (m : Module) (g : Tick → Tick) : (m.setTick g).ports = m.ports := rfl
@[simp] theorem Module.setTick_barriers (m : Module) (g : Tick → Tick) : (m.setTick g).barriers = m.barriers := rfl
@[simp] theorem Module.setTick_hedgeOut (m : Module) (g : Tick → Tick) : (m.setTick g).hedgeOut = m.hedgeOut := rfl
@[simp] theorem Module.setTick_hostOut (m : Module) (g : Tick → Tick) : (m.setTick g).hostOut = m.hostOut := rfl
@[simp] theorem Module.setTick_fabric (m : Module) (g : Tick → Tick) : (m.setTick g).fabric = m.fabric := rfl
@[simp] theorem Module.setTick_xfers (m : Module) (g : Tick → Tick) : (m.setTick g).xfers = m.xfers := rfl
@[simp] theorem Module.setTick_eth (m : Module) (g : Tick → Tick) : (m.setTick g).eth = m.eth := rfl
@[simp] theorem Module.setTick_netOut (m : Module) (g : Tick → Tick) : (m.setTick g).netOut = m.netOut := rfl
@[simp] theorem Module.setTick_sb (m : Module) (g : Tick → Tick) : (m.setTick g).sb = m.sb := rfl
@[simp] theorem Module.setTick_freeCtr (m : Module) (g : Tick → Tick) : (m.setTick g).freeCtr = m.freeCtr := rfl
@[simp] theorem Module.setTick_fn (m : Module) (g : Tick → Tick) (n : Nat) : (m.setTick g).fn n = m.fn n := rfl
@[simp] theorem Module.setTick_part (m : Module) (g : Tick → Tick) (n : Nat) : (m.setTick g).part n = m.part n := rfl
@[simp] theorem Module.setTick_fab (m : Module) (g : Tick → Tick) (n : Nat) : (m.setTick g).fab n = m.fab n := rfl
@[simp] theorem Module.setTick_core (m : Module) (g : Tick → Tick) (n : Nat) : (m.setTick g).core n = m.core n := rfl
@[simp] theorem Module.setTick_clu (m : Module) (g : Tick → Tick) (n : Nat) : (m.setTick g).clu n = m.clu n := rfl
@[simp] theorem Module.setTick_proc (m : Module) (g : Tick → Tick) (n : Nat) : (m.setTick g).proc n = m.proc n := rfl
@[simp] theorem Module.setTick_link (m : Module) (g : Tick → Tick) (n : Nat) : (m.setTick g).link n = m.link n := rfl
@[simp] theorem Module.setTick_live (m : Module) (g : Tick → Tick) (n : Nat) : (m.setTick g).live n = m.live n := rfl
@[simp] theorem Module.setTick_ring (m : Module) (g : Tick → Tick) (n q : Nat) : (m.setTick g).ring n q = m.ring n q := rfl
@[simp] theorem Module.setPower_tick (m : Module) (g : Power → Power) : (m.setPower g).tick = m.tick := rfl
@[simp] theorem Module.setPower_start (m : Module) (g : Power → Power) : (m.setPower g).start = m.start := rfl
@[simp] theorem Module.setPower_fw (m : Module) (g : Power → Power) : (m.setPower g).fw = m.fw := rfl
@[simp] theorem Module.setPower_fwBadWrite (m : Module) (g : Power → Power) : (m.setPower g).fwBadWrite = m.fwBadWrite := rfl
@[simp] theorem Module.setPower_activation (m : Module) (g : Power → Power) : (m.setPower g).activation = m.activation := rfl
@[simp] theorem Module.setPower_flash (m : Module) (g : Power → Power) : (m.setPower g).flash = m.flash := rfl
@[simp] theorem Module.setPower_sec (m : Module) (g : Power → Power) : (m.setPower g).sec = m.sec := rfl
@[simp] theorem Module.setPower_ras (m : Module) (g : Power → Power) : (m.setPower g).ras = m.ras := rfl
@[simp] theorem Module.setPower_mem (m : Module) (g : Power → Power) : (m.setPower g).mem = m.mem := rfl
@[simp] theorem Module.setPower_pool (m : Module) (g : Power → Power) : (m.setPower g).pool = m.pool := rfl
@[simp] theorem Module.setPower_fns (m : Module) (g : Power → Power) : (m.setPower g).fns = m.fns := rfl
@[simp] theorem Module.setPower_parts (m : Module) (g : Power → Power) : (m.setPower g).parts = m.parts := rfl
@[simp] theorem Module.setPower_fabParts (m : Module) (g : Power → Power) : (m.setPower g).fabParts = m.fabParts := rfl
@[simp] theorem Module.setPower_slots (m : Module) (g : Power → Power) : (m.setPower g).slots = m.slots := rfl
@[simp] theorem Module.setPower_clusters (m : Module) (g : Power → Power) : (m.setPower g).clusters = m.clusters := rfl
@[simp] theorem Module.setPower_cores (m : Module) (g : Power → Power) : (m.setPower g).cores = m.cores := rfl
@[simp] theorem Module.setPower_nodes (m : Module) (g : Power → Power) : (m.setPower g).nodes = m.nodes := rfl
@[simp] theorem Module.setPower_ports (m : Module) (g : Power → Power) : (m.setPower g).ports = m.ports := rfl
@[simp] theorem Module.setPower_barriers (m : Module) (g : Power → Power) : (m.setPower g).barriers = m.barriers := rfl
@[simp] theorem Module.setPower_hedgeOut (m : Module) (g : Power → Power) : (m.setPower g).hedgeOut = m.hedgeOut := rfl
@[simp] theorem Module.setPower_hostOut (m : Module) (g : Power → Power) : (m.setPower g).hostOut = m.hostOut := rfl
@[simp] theorem Module.setPower_fabric (m : Module) (g : Power → Power) : (m.setPower g).fabric = m.fabric := rfl
@[simp] theorem Module.setPower_xfers (m : Module) (g : Power → Power) : (m.setPower g).xfers = m.xfers := rfl
@[simp] theorem Module.setPower_eth (m : Module) (g : Power → Power) : (m.setPower g).eth = m.eth := rfl
@[simp] theorem Module.setPower_netOut (m : Module) (g : Power → Power) : (m.setPower g).netOut = m.netOut := rfl
@[simp] theorem Module.setPower_sb (m : Module) (g : Power → Power) : (m.setPower g).sb = m.sb := rfl
@[simp] theorem Module.setPower_freeCtr (m : Module) (g : Power → Power) : (m.setPower g).freeCtr = m.freeCtr := rfl
@[simp] theorem Module.setPower_fn (m : Module) (g : Power → Power) (n : Nat) : (m.setPower g).fn n = m.fn n := rfl
@[simp] theorem Module.setPower_part (m : Module) (g : Power → Power) (n : Nat) : (m.setPower g).part n = m.part n := rfl
@[simp] theorem Module.setPower_fab (m : Module) (g : Power → Power) (n : Nat) : (m.setPower g).fab n = m.fab n := rfl
@[simp] theorem Module.setPower_core (m : Module) (g : Power → Power) (n : Nat) : (m.setPower g).core n = m.core n := rfl
@[simp] theorem Module.setPower_clu (m : Module) (g : Power → Power) (n : Nat) : (m.setPower g).clu n = m.clu n := rfl
@[simp] theorem Module.setPower_proc (m : Module) (g : Power → Power) (n : Nat) : (m.setPower g).proc n = m.proc n := rfl
@[simp] theorem Module.setPower_link (m : Module) (g : Power → Power) (n : Nat) : (m.setPower g).link n = m.link n := rfl
@[simp] theorem Module.setPower_live (m : Module) (g : Power → Power) (n : Nat) : (m.setPower g).live n = m.live n := rfl
@[simp] theorem Module.setPower_ring (m : Module) (g : Power → Power) (n q : Nat) : (m.setPower g).ring n q = m.ring n q := rfl
@[simp] theorem Module.setRas_tick (m : Module) (g : Ras → Ras) : (m.setRas g).tick = m.tick := rfl
@[simp] theorem Module.setRas_start (m : Module) (g : Ras → Ras) : (m.setRas g).start = m.start := rfl
@[simp] theorem Module.setRas_power (m : Module) (g : Ras → Ras) : (m.setRas g).power = m.power := rfl
@[simp] theorem Module.setRas_fw (m : Module) (g : Ras → Ras) : (m.setRas g).fw = m.fw := rfl
@[simp] theorem Module.setRas_fwBadWrite (m : Module) (g : Ras → Ras) : (m.setRas g).fwBadWrite = m.fwBadWrite := rfl
@[simp] theorem Module.setRas_activation (m : Module) (g : Ras → Ras) : (m.setRas g).activation = m.activation := rfl
@[simp] theorem Module.setRas_flash (m : Module) (g : Ras → Ras) : (m.setRas g).flash = m.flash := rfl
@[simp] theorem Module.setRas_sec (m : Module) (g : Ras → Ras) : (m.setRas g).sec = m.sec := rfl
@[simp] theorem Module.setRas_mem (m : Module) (g : Ras → Ras) : (m.setRas g).mem = m.mem := rfl
@[simp] theorem Module.setRas_pool (m : Module) (g : Ras → Ras) : (m.setRas g).pool = m.pool := rfl
@[simp] theorem Module.setRas_fns (m : Module) (g : Ras → Ras) : (m.setRas g).fns = m.fns := rfl
@[simp] theorem Module.setRas_parts (m : Module) (g : Ras → Ras) : (m.setRas g).parts = m.parts := rfl
@[simp] theorem Module.setRas_fabParts (m : Module) (g : Ras → Ras) : (m.setRas g).fabParts = m.fabParts := rfl
@[simp] theorem Module.setRas_slots (m : Module) (g : Ras → Ras) : (m.setRas g).slots = m.slots := rfl
@[simp] theorem Module.setRas_clusters (m : Module) (g : Ras → Ras) : (m.setRas g).clusters = m.clusters := rfl
@[simp] theorem Module.setRas_cores (m : Module) (g : Ras → Ras) : (m.setRas g).cores = m.cores := rfl
@[simp] theorem Module.setRas_nodes (m : Module) (g : Ras → Ras) : (m.setRas g).nodes = m.nodes := rfl
@[simp] theorem Module.setRas_ports (m : Module) (g : Ras → Ras) : (m.setRas g).ports = m.ports := rfl
@[simp] theorem Module.setRas_barriers (m : Module) (g : Ras → Ras) : (m.setRas g).barriers = m.barriers := rfl
@[simp] theorem Module.setRas_hedgeOut (m : Module) (g : Ras → Ras) : (m.setRas g).hedgeOut = m.hedgeOut := rfl
@[simp] theorem Module.setRas_hostOut (m : Module) (g : Ras → Ras) : (m.setRas g).hostOut = m.hostOut := rfl
@[simp] theorem Module.setRas_fabric (m : Module) (g : Ras → Ras) : (m.setRas g).fabric = m.fabric := rfl
@[simp] theorem Module.setRas_xfers (m : Module) (g : Ras → Ras) : (m.setRas g).xfers = m.xfers := rfl
@[simp] theorem Module.setRas_eth (m : Module) (g : Ras → Ras) : (m.setRas g).eth = m.eth := rfl
@[simp] theorem Module.setRas_netOut (m : Module) (g : Ras → Ras) : (m.setRas g).netOut = m.netOut := rfl
@[simp] theorem Module.setRas_sb (m : Module) (g : Ras → Ras) : (m.setRas g).sb = m.sb := rfl
@[simp] theorem Module.setRas_freeCtr (m : Module) (g : Ras → Ras) : (m.setRas g).freeCtr = m.freeCtr := rfl
@[simp] theorem Module.setRas_fn (m : Module) (g : Ras → Ras) (n : Nat) : (m.setRas g).fn n = m.fn n := rfl
@[simp] theorem Module.setRas_part (m : Module) (g : Ras → Ras) (n : Nat) : (m.setRas g).part n = m.part n := rfl
@[simp] theorem Module.setRas_fab (m : Module) (g : Ras → Ras) (n : Nat) : (m.setRas g).fab n = m.fab n := rfl
@[simp] theorem Module.setRas_core (m : Module) (g : Ras → Ras) (n : Nat) : (m.setRas g).core n = m.core n := rfl
@[simp] theorem Module.setRas_clu (m : Module) (g : Ras → Ras) (n : Nat) : (m.setRas g).clu n = m.clu n := rfl
@[simp] theorem Module.setRas_proc (m : Module) (g : Ras → Ras) (n : Nat) : (m.setRas g).proc n = m.proc n := rfl
@[simp] theorem Module.setRas_link (m : Module) (g : Ras → Ras) (n : Nat) : (m.setRas g).link n = m.link n := rfl
@[simp] theorem Module.setRas_ring (m : Module) (g : Ras → Ras) (n q : Nat) : (m.setRas g).ring n q = m.ring n q := rfl
@[simp] theorem Module.setSec_tick (m : Module) (g : Sec → Sec) : (m.setSec g).tick = m.tick := rfl
@[simp] theorem Module.setSec_start (m : Module) (g : Sec → Sec) : (m.setSec g).start = m.start := rfl
@[simp] theorem Module.setSec_power (m : Module) (g : Sec → Sec) : (m.setSec g).power = m.power := rfl
@[simp] theorem Module.setSec_fw (m : Module) (g : Sec → Sec) : (m.setSec g).fw = m.fw := rfl
@[simp] theorem Module.setSec_fwBadWrite (m : Module) (g : Sec → Sec) : (m.setSec g).fwBadWrite = m.fwBadWrite := rfl
@[simp] theorem Module.setSec_activation (m : Module) (g : Sec → Sec) : (m.setSec g).activation = m.activation := rfl
@[simp] theorem Module.setSec_flash (m : Module) (g : Sec → Sec) : (m.setSec g).flash = m.flash := rfl
@[simp] theorem Module.setSec_ras (m : Module) (g : Sec → Sec) : (m.setSec g).ras = m.ras := rfl
@[simp] theorem Module.setSec_mem (m : Module) (g : Sec → Sec) : (m.setSec g).mem = m.mem := rfl
@[simp] theorem Module.setSec_pool (m : Module) (g : Sec → Sec) : (m.setSec g).pool = m.pool := rfl
@[simp] theorem Module.setSec_fns (m : Module) (g : Sec → Sec) : (m.setSec g).fns = m.fns := rfl
@[simp] theorem Module.setSec_parts (m : Module) (g : Sec → Sec) : (m.setSec g).parts = m.parts := rfl
@[simp] theorem Module.setSec_fabParts (m : Module) (g : Sec → Sec) : (m.setSec g).fabParts = m.fabParts := rfl
@[simp] theorem Module.setSec_slots (m : Module) (g : Sec → Sec) : (m.setSec g).slots = m.slots := rfl
@[simp] theorem Module.setSec_clusters (m : Module) (g : Sec → Sec) : (m.setSec g).clusters = m.clusters := rfl
@[simp] theorem Module.setSec_cores (m : Module) (g : Sec → Sec) : (m.setSec g).cores = m.cores := rfl
@[simp] theorem Module.setSec_nodes (m : Module) (g : Sec → Sec) : (m.setSec g).nodes = m.nodes := rfl
@[simp] theorem Module.setSec_ports (m : Module) (g : Sec → Sec) : (m.setSec g).ports = m.ports := rfl
@[simp] theorem Module.setSec_barriers (m : Module) (g : Sec → Sec) : (m.setSec g).barriers = m.barriers := rfl
@[simp] theorem Module.setSec_hedgeOut (m : Module) (g : Sec → Sec) : (m.setSec g).hedgeOut = m.hedgeOut := rfl
@[simp] theorem Module.setSec_hostOut (m : Module) (g : Sec → Sec) : (m.setSec g).hostOut = m.hostOut := rfl
@[simp] theorem Module.setSec_fabric (m : Module) (g : Sec → Sec) : (m.setSec g).fabric = m.fabric := rfl
@[simp] theorem Module.setSec_xfers (m : Module) (g : Sec → Sec) : (m.setSec g).xfers = m.xfers := rfl
@[simp] theorem Module.setSec_eth (m : Module) (g : Sec → Sec) : (m.setSec g).eth = m.eth := rfl
@[simp] theorem Module.setSec_netOut (m : Module) (g : Sec → Sec) : (m.setSec g).netOut = m.netOut := rfl
@[simp] theorem Module.setSec_sb (m : Module) (g : Sec → Sec) : (m.setSec g).sb = m.sb := rfl
@[simp] theorem Module.setSec_freeCtr (m : Module) (g : Sec → Sec) : (m.setSec g).freeCtr = m.freeCtr := rfl
@[simp] theorem Module.setSec_fn (m : Module) (g : Sec → Sec) (n : Nat) : (m.setSec g).fn n = m.fn n := rfl
@[simp] theorem Module.setSec_part (m : Module) (g : Sec → Sec) (n : Nat) : (m.setSec g).part n = m.part n := rfl
@[simp] theorem Module.setSec_fab (m : Module) (g : Sec → Sec) (n : Nat) : (m.setSec g).fab n = m.fab n := rfl
@[simp] theorem Module.setSec_core (m : Module) (g : Sec → Sec) (n : Nat) : (m.setSec g).core n = m.core n := rfl
@[simp] theorem Module.setSec_clu (m : Module) (g : Sec → Sec) (n : Nat) : (m.setSec g).clu n = m.clu n := rfl
@[simp] theorem Module.setSec_proc (m : Module) (g : Sec → Sec) (n : Nat) : (m.setSec g).proc n = m.proc n := rfl
@[simp] theorem Module.setSec_link (m : Module) (g : Sec → Sec) (n : Nat) : (m.setSec g).link n = m.link n := rfl
@[simp] theorem Module.setSec_live (m : Module) (g : Sec → Sec) (n : Nat) : (m.setSec g).live n = m.live n := rfl
@[simp] theorem Module.setSec_ring (m : Module) (g : Sec → Sec) (n q : Nat) : (m.setSec g).ring n q = m.ring n q := rfl
@[simp] theorem Module.setSb_tick (m : Module) (g : Sideband → Sideband) : (m.setSb g).tick = m.tick := rfl
@[simp] theorem Module.setSb_start (m : Module) (g : Sideband → Sideband) : (m.setSb g).start = m.start := rfl
@[simp] theorem Module.setSb_power (m : Module) (g : Sideband → Sideband) : (m.setSb g).power = m.power := rfl
@[simp] theorem Module.setSb_fw (m : Module) (g : Sideband → Sideband) : (m.setSb g).fw = m.fw := rfl
@[simp] theorem Module.setSb_fwBadWrite (m : Module) (g : Sideband → Sideband) : (m.setSb g).fwBadWrite = m.fwBadWrite := rfl
@[simp] theorem Module.setSb_activation (m : Module) (g : Sideband → Sideband) : (m.setSb g).activation = m.activation := rfl
@[simp] theorem Module.setSb_flash (m : Module) (g : Sideband → Sideband) : (m.setSb g).flash = m.flash := rfl
@[simp] theorem Module.setSb_sec (m : Module) (g : Sideband → Sideband) : (m.setSb g).sec = m.sec := rfl
@[simp] theorem Module.setSb_ras (m : Module) (g : Sideband → Sideband) : (m.setSb g).ras = m.ras := rfl
@[simp] theorem Module.setSb_mem (m : Module) (g : Sideband → Sideband) : (m.setSb g).mem = m.mem := rfl
@[simp] theorem Module.setSb_pool (m : Module) (g : Sideband → Sideband) : (m.setSb g).pool = m.pool := rfl
@[simp] theorem Module.setSb_fns (m : Module) (g : Sideband → Sideband) : (m.setSb g).fns = m.fns := rfl
@[simp] theorem Module.setSb_parts (m : Module) (g : Sideband → Sideband) : (m.setSb g).parts = m.parts := rfl
@[simp] theorem Module.setSb_fabParts (m : Module) (g : Sideband → Sideband) : (m.setSb g).fabParts = m.fabParts := rfl
@[simp] theorem Module.setSb_slots (m : Module) (g : Sideband → Sideband) : (m.setSb g).slots = m.slots := rfl
@[simp] theorem Module.setSb_clusters (m : Module) (g : Sideband → Sideband) : (m.setSb g).clusters = m.clusters := rfl
@[simp] theorem Module.setSb_cores (m : Module) (g : Sideband → Sideband) : (m.setSb g).cores = m.cores := rfl
@[simp] theorem Module.setSb_nodes (m : Module) (g : Sideband → Sideband) : (m.setSb g).nodes = m.nodes := rfl
@[simp] theorem Module.setSb_ports (m : Module) (g : Sideband → Sideband) : (m.setSb g).ports = m.ports := rfl
@[simp] theorem Module.setSb_barriers (m : Module) (g : Sideband → Sideband) : (m.setSb g).barriers = m.barriers := rfl
@[simp] theorem Module.setSb_hedgeOut (m : Module) (g : Sideband → Sideband) : (m.setSb g).hedgeOut = m.hedgeOut := rfl
@[simp] theorem Module.setSb_hostOut (m : Module) (g : Sideband → Sideband) : (m.setSb g).hostOut = m.hostOut := rfl
@[simp] theorem Module.setSb_fabric (m : Module) (g : Sideband → Sideband) : (m.setSb g).fabric = m.fabric := rfl
@[simp] theorem Module.setSb_xfers (m : Module) (g : Sideband → Sideband) : (m.setSb g).xfers = m.xfers := rfl
@[simp] theorem Module.setSb_eth (m : Module) (g : Sideband → Sideband) : (m.setSb g).eth = m.eth := rfl
@[simp] theorem Module.setSb_netOut (m : Module) (g : Sideband → Sideband) : (m.setSb g).netOut = m.netOut := rfl
@[simp] theorem Module.setSb_freeCtr (m : Module) (g : Sideband → Sideband) : (m.setSb g).freeCtr = m.freeCtr := rfl
@[simp] theorem Module.setSb_fn (m : Module) (g : Sideband → Sideband) (n : Nat) : (m.setSb g).fn n = m.fn n := rfl
@[simp] theorem Module.setSb_part (m : Module) (g : Sideband → Sideband) (n : Nat) : (m.setSb g).part n = m.part n := rfl
@[simp] theorem Module.setSb_fab (m : Module) (g : Sideband → Sideband) (n : Nat) : (m.setSb g).fab n = m.fab n := rfl
@[simp] theorem Module.setSb_core (m : Module) (g : Sideband → Sideband) (n : Nat) : (m.setSb g).core n = m.core n := rfl
@[simp] theorem Module.setSb_clu (m : Module) (g : Sideband → Sideband) (n : Nat) : (m.setSb g).clu n = m.clu n := rfl
@[simp] theorem Module.setSb_proc (m : Module) (g : Sideband → Sideband) (n : Nat) : (m.setSb g).proc n = m.proc n := rfl
@[simp] theorem Module.setSb_link (m : Module) (g : Sideband → Sideband) (n : Nat) : (m.setSb g).link n = m.link n := rfl
@[simp] theorem Module.setSb_live (m : Module) (g : Sideband → Sideband) (n : Nat) : (m.setSb g).live n = m.live n := rfl
@[simp] theorem Module.setSb_ring (m : Module) (g : Sideband → Sideband) (n q : Nat) : (m.setSb g).ring n q = m.ring n q := rfl
@[simp] theorem Module.setStart_tick (m : Module) (g : Start → Start) : (m.setStart g).tick = m.tick := rfl
@[simp] theorem Module.setStart_power (m : Module) (g : Start → Start) : (m.setStart g).power = m.power := rfl
@[simp] theorem Module.setStart_fw (m : Module) (g : Start → Start) : (m.setStart g).fw = m.fw := rfl
@[simp] theorem Module.setStart_fwBadWrite (m : Module) (g : Start → Start) : (m.setStart g).fwBadWrite = m.fwBadWrite := rfl
@[simp] theorem Module.setStart_activation (m : Module) (g : Start → Start) : (m.setStart g).activation = m.activation := rfl
@[simp] theorem Module.setStart_flash (m : Module) (g : Start → Start) : (m.setStart g).flash = m.flash := rfl
@[simp] theorem Module.setStart_sec (m : Module) (g : Start → Start) : (m.setStart g).sec = m.sec := rfl
@[simp] theorem Module.setStart_ras (m : Module) (g : Start → Start) : (m.setStart g).ras = m.ras := rfl
@[simp] theorem Module.setStart_mem (m : Module) (g : Start → Start) : (m.setStart g).mem = m.mem := rfl
@[simp] theorem Module.setStart_pool (m : Module) (g : Start → Start) : (m.setStart g).pool = m.pool := rfl
@[simp] theorem Module.setStart_fns (m : Module) (g : Start → Start) : (m.setStart g).fns = m.fns := rfl
@[simp] theorem Module.setStart_parts (m : Module) (g : Start → Start) : (m.setStart g).parts = m.parts := rfl
@[simp] theorem Module.setStart_fabParts (m : Module) (g : Start → Start) : (m.setStart g).fabParts = m.fabParts := rfl
@[simp] theorem Module.setStart_slots (m : Module) (g : Start → Start) : (m.setStart g).slots = m.slots := rfl
@[simp] theorem Module.setStart_clusters (m : Module) (g : Start → Start) : (m.setStart g).clusters = m.clusters := rfl
@[simp] theorem Module.setStart_cores (m : Module) (g : Start → Start) : (m.setStart g).cores = m.cores := rfl
@[simp] theorem Module.setStart_nodes (m : Module) (g : Start → Start) : (m.setStart g).nodes = m.nodes := rfl
@[simp] theorem Module.setStart_ports (m : Module) (g : Start → Start) : (m.setStart g).ports = m.ports := rfl
@[simp] theorem Module.setStart_barriers (m : Module) (g : Start → Start) : (m.setStart g).barriers = m.barriers := rfl
@[simp] theorem Module.setStart_hedgeOut (m : Module) (g : Start → Start) : (m.setStart g).hedgeOut = m.hedgeOut := rfl
@[simp] theorem Module.setStart_hostOut (m : Module) (g : Start → Start) : (m.setStart g).hostOut = m.hostOut := rfl
@[simp] theorem Module.setStart_fabric (m : Module) (g : Start → Start) : (m.setStart g).fabric = m.fabric := rfl
@[simp] theorem Module.setStart_xfers (m : Module) (g : Start → Start) : (m.setStart g).xfers = m.xfers := rfl
@[simp] theorem Module.setStart_eth (m : Module) (g : Start → Start) : (m.setStart g).eth = m.eth := rfl
@[simp] theorem Module.setStart_netOut (m : Module) (g : Start → Start) : (m.setStart g).netOut = m.netOut := rfl
@[simp] theorem Module.setStart_sb (m : Module) (g : Start → Start) : (m.setStart g).sb = m.sb := rfl
@[simp] theorem Module.setStart_freeCtr (m : Module) (g : Start → Start) : (m.setStart g).freeCtr = m.freeCtr := rfl
@[simp] theorem Module.setStart_fn (m : Module) (g : Start → Start) (n : Nat) : (m.setStart g).fn n = m.fn n := rfl
@[simp] theorem Module.setStart_part (m : Module) (g : Start → Start) (n : Nat) : (m.setStart g).part n = m.part n := rfl
@[simp] theorem Module.setStart_fab (m : Module) (g : Start → Start) (n : Nat) : (m.setStart g).fab n = m.fab n := rfl
@[simp] theorem Module.setStart_core (m : Module) (g : Start → Start) (n : Nat) : (m.setStart g).core n = m.core n := rfl
@[simp] theorem Module.setStart_clu (m : Module) (g : Start → Start) (n : Nat) : (m.setStart g).clu n = m.clu n := rfl
@[simp] theorem Module.setStart_proc (m : Module) (g : Start → Start) (n : Nat) : (m.setStart g).proc n = m.proc n := rfl
@[simp] theorem Module.setStart_link (m : Module) (g : Start → Start) (n : Nat) : (m.setStart g).link n = m.link n := rfl
@[simp] theorem Module.setStart_live (m : Module) (g : Start → Start) (n : Nat) : (m.setStart g).live n = m.live n := rfl
@[simp] theorem Module.setStart_ring (m : Module) (g : Start → Start) (n q : Nat) : (m.setStart g).ring n q = m.ring n q := rfl
@[simp] theorem Module.setFabric_tick (m : Module) (g : Fabric → Fabric) : (m.setFabric g).tick = m.tick := rfl
@[simp] theorem Module.setFabric_start (m : Module) (g : Fabric → Fabric) : (m.setFabric g).start = m.start := rfl
@[simp] theorem Module.setFabric_power (m : Module) (g : Fabric → Fabric) : (m.setFabric g).power = m.power := rfl
@[simp] theorem Module.setFabric_fw (m : Module) (g : Fabric → Fabric) : (m.setFabric g).fw = m.fw := rfl
@[simp] theorem Module.setFabric_fwBadWrite (m : Module) (g : Fabric → Fabric) : (m.setFabric g).fwBadWrite = m.fwBadWrite := rfl
@[simp] theorem Module.setFabric_activation (m : Module) (g : Fabric → Fabric) : (m.setFabric g).activation = m.activation := rfl
@[simp] theorem Module.setFabric_flash (m : Module) (g : Fabric → Fabric) : (m.setFabric g).flash = m.flash := rfl
@[simp] theorem Module.setFabric_sec (m : Module) (g : Fabric → Fabric) : (m.setFabric g).sec = m.sec := rfl
@[simp] theorem Module.setFabric_ras (m : Module) (g : Fabric → Fabric) : (m.setFabric g).ras = m.ras := rfl
@[simp] theorem Module.setFabric_mem (m : Module) (g : Fabric → Fabric) : (m.setFabric g).mem = m.mem := rfl
@[simp] theorem Module.setFabric_pool (m : Module) (g : Fabric → Fabric) : (m.setFabric g).pool = m.pool := rfl
@[simp] theorem Module.setFabric_fns (m : Module) (g : Fabric → Fabric) : (m.setFabric g).fns = m.fns := rfl
@[simp] theorem Module.setFabric_parts (m : Module) (g : Fabric → Fabric) : (m.setFabric g).parts = m.parts := rfl
@[simp] theorem Module.setFabric_fabParts (m : Module) (g : Fabric → Fabric) : (m.setFabric g).fabParts = m.fabParts := rfl
@[simp] theorem Module.setFabric_slots (m : Module) (g : Fabric → Fabric) : (m.setFabric g).slots = m.slots := rfl
@[simp] theorem Module.setFabric_clusters (m : Module) (g : Fabric → Fabric) : (m.setFabric g).clusters = m.clusters := rfl
@[simp] theorem Module.setFabric_cores (m : Module) (g : Fabric → Fabric) : (m.setFabric g).cores = m.cores := rfl
@[simp] theorem Module.setFabric_nodes (m : Module) (g : Fabric → Fabric) : (m.setFabric g).nodes = m.nodes := rfl
@[simp] theorem Module.setFabric_ports (m : Module) (g : Fabric → Fabric) : (m.setFabric g).ports = m.ports := rfl
@[simp] theorem Module.setFabric_barriers (m : Module) (g : Fabric → Fabric) : (m.setFabric g).barriers = m.barriers := rfl
@[simp] theorem Module.setFabric_hedgeOut (m : Module) (g : Fabric → Fabric) : (m.setFabric g).hedgeOut = m.hedgeOut := rfl
@[simp] theorem Module.setFabric_hostOut (m : Module) (g : Fabric → Fabric) : (m.setFabric g).hostOut = m.hostOut := rfl
@[simp] theorem Module.setFabric_xfers (m : Module) (g : Fabric → Fabric) : (m.setFabric g).xfers = m.xfers := rfl
@[simp] theorem Module.setFabric_eth (m : Module) (g : Fabric → Fabric) : (m.setFabric g).eth = m.eth := rfl
@[simp] theorem Module.setFabric_netOut (m : Module) (g : Fabric → Fabric) : (m.setFabric g).netOut = m.netOut := rfl
@[simp] theorem Module.setFabric_sb (m : Module) (g : Fabric → Fabric) : (m.setFabric g).sb = m.sb := rfl
@[simp] theorem Module.setFabric_freeCtr (m : Module) (g : Fabric → Fabric) : (m.setFabric g).freeCtr = m.freeCtr := rfl
@[simp] theorem Module.setFabric_fn (m : Module) (g : Fabric → Fabric) (n : Nat) : (m.setFabric g).fn n = m.fn n := rfl
@[simp] theorem Module.setFabric_part (m : Module) (g : Fabric → Fabric) (n : Nat) : (m.setFabric g).part n = m.part n := rfl
@[simp] theorem Module.setFabric_fab (m : Module) (g : Fabric → Fabric) (n : Nat) : (m.setFabric g).fab n = m.fab n := rfl
@[simp] theorem Module.setFabric_core (m : Module) (g : Fabric → Fabric) (n : Nat) : (m.setFabric g).core n = m.core n := rfl
@[simp] theorem Module.setFabric_clu (m : Module) (g : Fabric → Fabric) (n : Nat) : (m.setFabric g).clu n = m.clu n := rfl
@[simp] theorem Module.setFabric_proc (m : Module) (g : Fabric → Fabric) (n : Nat) : (m.setFabric g).proc n = m.proc n := rfl
@[simp] theorem Module.setFabric_live (m : Module) (g : Fabric → Fabric) (n : Nat) : (m.setFabric g).live n = m.live n := rfl
@[simp] theorem Module.setFabric_ring (m : Module) (g : Fabric → Fabric) (n q : Nat) : (m.setFabric g).ring n q = m.ring n q := rfl
@[simp] theorem Module.setUnits_tick (m : Module) (g : MemUnits → MemUnits) : (m.setUnits g).tick = m.tick := rfl
@[simp] theorem Module.setUnits_start (m : Module) (g : MemUnits → MemUnits) : (m.setUnits g).start = m.start := rfl
@[simp] theorem Module.setUnits_power (m : Module) (g : MemUnits → MemUnits) : (m.setUnits g).power = m.power := rfl
@[simp] theorem Module.setUnits_fw (m : Module) (g : MemUnits → MemUnits) : (m.setUnits g).fw = m.fw := rfl
@[simp] theorem Module.setUnits_fwBadWrite (m : Module) (g : MemUnits → MemUnits) : (m.setUnits g).fwBadWrite = m.fwBadWrite := rfl
@[simp] theorem Module.setUnits_activation (m : Module) (g : MemUnits → MemUnits) : (m.setUnits g).activation = m.activation := rfl
@[simp] theorem Module.setUnits_flash (m : Module) (g : MemUnits → MemUnits) : (m.setUnits g).flash = m.flash := rfl
@[simp] theorem Module.setUnits_sec (m : Module) (g : MemUnits → MemUnits) : (m.setUnits g).sec = m.sec := rfl
@[simp] theorem Module.setUnits_ras (m : Module) (g : MemUnits → MemUnits) : (m.setUnits g).ras = m.ras := rfl
@[simp] theorem Module.setUnits_pool (m : Module) (g : MemUnits → MemUnits) : (m.setUnits g).pool = m.pool := rfl
@[simp] theorem Module.setUnits_fns (m : Module) (g : MemUnits → MemUnits) : (m.setUnits g).fns = m.fns := rfl
@[simp] theorem Module.setUnits_parts (m : Module) (g : MemUnits → MemUnits) : (m.setUnits g).parts = m.parts := rfl
@[simp] theorem Module.setUnits_fabParts (m : Module) (g : MemUnits → MemUnits) : (m.setUnits g).fabParts = m.fabParts := rfl
@[simp] theorem Module.setUnits_slots (m : Module) (g : MemUnits → MemUnits) : (m.setUnits g).slots = m.slots := rfl
@[simp] theorem Module.setUnits_clusters (m : Module) (g : MemUnits → MemUnits) : (m.setUnits g).clusters = m.clusters := rfl
@[simp] theorem Module.setUnits_cores (m : Module) (g : MemUnits → MemUnits) : (m.setUnits g).cores = m.cores := rfl
@[simp] theorem Module.setUnits_nodes (m : Module) (g : MemUnits → MemUnits) : (m.setUnits g).nodes = m.nodes := rfl
@[simp] theorem Module.setUnits_ports (m : Module) (g : MemUnits → MemUnits) : (m.setUnits g).ports = m.ports := rfl
@[simp] theorem Module.setUnits_barriers (m : Module) (g : MemUnits → MemUnits) : (m.setUnits g).barriers = m.barriers := rfl
@[simp] theorem Module.setUnits_hedgeOut (m : Module) (g : MemUnits → MemUnits) : (m.setUnits g).hedgeOut = m.hedgeOut := rfl
@[simp] theorem Module.setUnits_hostOut (m : Module) (g : MemUnits → MemUnits) : (m.setUnits g).hostOut = m.hostOut := rfl
@[simp] theorem Module.setUnits_fabric (m : Module) (g : MemUnits → MemUnits) : (m.setUnits g).fabric = m.fabric := rfl
@[simp] theorem Module.setUnits_xfers (m : Module) (g : MemUnits → MemUnits) : (m.setUnits g).xfers = m.xfers := rfl
@[simp] theorem Module.setUnits_eth (m : Module) (g : MemUnits → MemUnits) : (m.setUnits g).eth = m.eth := rfl
@[simp] theorem Module.setUnits_netOut (m : Module) (g : MemUnits → MemUnits) : (m.setUnits g).netOut = m.netOut := rfl
@[simp] theorem Module.setUnits_sb (m : Module) (g : MemUnits → MemUnits) : (m.setUnits g).sb = m.sb := rfl
@[simp] theorem Module.setUnits_freeCtr (m : Module) (g : MemUnits → MemUnits) : (m.setUnits g).freeCtr = m.freeCtr := rfl
@[simp] theorem Module.setUnits_fn (m : Module) (g : MemUnits → MemUnits) (n : Nat) : (m.setUnits g).fn n = m.fn n := rfl
@[simp] theorem Module.setUnits_part (m : Module) (g : MemUnits → MemUnits) (n : Nat) : (m.setUnits g).part n = m.part n := rfl
@[simp] theorem Module.setUnits_fab (m : Module) (g : MemUnits → MemUnits) (n : Nat) : (m.setUnits g).fab n = m.fab n := rfl
@[simp] theorem Module.setUnits_core (m : Module) (g : MemUnits → MemUnits) (n : Nat) : (m.setUnits g).core n = m.core n := rfl
@[simp] theorem Module.setUnits_clu (m : Module) (g : MemUnits → MemUnits) (n : Nat) : (m.setUnits g).clu n = m.clu n := rfl
@[simp] theorem Module.setUnits_proc (m : Module) (g : MemUnits → MemUnits) (n : Nat) : (m.setUnits g).proc n = m.proc n := rfl
@[simp] theorem Module.setUnits_link (m : Module) (g : MemUnits → MemUnits) (n : Nat) : (m.setUnits g).link n = m.link n := rfl
@[simp] theorem Module.setUnits_live (m : Module) (g : MemUnits → MemUnits) (n : Nat) : (m.setUnits g).live n = m.live n := rfl
@[simp] theorem Module.setUnits_ring (m : Module) (g : MemUnits → MemUnits) (n q : Nat) : (m.setUnits g).ring n q = m.ring n q := rfl
@[simp] theorem Module.setEth_tick (m : Module) (p : Nat) (g : EthPort → EthPort) : (m.setEth p g).tick = m.tick := rfl
@[simp] theorem Module.setEth_start (m : Module) (p : Nat) (g : EthPort → EthPort) : (m.setEth p g).start = m.start := rfl
@[simp] theorem Module.setEth_power (m : Module) (p : Nat) (g : EthPort → EthPort) : (m.setEth p g).power = m.power := rfl
@[simp] theorem Module.setEth_fw (m : Module) (p : Nat) (g : EthPort → EthPort) : (m.setEth p g).fw = m.fw := rfl
@[simp] theorem Module.setEth_fwBadWrite (m : Module) (p : Nat) (g : EthPort → EthPort) : (m.setEth p g).fwBadWrite = m.fwBadWrite := rfl
@[simp] theorem Module.setEth_activation (m : Module) (p : Nat) (g : EthPort → EthPort) : (m.setEth p g).activation = m.activation := rfl
@[simp] theorem Module.setEth_flash (m : Module) (p : Nat) (g : EthPort → EthPort) : (m.setEth p g).flash = m.flash := rfl
@[simp] theorem Module.setEth_sec (m : Module) (p : Nat) (g : EthPort → EthPort) : (m.setEth p g).sec = m.sec := rfl
@[simp] theorem Module.setEth_ras (m : Module) (p : Nat) (g : EthPort → EthPort) : (m.setEth p g).ras = m.ras := rfl
@[simp] theorem Module.setEth_mem (m : Module) (p : Nat) (g : EthPort → EthPort) : (m.setEth p g).mem = m.mem := rfl
@[simp] theorem Module.setEth_pool (m : Module) (p : Nat) (g : EthPort → EthPort) : (m.setEth p g).pool = m.pool := rfl
@[simp] theorem Module.setEth_fns (m : Module) (p : Nat) (g : EthPort → EthPort) : (m.setEth p g).fns = m.fns := rfl
@[simp] theorem Module.setEth_parts (m : Module) (p : Nat) (g : EthPort → EthPort) : (m.setEth p g).parts = m.parts := rfl
@[simp] theorem Module.setEth_fabParts (m : Module) (p : Nat) (g : EthPort → EthPort) : (m.setEth p g).fabParts = m.fabParts := rfl
@[simp] theorem Module.setEth_slots (m : Module) (p : Nat) (g : EthPort → EthPort) : (m.setEth p g).slots = m.slots := rfl
@[simp] theorem Module.setEth_clusters (m : Module) (p : Nat) (g : EthPort → EthPort) : (m.setEth p g).clusters = m.clusters := rfl
@[simp] theorem Module.setEth_cores (m : Module) (p : Nat) (g : EthPort → EthPort) : (m.setEth p g).cores = m.cores := rfl
@[simp] theorem Module.setEth_nodes (m : Module) (p : Nat) (g : EthPort → EthPort) : (m.setEth p g).nodes = m.nodes := rfl
@[simp] theorem Module.setEth_ports (m : Module) (p : Nat) (g : EthPort → EthPort) : (m.setEth p g).ports = m.ports := rfl
@[simp] theorem Module.setEth_barriers (m : Module) (p : Nat) (g : EthPort → EthPort) : (m.setEth p g).barriers = m.barriers := rfl
@[simp] theorem Module.setEth_hedgeOut (m : Module) (p : Nat) (g : EthPort → EthPort) : (m.setEth p g).hedgeOut = m.hedgeOut := rfl
@[simp] theorem Module.setEth_hostOut (m : Module) (p : Nat) (g : EthPort → EthPort) : (m.setEth p g).hostOut = m.hostOut := rfl
@[simp] theorem Module.setEth_fabric (m : Module) (p : Nat) (g : EthPort → EthPort) : (m.setEth p g).fabric = m.fabric := rfl
@[simp] theorem Module.setEth_xfers (m : Module) (p : Nat) (g : EthPort → EthPort) : (m.setEth p g).xfers = m.xfers := rfl
@[simp] theorem Module.setEth_netOut (m : Module) (p : Nat) (g : EthPort → EthPort) : (m.setEth p g).netOut = m.netOut := rfl
@[simp] theorem Module.setEth_sb (m : Module) (p : Nat) (g : EthPort → EthPort) : (m.setEth p g).sb = m.sb := rfl
@[simp] theorem Module.setEth_freeCtr (m : Module) (p : Nat) (g : EthPort → EthPort) : (m.setEth p g).freeCtr = m.freeCtr := rfl
@[simp] theorem Module.setEth_fn (m : Module) (p : Nat) (g : EthPort → EthPort) (n : Nat) : (m.setEth p g).fn n = m.fn n := rfl
@[simp] theorem Module.setEth_part (m : Module) (p : Nat) (g : EthPort → EthPort) (n : Nat) : (m.setEth p g).part n = m.part n := rfl
@[simp] theorem Module.setEth_fab (m : Module) (p : Nat) (g : EthPort → EthPort) (n : Nat) : (m.setEth p g).fab n = m.fab n := rfl
@[simp] theorem Module.setEth_core (m : Module) (p : Nat) (g : EthPort → EthPort) (n : Nat) : (m.setEth p g).core n = m.core n := rfl
@[simp] theorem Module.setEth_clu (m : Module) (p : Nat) (g : EthPort → EthPort) (n : Nat) : (m.setEth p g).clu n = m.clu n := rfl
@[simp] theorem Module.setEth_proc (m : Module) (p : Nat) (g : EthPort → EthPort) (n : Nat) : (m.setEth p g).proc n = m.proc n := rfl
@[simp] theorem Module.setEth_link (m : Module) (p : Nat) (g : EthPort → EthPort) (n : Nat) : (m.setEth p g).link n = m.link n := rfl
@[simp] theorem Module.setEth_live (m : Module) (p : Nat) (g : EthPort → EthPort) (n : Nat) : (m.setEth p g).live n = m.live n := rfl
@[simp] theorem Module.setEth_ring (m : Module) (p : Nat) (g : EthPort → EthPort) (n q : Nat) : (m.setEth p g).ring n q = m.ring n q := rfl
@[simp] theorem emit_tick (m : Module) (w : HostWrite) : (emit m w).tick = m.tick := rfl
@[simp] theorem emit_start (m : Module) (w : HostWrite) : (emit m w).start = m.start := rfl
@[simp] theorem emit_power (m : Module) (w : HostWrite) : (emit m w).power = m.power := rfl
@[simp] theorem emit_fw (m : Module) (w : HostWrite) : (emit m w).fw = m.fw := rfl
@[simp] theorem emit_fwBadWrite (m : Module) (w : HostWrite) : (emit m w).fwBadWrite = m.fwBadWrite := rfl
@[simp] theorem emit_activation (m : Module) (w : HostWrite) : (emit m w).activation = m.activation := rfl
@[simp] theorem emit_flash (m : Module) (w : HostWrite) : (emit m w).flash = m.flash := rfl
@[simp] theorem emit_sec (m : Module) (w : HostWrite) : (emit m w).sec = m.sec := rfl
@[simp] theorem emit_ras (m : Module) (w : HostWrite) : (emit m w).ras = m.ras := rfl
@[simp] theorem emit_mem (m : Module) (w : HostWrite) : (emit m w).mem = m.mem := rfl
@[simp] theorem emit_pool (m : Module) (w : HostWrite) : (emit m w).pool = m.pool := rfl
@[simp] theorem emit_fns (m : Module) (w : HostWrite) : (emit m w).fns = m.fns := rfl
@[simp] theorem emit_parts (m : Module) (w : HostWrite) : (emit m w).parts = m.parts := rfl
@[simp] theorem emit_fabParts (m : Module) (w : HostWrite) : (emit m w).fabParts = m.fabParts := rfl
@[simp] theorem emit_slots (m : Module) (w : HostWrite) : (emit m w).slots = m.slots := rfl
@[simp] theorem emit_clusters (m : Module) (w : HostWrite) : (emit m w).clusters = m.clusters := rfl
@[simp] theorem emit_cores (m : Module) (w : HostWrite) : (emit m w).cores = m.cores := rfl
@[simp] theorem emit_nodes (m : Module) (w : HostWrite) : (emit m w).nodes = m.nodes := rfl
@[simp] theorem emit_ports (m : Module) (w : HostWrite) : (emit m w).ports = m.ports := rfl
@[simp] theorem emit_barriers (m : Module) (w : HostWrite) : (emit m w).barriers = m.barriers := rfl
@[simp] theorem emit_hedgeOut (m : Module) (w : HostWrite) : (emit m w).hedgeOut = m.hedgeOut := rfl
@[simp] theorem emit_fabric (m : Module) (w : HostWrite) : (emit m w).fabric = m.fabric := rfl
@[simp] theorem emit_xfers (m : Module) (w : HostWrite) : (emit m w).xfers = m.xfers := rfl
@[simp] theorem emit_eth (m : Module) (w : HostWrite) : (emit m w).eth = m.eth := rfl
@[simp] theorem emit_netOut (m : Module) (w : HostWrite) : (emit m w).netOut = m.netOut := rfl
@[simp] theorem emit_sb (m : Module) (w : HostWrite) : (emit m w).sb = m.sb := rfl
@[simp] theorem emit_freeCtr (m : Module) (w : HostWrite) : (emit m w).freeCtr = m.freeCtr := rfl
@[simp] theorem emit_fn (m : Module) (w : HostWrite) (n : Nat) : (emit m w).fn n = m.fn n := rfl
@[simp] theorem emit_part (m : Module) (w : HostWrite) (n : Nat) : (emit m w).part n = m.part n := rfl
@[simp] theorem emit_fab (m : Module) (w : HostWrite) (n : Nat) : (emit m w).fab n = m.fab n := rfl
@[simp] theorem emit_core (m : Module) (w : HostWrite) (n : Nat) : (emit m w).core n = m.core n := rfl
@[simp] theorem emit_clu (m : Module) (w : HostWrite) (n : Nat) : (emit m w).clu n = m.clu n := rfl
@[simp] theorem emit_proc (m : Module) (w : HostWrite) (n : Nat) : (emit m w).proc n = m.proc n := rfl
@[simp] theorem emit_link (m : Module) (w : HostWrite) (n : Nat) : (emit m w).link n = m.link n := rfl
@[simp] theorem emit_live (m : Module) (w : HostWrite) (n : Nat) : (emit m w).live n = m.live n := rfl
@[simp] theorem emit_ring (m : Module) (w : HostWrite) (n q : Nat) : (emit m w).ring n q = m.ring n q := rfl
@[simp] theorem emitNet_tick (m : Module) (w : NetOut) : (emitNet m w).tick = m.tick := rfl
@[simp] theorem emitNet_start (m : Module) (w : NetOut) : (emitNet m w).start = m.start := rfl
@[simp] theorem emitNet_power (m : Module) (w : NetOut) : (emitNet m w).power = m.power := rfl
@[simp] theorem emitNet_fw (m : Module) (w : NetOut) : (emitNet m w).fw = m.fw := rfl
@[simp] theorem emitNet_fwBadWrite (m : Module) (w : NetOut) : (emitNet m w).fwBadWrite = m.fwBadWrite := rfl
@[simp] theorem emitNet_activation (m : Module) (w : NetOut) : (emitNet m w).activation = m.activation := rfl
@[simp] theorem emitNet_flash (m : Module) (w : NetOut) : (emitNet m w).flash = m.flash := rfl
@[simp] theorem emitNet_sec (m : Module) (w : NetOut) : (emitNet m w).sec = m.sec := rfl
@[simp] theorem emitNet_ras (m : Module) (w : NetOut) : (emitNet m w).ras = m.ras := rfl
@[simp] theorem emitNet_mem (m : Module) (w : NetOut) : (emitNet m w).mem = m.mem := rfl
@[simp] theorem emitNet_pool (m : Module) (w : NetOut) : (emitNet m w).pool = m.pool := rfl
@[simp] theorem emitNet_fns (m : Module) (w : NetOut) : (emitNet m w).fns = m.fns := rfl
@[simp] theorem emitNet_parts (m : Module) (w : NetOut) : (emitNet m w).parts = m.parts := rfl
@[simp] theorem emitNet_fabParts (m : Module) (w : NetOut) : (emitNet m w).fabParts = m.fabParts := rfl
@[simp] theorem emitNet_slots (m : Module) (w : NetOut) : (emitNet m w).slots = m.slots := rfl
@[simp] theorem emitNet_clusters (m : Module) (w : NetOut) : (emitNet m w).clusters = m.clusters := rfl
@[simp] theorem emitNet_cores (m : Module) (w : NetOut) : (emitNet m w).cores = m.cores := rfl
@[simp] theorem emitNet_nodes (m : Module) (w : NetOut) : (emitNet m w).nodes = m.nodes := rfl
@[simp] theorem emitNet_ports (m : Module) (w : NetOut) : (emitNet m w).ports = m.ports := rfl
@[simp] theorem emitNet_barriers (m : Module) (w : NetOut) : (emitNet m w).barriers = m.barriers := rfl
@[simp] theorem emitNet_hedgeOut (m : Module) (w : NetOut) : (emitNet m w).hedgeOut = m.hedgeOut := rfl
@[simp] theorem emitNet_hostOut (m : Module) (w : NetOut) : (emitNet m w).hostOut = m.hostOut := rfl
@[simp] theorem emitNet_fabric (m : Module) (w : NetOut) : (emitNet m w).fabric = m.fabric := rfl
@[simp] theorem emitNet_xfers (m : Module) (w : NetOut) : (emitNet m w).xfers = m.xfers := rfl
@[simp] theorem emitNet_eth (m : Module) (w : NetOut) : (emitNet m w).eth = m.eth := rfl
@[simp] theorem emitNet_sb (m : Module) (w : NetOut) : (emitNet m w).sb = m.sb := rfl
@[simp] theorem emitNet_freeCtr (m : Module) (w : NetOut) : (emitNet m w).freeCtr = m.freeCtr := rfl
@[simp] theorem emitNet_fn (m : Module) (w : NetOut) (n : Nat) : (emitNet m w).fn n = m.fn n := rfl
@[simp] theorem emitNet_part (m : Module) (w : NetOut) (n : Nat) : (emitNet m w).part n = m.part n := rfl
@[simp] theorem emitNet_fab (m : Module) (w : NetOut) (n : Nat) : (emitNet m w).fab n = m.fab n := rfl
@[simp] theorem emitNet_core (m : Module) (w : NetOut) (n : Nat) : (emitNet m w).core n = m.core n := rfl
@[simp] theorem emitNet_clu (m : Module) (w : NetOut) (n : Nat) : (emitNet m w).clu n = m.clu n := rfl
@[simp] theorem emitNet_proc (m : Module) (w : NetOut) (n : Nat) : (emitNet m w).proc n = m.proc n := rfl
@[simp] theorem emitNet_link (m : Module) (w : NetOut) (n : Nat) : (emitNet m w).link n = m.link n := rfl
@[simp] theorem emitNet_live (m : Module) (w : NetOut) (n : Nat) : (emitNet m w).live n = m.live n := rfl
@[simp] theorem emitNet_ring (m : Module) (w : NetOut) (n q : Nat) : (emitNet m w).ring n q = m.ring n q := rfl
@[simp] theorem setItem_tick (m : Module) (i : ItemRef) (g : Item → Item) : (setItem m i g).tick = m.tick := rfl
@[simp] theorem setItem_start (m : Module) (i : ItemRef) (g : Item → Item) : (setItem m i g).start = m.start := rfl
@[simp] theorem setItem_power (m : Module) (i : ItemRef) (g : Item → Item) : (setItem m i g).power = m.power := rfl
@[simp] theorem setItem_fw (m : Module) (i : ItemRef) (g : Item → Item) : (setItem m i g).fw = m.fw := rfl
@[simp] theorem setItem_fwBadWrite (m : Module) (i : ItemRef) (g : Item → Item) : (setItem m i g).fwBadWrite = m.fwBadWrite := rfl
@[simp] theorem setItem_activation (m : Module) (i : ItemRef) (g : Item → Item) : (setItem m i g).activation = m.activation := rfl
@[simp] theorem setItem_flash (m : Module) (i : ItemRef) (g : Item → Item) : (setItem m i g).flash = m.flash := rfl
@[simp] theorem setItem_sec (m : Module) (i : ItemRef) (g : Item → Item) : (setItem m i g).sec = m.sec := rfl
@[simp] theorem setItem_ras (m : Module) (i : ItemRef) (g : Item → Item) : (setItem m i g).ras = m.ras := rfl
@[simp] theorem setItem_mem (m : Module) (i : ItemRef) (g : Item → Item) : (setItem m i g).mem = m.mem := rfl
@[simp] theorem setItem_pool (m : Module) (i : ItemRef) (g : Item → Item) : (setItem m i g).pool = m.pool := rfl
@[simp] theorem setItem_parts (m : Module) (i : ItemRef) (g : Item → Item) : (setItem m i g).parts = m.parts := rfl
@[simp] theorem setItem_fabParts (m : Module) (i : ItemRef) (g : Item → Item) : (setItem m i g).fabParts = m.fabParts := rfl
@[simp] theorem setItem_slots (m : Module) (i : ItemRef) (g : Item → Item) : (setItem m i g).slots = m.slots := rfl
@[simp] theorem setItem_clusters (m : Module) (i : ItemRef) (g : Item → Item) : (setItem m i g).clusters = m.clusters := rfl
@[simp] theorem setItem_cores (m : Module) (i : ItemRef) (g : Item → Item) : (setItem m i g).cores = m.cores := rfl
@[simp] theorem setItem_nodes (m : Module) (i : ItemRef) (g : Item → Item) : (setItem m i g).nodes = m.nodes := rfl
@[simp] theorem setItem_ports (m : Module) (i : ItemRef) (g : Item → Item) : (setItem m i g).ports = m.ports := rfl
@[simp] theorem setItem_barriers (m : Module) (i : ItemRef) (g : Item → Item) : (setItem m i g).barriers = m.barriers := rfl
@[simp] theorem setItem_hedgeOut (m : Module) (i : ItemRef) (g : Item → Item) : (setItem m i g).hedgeOut = m.hedgeOut := rfl
@[simp] theorem setItem_hostOut (m : Module) (i : ItemRef) (g : Item → Item) : (setItem m i g).hostOut = m.hostOut := rfl
@[simp] theorem setItem_fabric (m : Module) (i : ItemRef) (g : Item → Item) : (setItem m i g).fabric = m.fabric := rfl
@[simp] theorem setItem_xfers (m : Module) (i : ItemRef) (g : Item → Item) : (setItem m i g).xfers = m.xfers := rfl
@[simp] theorem setItem_eth (m : Module) (i : ItemRef) (g : Item → Item) : (setItem m i g).eth = m.eth := rfl
@[simp] theorem setItem_netOut (m : Module) (i : ItemRef) (g : Item → Item) : (setItem m i g).netOut = m.netOut := rfl
@[simp] theorem setItem_sb (m : Module) (i : ItemRef) (g : Item → Item) : (setItem m i g).sb = m.sb := rfl
@[simp] theorem setItem_freeCtr (m : Module) (i : ItemRef) (g : Item → Item) : (setItem m i g).freeCtr = m.freeCtr := rfl
@[simp] theorem setItem_part (m : Module) (i : ItemRef) (g : Item → Item) (n : Nat) : (setItem m i g).part n = m.part n := rfl
@[simp] theorem setItem_fab (m : Module) (i : ItemRef) (g : Item → Item) (n : Nat) : (setItem m i g).fab n = m.fab n := rfl
@[simp] theorem setItem_core (m : Module) (i : ItemRef) (g : Item → Item) (n : Nat) : (setItem m i g).core n = m.core n := rfl
@[simp] theorem setItem_clu (m : Module) (i : ItemRef) (g : Item → Item) (n : Nat) : (setItem m i g).clu n = m.clu n := rfl
@[simp] theorem setItem_proc (m : Module) (i : ItemRef) (g : Item → Item) (n : Nat) : (setItem m i g).proc n = m.proc n := rfl
@[simp] theorem setItem_link (m : Module) (i : ItemRef) (g : Item → Item) (n : Nat) : (setItem m i g).link n = m.link n := rfl
@[simp] theorem setItem_live (m : Module) (i : ItemRef) (g : Item → Item) (n : Nat) : (setItem m i g).live n = m.live n := rfl
@[simp] theorem pushWaiting_tick (m : Module) (f r : Nat) (w : Waiting) : (pushWaiting m f r w).tick = m.tick := rfl
@[simp] theorem pushWaiting_start (m : Module) (f r : Nat) (w : Waiting) : (pushWaiting m f r w).start = m.start := rfl
@[simp] theorem pushWaiting_power (m : Module) (f r : Nat) (w : Waiting) : (pushWaiting m f r w).power = m.power := rfl
@[simp] theorem pushWaiting_fw (m : Module) (f r : Nat) (w : Waiting) : (pushWaiting m f r w).fw = m.fw := rfl
@[simp] theorem pushWaiting_fwBadWrite (m : Module) (f r : Nat) (w : Waiting) : (pushWaiting m f r w).fwBadWrite = m.fwBadWrite := rfl
@[simp] theorem pushWaiting_activation (m : Module) (f r : Nat) (w : Waiting) : (pushWaiting m f r w).activation = m.activation := rfl
@[simp] theorem pushWaiting_flash (m : Module) (f r : Nat) (w : Waiting) : (pushWaiting m f r w).flash = m.flash := rfl
@[simp] theorem pushWaiting_sec (m : Module) (f r : Nat) (w : Waiting) : (pushWaiting m f r w).sec = m.sec := rfl
@[simp] theorem pushWaiting_ras (m : Module) (f r : Nat) (w : Waiting) : (pushWaiting m f r w).ras = m.ras := rfl
@[simp] theorem pushWaiting_mem (m : Module) (f r : Nat) (w : Waiting) : (pushWaiting m f r w).mem = m.mem := rfl
@[simp] theorem pushWaiting_pool (m : Module) (f r : Nat) (w : Waiting) : (pushWaiting m f r w).pool = m.pool := rfl
@[simp] theorem pushWaiting_parts (m : Module) (f r : Nat) (w : Waiting) : (pushWaiting m f r w).parts = m.parts := rfl
@[simp] theorem pushWaiting_fabParts (m : Module) (f r : Nat) (w : Waiting) : (pushWaiting m f r w).fabParts = m.fabParts := rfl
@[simp] theorem pushWaiting_slots (m : Module) (f r : Nat) (w : Waiting) : (pushWaiting m f r w).slots = m.slots := rfl
@[simp] theorem pushWaiting_clusters (m : Module) (f r : Nat) (w : Waiting) : (pushWaiting m f r w).clusters = m.clusters := rfl
@[simp] theorem pushWaiting_cores (m : Module) (f r : Nat) (w : Waiting) : (pushWaiting m f r w).cores = m.cores := rfl
@[simp] theorem pushWaiting_nodes (m : Module) (f r : Nat) (w : Waiting) : (pushWaiting m f r w).nodes = m.nodes := rfl
@[simp] theorem pushWaiting_ports (m : Module) (f r : Nat) (w : Waiting) : (pushWaiting m f r w).ports = m.ports := rfl
@[simp] theorem pushWaiting_barriers (m : Module) (f r : Nat) (w : Waiting) : (pushWaiting m f r w).barriers = m.barriers := rfl
@[simp] theorem pushWaiting_hedgeOut (m : Module) (f r : Nat) (w : Waiting) : (pushWaiting m f r w).hedgeOut = m.hedgeOut := rfl
@[simp] theorem pushWaiting_hostOut (m : Module) (f r : Nat) (w : Waiting) : (pushWaiting m f r w).hostOut = m.hostOut := rfl
@[simp] theorem pushWaiting_fabric (m : Module) (f r : Nat) (w : Waiting) : (pushWaiting m f r w).fabric = m.fabric := rfl
@[simp] theorem pushWaiting_xfers (m : Module) (f r : Nat) (w : Waiting) : (pushWaiting m f r w).xfers = m.xfers := rfl
@[simp] theorem pushWaiting_eth (m : Module) (f r : Nat) (w : Waiting) : (pushWaiting m f r w).eth = m.eth := rfl
@[simp] theorem pushWaiting_netOut (m : Module) (f r : Nat) (w : Waiting) : (pushWaiting m f r w).netOut = m.netOut := rfl
@[simp] theorem pushWaiting_sb (m : Module) (f r : Nat) (w : Waiting) : (pushWaiting m f r w).sb = m.sb := rfl
@[simp] theorem pushWaiting_freeCtr (m : Module) (f r : Nat) (w : Waiting) : (pushWaiting m f r w).freeCtr = m.freeCtr := rfl
@[simp] theorem pushWaiting_part (m : Module) (f r : Nat) (w : Waiting) (n : Nat) : (pushWaiting m f r w).part n = m.part n := rfl
@[simp] theorem pushWaiting_fab (m : Module) (f r : Nat) (w : Waiting) (n : Nat) : (pushWaiting m f r w).fab n = m.fab n := rfl
@[simp] theorem pushWaiting_core (m : Module) (f r : Nat) (w : Waiting) (n : Nat) : (pushWaiting m f r w).core n = m.core n := rfl
@[simp] theorem pushWaiting_clu (m : Module) (f r : Nat) (w : Waiting) (n : Nat) : (pushWaiting m f r w).clu n = m.clu n := rfl
@[simp] theorem pushWaiting_proc (m : Module) (f r : Nat) (w : Waiting) (n : Nat) : (pushWaiting m f r w).proc n = m.proc n := rfl
@[simp] theorem pushWaiting_link (m : Module) (f r : Nat) (w : Waiting) (n : Nat) : (pushWaiting m f r w).link n = m.link n := rfl
@[simp] theorem pushWaiting_live (m : Module) (f r : Nat) (w : Waiting) (n : Nat) : (pushWaiting m f r w).live n = m.live n := rfl
@[simp] theorem setReq_tick (m : Module) (k : Nat) (g : Request → Request) : (setReq m k g).tick = m.tick := rfl
@[simp] theorem setReq_start (m : Module) (k : Nat) (g : Request → Request) : (setReq m k g).start = m.start := rfl
@[simp] theorem setReq_power (m : Module) (k : Nat) (g : Request → Request) : (setReq m k g).power = m.power := rfl
@[simp] theorem setReq_fw (m : Module) (k : Nat) (g : Request → Request) : (setReq m k g).fw = m.fw := rfl
@[simp] theorem setReq_fwBadWrite (m : Module) (k : Nat) (g : Request → Request) : (setReq m k g).fwBadWrite = m.fwBadWrite := rfl
@[simp] theorem setReq_activation (m : Module) (k : Nat) (g : Request → Request) : (setReq m k g).activation = m.activation := rfl
@[simp] theorem setReq_flash (m : Module) (k : Nat) (g : Request → Request) : (setReq m k g).flash = m.flash := rfl
@[simp] theorem setReq_sec (m : Module) (k : Nat) (g : Request → Request) : (setReq m k g).sec = m.sec := rfl
@[simp] theorem setReq_ras (m : Module) (k : Nat) (g : Request → Request) : (setReq m k g).ras = m.ras := rfl
@[simp] theorem setReq_mem (m : Module) (k : Nat) (g : Request → Request) : (setReq m k g).mem = m.mem := rfl
@[simp] theorem setReq_pool (m : Module) (k : Nat) (g : Request → Request) : (setReq m k g).pool = m.pool := rfl
@[simp] theorem setReq_fns (m : Module) (k : Nat) (g : Request → Request) : (setReq m k g).fns = m.fns := rfl
@[simp] theorem setReq_parts (m : Module) (k : Nat) (g : Request → Request) : (setReq m k g).parts = m.parts := rfl
@[simp] theorem setReq_fabParts (m : Module) (k : Nat) (g : Request → Request) : (setReq m k g).fabParts = m.fabParts := rfl
@[simp] theorem setReq_clusters (m : Module) (k : Nat) (g : Request → Request) : (setReq m k g).clusters = m.clusters := rfl
@[simp] theorem setReq_cores (m : Module) (k : Nat) (g : Request → Request) : (setReq m k g).cores = m.cores := rfl
@[simp] theorem setReq_nodes (m : Module) (k : Nat) (g : Request → Request) : (setReq m k g).nodes = m.nodes := rfl
@[simp] theorem setReq_ports (m : Module) (k : Nat) (g : Request → Request) : (setReq m k g).ports = m.ports := rfl
@[simp] theorem setReq_barriers (m : Module) (k : Nat) (g : Request → Request) : (setReq m k g).barriers = m.barriers := rfl
@[simp] theorem setReq_hedgeOut (m : Module) (k : Nat) (g : Request → Request) : (setReq m k g).hedgeOut = m.hedgeOut := rfl
@[simp] theorem setReq_hostOut (m : Module) (k : Nat) (g : Request → Request) : (setReq m k g).hostOut = m.hostOut := rfl
@[simp] theorem setReq_fabric (m : Module) (k : Nat) (g : Request → Request) : (setReq m k g).fabric = m.fabric := rfl
@[simp] theorem setReq_xfers (m : Module) (k : Nat) (g : Request → Request) : (setReq m k g).xfers = m.xfers := rfl
@[simp] theorem setReq_eth (m : Module) (k : Nat) (g : Request → Request) : (setReq m k g).eth = m.eth := rfl
@[simp] theorem setReq_netOut (m : Module) (k : Nat) (g : Request → Request) : (setReq m k g).netOut = m.netOut := rfl
@[simp] theorem setReq_sb (m : Module) (k : Nat) (g : Request → Request) : (setReq m k g).sb = m.sb := rfl
@[simp] theorem setReq_freeCtr (m : Module) (k : Nat) (g : Request → Request) : (setReq m k g).freeCtr = m.freeCtr := rfl
@[simp] theorem setReq_fn (m : Module) (k : Nat) (g : Request → Request) (n : Nat) : (setReq m k g).fn n = m.fn n := rfl
@[simp] theorem setReq_part (m : Module) (k : Nat) (g : Request → Request) (n : Nat) : (setReq m k g).part n = m.part n := rfl
@[simp] theorem setReq_fab (m : Module) (k : Nat) (g : Request → Request) (n : Nat) : (setReq m k g).fab n = m.fab n := rfl
@[simp] theorem setReq_core (m : Module) (k : Nat) (g : Request → Request) (n : Nat) : (setReq m k g).core n = m.core n := rfl
@[simp] theorem setReq_clu (m : Module) (k : Nat) (g : Request → Request) (n : Nat) : (setReq m k g).clu n = m.clu n := rfl
@[simp] theorem setReq_proc (m : Module) (k : Nat) (g : Request → Request) (n : Nat) : (setReq m k g).proc n = m.proc n := rfl
@[simp] theorem setReq_link (m : Module) (k : Nat) (g : Request → Request) (n : Nat) : (setReq m k g).link n = m.link n := rfl
@[simp] theorem setReq_live (m : Module) (k : Nat) (g : Request → Request) (n : Nat) : (setReq m k g).live n = m.live n := rfl
@[simp] theorem setReq_ring (m : Module) (k : Nat) (g : Request → Request) (n q : Nat) : (setReq m k g).ring n q = m.ring n q := rfl

end Sys2Proof.Machine
end

