-- ==== Sys2Proof/Laws/Unchanged.lean ====
section
/-! SUPPORT. For most shared operations and meanings: the fields of the module that it may write. Every other field is as it was
before. A proof cites the lemma and never unfolds the operation. -/

set_option Elab.async false
namespace Sys2Proof.Machine

/-- The fields of the module. -/
inductive Fld where
  | tick
  | start
  | power
  | fw
  | fwBadWrite
  | activation
  | flash
  | sec
  | ras
  | mem
  | pool
  | fns
  | parts
  | fabParts
  | slots
  | clusters
  | cores
  | nodes
  | ports
  | barriers
  | hedgeOut
  | hostOut
  | fabric
  | xfers
  | eth
  | netOut
  | sb
  | freeCtr
  deriving DecidableEq, Repr

/-- Every field of the module that the list does not name is the same in both modules. -/
structure SameBut (k : List Fld) (m m' : Module) : Prop where
  tick : Fld.tick ∉ k → m'.tick = m.tick
  start : Fld.start ∉ k → m'.start = m.start
  power : Fld.power ∉ k → m'.power = m.power
  fw : Fld.fw ∉ k → m'.fw = m.fw
  fwBadWrite : Fld.fwBadWrite ∉ k → m'.fwBadWrite = m.fwBadWrite
  activation : Fld.activation ∉ k → m'.activation = m.activation
  flash : Fld.flash ∉ k → m'.flash = m.flash
  sec : Fld.sec ∉ k → m'.sec = m.sec
  ras : Fld.ras ∉ k → m'.ras = m.ras
  mem : Fld.mem ∉ k → m'.mem = m.mem
  pool : Fld.pool ∉ k → m'.pool = m.pool
  fns : Fld.fns ∉ k → m'.fns = m.fns
  parts : Fld.parts ∉ k → m'.parts = m.parts
  fabParts : Fld.fabParts ∉ k → m'.fabParts = m.fabParts
  slots : Fld.slots ∉ k → m'.slots = m.slots
  clusters : Fld.clusters ∉ k → m'.clusters = m.clusters
  cores : Fld.cores ∉ k → m'.cores = m.cores
  nodes : Fld.nodes ∉ k → m'.nodes = m.nodes
  ports : Fld.ports ∉ k → m'.ports = m.ports
  barriers : Fld.barriers ∉ k → m'.barriers = m.barriers
  hedgeOut : Fld.hedgeOut ∉ k → m'.hedgeOut = m.hedgeOut
  hostOut : Fld.hostOut ∉ k → m'.hostOut = m.hostOut
  fabric : Fld.fabric ∉ k → m'.fabric = m.fabric
  xfers : Fld.xfers ∉ k → m'.xfers = m.xfers
  eth : Fld.eth ∉ k → m'.eth = m.eth
  netOut : Fld.netOut ∉ k → m'.netOut = m.netOut
  sb : Fld.sb ∉ k → m'.sb = m.sb
  freeCtr : Fld.freeCtr ∉ k → m'.freeCtr = m.freeCtr

/-- The first list of fields lies within the second. -/
abbrev Within (l k : List Fld) : Prop := ∀ x ∈ l, x ∈ k

namespace SameBut

variable {k l : List Fld} {a b c : Module}

@[refl] theorem refl (k : List Fld) (a : Module) : SameBut k a a := by constructor <;> exact fun _ => rfl

theorem trans (h : SameBut k a b) (g : SameBut k b c) : SameBut k a c :=
  ⟨fun n => (g.tick n).trans (h.tick n), fun n => (g.start n).trans (h.start n), fun n => (g.power n).trans (h.power n),
      fun n => (g.fw n).trans (h.fw n), fun n => (g.fwBadWrite n).trans (h.fwBadWrite n),
      fun n => (g.activation n).trans (h.activation n), fun n => (g.flash n).trans (h.flash n), fun n => (g.sec n).trans (h.sec n),
      fun n => (g.ras n).trans (h.ras n), fun n => (g.mem n).trans (h.mem n), fun n => (g.pool n).trans (h.pool n),
      fun n => (g.fns n).trans (h.fns n), fun n => (g.parts n).trans (h.parts n), fun n => (g.fabParts n).trans (h.fabParts n),
      fun n => (g.slots n).trans (h.slots n), fun n => (g.clusters n).trans (h.clusters n), fun n => (g.cores n).trans (h.cores n),
      fun n => (g.nodes n).trans (h.nodes n), fun n => (g.ports n).trans (h.ports n), fun n => (g.barriers n).trans (h.barriers n),
      fun n => (g.hedgeOut n).trans (h.hedgeOut n), fun n => (g.hostOut n).trans (h.hostOut n),
      fun n => (g.fabric n).trans (h.fabric n), fun n => (g.xfers n).trans (h.xfers n), fun n => (g.eth n).trans (h.eth n),
      fun n => (g.netOut n).trans (h.netOut n), fun n => (g.sb n).trans (h.sb n), fun n => (g.freeCtr n).trans (h.freeCtr n)⟩

theorem mono (h : SameBut l a b) (s : Within l k) : SameBut k a b :=
  ⟨fun n => h.tick fun i => n (s _ i), fun n => h.start fun i => n (s _ i), fun n => h.power fun i => n (s _ i),
      fun n => h.fw fun i => n (s _ i), fun n => h.fwBadWrite fun i => n (s _ i), fun n => h.activation fun i => n (s _ i),
      fun n => h.flash fun i => n (s _ i), fun n => h.sec fun i => n (s _ i), fun n => h.ras fun i => n (s _ i),
      fun n => h.mem fun i => n (s _ i), fun n => h.pool fun i => n (s _ i), fun n => h.fns fun i => n (s _ i),
      fun n => h.parts fun i => n (s _ i), fun n => h.fabParts fun i => n (s _ i), fun n => h.slots fun i => n (s _ i),
      fun n => h.clusters fun i => n (s _ i), fun n => h.cores fun i => n (s _ i), fun n => h.nodes fun i => n (s _ i),
      fun n => h.ports fun i => n (s _ i), fun n => h.barriers fun i => n (s _ i), fun n => h.hedgeOut fun i => n (s _ i),
      fun n => h.hostOut fun i => n (s _ i), fun n => h.fabric fun i => n (s _ i), fun n => h.xfers fun i => n (s _ i),
      fun n => h.eth fun i => n (s _ i), fun n => h.netOut fun i => n (s _ i), fun n => h.sb fun i => n (s _ i),
      fun n => h.freeCtr fun i => n (s _ i)⟩

/-- A frame, then an operation whose own frame is smaller. -/
theorem step (h : SameBut k a b) (g : SameBut l b c) (s : Within l k) : SameBut k a c := h.trans (g.mono s)

/-- The module after, with every field that the list does not name as it was. -/
theorem eq (h : SameBut k a b) : b =
    { tick := if Fld.tick ∈ k then b.tick else a.tick
      start := if Fld.start ∈ k then b.start else a.start
      power := if Fld.power ∈ k then b.power else a.power
      fw := if Fld.fw ∈ k then b.fw else a.fw
      fwBadWrite := if Fld.fwBadWrite ∈ k then b.fwBadWrite else a.fwBadWrite
      activation := if Fld.activation ∈ k then b.activation else a.activation
      flash := if Fld.flash ∈ k then b.flash else a.flash
      sec := if Fld.sec ∈ k then b.sec else a.sec
      ras := if Fld.ras ∈ k then b.ras else a.ras
      mem := if Fld.mem ∈ k then b.mem else a.mem
      pool := if Fld.pool ∈ k then b.pool else a.pool
      fns := if Fld.fns ∈ k then b.fns else a.fns
      parts := if Fld.parts ∈ k then b.parts else a.parts
      fabParts := if Fld.fabParts ∈ k then b.fabParts else a.fabParts
      slots := if Fld.slots ∈ k then b.slots else a.slots
      clusters := if Fld.clusters ∈ k then b.clusters else a.clusters
      cores := if Fld.cores ∈ k then b.cores else a.cores
      nodes := if Fld.nodes ∈ k then b.nodes else a.nodes
      ports := if Fld.ports ∈ k then b.ports else a.ports
      barriers := if Fld.barriers ∈ k then b.barriers else a.barriers
      hedgeOut := if Fld.hedgeOut ∈ k then b.hedgeOut else a.hedgeOut
      hostOut := if Fld.hostOut ∈ k then b.hostOut else a.hostOut
      fabric := if Fld.fabric ∈ k then b.fabric else a.fabric
      xfers := if Fld.xfers ∈ k then b.xfers else a.xfers
      eth := if Fld.eth ∈ k then b.eth else a.eth
      netOut := if Fld.netOut ∈ k then b.netOut else a.netOut
      sb := if Fld.sb ∈ k then b.sb else a.sb
      freeCtr := if Fld.freeCtr ∈ k then b.freeCtr else a.freeCtr } := by
  cases a; cases b; simp only [Module.mk.injEq]
  exact ⟨by split; rfl; exact h.tick ‹_›, by split; rfl; exact h.start ‹_›, by split; rfl; exact h.power ‹_›,
      by split; rfl; exact h.fw ‹_›, by split; rfl; exact h.fwBadWrite ‹_›, by split; rfl; exact h.activation ‹_›,
      by split; rfl; exact h.flash ‹_›, by split; rfl; exact h.sec ‹_›, by split; rfl; exact h.ras ‹_›,
      by split; rfl; exact h.mem ‹_›, by split; rfl; exact h.pool ‹_›, by split; rfl; exact h.fns ‹_›,
      by split; rfl; exact h.parts ‹_›, by split; rfl; exact h.fabParts ‹_›, by split; rfl; exact h.slots ‹_›,
      by split; rfl; exact h.clusters ‹_›, by split; rfl; exact h.cores ‹_›, by split; rfl; exact h.nodes ‹_›,
      by split; rfl; exact h.ports ‹_›, by split; rfl; exact h.barriers ‹_›, by split; rfl; exact h.hedgeOut ‹_›,
      by split; rfl; exact h.hostOut ‹_›, by split; rfl; exact h.fabric ‹_›, by split; rfl; exact h.xfers ‹_›,
      by split; rfl; exact h.eth ‹_›, by split; rfl; exact h.netOut ‹_›, by split; rfl; exact h.sb ‹_›, by split; rfl; exact h.freeCtr ‹_›⟩

end SameBut

theorem SameBut.ite {k : List Fld} {a x y : Module} {c : Prop} [Decidable c] (h : SameBut k a x) (g : SameBut k a y) :
    SameBut k a (if c then x else y) := by split <;> assumption

theorem listFoldl_frame {k : List Fld} {α : Type} {l : List α} {f : Module → α → Module} {a b : Module} (h : SameBut k a b)
    (hf : ∀ x y, SameBut k x (f x y)) : SameBut k a (l.foldl f b) := by
  induction l generalizing b with
  | nil => exact h
  | cons y l ih => exact ih (h.trans (hf b y))

theorem SameBut.snd {k : List Fld} {α : Type} {a m1 : Module} {x : α} {p : α × Module} (h : p = (x, m1)) (g : SameBut k a p.2) :
    SameBut k a m1 := by subst h; exact g

theorem SameBut.fst {k : List Fld} {α : Type} {a m1 : Module} {x : α} {p : Module × α} (h : p = (m1, x)) (g : SameBut k a p.1) :
    SameBut k a m1 := by subst h; exact g

theorem SameBut.with_tick {k : List Fld} {a m : Module} {x} (h : SameBut k a m) (s : Within [.tick] k) : SameBut k a { m with tick := x } :=
  h.trans (SameBut.mono (k := k) (l := [.tick]) (by constructor <;> first | exact fun _ => rfl | exact fun h => absurd (by decide) h) s)

theorem SameBut.with_start {k : List Fld} {a m : Module} {x} (h : SameBut k a m) (s : Within [.start] k) : SameBut k a { m with start := x
    } :=
  h.trans (SameBut.mono (k := k) (l := [.start]) (by constructor <;> first | exact fun _ => rfl | exact fun h => absurd (by decide) h) s)

theorem SameBut.with_power {k : List Fld} {a m : Module} {x} (h : SameBut k a m) (s : Within [.power] k) : SameBut k a { m with power := x
    } :=
  h.trans (SameBut.mono (k := k) (l := [.power]) (by constructor <;> first | exact fun _ => rfl | exact fun h => absurd (by decide) h) s)

theorem SameBut.with_fw {k : List Fld} {a m : Module} {x} (h : SameBut k a m) (s : Within [.fw] k) : SameBut k a { m with fw := x } :=
  h.trans (SameBut.mono (k := k) (l := [.fw]) (by constructor <;> first | exact fun _ => rfl | exact fun h => absurd (by decide) h) s)

theorem SameBut.with_fwBadWrite {k : List Fld} {a m : Module} {x} (h : SameBut k a m) (s : Within [.fwBadWrite] k) : SameBut k a { m with
    fwBadWrite := x } :=
  h.trans (SameBut.mono (k := k) (l := [.fwBadWrite]) (by constructor <;> first | exact fun _ => rfl | exact fun h => absurd (by decide) h) s)

theorem SameBut.with_activation {k : List Fld} {a m : Module} {x} (h : SameBut k a m) (s : Within [.activation] k) : SameBut k a { m with
    activation := x } :=
  h.trans (SameBut.mono (k := k) (l := [.activation]) (by constructor <;> first | exact fun _ => rfl | exact fun h => absurd (by decide) h) s)

theorem SameBut.with_flash {k : List Fld} {a m : Module} {x} (h : SameBut k a m) (s : Within [.flash] k) : SameBut k a { m with flash := x
    } :=
  h.trans (SameBut.mono (k := k) (l := [.flash]) (by constructor <;> first | exact fun _ => rfl | exact fun h => absurd (by decide) h) s)

theorem SameBut.with_sec {k : List Fld} {a m : Module} {x} (h : SameBut k a m) (s : Within [.sec] k) : SameBut k a { m with sec := x } :=
  h.trans (SameBut.mono (k := k) (l := [.sec]) (by constructor <;> first | exact fun _ => rfl | exact fun h => absurd (by decide) h) s)

theorem SameBut.with_ras {k : List Fld} {a m : Module} {x} (h : SameBut k a m) (s : Within [.ras] k) : SameBut k a { m with ras := x } :=
  h.trans (SameBut.mono (k := k) (l := [.ras]) (by constructor <;> first | exact fun _ => rfl | exact fun h => absurd (by decide) h) s)

theorem SameBut.with_mem {k : List Fld} {a m : Module} {x} (h : SameBut k a m) (s : Within [.mem] k) : SameBut k a { m with mem := x } :=
  h.trans (SameBut.mono (k := k) (l := [.mem]) (by constructor <;> first | exact fun _ => rfl | exact fun h => absurd (by decide) h) s)

theorem SameBut.with_pool {k : List Fld} {a m : Module} {x} (h : SameBut k a m) (s : Within [.pool] k) : SameBut k a { m with pool := x } :=
  h.trans (SameBut.mono (k := k) (l := [.pool]) (by constructor <;> first | exact fun _ => rfl | exact fun h => absurd (by decide) h) s)

theorem SameBut.with_fns {k : List Fld} {a m : Module} {x} (h : SameBut k a m) (s : Within [.fns] k) : SameBut k a { m with fns := x } :=
  h.trans (SameBut.mono (k := k) (l := [.fns]) (by constructor <;> first | exact fun _ => rfl | exact fun h => absurd (by decide) h) s)

theorem SameBut.with_parts {k : List Fld} {a m : Module} {x} (h : SameBut k a m) (s : Within [.parts] k) : SameBut k a { m with parts := x
    } :=
  h.trans (SameBut.mono (k := k) (l := [.parts]) (by constructor <;> first | exact fun _ => rfl | exact fun h => absurd (by decide) h) s)

theorem SameBut.with_fabParts {k : List Fld} {a m : Module} {x} (h : SameBut k a m) (s : Within [.fabParts] k) : SameBut k a { m with
    fabParts := x } :=
  h.trans (SameBut.mono (k := k) (l := [.fabParts]) (by constructor <;> first | exact fun _ => rfl | exact fun h => absurd (by decide) h) s)

theorem SameBut.with_slots {k : List Fld} {a m : Module} {x} (h : SameBut k a m) (s : Within [.slots] k) : SameBut k a { m with slots := x
    } :=
  h.trans (SameBut.mono (k := k) (l := [.slots]) (by constructor <;> first | exact fun _ => rfl | exact fun h => absurd (by decide) h) s)

theorem SameBut.with_clusters {k : List Fld} {a m : Module} {x} (h : SameBut k a m) (s : Within [.clusters] k) : SameBut k a { m with
    clusters := x } :=
  h.trans (SameBut.mono (k := k) (l := [.clusters]) (by constructor <;> first | exact fun _ => rfl | exact fun h => absurd (by decide) h) s)

theorem SameBut.with_cores {k : List Fld} {a m : Module} {x} (h : SameBut k a m) (s : Within [.cores] k) : SameBut k a { m with cores := x
    } :=
  h.trans (SameBut.mono (k := k) (l := [.cores]) (by constructor <;> first | exact fun _ => rfl | exact fun h => absurd (by decide) h) s)

theorem SameBut.with_nodes {k : List Fld} {a m : Module} {x} (h : SameBut k a m) (s : Within [.nodes] k) : SameBut k a { m with nodes := x
    } :=
  h.trans (SameBut.mono (k := k) (l := [.nodes]) (by constructor <;> first | exact fun _ => rfl | exact fun h => absurd (by decide) h) s)

theorem SameBut.with_ports {k : List Fld} {a m : Module} {x} (h : SameBut k a m) (s : Within [.ports] k) : SameBut k a { m with ports := x
    } :=
  h.trans (SameBut.mono (k := k) (l := [.ports]) (by constructor <;> first | exact fun _ => rfl | exact fun h => absurd (by decide) h) s)

theorem SameBut.with_barriers {k : List Fld} {a m : Module} {x} (h : SameBut k a m) (s : Within [.barriers] k) : SameBut k a { m with
    barriers := x } :=
  h.trans (SameBut.mono (k := k) (l := [.barriers]) (by constructor <;> first | exact fun _ => rfl | exact fun h => absurd (by decide) h) s)

theorem SameBut.with_hedgeOut {k : List Fld} {a m : Module} {x} (h : SameBut k a m) (s : Within [.hedgeOut] k) : SameBut k a { m with
    hedgeOut := x } :=
  h.trans (SameBut.mono (k := k) (l := [.hedgeOut]) (by constructor <;> first | exact fun _ => rfl | exact fun h => absurd (by decide) h) s)

theorem SameBut.with_hostOut {k : List Fld} {a m : Module} {x} (h : SameBut k a m) (s : Within [.hostOut] k) : SameBut k a { m with hostOut
    := x } :=
  h.trans (SameBut.mono (k := k) (l := [.hostOut]) (by constructor <;> first | exact fun _ => rfl | exact fun h => absurd (by decide) h) s)

theorem SameBut.with_fabric {k : List Fld} {a m : Module} {x} (h : SameBut k a m) (s : Within [.fabric] k) : SameBut k a { m with fabric :=
    x } :=
  h.trans (SameBut.mono (k := k) (l := [.fabric]) (by constructor <;> first | exact fun _ => rfl | exact fun h => absurd (by decide) h) s)

theorem SameBut.with_xfers {k : List Fld} {a m : Module} {x} (h : SameBut k a m) (s : Within [.xfers] k) : SameBut k a { m with xfers := x
    } :=
  h.trans (SameBut.mono (k := k) (l := [.xfers]) (by constructor <;> first | exact fun _ => rfl | exact fun h => absurd (by decide) h) s)

theorem SameBut.with_eth {k : List Fld} {a m : Module} {x} (h : SameBut k a m) (s : Within [.eth] k) : SameBut k a { m with eth := x } :=
  h.trans (SameBut.mono (k := k) (l := [.eth]) (by constructor <;> first | exact fun _ => rfl | exact fun h => absurd (by decide) h) s)

theorem SameBut.with_netOut {k : List Fld} {a m : Module} {x} (h : SameBut k a m) (s : Within [.netOut] k) : SameBut k a { m with netOut :=
    x } :=
  h.trans (SameBut.mono (k := k) (l := [.netOut]) (by constructor <;> first | exact fun _ => rfl | exact fun h => absurd (by decide) h) s)

theorem SameBut.with_sb {k : List Fld} {a m : Module} {x} (h : SameBut k a m) (s : Within [.sb] k) : SameBut k a { m with sb := x } :=
  h.trans (SameBut.mono (k := k) (l := [.sb]) (by constructor <;> first | exact fun _ => rfl | exact fun h => absurd (by decide) h) s)

theorem SameBut.with_freeCtr {k : List Fld} {a m : Module} {x} (h : SameBut k a m) (s : Within [.freeCtr] k) : SameBut k a { m with freeCtr
    := x } :=
  h.trans (SameBut.mono (k := k) (l := [.freeCtr]) (by constructor <;> first | exact fun _ => rfl | exact fun h => absurd (by decide) h) s)

theorem listFoldlFst_frame {k : List Fld} {α β : Type} {l : List α} {f : Module × β → α → Module × β} {a : Module} {b : Module × β}
    (h : SameBut k a b.1) (hf : ∀ x y, SameBut k x.1 (f x y).1) : SameBut k a (l.foldl f b).1 := by
  induction l generalizing b with
  | nil => exact h
  | cons y l ih => exact ih (h.trans (hf b y))

theorem Module.setFn_frame {k : List Fld} {a : Module} {m : Module} {i : Nat} {g : Fn → Fn} (h : SameBut k a m) (s : Within [.fns] k) :
    SameBut k a (m.setFn i g) := h.with_fns s

theorem Module.setPart_frame {k : List Fld} {a : Module} {m : Module} {i : Nat} {g : Part → Part} (h : SameBut k a m) (s : Within [.parts]
    k) :
    SameBut k a (m.setPart i g) := h.with_parts s

theorem Module.setRegs_frame {k : List Fld} {a : Module} {m : Module} {i : Nat} {g : PartRegs → PartRegs} (h : SameBut k a m) (s : Within
    [.parts] k) :
    SameBut k a (m.setRegs i g) := h.with_parts s

theorem Module.setMemRegs_frame {k : List Fld} {a : Module} {m : Module} {i : Nat} {g : MemRegs → MemRegs} (h : SameBut k a m) (s : Within
    [.parts] k) :
    SameBut k a (m.setMemRegs i g) := h.with_parts s

theorem Module.setLark_frame {k : List Fld} {a : Module} {m : Module} {i : Nat} {g : LarkRegs → LarkRegs} (h : SameBut k a m) (s : Within
    [.parts] k) :
    SameBut k a (m.setLark i g) := h.with_parts s

theorem Module.setFab_frame {k : List Fld} {a : Module} {m : Module} {i : Nat} {g : FabPart → FabPart} (h : SameBut k a m) (s : Within
    [.fabParts] k) :
    SameBut k a (m.setFab i g) := h.with_fabParts s

theorem Module.setCore_frame {k : List Fld} {a : Module} {m : Module} {i : Nat} {g : Core → Core} (h : SameBut k a m) (s : Within [.cores]
    k) :
    SameBut k a (m.setCore i g) := h.with_cores s

theorem Module.setVe_frame {k : List Fld} {a : Module} {m : Module} {i : Nat} {g : Ve → Ve} (h : SameBut k a m) (s : Within [.cores] k) :
    SameBut k a (m.setVe i g) := h.with_cores s

theorem Module.setMe_frame {k : List Fld} {a : Module} {m : Module} {i : Nat} {g : Me → Me} (h : SameBut k a m) (s : Within [.cores] k) :
    SameBut k a (m.setMe i g) := h.with_cores s

theorem Module.setClu_frame {k : List Fld} {a : Module} {m : Module} {i : Nat} {g : Cluster → Cluster} (h : SameBut k a m) (s : Within
    [.clusters] k) :
    SameBut k a (m.setClu i g) := h.with_clusters s

theorem Module.setCnt_frame {k : List Fld} {a : Module} {m : Module} {i : Nat} {g : CoreCnt → CoreCnt} (h : SameBut k a m) (s : Within
    [.cores] k) :
    SameBut k a (m.setCnt i g) := h.with_cores s

theorem Module.setRing_frame {k : List Fld} {a : Module} {m : Module} {i j : Nat} {g : Ringp → Ringp} (h : SameBut k a m) (s : Within
    [.fns] k) :
    SameBut k a (m.setRing i j g) := h.with_fns s

theorem Module.setProc_frame {k : List Fld} {a : Module} {m : Module} {i : Nat} {g : FwProc → FwProc} (h : SameBut k a m) (s : Within [.fw]
    k) :
    SameBut k a (m.setProc i g) := h.with_fw s

theorem Module.setLink_frame {k : List Fld} {a : Module} {m : Module} {i : Nat} {g : Link → Link} (h : SameBut k a m) (s : Within [.fabric]
    k) :
    SameBut k a (m.setLink i g) := h.with_fabric s

theorem Module.setTick_frame {k : List Fld} {a : Module} {m : Module} {g : Tick → Tick} (h : SameBut k a m) (s : Within [.tick] k) :
    SameBut k a (m.setTick g) := h.with_tick s

theorem Module.setPower_frame {k : List Fld} {a : Module} {m : Module} {g : Power → Power} (h : SameBut k a m) (s : Within [.power] k) :
    SameBut k a (m.setPower g) := h.with_power s

theorem Module.setRas_frame {k : List Fld} {a : Module} {m : Module} {g : Ras → Ras} (h : SameBut k a m) (s : Within [.ras] k) :
    SameBut k a (m.setRas g) := h.with_ras s

theorem Module.setSec_frame {k : List Fld} {a : Module} {m : Module} {g : Sec → Sec} (h : SameBut k a m) (s : Within [.sec] k) :
    SameBut k a (m.setSec g) := h.with_sec s

theorem Module.setSb_frame {k : List Fld} {a : Module} {m : Module} {g : Sideband → Sideband} (h : SameBut k a m) (s : Within [.sb] k) :
    SameBut k a (m.setSb g) := h.with_sb s

theorem Module.setStart_frame {k : List Fld} {a : Module} {m : Module} {g : Start → Start} (h : SameBut k a m) (s : Within [.start] k) :
    SameBut k a (m.setStart g) := h.with_start s

theorem Module.setFabric_frame {k : List Fld} {a : Module} {m : Module} {g : Fabric → Fabric} (h : SameBut k a m) (s : Within [.fabric] k) :
    SameBut k a (m.setFabric g) := h.with_fabric s

theorem Module.setUnits_frame {k : List Fld} {a : Module} {m : Module} {g : MemUnits → MemUnits} (h : SameBut k a m) (s : Within [.mem] k) :
    SameBut k a (m.setUnits g) := h.with_mem s

theorem Module.setEth_frame {k : List Fld} {a : Module} {m : Module} {i : Nat} {g : EthPort → EthPort} (h : SameBut k a m) (s : Within
    [.eth] k) :
    SameBut k a (m.setEth i g) := h.with_eth s

theorem foldM_frame {k : List Fld} {α : Type} {l : List α} {f : Module → α → Module} {a b : Module} (h : SameBut k a b)
    (hf : ∀ x y, SameBut k x (f x y)) : SameBut k a (foldM l f b) := listFoldl_frame h hf

theorem takeFree_frame {k : List Fld} {a : Module} {m : Module} (h : SameBut k a m) (s : Within [.freeCtr] k) : SameBut k a (takeFree m).2
    := h.with_freeCtr s

theorem emit_frame {k : List Fld} {a : Module} {m : Module} {w : HostWrite}
    (hf : SameBut k a m) (hs : Within [.hostOut] k) : SameBut k a (emit m w) := by
  unfold emit
  repeat' (first
    | with_reducible assumption
    | with_reducible apply SameBut.with_hostOut)

theorem emitNet_frame {k : List Fld} {a : Module} {m : Module} {w : NetOut}
    (hf : SameBut k a m) (hs : Within [.netOut] k) : SameBut k a (emitNet m w) := by
  unfold emitNet
  repeat' (first
    | with_reducible assumption
    | with_reducible apply SameBut.with_netOut)

theorem emitBytes_frame {k : List Fld} {a : Module} {m : Module} {fn addr : Nat} {data : List Byte}
    (hf : SameBut k a m) (hs : Within [.hostOut] k) : SameBut k a (emitBytes m fn addr data) := by
  unfold emitBytes
  repeat' (first
    | with_reducible assumption
    | with_reducible apply SameBut.ite
    | with_reducible apply emit_frame)

theorem sendMsix_frame {k : List Fld} {a : Module} {m : Module} {f vec : Nat}
    (hf : SameBut k a m) (hs : Within [.fns, .hostOut] k) : SameBut k a (sendMsix m f vec) := by
  unfold sendMsix
  repeat' (first
    | with_reducible exact hf
    | with_reducible apply SameBut.ite
    | with_reducible apply Module.setFn_frame
    | with_reducible apply emit_frame
    | exact fun x hx => hs x (by revert x; decide +kernel))

theorem setNode_frame {k : List Fld} {a : Module} {m : Module} {die : Nat} {g : HNode → HNode}
    (hf : SameBut k a m) (hs : Within [.nodes] k) : SameBut k a (setNode m die g) := by
  unfold setNode
  repeat' (first
    | with_reducible assumption
    | with_reducible apply SameBut.with_nodes)

theorem hedgeSend_frame {k : List Fld} {a : Module} {m : Module} {die src cls : Nat} {payload : BitVec 96}
    (hf : SameBut k a m) (hs : Within [.nodes, .hedgeOut] k) : SameBut k a (hedgeSend m die src cls payload) := by
  unfold hedgeSend
  repeat' (first
    | with_reducible exact hf
    | with_reducible apply setNode_frame
    | exact fun x hx => hs x (by revert x; decide +kernel)
    | with_reducible apply SameBut.with_hedgeOut)

theorem errorMessage_frame {k : List Fld} {a : Module} {m : Module} {die code : Nat}
    (hf : SameBut k a m) (hs : Within [.nodes, .hedgeOut] k) : SameBut k a (errorMessage m die code) := by
  unfold errorMessage
  repeat' (first
    | with_reducible exact hf
    | with_reducible apply SameBut.ite
    | with_reducible apply setNode_frame
    | with_reducible apply hedgeSend_frame
    | exact fun x hx => hs x (by revert x; decide +kernel))

theorem writeEvent_frame {k : List Fld} {a : Module} {m : Module} {f code part tick die unit : Nat} {payload : List Nat}
    (hf : SameBut k a m) (hs : Within [.fns] k) : SameBut k a (writeEvent m f code part tick die unit payload) := by
  unfold writeEvent
  repeat' (first
    | with_reducible assumption
    | with_reducible apply Module.setFn_frame)

theorem record_frame {k : List Fld} {a : Module} {m : Module} {code part die : Nat} {payload : List Nat}
    (hf : SameBut k a m) (hs : Within [.start, .fns] k) : SameBut k a (record m code part die payload) := by
  unfold record
  repeat' (first
    | with_reducible exact hf
    | with_reducible exact SameBut.refl _ _
    | with_reducible apply SameBut.ite
    | with_reducible apply Module.setStart_frame
    | with_reducible apply foldM_frame
    | with_reducible apply writeEvent_frame
    | exact fun x hx => hs x (by revert x; decide +kernel)
    | intro _)

theorem raise_frame {k : List Fld} {a : Module} {m : Module} {code part die : Nat} {payload : List Nat}
    (hf : SameBut k a m) (hs : Within [.start, .fns, .nodes, .hedgeOut] k) : SameBut k a (raise m code part die payload) := by
  unfold raise
  repeat' (first
    | with_reducible exact hf
    | with_reducible apply SameBut.ite
    | with_reducible apply errorMessage_frame
    | with_reducible apply record_frame
    | exact fun x hx => hs x (by revert x; decide +kernel))

theorem configRefused_frame {k : List Fld} {a : Module} {m : Module} {part offset cause : Nat}
    (hf : SameBut k a m) (hs : Within [.start, .fns, .nodes, .hedgeOut] k) : SameBut k a (configRefused m part offset cause) := by
  unfold configRefused
  repeat' (first
    | with_reducible assumption
    | with_reducible apply raise_frame)

theorem recordCore_frame {k : List Fld} {a : Module} {m : Module} {code core : Nat} {payload : List Nat}
    (hf : SameBut k a m) (hs : Within [.start, .fns] k) : SameBut k a (recordCore m code core payload) := by
  unfold recordCore
  repeat' (first
    | with_reducible assumption
    | with_reducible exact SameBut.refl _ _
    | with_reducible apply foldM_frame
    | with_reducible apply record_frame
    | split
    | intro _)

theorem raiseCore_frame {k : List Fld} {a : Module} {m : Module} {code core : Nat} {payload : List Nat}
    (hf : SameBut k a m) (hs : Within [.start, .fns, .nodes, .hedgeOut] k) : SameBut k a (raiseCore m code core payload) := by
  unfold raiseCore
  repeat' (first
    | with_reducible exact hf
    | with_reducible apply errorMessage_frame
    | with_reducible apply recordCore_frame
    | exact fun x hx => hs x (by revert x; decide +kernel))

theorem busError_frame {k : List Fld} {a : Module} {m : Module} {f cause offset : Nat}
    (hf : SameBut k a m) (hs : Within [.start, .fns, .nodes, .hedgeOut] k) : SameBut k a (busError m f cause offset) := by
  unfold busError
  repeat' (first
    | with_reducible exact hf
    | with_reducible apply SameBut.ite
    | with_reducible apply Module.setFn_frame
    | with_reducible apply configRefused_frame
    | exact fun x hx => hs x (by revert x; decide +kernel))

theorem setItem_frame {k : List Fld} {a : Module} {m : Module} {i : ItemRef} {g : Item → Item} (h : SameBut k a m) (s : Within [.fns] k) :
    SameBut k a (setItem m i g) := Module.setRing_frame h s

theorem pushWaiting_frame {k : List Fld} {a : Module} {m : Module} {f r : Nat} {w : Waiting}
    (hf : SameBut k a m) (hs : Within [.fns] k) : SameBut k a (pushWaiting m f r w) := by
  unfold pushWaiting
  repeat' (first
    | with_reducible assumption
    | with_reducible apply Module.setRing_frame)

theorem fwdEnds_frame {k : List Fld} {a : Module} {m : Module} {x : Item} {st : Status}
    (hf : SameBut k a m) (hs : Within [.start, .fns, .fabParts, .nodes, .hedgeOut, .freeCtr] k) : SameBut k a (fwdEnds m x st) := by
  unfold fwdEnds
  repeat' (first
    | with_reducible exact hf
    | with_reducible apply SameBut.ite
    | with_reducible apply Module.setFab_frame
    | with_reducible apply takeFree_frame
    | with_reducible apply raise_frame
    | exact fun x hx => hs x (by revert x; decide +kernel))

theorem releaseClaimed_frame {k : List Fld} {a : Module} {m : Module} {i : ItemRef}
    (hf : SameBut k a m) (hs : Within [.start, .fns, .fabParts, .nodes, .hedgeOut, .freeCtr] k) : SameBut k a (releaseClaimed m i) := by
  unfold releaseClaimed
  repeat' (first
    | with_reducible exact hf
    | with_reducible apply pushWaiting_frame
    | with_reducible apply fwdEnds_frame
    | split
    | exact fun x hx => hs x (by revert x; decide +kernel))

theorem finishAfter_frame {k : List Fld} {a : Module} {m : Module} {i : ItemRef} {st : Status} {d : Detail} {after : Option ItemRef}
    (hf : SameBut k a m) (hs : Within [.start, .fns, .fabParts, .nodes, .hedgeOut, .freeCtr] k) : SameBut k a (finishAfter m i st d after)
        := by
  unfold finishAfter
  repeat' (first
    | with_reducible exact hf
    | extract_lets
    | with_reducible apply setItem_frame
    | with_reducible apply pushWaiting_frame
    | with_reducible apply fwdEnds_frame
    | with_reducible apply releaseClaimed_frame
    | split
    | exact fun x hx => hs x (by revert x; decide +kernel))

theorem finish_frame {k : List Fld} {a : Module} {m : Module} {i : ItemRef} {st : Status} {d : Detail}
    (hf : SameBut k a m) (hs : Within [.start, .fns, .fabParts, .nodes, .hedgeOut, .freeCtr] k) : SameBut k a (finish m i st d) := by
  unfold finish
  repeat' (first
    | with_reducible assumption
    | with_reducible apply finishAfter_frame)

theorem finishV_frame {k : List Fld} {a : Module} {m : Module} {i : ItemRef} {st : Status} {v : Nat}
    (hf : SameBut k a m) (hs : Within [.start, .fns, .fabParts, .nodes, .hedgeOut, .freeCtr] k) : SameBut k a (finishV m i st v) := by
  unfold finishV
  repeat' (first
    | with_reducible assumption
    | with_reducible apply finish_frame)

theorem rejFormat_frame {k : List Fld} {a : Module} {m : Module} {i : ItemRef} {structure_ off : Nat}
    (hf : SameBut k a m) (hs : Within [.start, .fns, .fabParts, .nodes, .hedgeOut, .freeCtr] k) : SameBut k a (rejFormat m i structure_
        off) := by
  unfold rejFormat
  repeat' (first
    | with_reducible assumption
    | with_reducible apply finishV_frame)

theorem withItem_frame {k : List Fld} {a m : Module} {i : ItemRef} {st : ItemState} {ops : List Nat} {g : Item → Nat → Module}
    (h : SameBut k a m) (hg : ∀ x p, SameBut k a (g x p)) : SameBut k a (withItem m i st ops g) := by
  unfold withItem
  split
  · split
    · exact hg _ _
    · exact h
  · exact h

theorem startItem_frame {k : List Fld} {a : Module} {m : Module} {i : ItemRef}
    (hf : SameBut k a m) (hs : Within [.fns] k) : SameBut k a (startItem m i) := by
  unfold startItem
  repeat' (first
    | with_reducible assumption
    | with_reducible apply setItem_frame)

theorem setReq_frame {k : List Fld} {a : Module} {m : Module} {slot : Nat} {g : Request → Request} (h : SameBut k a m) (s : Within [.slots]
    k) :
    SameBut k a (setReq m slot g) := h.with_slots s

theorem reachNs_frame {k : List Fld} {a : Module} {m : Module} {t : Nat}
    (hf : SameBut k a m) (hs : Within [.tick] k) : SameBut k a (reachNs m t) := by
  unfold reachNs
  repeat' (first
    | with_reducible assumption
    | with_reducible apply Module.setTick_frame)

theorem timeCycle_frame {k : List Fld} {a : Module} {m : Module}
    (hf : SameBut k a m) (hs : Within [.tick, .fns] k) : SameBut k a (timeCycle m) := by
  unfold timeCycle
  repeat' (first
    | with_reducible exact hf
    | with_reducible exact SameBut.refl _ _
    | with_reducible apply Module.setFn_frame
    | with_reducible apply Module.setTick_frame
    | with_reducible apply foldM_frame
    | exact fun x hx => hs x (by revert x; decide +kernel)
    | intro _)

theorem refreshDomains_frame {k : List Fld} {a : Module} {m : Module}
    (hf : SameBut k a m) (hs : Within [.power] k) : SameBut k a (refreshDomains m) := by
  unfold refreshDomains
  repeat' (first
    | with_reducible assumption
    | with_reducible apply SameBut.ite
    | with_reducible apply Module.setPower_frame)

theorem addRsvd_frame {k : List Fld} {a : Module} {m : Module} {p t n : Nat}
    (hf : SameBut k a m) (hs : Within [.parts] k) : SameBut k a (addRsvd m p t n) := by
  unfold addRsvd
  repeat' (first
    | with_reducible assumption
    | with_reducible apply Module.setMemRegs_frame)

theorem subRsvd_frame {k : List Fld} {a : Module} {m : Module} {p t n : Nat}
    (hf : SameBut k a m) (hs : Within [.parts] k) : SameBut k a (subRsvd m p t n) := by
  unfold subRsvd
  repeat' (first
    | with_reducible assumption
    | with_reducible apply Module.setMemRegs_frame)

theorem addUsed_frame {k : List Fld} {a : Module} {m : Module} {p t n : Nat}
    (hf : SameBut k a m) (hs : Within [.parts] k) : SameBut k a (addUsed m p t n) := by
  unfold addUsed
  repeat' (first
    | with_reducible assumption
    | with_reducible apply Module.setMemRegs_frame)

theorem subUsed_frame {k : List Fld} {a : Module} {m : Module} {p t n : Nat}
    (hf : SameBut k a m) (hs : Within [.parts] k) : SameBut k a (subUsed m p t n) := by
  unfold subUsed
  repeat' (first
    | with_reducible assumption
    | with_reducible apply Module.setMemRegs_frame)

theorem reserve_frame {k : List Fld} {a : Module} {m : Module} {p first n : Nat} {r : SMap Nat 0 × Module}
    (hf : SameBut k a m) (hs : Within [.parts] k) (h : reserve m p first n = some r) : SameBut k a r.2 := by
  unfold reserve at h
  try dsimp only at h
  repeat' (split at h)
  all_goals first
    | cases h
  all_goals repeat' (first
    | with_reducible assumption
    | with_reducible exact SameBut.refl _ _
    | with_reducible apply addRsvd_frame
    | with_reducible apply listFoldl_frame
    | intro _)

theorem release_frame {k : List Fld} {a : Module} {m : Module} {p : Nat} {resv : SMap Nat 0}
    (hf : SameBut k a m) (hs : Within [.parts] k) : SameBut k a (release m p resv) := by
  unfold release
  repeat' (first
    | with_reducible assumption
    | with_reducible exact SameBut.refl _ _
    | with_reducible apply subRsvd_frame
    | with_reducible apply listFoldl_frame
    | intro _)

theorem regTake_frame {k : List Fld} {a : Module} {m : Module} {p b n : Nat}
    (hf : SameBut k a m) (hs : Within [.parts] k) : SameBut k a (regTake m p b n) := by
  unfold regTake
  repeat' (first
    | with_reducible assumption
    | with_reducible apply SameBut.ite
    | with_reducible apply Module.setRegs_frame)

theorem setPage_frame {k : List Fld} {a : Module} {m : Module} {p page : Nat} {g : Page → Page} (h : SameBut k a m) (s : Within [.parts] k)
    :
    SameBut k a (setPage m p page g) := Module.setPart_frame h s

theorem freeFrame_frame {k : List Fld} {a : Module} {m : Module} {t : Nat} {avoid : List Nat}
    (hf : SameBut k a m) (hs : Within [.freeCtr] k) : SameBut k a (freeFrame m t avoid).2 := by
  unfold freeFrame
  repeat' (first
    | with_reducible assumption
    | with_reducible apply takeFree_frame)

theorem evictOne_frame {k : List Fld} {a m : Module} {t n : Nat} {m1 : Module} (g : SameBut k a m) (s : Within [.mem, .parts, .freeCtr] k)
    (h : evictOne m t n = some m1) : SameBut k a m1 := by
  induction n generalizing m m1 t with
  | zero => cases h
  | succ n ih =>
    rw [evictOne] at h
    split at h
    · cases h
    · split at h
      · cases h
      · split at h
        · cases h
        · rename_i m2 e
          have e1 : SameBut k a m2 := by
            revert e; split
            · intro e; exact ih g e
            · intro e; cases e; exact g
          clear ih e
          have h := Option.some.inj h
          subst h
          repeat' (first
            | with_reducible exact e1
            | with_reducible apply Module.setMemRegs_frame
            | with_reducible apply Module.setUnits_frame
            | with_reducible apply addUsed_frame
            | with_reducible apply subUsed_frame
            | with_reducible apply setPage_frame
            | with_reducible apply regTake_frame
            | with_reducible apply SameBut.with_freeCtr
            | exact fun x hx => s x (by revert x; decide +kernel))

theorem placeFrame_frame {k : List Fld} {a : Module} {m : Module} {p page t : Nat} {pl : Placement}
    (hf : SameBut k a m) (hs : Within [.parts, .freeCtr] k) : SameBut k a (placeFrame m p page t pl) := by
  unfold placeFrame
  repeat' (first
    | with_reducible exact hf
    | with_reducible apply addUsed_frame
    | with_reducible apply setPage_frame
    | with_reducible apply freeFrame_frame
    | exact fun x hx => hs x (by revert x; decide +kernel))

theorem poolRoom_frame {k : List Fld} {a : Module} {m : Module} {p t : Nat} {m1 : Module}
    (hf : SameBut k a m) (hs : Within [.mem, .parts, .freeCtr] k) (h : poolRoom m p t = some m1) : SameBut k a m1 := by
  unfold poolRoom at h
  try dsimp only at h
  repeat' (split at h)
  all_goals first
    | exact evictOne_frame hf (fun x hx => hs x (by revert x; decide +kernel)) h
    | cases h
  all_goals exact hf

theorem chargePages_frame {k : List Fld} {a m : Module} {p n : Nat} (hf : SameBut k a m) (hs : Within [.mem, .parts, .freeCtr] k) :
    SameBut k a (chargePages m p n).1 := by
  induction n generalizing m with
  | zero => exact hf
  | succ n ih =>
    have s1 : Within [.parts] k := fun x hx => hs x (by revert x; decide +kernel)
    unfold chargePages
    split
    · exact hf
    · rename_i m2 e
      have h2 : SameBut k a m2 := by
        revert e; split
        · intro e; exact poolRoom_frame hf (fun x hx => hs x (by revert x; decide +kernel)) e
        · split
          · intro e; cases e; exact hf
          · intro e; cases e
      have h3 := ih (addUsed_frame (p := p) (t := 0) (n := 1) h2 s1)
      split
      · rename_i e3; exact SameBut.fst e3 h3
      · rename_i e3; exact subUsed_frame (SameBut.fst e3 h3) s1

theorem backIn_frame {k : List Fld} {a m : Module} {p page : Nat} {pl : Placement} {resv : SMap Nat 0} {ts : List Nat}
    {r : Module × SMap Nat 0} (g : SameBut k a m) (s : Within [.mem, .parts, .freeCtr] k)
    (h : backIn m p page pl resv ts = some r) : SameBut k a r.1 := by
  have s1 : Within [.parts] k := fun x hx => s x (by revert x; decide)
  have s2 : Within [.parts, .freeCtr] k := fun x hx => s x (by revert x; decide)
  induction ts generalizing r with
  | nil => cases h
  | cons t ts ih =>
    unfold backIn at h
    repeat' (split at h)
    all_goals first
      | exact ih h
      | cases h
    · exact placeFrame_frame (poolRoom_frame g s (by assumption)) (by first | exact s1 | exact s2)
    · exact placeFrame_frame (subRsvd_frame g s1) (by first | exact s1 | exact s2)
    · exact placeFrame_frame g (by first | exact s1 | exact s2)

theorem backFrom_frame {k : List Fld} {a : Module} {m : Module} {p first page : Nat} {resv : SMap Nat 0} {r : Module × SMap Nat 0}
    (hf : SameBut k a m) (hs : Within [.mem, .parts, .freeCtr] k) (h : backFrom m p first page resv = some r) : SameBut k a r.1 := by
  unfold backFrom at h
  try dsimp only at h
  repeat' (split at h)
  all_goals first
    | exact backIn_frame hf (fun x hx => hs x (by revert x; decide +kernel)) h
    | cases h
  all_goals exact hf

theorem backPage_frame {k : List Fld} {a m : Module} {p page : Nat} {resv : SMap Nat 0} {r : Module × SMap Nat 0} (hf : SameBut k a m)
    (hs : Within [.mem, .parts, .freeCtr] k) (h : backPage m p page resv = some r) : SameBut k a r.1 := backFrom_frame hf hs h

theorem dropMigration_frame {k : List Fld} {a : Module} {m : Module} {p page : Nat}
    (hf : SameBut k a m) (hs : Within [.start, .fns, .parts, .fabParts, .nodes, .hedgeOut, .freeCtr] k) : SameBut k a (dropMigration m p
        page) := by
  unfold dropMigration
  repeat' (first
    | with_reducible exact hf
    | extract_lets
    | with_reducible apply finishV_frame
    | with_reducible apply subRsvd_frame
    | with_reducible apply setPage_frame
    | split
    | exact fun x hx => hs x (by revert x; decide +kernel))

theorem unbackPage_frame {k : List Fld} {a : Module} {m : Module} {p page : Nat}
    (hf : SameBut k a m) (hs : Within [.start, .fns, .parts, .fabParts, .nodes, .hedgeOut, .freeCtr] k) : SameBut k a (unbackPage m p page)
        := by
  unfold unbackPage
  repeat' (first
    | with_reducible exact hf
    | with_reducible apply Module.setPart_frame
    | with_reducible apply subUsed_frame
    | with_reducible apply dropMigration_frame
    | split
    | exact fun x hx => hs x (by revert x; decide +kernel))

theorem backEach_frame {k : List Fld} {a m : Module} {p first : Nat} {resv : SMap Nat 0} {y0 y1 : List Nat}
    (hf : SameBut k a m) (hs : Within [.start, .mem, .fns, .parts, .fabParts, .nodes, .hedgeOut, .freeCtr] k) : SameBut k a (backEach m p
        first resv y0 y1).1 := by
  induction y1 generalizing m resv y0 with
  | nil => exact hf
  | cons x gs ih =>
    unfold backEach
    split
    · exact ih hf
    · split
      · exact ih (backFrom_frame (r := (_, _)) hf (fun x hx => hs x (by revert x; decide +kernel)) (by assumption))
      · exact listFoldl_frame hf fun _ _ => unbackPage_frame (SameBut.refl _ _) (fun x hx => hs x (by revert x; decide +kernel))

theorem backAll_frame {k : List Fld} {a : Module} {m : Module} {p first : Nat} {resv : SMap Nat 0} {pages : List Nat}
    (hf : SameBut k a m) (hs : Within [.start, .mem, .fns, .parts, .fabParts, .nodes, .hedgeOut, .freeCtr] k) : SameBut k a (backAll m p
        first resv pages).1 := by
  unfold backAll
  repeat' (first
    | with_reducible exact hf
    | with_reducible apply Module.setMemRegs_frame
    | with_reducible apply backEach_frame
    | (refine SameBut.fst (by assumption) (show SameBut _ _ (_ : _ × _).1 from backEach_frame ?_ ?_))
    | split
    | exact fun x hx => hs x (by revert x; decide +kernel))

theorem backList_frame {k : List Fld} {a : Module} {m : Module} {p first : Nat} {pages : List Nat}
    (hf : SameBut k a m) (hs : Within [.start, .mem, .fns, .parts, .fabParts, .nodes, .hedgeOut, .freeCtr] k) : SameBut k a (backList m p
        first pages).1 := by
  unfold backList
  repeat' (first
    | with_reducible exact hf
    | extract_lets
    | (refine reserve_frame (r := (_, _)) ?_ ?_ (by assumption))
    | with_reducible apply release_frame
    | (refine SameBut.fst (by assumption) (show SameBut _ _ (_ : _ × _).1 from backAll_frame ?_ ?_))
    | split
    | exact fun x hx => hs x (by revert x; decide +kernel))

theorem holdPages_frame {k : List Fld} {a : Module} {m : Module} {p : Nat} {gs : List Nat}
    (hf : SameBut k a m) (hs : Within [.parts] k) : SameBut k a (holdPages m p gs) := by
  unfold holdPages
  repeat' (first
    | with_reducible assumption
    | with_reducible exact SameBut.refl _ _
    | with_reducible apply setPage_frame
    | with_reducible apply listFoldl_frame
    | intro _)

theorem unholdPages_frame {k : List Fld} {a : Module} {m : Module} {p : Nat} {gs : List Nat}
    (hf : SameBut k a m) (hs : Within [.parts] k) : SameBut k a (unholdPages m p gs) := by
  unfold unholdPages
  repeat' (first
    | with_reducible assumption
    | with_reducible exact SameBut.refl _ _
    | with_reducible apply setPage_frame
    | with_reducible apply listFoldl_frame
    | intro _)

theorem noteRead_frame {k : List Fld} {m₀ : Module} {m : Module} {p a n : Nat}
    (hf : SameBut k m₀ m) (hs : Within [.parts] k) : SameBut k m₀ (noteRead m p a n) := by
  unfold noteRead
  repeat' (first
    | with_reducible exact hf
    | with_reducible assumption
    | with_reducible exact SameBut.refl _ _
    | with_reducible apply SameBut.ite
    | with_reducible apply Module.setMemRegs_frame
    | with_reducible apply setPage_frame
    | with_reducible apply listFoldl_frame
    | intro _)

theorem devWrite_frame {k : List Fld} {m₀ : Module} {m : Module} {p a : Nat} {bs : List Byte}
    (hf : SameBut k m₀ m) (hs : Within [.parts] k) : SameBut k m₀ (devWrite m p a bs) := by
  unfold devWrite
  repeat' (first
    | with_reducible exact hf
    | with_reducible assumption
    | with_reducible exact SameBut.refl _ _
    | with_reducible apply SameBut.ite
    | with_reducible apply Module.setPart_frame
    | with_reducible apply setPage_frame
    | with_reducible apply listFoldl_frame
    | intro _)

theorem dropPoisoned_frame {k : List Fld} {a : Module} {m : Module} {p page : Nat}
    (hf : SameBut k a m) (hs : Within [.parts] k) : SameBut k a (dropPoisoned m p page) := by
  unfold dropPoisoned
  repeat' (first
    | with_reducible assumption
    | with_reducible apply Module.setPart_frame
    | with_reducible apply subUsed_frame
    | split)

theorem restorePages_frame {k : List Fld} {a : Module} {old m : Module} {p : Nat} {pages : List Nat}
    (_hf : SameBut k a old) (hs : Within [.parts] k) (hf2 : SameBut k a m) : SameBut k a (restorePages old m p pages) := by
  unfold restorePages
  repeat' (first
    | with_reducible exact hf
    | with_reducible assumption
    | with_reducible exact SameBut.refl _ _
    | with_reducible apply Module.setPart_frame
    | with_reducible apply addUsed_frame
    | with_reducible apply setPage_frame
    | with_reducible apply listFoldl_frame
    | split
    | intro _)

theorem backForWrite_frame {k : List Fld} {m₀ : Module} {m : Module} {p first a n : Nat}
    (hf : SameBut k m₀ m) (hs : Within [.start, .mem, .fns, .parts, .fabParts, .nodes, .hedgeOut, .freeCtr] k) : SameBut k m₀ (backForWrite
        m p first a n).1 := by
  unfold backForWrite
  repeat' (first
    | with_reducible exact hf
    | with_reducible assumption
    | with_reducible exact SameBut.refl _ _
    | extract_lets
    | (refine SameBut.fst (by assumption) (show SameBut _ _ (_ : _ × _).1 from backList_frame ?_ ?_))
    | with_reducible apply dropPoisoned_frame
    | with_reducible apply restorePages_frame
    | with_reducible apply listFoldl_frame
    | split
    | exact fun x hx => hs x (by revert x; decide +kernel)
    | intro _)

theorem freeCache_frame {k : List Fld} {a : Module} {m : Module} {p : Nat} {v : Option Serving} {cs : List Nat}
    (hf : SameBut k a m) (hs : Within [.start, .fns, .parts, .fabParts, .nodes, .hedgeOut, .freeCtr] k) : SameBut k a (freeCache m p v cs)
        := by
  unfold freeCache
  repeat' (first
    | with_reducible assumption
    | with_reducible exact SameBut.refl _ _
    | with_reducible apply unbackPage_frame
    | with_reducible apply listFoldl_frame
    | intro _)

theorem endRequest_frame {k : List Fld} {a : Module} {m : Module} {slot : Nat}
    (hf : SameBut k a m) (hs : Within [.start, .fns, .parts, .fabParts, .slots, .nodes, .hedgeOut, .freeCtr] k) : SameBut k a (endRequest m
        slot) := by
  unfold endRequest
  repeat' (first
    | with_reducible exact hf
    | with_reducible assumption
    | with_reducible exact SameBut.refl _ _
    | extract_lets
    | with_reducible apply finishAfter_frame
    | with_reducible apply setReq_frame
    | with_reducible apply release_frame
    | with_reducible apply freeCache_frame
    | with_reducible apply listFoldl_frame
    | split
    | exact fun x hx => hs x (by revert x; decide +kernel)
    | intro _)

theorem stopCores_frame {k : List Fld} {a : Module} {m : Module} {cs : List Nat}
    (hf : SameBut k a m) (hs : Within [.cores] k) : SameBut k a (stopCores m cs) := by
  unfold stopCores
  repeat' (first
    | with_reducible assumption
    | with_reducible exact SameBut.refl _ _
    | with_reducible apply Module.setCore_frame
    | with_reducible apply listFoldl_frame
    | intro _)

theorem stopStreams_frame {k : List Fld} {a : Module} {m : Module} {p : Nat}
    (hf : SameBut k a m) (hs : Within [.parts, .clusters] k) : SameBut k a (stopStreams m p) := by
  unfold stopStreams
  repeat' (first
    | with_reducible exact hf
    | with_reducible assumption
    | with_reducible exact SameBut.refl _ _
    | extract_lets
    | with_reducible apply Module.setPart_frame
    | exact fun x hx => hs x (by revert x; decide +kernel)
    | with_reducible apply SameBut.with_clusters)

theorem releaseAborted_frame {k : List Fld} {a : Module} {m : Module} {slot : Nat}
    (hf : SameBut k a m) (hs : Within [.start, .fns, .parts, .fabParts, .slots, .nodes, .hedgeOut, .freeCtr] k) : SameBut k a
        (releaseAborted m slot) := by
  unfold releaseAborted
  repeat' (first
    | with_reducible exact hf
    | with_reducible assumption
    | with_reducible apply releaseClaimed_frame
    | with_reducible apply endRequest_frame
    | split
    | exact fun x hx => hs x (by revert x; decide +kernel)
    | with_reducible apply SameBut.with_slots)

theorem failRequest_frame {k : List Fld} {a : Module} {m : Module} {slot : Nat} {st : Status} {v : Nat}
    (hf : SameBut k a m) (hs : Within [.start, .fns, .parts, .fabParts, .slots, .nodes, .hedgeOut, .freeCtr] k) : SameBut k a (failRequest
        m slot st v) := by
  unfold failRequest
  repeat' (first
    | with_reducible exact hf
    | with_reducible apply finishV_frame
    | with_reducible apply endRequest_frame
    | with_reducible apply releaseAborted_frame
    | split
    | exact fun x hx => hs x (by revert x; decide +kernel))

theorem failRuns_frame {k : List Fld} {a : Module} {m : Module} {p : Nat} {rs : List RunStep} {st : Status} {d : Nat → Nat}
    (hf : SameBut k a m) (hs : Within [.start, .fns, .parts, .fabParts, .slots, .nodes, .hedgeOut, .freeCtr] k) : SameBut k a (failRuns m p
        rs st d) := by
  unfold failRuns
  repeat' (first
    | with_reducible exact hf
    | with_reducible assumption
    | with_reducible exact SameBut.refl _ _
    | with_reducible apply Module.setPart_frame
    | with_reducible apply finishV_frame
    | with_reducible apply failRequest_frame
    | with_reducible apply listFoldl_frame
    | exact fun x hx => hs x (by revert x; decide +kernel)
    | intro _)

theorem clearStep_frame {k : List Fld} {a : Module} {m : Module} {p : Nat}
    (hf : SameBut k a m) (hs : Within [.parts, .clusters, .cores, .nodes, .hedgeOut, .xfers] k) : SameBut k a (clearStep m p) := by
  unfold clearStep
  repeat' (first
    | with_reducible exact hf
    | with_reducible assumption
    | with_reducible exact SameBut.refl _ _
    | extract_lets
    | with_reducible apply SameBut.ite
    | with_reducible apply Module.setPart_frame
    | with_reducible apply hedgeSend_frame
    | with_reducible apply stopCores_frame
    | with_reducible apply stopStreams_frame
    | exact fun x hx => hs x (by revert x; decide +kernel)
    | with_reducible apply SameBut.with_xfers)

theorem abortTask_frame {k : List Fld} {a : Module} {m : Module} {p : Nat} {st : Status} {d : Nat → Nat}
    (hf : SameBut k a m) (hs : Within [.start, .fns, .parts, .fabParts, .slots, .clusters, .cores, .nodes, .hedgeOut, .xfers, .freeCtr] k)
        : SameBut k a (abortTask m p st d) := by
  unfold abortTask
  repeat' (first
    | with_reducible exact hf
    | with_reducible apply Module.setPart_frame
    | with_reducible apply failRuns_frame
    | with_reducible apply clearStep_frame
    | exact fun x hx => hs x (by revert x; decide +kernel))

theorem countAx_frame {k : List Fld} {a : Module} {m : Module} {core sat nan inf : Nat}
    (hf : SameBut k a m) (hs : Within [.parts] k) : SameBut k a (countAx m core sat nan inf) := by
  unfold countAx
  repeat' (first
    | with_reducible assumption
    | with_reducible apply Module.setRegs_frame
    | split)

theorem clearLines_frame {k : List Fld} {m₀ : Module} {m : Module} {core a n : Nat}
    (hf : SameBut k m₀ m) (hs : Within [.ras] k) : SameBut k m₀ (clearLines m core a n) := by
  unfold clearLines
  repeat' (first
    | with_reducible assumption
    | with_reducible apply Module.setRas_frame)

theorem loadPlane_frame {k : List Fld} {a : Module} {m : Module} {p core plane logical : Nat} {id : Nat} {st : PlaneState} {pl : Mem}
    (hf : SameBut k a m) (hs : Within [.ras, .cores] k) : SameBut k a (loadPlane m p core plane logical id st pl) := by
  unfold loadPlane
  repeat' (first
    | with_reducible exact hf
    | with_reducible apply Module.setCore_frame
    | with_reducible apply clearLines_frame
    | exact fun x hx => hs x (by revert x; decide +kernel))

theorem emptyPlanes_frame {k : List Fld} {a : Module} {m : Module} {plane : Nat} {cs : List Nat}
    (hf : SameBut k a m) (hs : Within [.cores] k) : SameBut k a (emptyPlanes m plane cs) := by
  unfold emptyPlanes
  repeat' (first
    | with_reducible assumption
    | with_reducible exact SameBut.refl _ _
    | with_reducible apply Module.setCore_frame
    | with_reducible apply listFoldl_frame
    | intro _)

theorem setSwath_frame {k : List Fld} {a : Module} {m : Module} {p id : Nat} {g : Swath → Swath}
    (hf : SameBut k a m) (hs : Within [.parts] k) : SameBut k a (setSwath m p id g) := by
  unfold setSwath
  repeat' (first
    | with_reducible assumption
    | with_reducible apply Module.setPart_frame)

theorem replaceSwath_frame {k : List Fld} {a : Module} {m : Module} {p : Nat} {w : Swath} {cg : Nat} {m1 : Module}
    (hf : SameBut k a m) (hs : Within [.ras, .parts, .cores] k) (h : replaceSwath m p w cg = some m1) : SameBut k a m1 := by
  unfold replaceSwath at h
  try dsimp only at h
  repeat' (split at h)
  all_goals first
    | cases h
  all_goals repeat' (first
    | with_reducible exact hf
    | with_reducible assumption
    | with_reducible exact SameBut.refl _ _
    | with_reducible apply SameBut.ite
    | with_reducible apply loadPlane_frame
    | with_reducible apply emptyPlanes_frame
    | with_reducible apply setSwath_frame
    | with_reducible apply listFoldl_frame
    | exact fun x hx => hs x (by revert x; decide +kernel)
    | intro _)

theorem replaceAll_frame {k : List Fld} {a : Module} {m : Module} {p cg : Nat}
    (hf : SameBut k a m) (hs : Within [.ras, .parts, .cores] k) : SameBut k a (replaceAll m p cg).1 := by
  unfold replaceAll
  repeat' (first
    | with_reducible exact hf
    | with_reducible assumption
    | with_reducible exact SameBut.refl _ _
    | (refine replaceSwath_frame ?_ ?_ (by assumption))
    | split
    | intro _
    | with_reducible apply listFoldlFst_frame)

theorem putFrame_frame {k : List Fld} {a : Module} {m : Module} {l : Nat} {body : FrameBody}
    (hf : SameBut k a m) (hs : Within [.fabric, .netOut] k) : SameBut k a (putFrame m l body) := by
  unfold putFrame
  repeat' (first
    | with_reducible exact hf
    | with_reducible apply Module.setLink_frame
    | with_reducible apply emitNet_frame
    | exact fun x hx => hs x (by revert x; decide +kernel))

theorem sendFrame_frame {k : List Fld} {a : Module} {m : Module} {l : Nat} {body : FrameBody}
    (hf : SameBut k a m) (hs : Within [.fabric, .netOut] k) : SameBut k a (sendFrame m l body) := by
  unfold sendFrame
  repeat' (first
    | with_reducible exact hf
    | with_reducible apply SameBut.ite
    | with_reducible apply Module.setLink_frame
    | with_reducible apply putFrame_frame
    | exact fun x hx => hs x (by revert x; decide +kernel))

theorem drainFrames_frame {k : List Fld} {a : Module} {l : Nat} {y0 : Nat} {m : Module}
    (hf : SameBut k a m) (hs : Within [.fabric, .netOut] k) : SameBut k a (drainFrames l y0 m) := by
  induction y0 generalizing m with
  | zero =>
    unfold drainFrames
    exact hf
  | succ n ih =>
    unfold drainFrames
    repeat' (first
      | with_reducible exact hf
      | with_reducible assumption
      | with_reducible apply Module.setLink_frame
      | with_reducible apply putFrame_frame
      | split
      | exact fun x hx => hs x (by revert x; decide +kernel)
      | with_reducible apply ih)

theorem forwardHedge_frame {k : List Fld} {a : Module} {m : Module} {except : Option Nat} {origin : Coord} {oseq cls : Nat} {payload : List
    Nat}
    (hf : SameBut k a m) (hs : Within [.fabric, .netOut] k) : SameBut k a (forwardHedge m except origin oseq cls payload) := by
  unfold forwardHedge
  repeat' (first
    | with_reducible assumption
    | with_reducible exact SameBut.refl _ _
    | with_reducible apply SameBut.ite
    | with_reducible apply sendFrame_frame
    | with_reducible apply listFoldl_frame
    | intro _)

theorem issueHedge_frame {k : List Fld} {a : Module} {m : Module} {cls : Nat} {payload : List Nat}
    (hf : SameBut k a m) (hs : Within [.fabric, .netOut] k) : SameBut k a (issueHedge m cls payload) := by
  unfold issueHedge
  repeat' (first
    | with_reducible exact hf
    | with_reducible apply Module.setFabric_frame
    | with_reducible apply forwardHedge_frame
    | exact fun x hx => hs x (by revert x; decide +kernel))

theorem markStopped_frame {k : List Fld} {a : Module} {m : Module} {p : Nat}
    (hf : SameBut k a m) (hs : Within [.fabParts] k) : SameBut k a (markStopped m p) := by
  unfold markStopped
  repeat' (first
    | with_reducible assumption
    | with_reducible apply SameBut.ite
    | with_reducible apply Module.setFab_frame)

theorem takeFaults_frame {k : List Fld} {a : Module} {p : Nat} {y0 : Nat} {m : Module}
    (hf : SameBut k a m) (hs : Within [.start, .ras, .fns, .parts, .fabParts, .slots, .clusters, .cores, .nodes, .hedgeOut, .xfers,
        .freeCtr] k) : SameBut k a (takeFaults p y0 m) := by
  induction y0 generalizing m with
  | zero =>
    unfold takeFaults
    exact hf
  | succ n ih =>
    unfold takeFaults
    repeat' (first
      | with_reducible exact hf
      | with_reducible assumption
      | with_reducible apply Module.setRas_frame
      | with_reducible apply abortTask_frame
      | split
      | exact fun x hx => hs x (by revert x; decide +kernel)
      | with_reducible apply ih)

theorem endRecovery_frame {k : List Fld} {a : Module} {m : Module} {p : Nat}
    (hf : SameBut k a m) (hs : Within [.start, .ras, .fns, .parts, .fabParts, .slots, .clusters, .cores, .nodes, .hedgeOut, .xfers,
        .freeCtr] k) : SameBut k a (endRecovery m p) := by
  unfold endRecovery
  repeat' (first
    | with_reducible exact hf
    | with_reducible apply Module.setRas_frame
    | with_reducible apply takeFaults_frame
    | exact fun x hx => hs x (by revert x; decide +kernel))

theorem jobStopWith_frame {k : List Fld} {a : Module} {m : Module} {p core : Nat} {st : Status} {d : Nat → Nat}
    (hf : SameBut k a m) (hs : Within [.start, .ras, .fns, .parts, .fabParts, .slots, .clusters, .cores, .nodes, .hedgeOut, .fabric,
        .xfers, .netOut, .freeCtr] k) : SameBut k a (jobStopWith m p core st d) := by
  unfold jobStopWith
  repeat' (first
    | with_reducible exact hf
    | with_reducible assumption
    | with_reducible exact SameBut.refl _ _
    | extract_lets
    | with_reducible apply SameBut.ite
    | with_reducible apply Module.setPart_frame
    | with_reducible apply Module.setRas_frame
    | with_reducible apply raise_frame
    | with_reducible apply finishV_frame
    | with_reducible apply failRequest_frame
    | with_reducible apply clearStep_frame
    | with_reducible apply issueHedge_frame
    | with_reducible apply markStopped_frame
    | with_reducible apply endRecovery_frame
    | with_reducible apply listFoldl_frame
    | exact fun x hx => hs x (by revert x; decide +kernel)
    | intro _)

theorem jobStop_frame {k : List Fld} {a : Module} {m : Module} {p core : Nat}
    (hf : SameBut k a m) (hs : Within [.start, .ras, .fns, .parts, .fabParts, .slots, .clusters, .cores, .nodes, .hedgeOut, .fabric,
        .xfers, .netOut, .freeCtr] k) : SameBut k a (jobStop m p core) := by
  unfold jobStop
  repeat' (first
    | with_reducible assumption
    | with_reducible apply jobStopWith_frame)

theorem faultNow_frame {k : List Fld} {a : Module} {m : Module} {p : Nat} {st : Status} {d : Nat → Nat}
    (hf : SameBut k a m) (hs : Within [.start, .ras, .fns, .parts, .fabParts, .slots, .clusters, .cores, .nodes, .hedgeOut, .fabric,
        .xfers, .netOut, .freeCtr] k) : SameBut k a (faultNow m p st d) := by
  unfold faultNow
  repeat' (first
    | with_reducible exact hf
    | with_reducible apply abortTask_frame
    | with_reducible apply jobStop_frame
    | split
    | exact fun x hx => hs x (by revert x; decide +kernel))

theorem queueFault_frame {k : List Fld} {a : Module} {m : Module} {f : Recovery}
    (hf : SameBut k a m) (hs : Within [.start, .ras, .fns, .parts, .fabParts, .slots, .clusters, .cores, .nodes, .hedgeOut, .fabric,
        .xfers, .netOut, .freeCtr] k) : SameBut k a (queueFault m f) := by
  unfold queueFault
  repeat' (first
    | with_reducible exact hf
    | with_reducible apply SameBut.ite
    | with_reducible apply Module.setRas_frame
    | with_reducible apply raise_frame
    | with_reducible apply jobStopWith_frame
    | exact fun x hx => hs x (by revert x; decide +kernel))

theorem faultTask_frame {k : List Fld} {a : Module} {m : Module} {p : Nat} {st : Status} {d : Nat → Nat}
    (hf : SameBut k a m) (hs : Within [.start, .ras, .fns, .parts, .fabParts, .slots, .clusters, .cores, .nodes, .hedgeOut, .fabric,
        .xfers, .netOut, .freeCtr] k) : SameBut k a (faultTask m p st d) := by
  unfold faultTask
  repeat' (first
    | with_reducible assumption
    | with_reducible apply SameBut.ite
    | with_reducible apply faultNow_frame
    | with_reducible apply queueFault_frame)

theorem coreFault_frame {k : List Fld} {a : Module} {m : Module} {core code value : Nat}
    (hf : SameBut k a m) (hs : Within [.start, .ras, .fns, .parts, .fabParts, .slots, .clusters, .cores, .nodes, .hedgeOut, .fabric,
        .xfers, .netOut, .freeCtr] k) : SameBut k a (coreFault m core code value) := by
  unfold coreFault
  repeat' (first
    | with_reducible exact hf
    | with_reducible apply raise_frame
    | with_reducible apply faultTask_frame
    | split
    | exact fun x hx => hs x (by revert x; decide +kernel))

theorem rangeFault_frame {k : List Fld} {m₀ : Module} {m : Module} {p a : Nat}
    (hf : SameBut k m₀ m) (hs : Within [.start, .ras, .fns, .parts, .fabParts, .slots, .clusters, .cores, .nodes, .hedgeOut, .fabric,
        .xfers, .netOut, .freeCtr] k) : SameBut k m₀ (rangeFault m p a) := by
  unfold rangeFault
  repeat' (first
    | with_reducible exact hf
    | with_reducible apply raise_frame
    | with_reducible apply faultTask_frame
    | exact fun x hx => hs x (by revert x; decide +kernel))

theorem enterRecovery_frame {k : List Fld} {a : Module} {m : Module} {p core cause : Nat}
    (hf : SameBut k a m) (hs : Within [.start, .ras, .fns, .parts, .fabParts, .slots, .clusters, .cores, .nodes, .hedgeOut, .fabric,
        .xfers, .netOut, .freeCtr] k) : SameBut k a (enterRecovery m p core cause) := by
  unfold enterRecovery
  repeat' (first
    | with_reducible exact hf
    | with_reducible apply SameBut.ite
    | with_reducible apply Module.setRas_frame
    | with_reducible apply queueFault_frame
    | exact fun x hx => hs x (by revert x; decide +kernel))

theorem fenceHits_frame {k : List Fld} {a : Module} {m : Module} {core cause : Nat} {p : Nat}
    (hf : SameBut k a m) (hs : Within [.start, .ras, .fns, .parts, .fabParts, .slots, .clusters, .cores, .nodes, .hedgeOut, .fabric,
        .xfers, .netOut, .freeCtr] k) : SameBut k a (fenceHits m core cause p) := by
  unfold fenceHits
  repeat' (first
    | with_reducible exact hf
    | with_reducible assumption
    | with_reducible apply SameBut.ite
    | with_reducible apply Module.setPart_frame
    | with_reducible apply Module.setRas_frame
    | with_reducible apply clearStep_frame
    | with_reducible apply jobStop_frame
    | with_reducible apply enterRecovery_frame
    | exact fun x hx => hs x (by revert x; decide +kernel))

theorem fence_frame {k : List Fld} {a : Module} {m : Module} {core cause : Nat}
    (hf : SameBut k a m) (hs : Within [.start, .power, .flash, .ras, .fns, .parts, .fabParts, .slots, .clusters, .cores, .nodes, .hedgeOut,
        .fabric, .xfers, .netOut, .freeCtr] k) : SameBut k a (fence m core cause) := by
  unfold fence
  repeat' (first
    | with_reducible exact hf
    | with_reducible assumption
    | with_reducible exact SameBut.refl _ _
    | extract_lets
    | with_reducible apply SameBut.ite
    | with_reducible apply Module.setCore_frame
    | with_reducible apply Module.setClu_frame
    | with_reducible apply Module.setPower_frame
    | with_reducible apply Module.setRas_frame
    | with_reducible apply foldM_frame
    | with_reducible apply hedgeSend_frame
    | with_reducible apply raiseCore_frame
    | with_reducible apply fenceHits_frame
    | exact fun x hx => hs x (by revert x; decide +kernel)
    | intro _
    | with_reducible apply SameBut.with_flash)

theorem raisePlace_frame {k : List Fld} {a : Module} {m : Module} {pl : ErrPlace} {code : Nat} {payload : List Nat}
    (hf : SameBut k a m) (hs : Within [.start, .fns, .nodes, .hedgeOut] k) : SameBut k a (raisePlace m pl code payload) := by
  unfold raisePlace
  repeat' (first
    | with_reducible assumption
    | with_reducible apply raise_frame
    | with_reducible apply raiseCore_frame
    | split)

theorem countCorrected_frame {k : List Fld} {a : Module} {m : Module} {pl : ErrPlace}
    (hf : SameBut k a m) (hs : Within [.start, .ras, .fns, .nodes, .hedgeOut] k) : SameBut k a (countCorrected m pl) := by
  unfold countCorrected
  repeat' (first
    | with_reducible exact hf
    | with_reducible apply SameBut.ite
    | with_reducible apply Module.setRas_frame
    | with_reducible apply raisePlace_frame
    | exact fun x hx => hs x (by revert x; decide +kernel))

theorem coreCorrected_frame {k : List Fld} {a : Module} {m : Module} {core : Nat}
    (hf : SameBut k a m) (hs : Within [.start, .power, .flash, .ras, .fns, .parts, .fabParts, .slots, .clusters, .cores, .nodes, .hedgeOut,
        .fabric, .xfers, .netOut, .freeCtr] k) : SameBut k a (coreCorrected m core) := by
  unfold coreCorrected
  repeat' (first
    | with_reducible exact hf
    | with_reducible apply SameBut.ite
    | with_reducible apply Module.setRas_frame
    | with_reducible apply fence_frame
    | exact fun x hx => hs x (by revert x; decide +kernel))

theorem clearPoisonBits_frame {k : List Fld} {m₀ : Module} {m : Module} {core a w : Nat}
    (hf : SameBut k m₀ m) (hs : Within [.ras] k) : SameBut k m₀ (clearPoisonBits m core a w) := by
  unfold clearPoisonBits
  repeat' (first
    | with_reducible assumption
    | with_reducible apply Module.setRas_frame)

theorem clearPoison_frame {k : List Fld} {m₀ : Module} {m : Module} {core a n : Nat}
    (hf : SameBut k m₀ m) (hs : Within [.ras] k) : SameBut k m₀ (clearPoison m core a n) := by
  unfold clearPoison
  repeat' (first
    | with_reducible assumption
    | with_reducible apply clearPoisonBits_frame)

theorem coreUncorrectable_frame {k : List Fld} {a : Module} {m : Module} {core code : Nat} {payload : List Nat}
    (hf : SameBut k a m) (hs : Within [.start, .power, .flash, .ras, .fns, .parts, .fabParts, .slots, .clusters, .cores, .nodes, .hedgeOut,
        .fabric, .xfers, .netOut, .freeCtr] k) : SameBut k a (coreUncorrectable m core code payload) := by
  unfold coreUncorrectable
  repeat' (first
    | with_reducible exact hf
    | with_reducible apply Module.setRas_frame
    | with_reducible apply raiseCore_frame
    | with_reducible apply fence_frame
    | exact fun x hx => hs x (by revert x; decide +kernel))

theorem poisonPage_frame {k : List Fld} {a : Module} {m : Module} {p page tier unit : Nat}
    (hf : SameBut k a m) (hs : Within [.start, .power, .ras, .fns, .parts, .fabParts, .slots, .clusters, .cores, .nodes, .hedgeOut,
        .fabric, .xfers, .netOut, .freeCtr] k) : SameBut k a (poisonPage m p page tier unit) := by
  unfold poisonPage
  repeat' (first
    | with_reducible exact hf
    | with_reducible assumption
    | with_reducible exact SameBut.refl _ _
    | extract_lets
    | with_reducible apply SameBut.ite
    | with_reducible apply Module.setMemRegs_frame
    | with_reducible apply raise_frame
    | with_reducible apply subRsvd_frame
    | with_reducible apply setPage_frame
    | exact fun x hx => hs x (by revert x; decide +kernel)
    | (dsimp +zetaDelta only; split))

theorem tierFault_frame {k : List Fld} {a : Module} {m : Module} {p page : Nat}
    (hf : SameBut k a m) (hs : Within [.start, .ras, .fns, .parts, .fabParts, .slots, .clusters, .cores, .nodes, .hedgeOut, .fabric,
        .xfers, .netOut, .freeCtr] k) : SameBut k a (tierFault m p page) := by
  unfold tierFault
  repeat' (first
    | with_reducible assumption
    | with_reducible apply faultTask_frame)

theorem compareTick_frame {k : List Fld} {a : Module} {m : Module} {die tick replica : Nat}
    (hf : SameBut k a m) (hs : Within [.start, .fns, .nodes, .hedgeOut] k) : SameBut k a (compareTick m die tick replica).1 := by
  unfold compareTick
  repeat' (first
    | with_reducible assumption
    | with_reducible apply raise_frame
    | split)

theorem tickMessageFn_frame {k : List Fld} {a : Module} {die tick : Nat} {m : Module}
    (hf : SameBut k a m) (hs : Within [.start, .fns, .nodes, .hedgeOut] k) : SameBut k a (tickMessageFn die tick m) := by
  unfold tickMessageFn
  repeat' (first
    | with_reducible exact hf
    | with_reducible apply setNode_frame
    | with_reducible apply compareTick_frame
    | split
    | exact fun x hx => hs x (by revert x; decide +kernel))

theorem haltFenceOrderFn_frame {k : List Fld} {a : Module} {core : Nat} {order : HaltOrder} {m : Module}
    (hf : SameBut k a m) (hs : Within [.cores] k) : SameBut k a (haltFenceOrderFn core order m) := by
  unfold haltFenceOrderFn
  repeat' (first
    | with_reducible assumption
    | with_reducible apply Module.setCore_frame
    | split)

theorem recordEvent_frame {k : List Fld} {a : Module} {m : Module} {die code : Nat} {payload : List Nat}
    (hf : SameBut k a m) (hs : Within [.start, .fns] k) : SameBut k a (recordEvent m die code payload) := by
  unfold recordEvent
  repeat' (first
    | with_reducible assumption
    | with_reducible apply record_frame
    | with_reducible apply recordCore_frame
    | split)

theorem errorEventMessageFn_frame {k : List Fld} {a : Module} {die code : Nat} {payload : List Nat} {m : Module}
    (hf : SameBut k a m) (hs : Within [.start, .fns, .nodes, .hedgeOut] k) : SameBut k a (errorEventMessageFn die code payload m) := by
  unfold errorEventMessageFn
  repeat' (first
    | with_reducible exact hf
    | with_reducible apply SameBut.ite
    | with_reducible apply errorMessage_frame
    | with_reducible apply recordEvent_frame
    | exact fun x hx => hs x (by revert x; decide +kernel))

theorem firmwareControlMessageFn_frame {k : List Fld} {a : Module} {proc : Nat} {payload : BitVec 96} {m : Module}
    (hf : SameBut k a m) (hs : Within [.fw, .nodes, .hedgeOut] k) : SameBut k a (firmwareControlMessageFn proc payload m) := by
  unfold firmwareControlMessageFn
  repeat' (first
    | with_reducible exact hf
    | with_reducible apply SameBut.ite
    | with_reducible apply Module.setProc_frame
    | with_reducible apply hedgeSend_frame
    | exact fun x hx => hs x (by revert x; decide +kernel))

theorem issueTime_frame {k : List Fld} {a : Module} {m : Module} {core : Nat} {srcs dsts : List Nat} {interval latency : Nat}
    (hf : SameBut k a m) (hs : Within [.cores] k) : SameBut k a (issueTime m core srcs dsts interval latency) := by
  unfold issueTime
  repeat' (first
    | with_reducible assumption
    | with_reducible apply Module.setVe_frame
    | with_reducible apply Module.setCnt_frame)

theorem noteProgress_frame {k : List Fld} {a : Module} {m : Module} {core : Nat}
    (hf : SameBut k a m) (hs : Within [.parts] k) : SameBut k a (noteProgress m core) := by
  unfold noteProgress
  repeat' (first
    | with_reducible assumption
    | with_reducible apply Module.setPart_frame
    | split)

theorem stallCc_frame {k : List Fld} {a : Module} {m : Module} {p : Nat}
    (hf : SameBut k a m) (hs : Within [.parts] k) : SameBut k a (stallCc m p) := by
  unfold stallCc
  repeat' (first
    | with_reducible assumption
    | with_reducible apply Module.setPart_frame)

theorem noteStall_frame {k : List Fld} {a : Module} {m : Module} {core : Nat}
    (hf : SameBut k a m) (hs : Within [.parts] k) : SameBut k a (noteStall m core) := by
  unfold noteStall
  repeat' (first
    | with_reducible assumption
    | with_reducible apply stallCc_frame
    | split)

theorem issue_frame {k : List Fld} {a : Module} {m : Module} {core : Nat} {srcs dsts : List Nat} {interval latency : Nat} {body : Module →
    Module}
    (hf : SameBut k a m) (hs : Within [.parts, .cores] k) (hbody : ∀ x0, SameBut k a x0 → SameBut k a (body x0)) : SameBut k a (issue m
        core srcs dsts interval latency body) := by
  unfold issue
  repeat' (first
    | with_reducible exact hf
    | with_reducible apply hbody
    | with_reducible apply SameBut.ite
    | with_reducible apply Module.setVe_frame
    | with_reducible apply issueTime_frame
    | with_reducible apply noteProgress_frame
    | exact fun x hx => hs x (by revert x; decide +kernel))

theorem issueVe_frame {k : List Fld} {a : Module} {m : Module} {core : Nat} {srcs dsts : List Nat} {interval latency : Nat} {f : Ve → Ve}
    (hf : SameBut k a m) (hs : Within [.parts, .cores] k) : SameBut k a (issueVe m core srcs dsts interval latency f) := by
  unfold issueVe
  repeat' (first
    | with_reducible assumption
    | with_reducible apply Module.setVe_frame
    | with_reducible apply issue_frame
    | exact fun x hx => hs x (by revert x; decide +kernel)
    | intro _)

theorem noteBanks_frame {k : List Fld} {a : Module} {m : Module} {core req : Nat} {banks : List Nat}
    (hf : SameBut k a m) (hs : Within [.cores] k) : SameBut k a (noteBanks m core req banks) := by
  unfold noteBanks
  repeat' (first
    | with_reducible assumption
    | with_reducible apply Module.setCore_frame)

theorem veBankWait_frame {k : List Fld} {a : Module} {m : Module} {core : Nat} {addrs : List Nat}
    (hf : SameBut k a m) (hs : Within [.cores] k) : SameBut k a (veBankWait m core addrs) := by
  unfold veBankWait
  repeat' (first
    | with_reducible assumption
    | with_reducible apply Module.setVe_frame
    | with_reducible apply Module.setCnt_frame)

theorem countOuts_frame {k : List Fld} {a : Module} {m : Module} {core : Nat} {os : List LaneOut}
    (hf : SameBut k a m) (hs : Within [.parts] k) : SameBut k a (countOuts m core os) := by
  unfold countOuts
  repeat' (first
    | with_reducible assumption
    | with_reducible apply countAx_frame)

theorem laneOp_frame {k : List Fld} {a : Module} {core : Nat} {o : ThreeOps} {srcs : List Nat} {interval latency : Nat} {f : Ve → Nat →
    LaneOut} {m : Module}
    (hf : SameBut k a m) (hs : Within [.parts, .cores] k) : SameBut k a (laneOp core o srcs interval latency f m) := by
  unfold laneOp
  repeat' (first
    | with_reducible exact hf
    | with_reducible assumption
    | with_reducible apply Module.setVe_frame
    | with_reducible apply issue_frame
    | with_reducible apply countOuts_frame
    | exact fun x hx => hs x (by revert x; decide +kernel)
    | intro _)

theorem falu2_frame {k : List Fld} {a : Module} {core : Nat} {o : AluOps} {f : F32 → F32 → F32} {m : Module}
    (hf : SameBut k a m) (hs : Within [.parts, .cores] k) : SameBut k a (falu2 core o f m) := by
  unfold falu2
  repeat' (first
    | with_reducible assumption
    | with_reducible apply laneOp_frame)

theorem falu1_frame {k : List Fld} {a : Module} {core : Nat} {o : AluOps} {f : F32 → F32} {m : Module}
    (hf : SameBut k a m) (hs : Within [.parts, .cores] k) : SameBut k a (falu1 core o f m) := by
  unfold falu1
  repeat' (first
    | with_reducible assumption
    | with_reducible apply laneOp_frame)

theorem ialu_frame {k : List Fld} {a : Module} {core : Nat} {o : AluOps} {interval latency : Nat} {f : BitVec 32 → BitVec 32 → BitVec 32}
    {m : Module}
    (hf : SameBut k a m) (hs : Within [.parts, .cores] k) : SameBut k a (ialu core o interval latency f m) := by
  unfold ialu
  repeat' (first
    | with_reducible assumption
    | with_reducible apply laneOp_frame)

theorem cmpOp_frame {k : List Fld} {a : Module} {core : Nat} {o : CmpOps} {f : CmpFn} {m : Module}
    (hf : SameBut k a m) (hs : Within [.parts, .cores] k) : SameBut k a (cmpOp core o f m) := by
  unfold cmpOp
  repeat' (first
    | with_reducible assumption
    | with_reducible apply issueVe_frame)

theorem cvtOp_frame {k : List Fld} {a : Module} {core : Nat} {o : CvtOps} {m : Module}
    (hf : SameBut k a m) (hs : Within [.parts, .cores] k) : SameBut k a (cvtOp core o m) := by
  unfold cvtOp
  repeat' (first
    | with_reducible exact hf
    | with_reducible assumption
    | with_reducible apply Module.setVe_frame
    | with_reducible apply countAx_frame
    | with_reducible apply issue_frame
    | exact fun x hx => hs x (by revert x; decide +kernel)
    | intro _)

theorem xfOp_frame {k : List Fld} {a : Module} {core : Nat} {o : ThreeOps} {f : XfFn} {m : Module}
    (hf : SameBut k a m) (hs : Within [.parts, .cores] k) : SameBut k a (xfOp core o f m) := by
  unfold xfOp
  repeat' (first
    | with_reducible assumption
    | with_reducible apply laneOp_frame)

theorem redOp_frame {k : List Fld} {a : Module} {core : Nat} {o : ThreeOps} {pair useA useB fp : Bool} {interval latency : Nat} {f : Ve →
    Ve} {m : Module}
    (hf : SameBut k a m) (hs : Within [.parts, .cores] k) : SameBut k a (redOp core o pair useA useB fp interval latency f m) := by
  unfold redOp
  repeat' (first
    | with_reducible exact hf
    | with_reducible assumption
    | with_reducible apply SameBut.ite
    | with_reducible apply Module.setVe_frame
    | with_reducible apply issue_frame
    | with_reducible apply countOuts_frame
    | exact fun x hx => hs x (by revert x; decide +kernel)
    | intro _)

theorem setOut_frame {k : List Fld} {a : Module} {m : Module} {core q : Nat} {g : OutQ → OutQ}
    (hf : SameBut k a m) (hs : Within [.cores] k) : SameBut k a (setOut m core q g) := by
  unfold setOut
  repeat' (first
    | with_reducible assumption
    | with_reducible apply Module.setCore_frame)

theorem pushPart_frame {k : List Fld} {a : Module} {m : Module} {core q : Nat} {keep whole : Bool} {h : BitVec 512} {payload : List (BitVec
    512)}
    (hf : SameBut k a m) (hs : Within [.cores] k) : SameBut k a (pushPart m core q keep whole h payload) := by
  unfold pushPart
  repeat' (first
    | with_reducible assumption
    | with_reducible apply setOut_frame)

theorem pushBundle_frame {k : List Fld} {a : Module} {m : Module} {core q : Nat} {keep : Bool} {h : BitVec 512} {payload : List (BitVec
    512)}
    (hf : SameBut k a m) (hs : Within [.cores] k) : SameBut k a (pushBundle m core q keep h payload) := by
  unfold pushBundle
  repeat' (first
    | with_reducible assumption
    | with_reducible apply pushPart_frame)

theorem pushClose_frame {k : List Fld} {a : Module} {m : Module} {core q : Nat} {h : BitVec 512}
    (hf : SameBut k a m) (hs : Within [.cores] k) : SameBut k a (pushClose m core q h) := by
  unfold pushClose
  repeat' (first
    | with_reducible assumption
    | with_reducible apply setOut_frame)

theorem setIn_frame {k : List Fld} {a : Module} {m : Module} {core q : Nat} {g : InQ → InQ}
    (hf : SameBut k a m) (hs : Within [.cores] k) : SameBut k a (setIn m core q g) := by
  unfold setIn
  repeat' (first
    | with_reducible assumption
    | with_reducible apply Module.setCore_frame)

theorem releaseCredit_frame {k : List Fld} {a : Module} {m : Module} {core q : Nat}
    (hf : SameBut k a m) (hs : Within [.cores] k) : SameBut k a (releaseCredit m core q) := by
  unfold releaseCredit
  repeat' (first
    | with_reducible assumption
    | extract_lets
    | with_reducible apply setOut_frame
    | split)

theorem noteHead_frame {k : List Fld} {a : Module} {m : Module} {core q : Nat}
    (hf : SameBut k a m) (hs : Within [.cores] k) : SameBut k a (noteHead m core q) := by
  unfold noteHead
  repeat' (first
    | with_reducible assumption
    | with_reducible apply SameBut.ite
    | with_reducible apply Module.setCore_frame)

theorem fillIn_frame {k : List Fld} {a : Module} {m : Module} {core q : Nat} {g : InQ → InQ}
    (hf : SameBut k a m) (hs : Within [.cores] k) : SameBut k a (fillIn m core q g) := by
  unfold fillIn
  repeat' (first
    | with_reducible assumption
    | with_reducible apply SameBut.ite
    | with_reducible apply Module.setCnt_frame
    | with_reducible apply setIn_frame)

theorem popFlit_frame {k : List Fld} {a : Module} {m : Module} {core q : Nat}
    (hf : SameBut k a m) (hs : Within [.parts, .cores] k) : SameBut k a (popFlit m core q) := by
  unfold popFlit
  repeat' (first
    | with_reducible exact hf
    | with_reducible apply noteProgress_frame
    | with_reducible apply releaseCredit_frame
    | with_reducible apply noteHead_frame
    | with_reducible apply fillIn_frame
    | split
    | exact fun x hx => hs x (by revert x; decide +kernel))

theorem popFlits_frame {k : List Fld} {a : Module} {m : Module} {core q : Nat} {y0 : Nat}
    (hf : SameBut k a m) (hs : Within [.parts, .cores] k) : SameBut k a (popFlits m core q y0) := by
  induction y0 generalizing m with
  | zero =>
    unfold popFlits
    exact hf
  | succ n ih =>
    unfold popFlits
    repeat' (first
      | with_reducible assumption
      | with_reducible apply popFlit_frame
      | with_reducible apply ih)

theorem protocolFault_frame {k : List Fld} {a : Module} {m : Module} {core q : Nat}
    (hf : SameBut k a m) (hs : Within [.start, .ras, .fns, .parts, .fabParts, .slots, .clusters, .cores, .nodes, .hedgeOut, .fabric,
        .xfers, .netOut, .freeCtr] k) : SameBut k a (protocolFault m core q) := by
  unfold protocolFault
  repeat' (first
    | with_reducible assumption
    | with_reducible apply coreFault_frame)

theorem deposit_frame {k : List Fld} {a : Module} {m : Module} {core q : Nat} {y0 : Nat}
    (hf : SameBut k a m) (hs : Within [.start, .ras, .fns, .parts, .fabParts, .slots, .clusters, .cores, .nodes, .hedgeOut, .fabric,
        .xfers, .netOut, .freeCtr] k) : SameBut k a (deposit m core q y0) := by
  induction y0 generalizing m with
  | zero =>
    unfold deposit
    exact hf
  | succ n ih =>
    unfold deposit
    repeat' (first
      | with_reducible exact hf
      | with_reducible assumption
      | with_reducible exact SameBut.refl _ _
      | extract_lets
      | with_reducible apply SameBut.ite
      | with_reducible apply Module.setCore_frame
      | with_reducible apply clearPoison_frame
      | with_reducible apply noteBanks_frame
      | with_reducible apply popFlit_frame
      | with_reducible apply protocolFault_frame
      | split
      | exact fun x hx => hs x (by revert x; decide +kernel)
      | with_reducible apply ih)

theorem noteClosings_frame {k : List Fld} {a : Module} {m : Module} {core q : Nat} {fs : List Flit}
    (hf : SameBut k a m) (hs : Within [.cores] k) : SameBut k a (noteClosings m core q fs) := by
  unfold noteClosings
  repeat' (first
    | with_reducible assumption
    | with_reducible apply SameBut.ite
    | with_reducible apply Module.setCore_frame)

theorem arrive_frame {k : List Fld} {a : Module} {m : Module} {core q : Nat} {fs : List Flit}
    (hf : SameBut k a m) (hs : Within [.start, .ras, .fns, .parts, .fabParts, .slots, .clusters, .cores, .nodes, .hedgeOut, .fabric,
        .xfers, .netOut, .freeCtr] k) : SameBut k a (arrive m core q fs) := by
  unfold arrive
  repeat' (first
    | with_reducible exact hf
    | with_reducible assumption
    | with_reducible apply SameBut.ite
    | with_reducible apply noteProgress_frame
    | with_reducible apply noteHead_frame
    | with_reducible apply fillIn_frame
    | with_reducible apply deposit_frame
    | with_reducible apply noteClosings_frame
    | exact fun x hx => hs x (by revert x; decide +kernel))

theorem cross_frame {k : List Fld} {a : Module} {m : Module} {l : Nat × Nat} {x : Moving}
    (hf : SameBut k a m) (hs : Within [.cores, .ports] k) : SameBut k a (cross m l x) := by
  unfold cross
  repeat' (first
    | with_reducible exact hf
    | with_reducible apply SameBut.ite
    | with_reducible apply setOut_frame
    | exact fun x hx => hs x (by revert x; decide +kernel)
    | with_reducible apply SameBut.with_ports)

theorem meshCycle_frame {k : List Fld} {a : Module} {m : Module}
    (hf : SameBut k a m) (hs : Within [.cores, .ports] k) : SameBut k a (meshCycle m) := by
  unfold meshCycle
  repeat' (first
    | with_reducible assumption
    | with_reducible exact SameBut.refl _ _
    | with_reducible apply foldM_frame
    | with_reducible apply cross_frame
    | intro _)

theorem coreCycle_frame {k : List Fld} {a : Module} {m : Module}
    (hf : SameBut k a m) (hs : Within [.parts, .cores] k) : SameBut k a (coreCycle m) := by
  unfold coreCycle
  repeat' (first
    | with_reducible exact hf
    | with_reducible assumption
    | with_reducible exact SameBut.refl _ _
    | with_reducible apply SameBut.ite
    | with_reducible apply foldM_frame
    | with_reducible apply stallCc_frame
    | exact fun x hx => hs x (by revert x; decide +kernel)
    | intro _
    | with_reducible apply SameBut.with_cores)

theorem setSu_frame {k : List Fld} {a : Module} {m : Module} {core pair : Nat} {g : SuPair → SuPair}
    (hf : SameBut k a m) (hs : Within [.cores] k) : SameBut k a (setSu m core pair g) := by
  unfold setSu
  repeat' (first
    | with_reducible assumption
    | with_reducible apply Module.setCore_frame)

theorem suPlan_frame {k : List Fld} {a : Module} {m : Module} {core pair : Nat} {es : List SuEmit}
    (hf : SameBut k a m) (hs : Within [.cores] k) : SameBut k a (suPlan m core pair es) := by
  unfold suPlan
  repeat' (first
    | with_reducible assumption
    | with_reducible apply setSu_frame)

theorem suClose_frame {k : List Fld} {a : Module} {m : Module} {core pair : Nat} {b : Mem} {r : SuRule} {h : BitVec 512}
    (hf : SameBut k a m) (hs : Within [.cores] k) : SameBut k a (suClose m core pair b r h) := by
  unfold suClose
  repeat' (first
    | with_reducible assumption
    | with_reducible apply SameBut.ite
    | with_reducible apply Module.setCore_frame
    | with_reducible apply setSu_frame
    | with_reducible apply suPlan_frame)

theorem dispatch_frame {k : List Fld} {a : Module} {m : Module} {core pair : Nat} {b : Mem} {r : SuRule} {h tok : BitVec 512} {body : Bool}
    {route : List (BitVec 512)}
    (hf : SameBut k a m) (hs : Within [.parts, .cores, .freeCtr] k) : SameBut k a (dispatch m core pair b r h tok body route) := by
  unfold dispatch
  repeat' (first
    | with_reducible exact hf
    | with_reducible assumption
    | with_reducible exact SameBut.refl _ _
    | extract_lets
    | with_reducible apply SameBut.ite
    | with_reducible apply Module.setCore_frame
    | with_reducible apply Module.setCnt_frame
    | with_reducible apply foldM_frame
    | with_reducible apply takeFree_frame
    | with_reducible apply countOuts_frame
    | with_reducible apply suPlan_frame
    | split
    | exact fun x hx => hs x (by revert x; decide +kernel)
    | intro _)

theorem suAct_frame {k : List Fld} {a : Module} {m : Module} {core pair : Nat} {b : Mem} {r : SuRule} {h : BitVec 512} {body : Bool} {tok :
    Option PairEntry}
    (hf : SameBut k a m) (hs : Within [.start, .ras, .fns, .parts, .fabParts, .slots, .clusters, .cores, .nodes, .hedgeOut, .fabric,
        .xfers, .netOut, .freeCtr] k) : SameBut k a (suAct m core pair b r h body tok) := by
  unfold suAct
  repeat' (first
    | with_reducible exact hf
    | with_reducible assumption
    | extract_lets
    | with_reducible apply Module.setCnt_frame
    | with_reducible apply coreFault_frame
    | with_reducible apply suPlan_frame
    | with_reducible apply suClose_frame
    | with_reducible apply dispatch_frame
    | split
    | exact fun x hx => hs x (by revert x; decide +kernel))

theorem suDecide_frame {k : List Fld} {a m : Module} {core pair : Nat} {m1 : Module} (hf : SameBut k a m)
    (hs : Within [.start, .ras, .fns, .parts, .fabParts, .slots, .clusters, .cores, .nodes, .hedgeOut, .fabric, .xfers, .netOut, .freeCtr]
        k) (h : suDecide m core pair = some m1) : SameBut k a m1 := by
  unfold suDecide at h
  dsimp only at h
  repeat' (split at h)
  all_goals first
    | cases h; done
    | (have h := Option.some.inj h; subst h; exact suAct_frame (setSu_frame hf (fun x hx => hs x (by revert x; decide +kernel))) (fun x hx => hs x (by revert x; decide +kernel)))
    | (obtain ⟨t, -, rfl⟩ := Option.map_eq_some_iff.mp h; exact suAct_frame (setSu_frame hf (fun x hx => hs x (by revert x; decide +kernel))) (fun x hx => hs x (by revert x; decide +kernel)))

theorem suHeads_frame {k : List Fld} {a : Module} {m : Module} {core pair : Nat} {e : SuEmit}
    (hf : SameBut k a m) (hs : Within [.cores] k) : SameBut k a (suHeads m core pair e) := by
  unfold suHeads
  repeat' (first
    | with_reducible exact hf
    | with_reducible assumption
    | with_reducible exact SameBut.refl _ _
    | with_reducible apply SameBut.ite
    | with_reducible apply Module.setCnt_frame
    | with_reducible apply foldM_frame
    | with_reducible apply setOut_frame
    | with_reducible apply pushPart_frame
    | with_reducible apply setSu_frame
    | intro _)

theorem suPayload_frame {k : List Fld} {a : Module} {m : Module} {core pair q : Nat} {e : SuEmit} {f : Flit}
    (hf : SameBut k a m) (hs : Within [.parts, .cores] k) : SameBut k a (suPayload m core pair q e f) := by
  unfold suPayload
  repeat' (first
    | with_reducible exact hf
    | with_reducible assumption
    | with_reducible exact SameBut.refl _ _
    | with_reducible apply SameBut.ite
    | with_reducible apply foldM_frame
    | with_reducible apply setOut_frame
    | with_reducible apply popFlit_frame
    | with_reducible apply setSu_frame
    | exact fun x hx => hs x (by revert x; decide +kernel)
    | intro _)

theorem suForward_frame {k : List Fld} {a : Module} {m : Module} {core pair : Nat} {m1 : Module}
    (hf : SameBut k a m) (hs : Within [.parts, .cores] k) (h : suForward m core pair = some m1) : SameBut k a m1 := by
  unfold suForward at h
  try dsimp only at h
  repeat' (split at h)
  all_goals first
    | cases h
  all_goals repeat' (first
    | with_reducible exact hf
    | with_reducible apply suHeads_frame
    | with_reducible apply suPayload_frame
    | exact fun x hx => hs x (by revert x; decide +kernel))

theorem suDropTail_frame {k : List Fld} {a : Module} {m : Module} {core pair : Nat} {m1 : Module}
    (hf : SameBut k a m) (hs : Within [.parts, .cores] k) (h : suDropTail m core pair = some m1) : SameBut k a m1 := by
  unfold suDropTail at h
  try dsimp only at h
  repeat' (split at h)
  all_goals first
    | cases h
  all_goals repeat' (first
    | with_reducible assumption
    | with_reducible apply popFlit_frame)

theorem suPairStep_frame {k : List Fld} {a m : Module} {core pair : Nat} {m1 : Module} (hf : SameBut k a m)
    (hs : Within [.start, .ras, .fns, .parts, .fabParts, .slots, .clusters, .cores, .nodes, .hedgeOut, .fabric, .xfers, .netOut, .freeCtr]
        k) (h : suPairStep m core pair = some m1) : SameBut k a m1 := by
  unfold suPairStep at h
  split at h
  · cases h
  · rcases e : suForward m core pair with _ | x
    · rw [e] at h
      change (suDropTail m core pair).orElse _ = some m1 at h
      rcases e2 : suDropTail m core pair with _ | x
      · rw [e2] at h
        exact suDecide_frame hf (fun x hx => hs x (by revert x; decide +kernel)) h
      · rw [e2] at h
        cases h
        exact suDropTail_frame hf (fun x hx => hs x (by revert x; decide +kernel)) e2
    · rw [e] at h
      cases h
      exact suForward_frame hf (fun x hx => hs x (by revert x; decide +kernel)) e

theorem suUnitStep_frame {k : List Fld} {a m : Module} {core u : Nat} {m1 : Module} (hf : SameBut k a m)
    (hs : Within [.start, .ras, .fns, .parts, .fabParts, .slots, .clusters, .cores, .nodes, .hedgeOut, .fabric, .xfers, .netOut, .freeCtr]
        k) (h : suUnitStep m core u = some m1) : SameBut k a m1 := by
  unfold suUnitStep at h
  obtain ⟨p, -, h⟩ := List.exists_of_findSome?_eq_some h
  obtain ⟨x, e, rfl⟩ := Option.map_eq_some_iff.mp h
  exact Module.setCore_frame (suPairStep_frame hf (fun x hx => hs x (by revert x; decide +kernel)) e) (fun x hx => hs x (by revert x; decide +kernel))

theorem suPump_frame {k : List Fld} {a : Module} {core : Nat} {y0 : Nat} {m : Module}
    (hf : SameBut k a m) (hs : Within [.start, .ras, .fns, .parts, .fabParts, .slots, .clusters, .cores, .nodes, .hedgeOut, .fabric,
        .xfers, .netOut, .freeCtr] k) : SameBut k a (suPump core y0 m) := by
  induction y0 generalizing m with
  | zero =>
    unfold suPump
    exact hf
  | succ n ih =>
    unfold suPump
    repeat' (first
      | with_reducible assumption
      | (refine suUnitStep_frame ?_ ?_ (by assumption))
      | split
      | with_reducible apply ih)

theorem activateFold_frame {k : List Fld} {a : Module} {m : Module} {p run : Nat} {w : Swath}
    (hf : SameBut k a m) (hs : Within [.cores, .barriers] k) : SameBut k a (activateFold m p run w) := by
  unfold activateFold
  repeat' (first
    | with_reducible exact hf
    | with_reducible assumption
    | with_reducible exact SameBut.refl _ _
    | with_reducible apply Module.setCore_frame
    | with_reducible apply foldM_frame
    | with_reducible apply setOut_frame
    | exact fun x hx => hs x (by revert x; decide +kernel)
    | intro _
    | with_reducible apply SameBut.with_barriers)

theorem retireFold_frame {k : List Fld} {a : Module} {m : Module} {w : Swath}
    (hf : SameBut k a m) (hs : Within [.cores] k) : SameBut k a (retireFold m w) := by
  unfold retireFold
  repeat' (first
    | with_reducible assumption
    | with_reducible exact SameBut.refl _ _
    | with_reducible apply Module.setCore_frame
    | with_reducible apply foldM_frame
    | intro _)

theorem deliver_frame {k : List Fld} {a : Module} {m : Module} {core q : Nat} {h : BitVec 512} {payload : List (BitVec 512)}
    (hf : SameBut k a m) (hs : Within [.start, .ras, .fns, .parts, .fabParts, .slots, .clusters, .cores, .nodes, .hedgeOut, .fabric,
        .xfers, .netOut, .freeCtr] k) : SameBut k a (deliver m core q h payload) := by
  unfold deliver
  repeat' (first
    | with_reducible exact hf
    | with_reducible apply setIn_frame
    | with_reducible apply arrive_frame
    | with_reducible apply suPump_frame
    | exact fun x hx => hs x (by revert x; decide +kernel))

theorem chargeStall_frame {k : List Fld} {a : Module} {m : Module} {core : Nat} {sel : TmDesc → Bool}
    (hf : SameBut k a m) (hs : Within [.parts] k) : SameBut k a (chargeStall m core sel) := by
  unfold chargeStall
  repeat' (first
    | with_reducible assumption
    | extract_lets
    | with_reducible apply Module.setMemRegs_frame
    | split)

theorem tierTake_frame {k : List Fld} {m₀ : Module} {m : Module} {p a n : Nat}
    (hf : SameBut k m₀ m) (hs : Within [.parts] k) : SameBut k m₀ (tierTake m p a n) := by
  unfold tierTake
  repeat' (first
    | with_reducible assumption
    | with_reducible exact SameBut.refl _ _
    | with_reducible apply foldM_frame
    | with_reducible apply regTake_frame
    | intro _)

theorem permOp_frame {k : List Fld} {a : Module} {core : Nat} {o : PermOps} {srcs : List Nat} {interval latency : Nat} {f : Ve → Nat →
    BitVec 32} {m : Module}
    (hf : SameBut k a m) (hs : Within [.parts, .cores] k) : SameBut k a (permOp core o srcs interval latency f m) := by
  unfold permOp
  repeat' (first
    | with_reducible assumption
    | with_reducible apply issueVe_frame)

theorem memOp_frame {k : List Fld} {a : Module} {core : Nat} {o : ThreeOps} {srcs dsts : List Nat} {size : Nat} {load : Bool} {addrs : Ve →
    List Nat} {body : Ve → Module → Module} {m : Module}
    (hf : SameBut k a m) (hs : Within [.start, .power, .flash, .ras, .fns, .parts, .fabParts, .slots, .clusters, .cores, .nodes, .hedgeOut,
        .fabric, .xfers, .netOut, .freeCtr] k) (hbody : ∀ x0 x1, SameBut k a x1 → SameBut k a (body x0 x1)) : SameBut k a (memOp core o
        srcs dsts size load addrs body m) := by
  unfold memOp
  repeat' (first
    | with_reducible exact hf
    | with_reducible assumption
    | with_reducible apply hbody
    | extract_lets
    | with_reducible apply SameBut.ite
    | with_reducible apply coreFault_frame
    | with_reducible apply coreUncorrectable_frame
    | with_reducible apply issue_frame
    | with_reducible apply veBankWait_frame
    | split
    | exact fun x hx => hs x (by revert x; decide +kernel)
    | intro _)

theorem loadLanes_frame {k : List Fld} {a : Module} {core : Nat} {o : MemOps} {srcs : List Nat} {off : Ve → Nat → Nat} {m : Module}
    (hf : SameBut k a m) (hs : Within [.start, .power, .flash, .ras, .fns, .parts, .fabParts, .slots, .clusters, .cores, .nodes, .hedgeOut,
        .fabric, .xfers, .netOut, .freeCtr] k) : SameBut k a (loadLanes core o srcs off m) := by
  unfold loadLanes
  repeat' (first
    | with_reducible assumption
    | with_reducible apply Module.setVe_frame
    | with_reducible apply memOp_frame
    | exact fun x hx => hs x (by revert x; decide +kernel)
    | intro _)

theorem storeLanes_frame {k : List Fld} {a : Module} {core : Nat} {o : MemOps} {srcs : List Nat} {off : Ve → Nat → Nat} {m : Module}
    (hf : SameBut k a m) (hs : Within [.start, .power, .flash, .ras, .fns, .parts, .fabParts, .slots, .clusters, .cores, .nodes, .hedgeOut,
        .fabric, .xfers, .netOut, .freeCtr] k) : SameBut k a (storeLanes core o srcs off m) := by
  unfold storeLanes
  repeat' (first
    | with_reducible exact hf
    | with_reducible assumption
    | with_reducible exact SameBut.refl _ _
    | with_reducible apply Module.setCore_frame
    | with_reducible apply clearPoison_frame
    | with_reducible apply memOp_frame
    | with_reducible apply listFoldl_frame
    | exact fun x hx => hs x (by revert x; decide +kernel)
    | intro _)

theorem loadPacked_frame {k : List Fld} {a : Module} {core : Nat} {o : MemOps} {m : Module}
    (hf : SameBut k a m) (hs : Within [.start, .power, .flash, .ras, .fns, .parts, .fabParts, .slots, .clusters, .cores, .nodes, .hedgeOut,
        .fabric, .xfers, .netOut, .freeCtr] k) : SameBut k a (loadPacked core o m) := by
  unfold loadPacked
  repeat' (first
    | with_reducible exact hf
    | with_reducible assumption
    | with_reducible apply Module.setVe_frame
    | with_reducible apply memOp_frame
    | exact fun x hx => hs x (by revert x; decide +kernel)
    | intro _)

theorem storePacked_frame {k : List Fld} {a : Module} {core : Nat} {o : MemOps} {m : Module}
    (hf : SameBut k a m) (hs : Within [.start, .power, .flash, .ras, .fns, .parts, .fabParts, .slots, .clusters, .cores, .nodes, .hedgeOut,
        .fabric, .xfers, .netOut, .freeCtr] k) : SameBut k a (storePacked core o m) := by
  unfold storePacked
  repeat' (first
    | with_reducible exact hf
    | with_reducible assumption
    | with_reducible exact SameBut.refl _ _
    | with_reducible apply Module.setCore_frame
    | with_reducible apply clearPoisonBits_frame
    | with_reducible apply memOp_frame
    | with_reducible apply listFoldl_frame
    | exact fun x hx => hs x (by revert x; decide +kernel)
    | intro _)

theorem queueWait_frame {k : List Fld} {a : Module} {m : Module} {core : Nat}
    (hf : SameBut k a m) (hs : Within [.parts, .cores] k) : SameBut k a (queueWait m core) := by
  unfold queueWait
  repeat' (first
    | with_reducible exact hf
    | with_reducible apply Module.setCnt_frame
    | with_reducible apply noteStall_frame
    | exact fun x hx => hs x (by revert x; decide +kernel))

theorem recvOp_frame {k : List Fld} {a : Module} {core : Nat} {o : QioOps} {m : Module}
    (hf : SameBut k a m) (hs : Within [.start, .ras, .fns, .parts, .fabParts, .slots, .clusters, .cores, .nodes, .hedgeOut, .fabric,
        .xfers, .netOut, .freeCtr] k) : SameBut k a (recvOp core o m) := by
  unfold recvOp
  repeat' (first
    | with_reducible exact hf
    | with_reducible assumption
    | with_reducible exact SameBut.refl _ _
    | extract_lets
    | with_reducible apply SameBut.ite
    | with_reducible apply Module.setVe_frame
    | with_reducible apply issue_frame
    | with_reducible apply popFlits_frame
    | with_reducible apply protocolFault_frame
    | with_reducible apply chargeStall_frame
    | with_reducible apply queueWait_frame
    | split
    | exact fun x hx => hs x (by revert x; decide +kernel)
    | intro _)

theorem sendStep_frame {k : List Fld} {a : Module} {m : Module} {core : Nat} {o : QioOps}
    (hf : SameBut k a m) (hs : Within [.cores] k) : SameBut k a (sendStep m core o) := by
  unfold sendStep
  repeat' (first
    | with_reducible assumption
    | with_reducible apply SameBut.ite
    | with_reducible apply setOut_frame
    | with_reducible apply pushBundle_frame
    | with_reducible apply pushClose_frame)

theorem sendOp_frame {k : List Fld} {a : Module} {core : Nat} {o : QioOps} {m : Module}
    (hf : SameBut k a m) (hs : Within [.parts, .cores] k) : SameBut k a (sendOp core o m) := by
  unfold sendOp
  repeat' (first
    | with_reducible exact hf
    | with_reducible assumption
    | with_reducible exact SameBut.refl _ _
    | with_reducible apply SameBut.ite
    | with_reducible apply Module.setCnt_frame
    | with_reducible apply noteProgress_frame
    | with_reducible apply issue_frame
    | with_reducible apply queueWait_frame
    | with_reducible apply sendStep_frame
    | exact fun x hx => hs x (by revert x; decide +kernel)
    | intro _)

theorem sendeOp_frame {k : List Fld} {a : Module} {core : Nat} {o : QioOps} {m : Module}
    (hf : SameBut k a m) (hs : Within [.parts, .cores] k) : SameBut k a (sendeOp core o m) := by
  unfold sendeOp
  repeat' (first
    | with_reducible exact hf
    | with_reducible assumption
    | with_reducible exact SameBut.refl _ _
    | extract_lets
    | with_reducible apply SameBut.ite
    | with_reducible apply Module.setCnt_frame
    | with_reducible apply noteProgress_frame
    | with_reducible apply issue_frame
    | with_reducible apply pushBundle_frame
    | with_reducible apply pushClose_frame
    | with_reducible apply queueWait_frame
    | exact fun x hx => hs x (by revert x; decide +kernel)
    | intro _)

theorem handlerStart_frame {k : List Fld} {a : Module} {core : Nat} {queue : BitVec 4} {m : Module}
    (hf : SameBut k a m) (hs : Within [.start, .ras, .fns, .parts, .fabParts, .slots, .clusters, .cores, .nodes, .hedgeOut, .fabric,
        .xfers, .netOut, .freeCtr] k) : SameBut k a (handlerStart core queue m) := by
  unfold handlerStart
  repeat' (first
    | with_reducible exact hf
    | with_reducible assumption
    | with_reducible exact SameBut.refl _ _
    | extract_lets
    | with_reducible apply SameBut.ite
    | with_reducible apply Module.setVe_frame
    | with_reducible apply Module.setCnt_frame
    | with_reducible apply coreFault_frame
    | with_reducible apply pushBundle_frame
    | with_reducible apply popFlit_frame
    | with_reducible apply protocolFault_frame
    | with_reducible apply listFoldl_frame
    | split
    | exact fun x hx => hs x (by revert x; decide +kernel)
    | intro _)

theorem loopOp_frame {k : List Fld} {a : Module} {core : Nat} {o : SctlOps} {m : Module}
    (hf : SameBut k a m) (hs : Within [.parts, .cores] k) : SameBut k a (loopOp core o m) := by
  unfold loopOp
  repeat' (first
    | with_reducible exact hf
    | with_reducible apply SameBut.ite
    | with_reducible apply Module.setVe_frame
    | with_reducible apply issueTime_frame
    | with_reducible apply noteProgress_frame
    | exact fun x hx => hs x (by revert x; decide +kernel))

theorem endOp_frame {k : List Fld} {a : Module} {core : Nat} {m : Module}
    (hf : SameBut k a m) (hs : Within [.parts, .cores] k) : SameBut k a (endOp core m) := by
  unfold endOp
  repeat' (first
    | with_reducible exact hf
    | extract_lets
    | with_reducible apply Module.setVe_frame
    | with_reducible apply Module.setCnt_frame
    | with_reducible apply issueTime_frame
    | with_reducible apply noteProgress_frame
    | split
    | exact fun x hx => hs x (by revert x; decide +kernel))

theorem mskOp_frame {k : List Fld} {a : Module} {core : Nat} {o : ThreeOps} {srcs : List Nat} {f : Ve → BitVec 64} {m : Module}
    (hf : SameBut k a m) (hs : Within [.parts, .cores] k) : SameBut k a (mskOp core o srcs f m) := by
  unfold mskOp
  repeat' (first
    | with_reducible assumption
    | with_reducible apply issueVe_frame)

theorem sclOp_frame {k : List Fld} {a : Module} {core d : Nat} {srcs : List Nat} {f : Ve → BitVec 64} {m : Module}
    (hf : SameBut k a m) (hs : Within [.parts, .cores] k) : SameBut k a (sclOp core d srcs f m) := by
  unfold sclOp
  repeat' (first
    | with_reducible assumption
    | with_reducible apply issueVe_frame)

theorem meOutput_frame {k : List Fld} {a : Module} {core : Nat} {d : MeDesc} {tile i : Nat} {m : Module} {m1 : Module}
    (hf : SameBut k a m) (hs : Within [.ras, .parts, .cores] k) (h : meOutput core d tile i m = some m1) : SameBut k a m1 := by
  unfold meOutput at h
  try dsimp only at h
  repeat' (split at h)
  all_goals first
    | cases h
  all_goals repeat' (first
    | with_reducible exact hf
    | with_reducible apply Module.setCore_frame
    | with_reducible apply countAx_frame
    | with_reducible apply clearPoison_frame
    | with_reducible apply pushBundle_frame
    | exact fun x hx => hs x (by revert x; decide +kernel))

theorem meOutputs_frame {k : List Fld} {a m : Module} {core : Nat} {d : MeDesc} {tile total : Nat} {done : Module → Nat → Bool}
    {n i : Nat} (hf : SameBut k a m) (hs : Within [.ras, .parts, .cores] k) : SameBut k a (meOutputs core d tile total done n i m).1 := by
  induction n generalizing m i with
  | zero => exact hf
  | succ n ih =>
    unfold meOutputs
    split
    · exact hf
    · split
      · exact ih (meOutput_frame hf (fun x hx => hs x (by revert x; decide +kernel)) (by assumption))
      · exact hf

theorem combineRecord_frame {k : List Fld} {a : Module} {core : Nat} {x : MergeRec} {m : Module}
    (hf : SameBut k a m) (hs : Within [.parts, .cores] k) : SameBut k a (combineRecord core x m) := by
  unfold combineRecord
  repeat' (first
    | with_reducible exact hf
    | with_reducible apply Module.setMe_frame
    | with_reducible apply countAx_frame
    | exact fun x hx => hs x (by revert x; decide +kernel))

theorem drainHeld_frame {k : List Fld} {a : Module} {core stream row : Nat} {y0 : Nat} {m : Module}
    (hf : SameBut k a m) (hs : Within [.parts, .cores] k) : SameBut k a (drainHeld core stream row y0 m) := by
  induction y0 generalizing m with
  | zero =>
    unfold drainHeld
    exact hf
  | succ n ih =>
    unfold drainHeld
    repeat' (first
      | with_reducible exact hf
      | with_reducible assumption
      | with_reducible apply Module.setMe_frame
      | with_reducible apply combineRecord_frame
      | split
      | exact fun x hx => hs x (by revert x; decide +kernel)
      | with_reducible apply ih)

theorem drainStream_frame {k : List Fld} {a : Module} {core stream : Nat} {m : Module}
    (hf : SameBut k a m) (hs : Within [.parts, .cores] k) : SameBut k a (drainStream core stream m) := by
  unfold drainStream
  repeat' (first
    | with_reducible assumption
    | with_reducible exact SameBut.refl _ _
    | with_reducible apply foldM_frame
    | with_reducible apply drainHeld_frame
    | intro _)

theorem flushTile_frame {k : List Fld} {a : Module} {core stream : Nat} {m : Module}
    (hf : SameBut k a m) (hs : Within [.ras, .parts, .cores] k) : SameBut k a (flushTile core stream m) := by
  unfold flushTile
  repeat' (first
    | with_reducible exact hf
    | with_reducible apply SameBut.ite
    | with_reducible apply Module.setMe_frame
    | with_reducible apply meOutputs_frame
    | split
    | exact fun x hx => hs x (by revert x; decide +kernel))

theorem flushTiles_frame {k : List Fld} {a : Module} {core : Nat} {m : Module}
    (hf : SameBut k a m) (hs : Within [.ras, .parts, .cores] k) : SameBut k a (flushTiles core m) := by
  unfold flushTiles
  repeat' (first
    | with_reducible assumption
    | with_reducible exact SameBut.refl _ _
    | with_reducible apply foldM_frame
    | with_reducible apply flushTile_frame
    | intro _)

theorem takeRecord_frame {k : List Fld} {a : Module} {core tag : Nat} {x : MergeRec} {m : Module} {m1 : Module}
    (hf : SameBut k a m) (hs : Within [.start, .ras, .fns, .parts, .fabParts, .slots, .clusters, .cores, .nodes, .hedgeOut, .fabric,
        .xfers, .netOut, .freeCtr] k) (h : takeRecord core tag x m = some m1) : SameBut k a m1 := by
  unfold takeRecord at h
  try dsimp only at h
  repeat' (split at h)
  all_goals first
    | cases h
  all_goals repeat' (first
    | with_reducible exact hf
    | with_reducible assumption
    | with_reducible exact SameBut.refl _ _
    | with_reducible apply Module.setMe_frame
    | with_reducible apply Module.setCnt_frame
    | with_reducible apply coreFault_frame
    | with_reducible apply combineRecord_frame
    | with_reducible apply drainHeld_frame
    | with_reducible apply flushTile_frame
    | exact fun x hx => hs x (by revert x; decide +kernel))

theorem mergeWait_frame {k : List Fld} {a : Module} {m : Module} {core : Nat}
    (hf : SameBut k a m) (hs : Within [.parts, .cores] k) : SameBut k a (mergeWait m core) := by
  unfold mergeWait
  repeat' (first
    | with_reducible exact hf
    | with_reducible apply Module.setCnt_frame
    | with_reducible apply noteStall_frame
    | with_reducible apply chargeStall_frame
    | exact fun x hx => hs x (by revert x; decide +kernel))

theorem meMergeRecord_frame {k : List Fld} {a : Module} {core : Nat} {queue : BitVec 4} {m : Module}
    (hf : SameBut k a m) (hs : Within [.start, .ras, .fns, .parts, .fabParts, .slots, .clusters, .cores, .nodes, .hedgeOut, .fabric,
        .xfers, .netOut, .freeCtr] k) : SameBut k a (meMergeRecord core queue m) := by
  unfold meMergeRecord
  repeat' (first
    | with_reducible exact hf
    | with_reducible assumption
    | with_reducible exact SameBut.refl _ _
    | extract_lets
    | with_reducible apply SameBut.ite
    | with_reducible apply Module.setMe_frame
    | with_reducible apply popFlits_frame
    | with_reducible apply protocolFault_frame
    | with_reducible apply drainStream_frame
    | with_reducible apply flushTile_frame
    | with_reducible apply flushTiles_frame
    | (refine takeRecord_frame ?_ ?_ (by assumption))
    | with_reducible apply mergeWait_frame
    | split
    | exact fun x hx => hs x (by revert x; decide +kernel))

theorem fillFront_frame {k : List Fld} {a : Module} {core : Nat} {d : MeDesc} {y0 : Nat} {m : Module}
    (hf : SameBut k a m) (hs : Within [.cores] k) : SameBut k a (fillFront core d y0 m) := by
  induction y0 generalizing m with
  | zero =>
    unfold fillFront
    exact hf
  | succ n ih =>
    unfold fillFront
    repeat' (first
      | with_reducible assumption
      | extract_lets
      | with_reducible apply Module.setMe_frame
      | split
      | with_reducible apply ih)

theorem loadNext_frame {k : List Fld} {a : Module} {core : Nat} {d : MeDesc} {m : Module}
    (hf : SameBut k a m) (hs : Within [.cores] k) : SameBut k a (loadNext core d m) := by
  unfold loadNext
  repeat' (first
    | with_reducible assumption
    | extract_lets
    | with_reducible apply Module.setMe_frame
    | with_reducible apply fillFront_frame
    | split)

theorem frontBit_frame {k : List Fld} {a : Module} {core : Nat} {d : MeDesc} {m : Module}
    (hf : SameBut k a m) (hs : Within [.cores] k) : SameBut k a (frontBit core d m) := by
  unfold frontBit
  repeat' (first
    | with_reducible assumption
    | with_reducible apply SameBut.ite
    | with_reducible apply Module.setMe_frame
    | with_reducible apply noteBanks_frame
    | with_reducible apply fillFront_frame
    | with_reducible apply loadNext_frame)

theorem skipLocal_frame {k : List Fld} {a : Module} {core : Nat} {e : RunEntry} {d : MeDesc} {m : Module}
    (hf : SameBut k a m) (hs : Within [.ras, .parts, .cores] k) : SameBut k a (skipLocal core e d m) := by
  unfold skipLocal
  repeat' (first
    | with_reducible exact hf
    | with_reducible apply SameBut.ite
    | with_reducible apply Module.setMe_frame
    | with_reducible apply drainStream_frame
    | with_reducible apply flushTile_frame
    | exact fun x hx => hs x (by revert x; decide +kernel))

theorem meRunEntry_frame {k : List Fld} {a : Module} {core : Nat} {m : Module}
    (hf : SameBut k a m) (hs : Within [.ras, .parts, .cores] k) : SameBut k a (meRunEntry core m) := by
  unfold meRunEntry
  repeat' (first
    | with_reducible exact hf
    | with_reducible assumption
    | with_reducible exact SameBut.refl _ _
    | extract_lets
    | with_reducible apply SameBut.ite
    | with_reducible apply Module.setCore_frame
    | with_reducible apply Module.setMe_frame
    | with_reducible apply Module.setCnt_frame
    | with_reducible apply noteProgress_frame
    | with_reducible apply noteStall_frame
    | with_reducible apply pushBundle_frame
    | with_reducible apply chargeStall_frame
    | with_reducible apply fillFront_frame
    | with_reducible apply loadNext_frame
    | with_reducible apply skipLocal_frame
    | split
    | exact fun x hx => hs x (by revert x; decide +kernel))

theorem meSeedArrival_frame {k : List Fld} {a : Module} {core : Nat} {m : Module}
    (hf : SameBut k a m) (hs : Within [.start, .ras, .fns, .parts, .fabParts, .slots, .clusters, .cores, .nodes, .hedgeOut, .fabric,
        .xfers, .netOut, .freeCtr] k) : SameBut k a (meSeedArrival core m) := by
  unfold meSeedArrival
  repeat' (first
    | with_reducible exact hf
    | with_reducible assumption
    | extract_lets
    | with_reducible apply Module.setMe_frame
    | with_reducible apply popFlits_frame
    | with_reducible apply protocolFault_frame
    | split
    | exact fun x hx => hs x (by revert x; decide +kernel))

theorem combineHere_frame {k : List Fld} {a : Module} {core tile : Nat} {x : MergeRec} {m : Module}
    (hf : SameBut k a m) (hs : Within [.parts, .cores] k) : SameBut k a (combineHere core tile x m) := by
  unfold combineHere
  repeat' (first
    | with_reducible exact hf
    | with_reducible apply Module.setMe_frame
    | with_reducible apply countAx_frame
    | exact fun x hx => hs x (by revert x; decide +kernel))

theorem passResult_frame {k : List Fld} {a : Module} {core : Nat} {d : MeDesc} {p : Pass} {w : List Byte} {i : Nat} {m : Module} {m1 :
    Module}
    (hf : SameBut k a m) (hs : Within [.start, .ras, .fns, .parts, .fabParts, .slots, .clusters, .cores, .nodes, .hedgeOut, .fabric,
        .xfers, .netOut, .freeCtr] k) (h : passResult core d p w i m = some m1) : SameBut k a m1 := by
  unfold passResult at h
  try dsimp only at h
  repeat' (split at h)
  all_goals first
    | exact takeRecord_frame hf (fun x hx => hs x (by revert x; decide +kernel)) h
    | cases h
  all_goals repeat' (first
    | with_reducible exact hf
    | with_reducible assumption
    | with_reducible exact SameBut.refl _ _
    | extract_lets
    | with_reducible apply Module.setMe_frame
    | with_reducible apply countAx_frame
    | with_reducible apply pushBundle_frame
    | with_reducible apply combineHere_frame
    | exact fun x hx => hs x (by revert x; decide +kernel))

theorem passResults_frame {k : List Fld} {a m : Module} {core : Nat} {d : MeDesc} {w : List Byte} {n : Nat}
    (hf : SameBut k a m) (hs : Within [.start, .ras, .fns, .parts, .fabParts, .slots, .clusters, .cores, .nodes, .hedgeOut, .fabric,
        .xfers, .netOut, .freeCtr] k) : SameBut k a (passResults core d w n m).1 := by
  induction n generalizing m with
  | zero => exact hf
  | succ n ih =>
    unfold passResults
    split
    · exact hf
    · split
      · exact hf
      · split
        · exact hf
        · exact ih (Module.setMe_frame (passResult_frame hf (fun x hx => hs x (by revert x; decide +kernel)) (by assumption)) (fun x hx => hs x (by revert x; decide +kernel)))

theorem releaseSlot_frame {k : List Fld} {a : Module} {core : Nat} {p : Pass} {m : Module}
    (hf : SameBut k a m) (hs : Within [.start, .ras, .fns, .parts, .fabParts, .slots, .clusters, .cores, .nodes, .hedgeOut, .fabric,
        .xfers, .netOut, .freeCtr] k) : SameBut k a (releaseSlot core p m) := by
  unfold releaseSlot
  repeat' (first
    | with_reducible exact hf
    | with_reducible apply Module.setCore_frame
    | with_reducible apply deposit_frame
    | split
    | exact fun x hx => hs x (by revert x; decide +kernel))

theorem blockDone_frame {k : List Fld} {a : Module} {core : Nat} {d : MeDesc} {p : Pass} {m : Module}
    (hf : SameBut k a m) (hs : Within [.start, .ras, .fns, .parts, .fabParts, .slots, .clusters, .cores, .nodes, .hedgeOut, .fabric,
        .xfers, .netOut, .freeCtr] k) : SameBut k a (blockDone core d p m) := by
  unfold blockDone
  repeat' (first
    | with_reducible exact hf
    | with_reducible assumption
    | with_reducible apply SameBut.ite
    | with_reducible apply Module.setMe_frame
    | with_reducible apply Module.setCnt_frame
    | with_reducible apply noteProgress_frame
    | with_reducible apply fillFront_frame
    | with_reducible apply releaseSlot_frame
    | exact fun x hx => hs x (by revert x; decide +kernel))

theorem endRun_frame {k : List Fld} {a : Module} {core : Nat} {m : Module}
    (hf : SameBut k a m) (hs : Within [.parts, .cores] k) : SameBut k a (endRun core m) := by
  unfold endRun
  repeat' (first
    | with_reducible exact hf
    | extract_lets
    | with_reducible apply Module.setMe_frame
    | with_reducible apply noteProgress_frame
    | split
    | exact fun x hx => hs x (by revert x; decide +kernel))

theorem finishDesc_frame {k : List Fld} {a : Module} {core : Nat} {d : MeDesc} {p : Pass} {m : Module}
    (hf : SameBut k a m) (hs : Within [.ras, .parts, .cores] k) : SameBut k a (finishDesc core d p m) := by
  unfold finishDesc
  repeat' (first
    | with_reducible exact hf
    | with_reducible assumption
    | with_reducible exact SameBut.refl _ _
    | extract_lets
    | with_reducible apply SameBut.ite
    | with_reducible apply Module.setMe_frame
    | with_reducible apply Module.setCnt_frame
    | with_reducible apply noteProgress_frame
    | with_reducible apply noteStall_frame
    | with_reducible apply meOutputs_frame
    | with_reducible apply flushTile_frame
    | with_reducible apply mergeWait_frame
    | with_reducible apply endRun_frame
    | exact fun x hx => hs x (by revert x; decide +kernel))

theorem runPass_frame {k : List Fld} {a : Module} {core : Nat} {d : MeDesc} {w : List Byte} {m : Module}
    (hf : SameBut k a m) (hs : Within [.start, .ras, .fns, .parts, .fabParts, .slots, .clusters, .cores, .nodes, .hedgeOut, .fabric,
        .xfers, .netOut, .freeCtr] k) : SameBut k a (runPass core d w m) := by
  unfold runPass
  repeat' (first
    | with_reducible exact hf
    | with_reducible assumption
    | with_reducible exact SameBut.refl _ _
    | extract_lets
    | with_reducible apply SameBut.ite
    | with_reducible apply Module.setCnt_frame
    | with_reducible apply noteProgress_frame
    | with_reducible apply noteStall_frame
    | (refine SameBut.fst (by assumption) (show SameBut _ _ (_ : _ × _).1 from passResults_frame ?_ ?_))
    | with_reducible apply blockDone_frame
    | with_reducible apply finishDesc_frame
    | split
    | exact fun x hx => hs x (by revert x; decide +kernel))

theorem mePassComplete_frame {k : List Fld} {a : Module} {core : Nat} {m : Module}
    (hf : SameBut k a m) (hs : Within [.start, .power, .flash, .ras, .fns, .parts, .fabParts, .slots, .clusters, .cores, .nodes, .hedgeOut,
        .fabric, .xfers, .netOut, .freeCtr] k) : SameBut k a (mePassComplete core m) := by
  unfold mePassComplete
  repeat' (first
    | with_reducible exact hf
    | with_reducible assumption
    | with_reducible exact SameBut.refl _ _
    | extract_lets
    | with_reducible apply SameBut.ite
    | with_reducible apply Module.setCnt_frame
    | with_reducible apply coreUncorrectable_frame
    | with_reducible apply noteStall_frame
    | with_reducible apply chargeStall_frame
    | with_reducible apply flushTiles_frame
    | with_reducible apply fillFront_frame
    | with_reducible apply loadNext_frame
    | with_reducible apply frontBit_frame
    | with_reducible apply finishDesc_frame
    | with_reducible apply runPass_frame
    | split
    | exact fun x hx => hs x (by revert x; decide +kernel)
    | (dsimp +zetaDelta only; split))

theorem flitArrival_frame {k : List Fld} {a : Module} {core : Nat} {queue : BitVec 4} {m : Module}
    (hf : SameBut k a m) (hs : Within [.start, .ras, .fns, .parts, .fabParts, .slots, .clusters, .cores, .nodes, .hedgeOut, .fabric,
        .xfers, .netOut, .freeCtr] k) : SameBut k a (flitArrival core queue m) := by
  unfold flitArrival
  repeat' (first
    | with_reducible exact hf
    | extract_lets
    | with_reducible apply setOut_frame
    | with_reducible apply arrive_frame
    | with_reducible apply suPump_frame
    | split
    | exact fun x hx => hs x (by revert x; decide +kernel))

theorem creditReturn_frame {k : List Fld} {a : Module} {core : Nat} {queue : BitVec 4} {m : Module}
    (hf : SameBut k a m) (hs : Within [.start, .ras, .fns, .parts, .fabParts, .slots, .clusters, .cores, .nodes, .hedgeOut, .fabric,
        .xfers, .netOut, .freeCtr] k) : SameBut k a (creditReturn core queue m) := by
  unfold creditReturn
  repeat' (first
    | with_reducible exact hf
    | with_reducible apply SameBut.ite
    | with_reducible apply noteProgress_frame
    | with_reducible apply setOut_frame
    | with_reducible apply suPump_frame
    | exact fun x hx => hs x (by revert x; decide +kernel))

theorem extensionMove_frame {k : List Fld} {a : Module} {core : Nat} {queue : BitVec 4} {m : Module}
    (hf : SameBut k a m) (hs : Within [.start, .ras, .fns, .parts, .fabParts, .slots, .clusters, .cores, .nodes, .hedgeOut, .fabric,
        .xfers, .netOut, .freeCtr] k) : SameBut k a (extensionMove core queue m) := by
  unfold extensionMove
  repeat' (first
    | with_reducible exact hf
    | with_reducible assumption
    | extract_lets
    | with_reducible apply SameBut.ite
    | with_reducible apply noteProgress_frame
    | with_reducible apply noteHead_frame
    | with_reducible apply fillIn_frame
    | with_reducible apply deposit_frame
    | with_reducible apply suPump_frame
    | split
    | exact fun x hx => hs x (by revert x; decide +kernel))

theorem suTake_frame {k : List Fld} {a : Module} {m : Module} {core pr q : Nat} {token : Bool} {e : PairEntry}
    (hf : SameBut k a m) (hs : Within [.parts, .cores] k) : SameBut k a (suTake m core pr q token e) := by
  unfold suTake
  repeat' (first
    | with_reducible exact hf
    | with_reducible apply popFlits_frame
    | with_reducible apply setSu_frame
    | exact fun x hx => hs x (by revert x; decide +kernel))

theorem suHeaderMatch_frame {k : List Fld} {a : Module} {core : Nat} {pair : BitVec 3} {token : Bool} {m : Module}
    (hf : SameBut k a m) (hs : Within [.start, .ras, .fns, .parts, .fabParts, .slots, .clusters, .cores, .nodes, .hedgeOut, .fabric,
        .xfers, .netOut, .freeCtr] k) : SameBut k a (suHeaderMatch core pair token m) := by
  unfold suHeaderMatch
  repeat' (first
    | with_reducible exact hf
    | with_reducible assumption
    | with_reducible exact SameBut.refl _ _
    | extract_lets
    | with_reducible apply SameBut.ite
    | with_reducible apply Module.setCore_frame
    | with_reducible apply Module.setCnt_frame
    | with_reducible apply coreFault_frame
    | with_reducible apply noteStall_frame
    | with_reducible apply protocolFault_frame
    | with_reducible apply suPump_frame
    | with_reducible apply suTake_frame
    | split
    | exact fun x hx => hs x (by revert x; decide +kernel)
    | (dsimp +zetaDelta only; split))

theorem coreDrained_frame {k : List Fld} {a : Module} {core : Nat} {m : Module}
    (hf : SameBut k a m) (hs : Within [.cores] k) : SameBut k a (coreDrained core m) := by
  unfold coreDrained
  repeat' (first
    | with_reducible assumption
    | with_reducible apply Module.setCore_frame
    | split)

theorem barrierArrival_frame {k : List Fld} {a : Module} {id node : Nat} {m : Module}
    (hf : SameBut k a m) (hs : Within [.parts, .nodes, .barriers, .hedgeOut] k) : SameBut k a (barrierArrival id node m) := by
  unfold barrierArrival
  repeat' (first
    | with_reducible exact hf
    | with_reducible assumption
    | with_reducible exact SameBut.refl _ _
    | with_reducible apply SameBut.ite
    | with_reducible apply Module.setPart_frame
    | with_reducible apply hedgeSend_frame
    | exact fun x hx => hs x (by revert x; decide +kernel)
    | with_reducible apply SameBut.with_barriers)

theorem barrierRelease_frame {k : List Fld} {a : Module} {part run : Nat} {m : Module}
    (hf : SameBut k a m) (hs : Within [.parts, .cores, .barriers] k) : SameBut k a (barrierRelease part run m) := by
  unfold barrierRelease
  repeat' (first
    | with_reducible exact hf
    | with_reducible apply Module.setPart_frame
    | with_reducible apply activateFold_frame
    | with_reducible apply retireFold_frame
    | split
    | exact fun x hx => hs x (by revert x; decide +kernel))

theorem stallCycle_frame {k : List Fld} {a : Module} {part : Nat} {m : Module}
    (hf : SameBut k a m) (hs : Within [.start, .ras, .fns, .parts, .fabParts, .slots, .clusters, .cores, .nodes, .hedgeOut, .fabric,
        .xfers, .netOut, .freeCtr] k) : SameBut k a (stallCycle part m) := by
  unfold stallCycle
  repeat' (first
    | with_reducible exact hf
    | with_reducible assumption
    | with_reducible apply Module.setLark_frame
    | with_reducible apply raise_frame
    | with_reducible apply faultTask_frame
    | split
    | exact fun x hx => hs x (by revert x; decide +kernel))

theorem larkStore_frame {k : List Fld} {a : Module} {m : Module} {part base off len : Nat} {bs : List Byte}
    (hf : SameBut k a m) (hs : Within [.parts] k) : SameBut k a (larkStore m part base off len bs) := by
  unfold larkStore
  repeat' (first
    | with_reducible assumption
    | with_reducible apply devWrite_frame)

theorem larkSample_frame {k : List Fld} {a : Module} {part offset : Nat} {m : Module}
    (hf : SameBut k a m) (hs : Within [.parts] k) : SameBut k a (larkSample part offset m) := by
  unfold larkSample
  repeat' (first
    | with_reducible assumption
    | extract_lets
    | with_reducible apply Module.setLark_frame
    | with_reducible apply larkStore_frame
    | split)

theorem writeLs_frame {k : List Fld} {m₀ : Module} {m : Module} {core a w : Nat} {sc : Option Nat} {sa : Nat} {g : Core → Core}
    (hf : SameBut k m₀ m) (hs : Within [.ras, .cores] k) : SameBut k m₀ (writeLs m core a w sc sa g) := by
  unfold writeLs
  repeat' (first
    | with_reducible exact hf
    | with_reducible apply SameBut.ite
    | with_reducible apply Module.setCore_frame
    | with_reducible apply clearPoisonBits_frame
    | with_reducible apply clearPoison_frame
    | with_reducible apply noteBanks_frame
    | exact fun x hx => hs x (by revert x; decide +kernel))

theorem devWriteBits_frame {k : List Fld} {m₀ : Module} {m : Module} {p a w v : Nat}
    (hf : SameBut k m₀ m) (hs : Within [.parts] k) : SameBut k m₀ (devWriteBits m p a w v) := by
  unfold devWriteBits
  repeat' (first
    | with_reducible assumption
    | with_reducible apply devWrite_frame)

theorem rampSlots_frame {k : List Fld} {a : Module} {m : Module} {c : Nat} {d : TmDesc} {base rows : Nat}
    (hf : SameBut k a m) (hs : Within [.ras, .cores, .freeCtr] k) : SameBut k a (rampSlots m c d base rows) := by
  unfold rampSlots
  repeat' (first
    | with_reducible exact hf
    | with_reducible assumption
    | with_reducible exact SameBut.refl _ _
    | extract_lets
    | with_reducible apply SameBut.ite
    | with_reducible apply Module.setCore_frame
    | with_reducible apply clearPoison_frame
    | exact fun x hx => hs x (by revert x; decide +kernel)
    | with_reducible apply SameBut.with_freeCtr)

theorem deliverPos_frame {k : List Fld} {a : Module} {m : Module} {s : Stream} {cl : Nat} {w : Swath} {d : TmDesc} {ix : List Nat} {v :
    Nat} {sc : Option Nat}
    (hf : SameBut k a m) (hs : Within [.ras, .parts, .clusters, .cores, .freeCtr] k) : SameBut k a (deliverPos m s cl w d ix v sc) := by
  unfold deliverPos
  repeat' (first
    | with_reducible exact hf
    | with_reducible assumption
    | with_reducible exact SameBut.refl _ _
    | extract_lets
    | with_reducible apply Module.setClu_frame
    | with_reducible apply Module.setRas_frame
    | with_reducible apply foldM_frame
    | with_reducible apply writeLs_frame
    | with_reducible apply devWriteBits_frame
    | with_reducible apply rampSlots_frame
    | split
    | exact fun x hx => hs x (by revert x; decide +kernel)
    | intro _)

theorem sendGroup_frame {k : List Fld} {a : Module} {m : Module} {s : Stream} {cl : Nat} {w : Swath} {d : TmDesc} {bytes : List Byte}
    (hf : SameBut k a m) (hs : Within [.start, .ras, .fns, .parts, .fabParts, .slots, .clusters, .cores, .nodes, .hedgeOut, .fabric,
        .xfers, .netOut, .freeCtr] k) : SameBut k a (sendGroup m s cl w d bytes) := by
  unfold sendGroup
  repeat' (first
    | with_reducible exact hf
    | with_reducible exact SameBut.refl _ _
    | with_reducible apply SameBut.ite
    | with_reducible apply Module.setMe_frame
    | with_reducible apply foldM_frame
    | with_reducible apply deliver_frame
    | exact fun x hx => hs x (by revert x; decide +kernel)
    | intro _)

theorem setTm_frame {k : List Fld} {a : Module} {m : Module} {cl mv : Nat} {g : Option Stream → Option Stream}
    (hf : SameBut k a m) (hs : Within [.clusters] k) : SameBut k a (setTm m cl mv g) := by
  unfold setTm
  repeat' (first
    | with_reducible assumption
    | with_reducible apply Module.setClu_frame)

theorem setTmCnt_frame {k : List Fld} {a : Module} {m : Module} {cl : Nat} {g : TmCnt → TmCnt}
    (hf : SameBut k a m) (hs : Within [.clusters] k) : SameBut k a (setTmCnt m cl g) := by
  unfold setTmCnt
  repeat' (first
    | with_reducible assumption
    | with_reducible apply SameBut.ite
    | with_reducible apply Module.setClu_frame)

theorem markEnded_frame {k : List Fld} {a : Module} {m : Module} {p key step2 : Nat} {cancelled : Bool}
    (hf : SameBut k a m) (hs : Within [.parts] k) : SameBut k a (markEnded m p key step2 cancelled) := by
  unfold markEnded
  repeat' (first
    | with_reducible assumption
    | with_reducible apply Module.setPart_frame)

theorem clearDrop_frame {k : List Fld} {a : Module} {m : Module} {w : Swath} {d : TmDesc}
    (hf : SameBut k a m) (hs : Within [.cores] k) : SameBut k a (clearDrop m w d) := by
  unfold clearDrop
  repeat' (first
    | with_reducible assumption
    | with_reducible exact SameBut.refl _ _
    | with_reducible apply SameBut.ite
    | with_reducible apply Module.setMe_frame
    | with_reducible apply foldM_frame
    | intro _)

theorem cancelMarker_frame {k : List Fld} {a : Module} {m : Module} {s : Stream} {cl : Nat} {w : Swath} {d : TmDesc}
    (hf : SameBut k a m) (hs : Within [.start, .ras, .fns, .parts, .fabParts, .slots, .clusters, .cores, .nodes, .hedgeOut, .fabric,
        .xfers, .netOut, .freeCtr] k) : SameBut k a (cancelMarker m s cl w d) := by
  unfold cancelMarker
  repeat' (first
    | with_reducible assumption
    | with_reducible exact SameBut.refl _ _
    | with_reducible apply SameBut.ite
    | with_reducible apply foldM_frame
    | with_reducible apply deliver_frame
    | intro _)

theorem issueNow_frame {k : List Fld} {a : Module} {m : Module} {part cl : Nat} {w : Swath} {d : TmDesc} {entry : Nat} {m1 : Module}
    (hf : SameBut k a m) (hs : Within [.start, .ras, .fns, .parts, .fabParts, .slots, .clusters, .cores, .nodes, .hedgeOut, .fabric,
        .xfers, .netOut, .freeCtr] k) (h : issueNow m part cl w d entry = some m1) : SameBut k a m1 := by
  unfold issueNow at h
  try dsimp only at h
  repeat' (split at h)
  all_goals first
    | cases h
  all_goals repeat' (first
    | with_reducible exact hf
    | with_reducible assumption
    | with_reducible exact SameBut.refl _ _
    | with_reducible apply Module.setPart_frame
    | with_reducible apply setTm_frame
    | with_reducible apply setTmCnt_frame
    | with_reducible apply markEnded_frame
    | with_reducible apply clearDrop_frame
    | with_reducible apply cancelMarker_frame
    | exact fun x hx => hs x (by revert x; decide +kernel))

theorem issueEntry_frame {k : List Fld} {a : Module} {m : Module} {part : Nat} {w : Swath} {entry : Nat}
    (hf : SameBut k a m) (hs : Within [.start, .ras, .fns, .parts, .fabParts, .slots, .clusters, .cores, .nodes, .hedgeOut, .fabric,
        .xfers, .netOut, .freeCtr] k) : SameBut k a (issueEntry m part w entry) := by
  unfold issueEntry
  repeat' (first
    | with_reducible exact hf
    | extract_lets
    | with_reducible apply Module.setPart_frame
    | (refine issueNow_frame ?_ ?_ (by assumption))
    | split
    | exact fun x hx => hs x (by revert x; decide +kernel))

theorem tmStreamIssue_frame {k : List Fld} {a : Module} {part swath entry : Nat} {m : Module}
    (hf : SameBut k a m) (hs : Within [.start, .ras, .fns, .parts, .fabParts, .slots, .clusters, .cores, .nodes, .hedgeOut, .fabric,
        .xfers, .netOut, .freeCtr] k) : SameBut k a (tmStreamIssue part swath entry m) := by
  unfold tmStreamIssue
  repeat' (first
    | with_reducible assumption
    | with_reducible apply issueEntry_frame
    | split)

theorem issueWaiting_frame {k : List Fld} {a : Module} {m : Module} {p : Nat}
    (hf : SameBut k a m) (hs : Within [.start, .ras, .fns, .parts, .fabParts, .slots, .clusters, .cores, .nodes, .hedgeOut, .fabric,
        .xfers, .netOut, .freeCtr] k) : SameBut k a (issueWaiting m p) := by
  unfold issueWaiting
  repeat' (first
    | with_reducible exact hf
    | with_reducible assumption
    | with_reducible exact SameBut.refl _ _
    | with_reducible apply Module.setPart_frame
    | with_reducible apply foldM_frame
    | with_reducible apply issueEntry_frame
    | split
    | exact fun x hx => hs x (by revert x; decide +kernel)
    | intro _)

theorem issueAll_frame {k : List Fld} {a : Module} {m : Module}
    (hf : SameBut k a m) (hs : Within [.start, .ras, .fns, .parts, .fabParts, .slots, .clusters, .cores, .nodes, .hedgeOut, .fabric,
        .xfers, .netOut, .freeCtr] k) : SameBut k a (issueAll m) := by
  unfold issueAll
  repeat' (first
    | with_reducible assumption
    | with_reducible exact SameBut.refl _ _
    | with_reducible apply foldM_frame
    | with_reducible apply issueWaiting_frame
    | intro _)

theorem tmGateCount_frame {k : List Fld} {a : Module} {core : Nat} {queue : BitVec 4} {count : Nat} {m : Module}
    (hf : SameBut k a m) (hs : Within [.start, .ras, .fns, .parts, .fabParts, .slots, .clusters, .cores, .nodes, .hedgeOut, .fabric,
        .xfers, .netOut, .freeCtr] k) : SameBut k a (tmGateCount core queue count m) := by
  unfold tmGateCount
  repeat' (first
    | with_reducible exact hf
    | with_reducible assumption
    | with_reducible exact SameBut.refl _ _
    | with_reducible apply SameBut.ite
    | with_reducible apply Module.setPart_frame
    | with_reducible apply Module.setCore_frame
    | with_reducible apply foldM_frame
    | with_reducible apply setTm_frame
    | with_reducible apply issueWaiting_frame
    | split
    | exact fun x hx => hs x (by revert x; decide +kernel)
    | intro _)

theorem csFault_frame {k : List Fld} {m₀ : Module} {m : Module} {s : Stream} {cl a : Nat}
    (hf : SameBut k m₀ m) (hs : Within [.start, .ras, .fns, .parts, .fabParts, .slots, .clusters, .cores, .nodes, .hedgeOut, .fabric,
        .xfers, .netOut, .freeCtr] k) : SameBut k m₀ (csFault m s cl a) := by
  unfold csFault
  repeat' (first
    | with_reducible exact hf
    | with_reducible apply Module.setRas_frame
    | with_reducible apply raise_frame
    | with_reducible apply faultTask_frame
    | exact fun x hx => hs x (by revert x; decide +kernel))

theorem tmReadReturn_frame {k : List Fld} {a : Module} {cluster : Nat} {mover : BitVec 3} {count : Nat} {m : Module}
    (hf : SameBut k a m) (hs : Within [.start, .power, .flash, .ras, .fns, .parts, .fabParts, .slots, .clusters, .cores, .nodes, .hedgeOut,
        .fabric, .xfers, .netOut, .freeCtr] k) : SameBut k a (tmReadReturn cluster mover count m) := by
  unfold tmReadReturn
  repeat' (first
    | with_reducible exact hf
    | with_reducible assumption
    | with_reducible exact SameBut.refl _ _
    | extract_lets
    | with_reducible apply SameBut.ite
    | with_reducible apply Module.setPart_frame
    | with_reducible apply foldM_frame
    | with_reducible apply regTake_frame
    | with_reducible apply noteRead_frame
    | with_reducible apply rangeFault_frame
    | with_reducible apply coreUncorrectable_frame
    | with_reducible apply tierFault_frame
    | with_reducible apply deliverPos_frame
    | with_reducible apply sendGroup_frame
    | with_reducible apply setTm_frame
    | with_reducible apply setTmCnt_frame
    | with_reducible apply csFault_frame
    | split
    | exact fun x hx => hs x (by revert x; decide +kernel)
    | intro _
    | with_reducible apply listFoldlFst_frame)

theorem tmStreamEnd_frame {k : List Fld} {a : Module} {cluster : Nat} {mover : BitVec 3} {m : Module}
    (hf : SameBut k a m) (hs : Within [.start, .ras, .fns, .parts, .fabParts, .slots, .clusters, .cores, .nodes, .hedgeOut, .fabric,
        .xfers, .netOut, .freeCtr] k) : SameBut k a (tmStreamEnd cluster mover m) := by
  unfold tmStreamEnd
  repeat' (first
    | with_reducible exact hf
    | with_reducible assumption
    | with_reducible exact SameBut.refl _ _
    | extract_lets
    | with_reducible apply SameBut.ite
    | with_reducible apply setTm_frame
    | with_reducible apply setTmCnt_frame
    | with_reducible apply markEnded_frame
    | with_reducible apply clearDrop_frame
    | with_reducible apply cancelMarker_frame
    | with_reducible apply issueAll_frame
    | split
    | exact fun x hx => hs x (by revert x; decide +kernel))

theorem migrationSwitch_frame {k : List Fld} {a : Module} {m : Module} {p page : Nat} {g : Page} {mg : Migration}
    (hf : SameBut k a m) (hs : Within [.parts, .freeCtr] k) : SameBut k a (migrationSwitch m p page g mg) := by
  unfold migrationSwitch
  repeat' (first
    | with_reducible exact hf
    | with_reducible assumption
    | with_reducible exact SameBut.refl _ _
    | extract_lets
    | with_reducible apply Module.setMemRegs_frame
    | with_reducible apply subRsvd_frame
    | with_reducible apply addUsed_frame
    | with_reducible apply subUsed_frame
    | with_reducible apply setPage_frame
    | with_reducible apply freeFrame_frame
    | split
    | exact fun x hx => hs x (by revert x; decide +kernel))

theorem migrationPass_frame {k : List Fld} {a : Module} {part page dirty : Nat} {m : Module}
    (hf : SameBut k a m) (hs : Within [.start, .fns, .parts, .fabParts, .nodes, .hedgeOut, .freeCtr] k) : SameBut k a (migrationPass part
        page dirty m) := by
  unfold migrationPass
  repeat' (first
    | with_reducible exact hf
    | with_reducible assumption
    | with_reducible exact SameBut.refl _ _
    | extract_lets
    | with_reducible apply foldM_frame
    | with_reducible apply setItem_frame
    | with_reducible apply finishV_frame
    | with_reducible apply regTake_frame
    | with_reducible apply setPage_frame
    | with_reducible apply migrationSwitch_frame
    | split
    | exact fun x hx => hs x (by revert x; decide +kernel)
    | intro _)

theorem regWrite_frame {k : List Fld} {a : Module} {m : Module} {fn block off : Nat} {g : Module → Module}
    (hf : SameBut k a m) (hs : Within [.start, .fns, .nodes, .hedgeOut] k) (hg : ∀ x0, SameBut k a x0 → SameBut k a (g x0)) : SameBut k a
        (regWrite m fn block off g) := by
  unfold regWrite
  repeat' (first
    | with_reducible assumption
    | with_reducible apply hg
    | with_reducible apply SameBut.ite
    | with_reducible apply busError_frame)

theorem refuse_frame {k : List Fld} {a : Module} {m : Module} {part block off : Nat} {set : Module → Module}
    (hf : SameBut k a m) (hs : Within [.start, .fns, .nodes, .hedgeOut] k) (hset : ∀ x0, SameBut k a x0 → SameBut k a (set x0)) : SameBut k
        a (refuse m part block off set) := by
  unfold refuse
  repeat' (first
    | with_reducible assumption
    | with_reducible apply hset
    | with_reducible apply configRefused_frame)

theorem refusePart_frame {k : List Fld} {a : Module} {m : Module} {p off : Nat}
    (hf : SameBut k a m) (hs : Within [.start, .fns, .parts, .nodes, .hedgeOut] k) : SameBut k a (refusePart m p off) := by
  unfold refusePart
  repeat' (first
    | with_reducible assumption
    | with_reducible apply Module.setRegs_frame
    | with_reducible apply refuse_frame
    | exact fun x hx => hs x (by revert x; decide +kernel)
    | intro _)

theorem refuseRas_frame {k : List Fld} {a : Module} {m : Module} {off : Nat}
    (hf : SameBut k a m) (hs : Within [.start, .ras, .fns, .nodes, .hedgeOut] k) : SameBut k a (refuseRas m off) := by
  unfold refuseRas
  repeat' (first
    | with_reducible assumption
    | with_reducible apply Module.setRas_frame
    | with_reducible apply refuse_frame
    | exact fun x hx => hs x (by revert x; decide +kernel)
    | intro _)

theorem refuseFw_frame {k : List Fld} {a : Module} {m : Module} {off : Nat}
    (hf : SameBut k a m) (hs : Within [.start, .fwBadWrite, .fns, .nodes, .hedgeOut] k) : SameBut k a (refuseFw m off) := by
  unfold refuseFw
  repeat' (first
    | with_reducible exact hf
    | with_reducible assumption
    | with_reducible apply refuse_frame
    | exact fun x hx => hs x (by revert x; decide +kernel)
    | intro _
    | with_reducible apply SameBut.with_fwBadWrite)

theorem refuseRing_frame {k : List Fld} {a : Module} {m : Module} {fn r off : Nat}
    (hf : SameBut k a m) (hs : Within [.start, .fns, .nodes, .hedgeOut] k) : SameBut k a (refuseRing m fn r off) := by
  unfold refuseRing
  repeat' (first
    | with_reducible assumption
    | with_reducible apply Module.setRing_frame
    | with_reducible apply refuse_frame
    | exact fun x hx => hs x (by revert x; decide +kernel)
    | intro _)

theorem refuseFab_frame {k : List Fld} {a : Module} {m : Module} {p off : Nat}
    (hf : SameBut k a m) (hs : Within [.start, .fns, .fabParts, .nodes, .hedgeOut] k) : SameBut k a (refuseFab m p off) := by
  unfold refuseFab
  repeat' (first
    | with_reducible assumption
    | with_reducible apply Module.setFab_frame
    | with_reducible apply refuse_frame
    | exact fun x hx => hs x (by revert x; decide +kernel)
    | intro _)

theorem refuseFn_frame {k : List Fld} {a : Module} {m : Module} {f off : Nat}
    (hf : SameBut k a m) (hs : Within [.start, .fns, .nodes, .hedgeOut] k) : SameBut k a (refuseFn m f off) := by
  unfold refuseFn
  repeat' (first
    | with_reducible assumption
    | with_reducible apply Module.setFn_frame
    | with_reducible apply refuse_frame
    | exact fun x hx => hs x (by revert x; decide +kernel)
    | intro _)

theorem settleModel_frame {k : List Fld} {a : Module} {m : Module} {slot model w : Nat}
    (hf : SameBut k a m) (hs : Within [.parts, .slots] k) : SameBut k a (settleModel m slot model w) := by
  unfold settleModel
  repeat' (first
    | with_reducible exact hf
    | with_reducible assumption
    | with_reducible exact SameBut.refl _ _
    | with_reducible apply setReq_frame
    | with_reducible apply devWrite_frame
    | with_reducible apply listFoldl_frame
    | split
    | exact fun x hx => hs x (by revert x; decide +kernel)
    | intro _)

theorem discardEntry_frame {k : List Fld} {a : Module} {m : Module} {model slot : Nat}
    (hf : SameBut k a m) (hs : Within [.parts, .slots] k) : SameBut k a (discardEntry m model slot) := by
  unfold discardEntry
  repeat' (first
    | with_reducible exact hf
    | with_reducible apply setReq_frame
    | with_reducible apply settleModel_frame
    | split
    | exact fun x hx => hs x (by revert x; decide +kernel))

theorem completeRun_frame {k : List Fld} {a : Module} {m : Module} {p : Nat} {r : Run} {st : Status} {d : Nat}
    (hf : SameBut k a m) (hs : Within [.start, .fns, .parts, .fabParts, .nodes, .hedgeOut, .freeCtr] k) : SameBut k a (completeRun m p r st
        d) := by
  unfold completeRun
  repeat' (first
    | with_reducible exact hf
    | with_reducible apply Module.setPart_frame
    | with_reducible apply finishV_frame
    | exact fun x hx => hs x (by revert x; decide +kernel))

theorem markProv_frame {k : List Fld} {a : Module} {m : Module} {model : Nat} {e : SetEntry}
    (hf : SameBut k a m) (hs : Within [.slots] k) : SameBut k a (markProv m model e) := by
  unfold markProv
  repeat' (first
    | with_reducible assumption
    | with_reducible apply setReq_frame)

theorem undoEntry_frame {k : List Fld} {a : Module} {m : Module} {model : Nat} {e : SetEntry}
    (hf : SameBut k a m) (hs : Within [.parts, .slots] k) : SameBut k a (undoEntry m model e) := by
  unfold undoEntry
  repeat' (first
    | with_reducible exact hf
    | with_reducible apply discardEntry_frame
    | with_reducible apply markProv_frame
    | exact fun x hx => hs x (by revert x; decide +kernel))

theorem takeBack_frame {k : List Fld} {a : Module} {m : Module} {p num : Nat}
    (hf : SameBut k a m) (hs : Within [.parts, .slots] k) : SameBut k a (takeBack m p num) := by
  unfold takeBack
  repeat' (first
    | with_reducible exact hf
    | with_reducible exact SameBut.refl _ _
    | with_reducible apply Module.setPart_frame
    | with_reducible apply foldM_frame
    | with_reducible apply undoEntry_frame
    | split
    | exact fun x hx => hs x (by revert x; decide +kernel)
    | intro _)

theorem stopRun_frame {k : List Fld} {a : Module} {m : Module} {p : Nat} {r : Run} {st : Status}
    (hf : SameBut k a m) (hs : Within [.start, .fns, .parts, .fabParts, .slots, .nodes, .hedgeOut, .freeCtr] k) : SameBut k a (stopRun m p
        r st) := by
  unfold stopRun
  repeat' (first
    | with_reducible exact hf
    | with_reducible apply SameBut.ite
    | with_reducible apply Module.setPart_frame
    | with_reducible apply completeRun_frame
    | with_reducible apply takeBack_frame
    | exact fun x hx => hs x (by revert x; decide +kernel))

theorem dropSwath_frame {k : List Fld} {a : Module} {m : Module} {p : Nat} {w : Swath}
    (hf : SameBut k a m) (hs : Within [.parts, .cores] k) : SameBut k a (dropSwath m p w) := by
  unfold dropSwath
  repeat' (first
    | with_reducible exact hf
    | with_reducible assumption
    | with_reducible exact SameBut.refl _ _
    | with_reducible apply Module.setPart_frame
    | with_reducible apply foldM_frame
    | with_reducible apply subUsed_frame
    | with_reducible apply unholdPages_frame
    | with_reducible apply emptyPlanes_frame
    | exact fun x hx => hs x (by revert x; decide +kernel)
    | intro _)

theorem cancelMigrations_frame {k : List Fld} {a : Module} {m : Module} {p : Nat} {i : ItemRef}
    (hf : SameBut k a m) (hs : Within [.parts] k) : SameBut k a (cancelMigrations m p i) := by
  unfold cancelMigrations
  repeat' (first
    | with_reducible assumption
    | with_reducible exact SameBut.refl _ _
    | with_reducible apply foldM_frame
    | with_reducible apply subRsvd_frame
    | with_reducible apply setPage_frame
    | split
    | intro _)

theorem coreDark_frame {k : List Fld} {a : Module} {m : Module} {core : Nat}
    (hf : SameBut k a m) (hs : Within [.power] k) : SameBut k a (coreDark m core) := by
  unfold coreDark
  repeat' (first
    | with_reducible assumption
    | with_reducible apply SameBut.ite
    | with_reducible apply Module.setPower_frame)

theorem stopWork_frame {k : List Fld} {a : Module} {m : Module} {t : ItemRef} {x : Item} {p : Nat}
    (hf : SameBut k a m) (hs : Within [.start, .power, .ras, .fns, .parts, .fabParts, .slots, .cores, .nodes, .hedgeOut, .freeCtr] k) :
        SameBut k a (stopWork m t x p) := by
  unfold stopWork
  repeat' (first
    | with_reducible exact hf
    | with_reducible assumption
    | with_reducible exact SameBut.refl _ _
    | extract_lets
    | with_reducible apply SameBut.ite
    | with_reducible apply Module.setPart_frame
    | with_reducible apply Module.setRas_frame
    | with_reducible apply foldM_frame
    | with_reducible apply setItem_frame
    | with_reducible apply releaseClaimed_frame
    | with_reducible apply setReq_frame
    | with_reducible apply release_frame
    | with_reducible apply releaseAborted_frame
    | with_reducible apply stopRun_frame
    | with_reducible apply dropSwath_frame
    | with_reducible apply cancelMigrations_frame
    | with_reducible apply coreDark_frame
    | split
    | exact fun x hx => hs x (by revert x; decide +kernel)
    | intro _)

theorem claimCell_frame {k : List Fld} {m₀ : Module} {m : Module} {a t : ItemRef} {p : Nat}
    (hf : SameBut k m₀ m) (hs : Within [.start, .power, .ras, .fns, .parts, .fabParts, .slots, .cores, .nodes, .hedgeOut, .freeCtr] k) :
        SameBut k m₀ (claimCell m a t p) := by
  unfold claimCell
  repeat' (first
    | with_reducible exact hf
    | with_reducible apply setItem_frame
    | with_reducible apply releaseClaimed_frame
    | with_reducible apply finishAfter_frame
    | with_reducible apply stopWork_frame
    | split
    | exact fun x hx => hs x (by revert x; decide +kernel))

theorem dispatchList_frame {k : List Fld} {a : Module} {y0 : List ItemRef} {m : Module}
    (hf : SameBut k a m) (hs : Within [.start, .fw, .fns, .fabParts, .nodes, .hedgeOut, .freeCtr] k) : SameBut k a (dispatchList y0 m) := by
  induction y0 generalizing m with
  | nil =>
    unfold dispatchList
    exact hf
  | cons z zs ih =>
    unfold dispatchList
    repeat' (first
      | with_reducible exact hf
      | with_reducible assumption
      | with_reducible exact SameBut.refl _ _
      | with_reducible apply Module.setProc_frame
      | with_reducible apply setItem_frame
      | with_reducible apply finishV_frame
      | split
      | exact fun x hx => hs x (by revert x; decide +kernel)
      | with_reducible apply ih)

theorem dispatchRing_frame {k : List Fld} {a : Module} {m : Module} {fn r : Nat}
    (hf : SameBut k a m) (hs : Within [.start, .fw, .fns, .fabParts, .nodes, .hedgeOut, .freeCtr] k) : SameBut k a (dispatchRing m fn r) :=
        by
  unfold dispatchRing
  repeat' (first
    | with_reducible assumption
    | with_reducible apply dispatchList_frame)

theorem dispatchFn_frame {k : List Fld} {a : Module} {m : Module} {fn : Nat}
    (hf : SameBut k a m) (hs : Within [.start, .fw, .fns, .fabParts, .nodes, .hedgeOut, .freeCtr] k) : SameBut k a (dispatchFn m fn) := by
  unfold dispatchFn
  repeat' (first
    | with_reducible assumption
    | with_reducible exact SameBut.refl _ _
    | with_reducible apply foldM_frame
    | with_reducible apply dispatchRing_frame
    | intro _)

theorem dispatchAll_frame {k : List Fld} {a : Module} {m : Module}
    (hf : SameBut k a m) (hs : Within [.start, .fw, .fns, .fabParts, .nodes, .hedgeOut, .freeCtr] k) : SameBut k a (dispatchAll m) := by
  unfold dispatchAll
  repeat' (first
    | with_reducible assumption
    | with_reducible exact SameBut.refl _ _
    | with_reducible apply foldM_frame
    | with_reducible apply dispatchFn_frame
    | intro _)

theorem checkSyncs_frame {k : List Fld} {a : Module} {m : Module} {fn : Nat}
    (hf : SameBut k a m) (hs : Within [.start, .fns, .fabParts, .nodes, .hedgeOut, .freeCtr] k) : SameBut k a (checkSyncs m fn) := by
  unfold checkSyncs
  repeat' (first
    | with_reducible assumption
    | with_reducible exact SameBut.refl _ _
    | with_reducible apply SameBut.ite
    | with_reducible apply foldM_frame
    | with_reducible apply finishV_frame
    | intro _)

theorem syncFn_frame {k : List Fld} {a : Module} {i : ItemRef} {m : Module}
    (hf : SameBut k a m) (hs : Within [.start, .fns, .fabParts, .nodes, .hedgeOut, .freeCtr] k) : SameBut k a (syncFn i m) := by
  unfold syncFn
  repeat' (first
    | with_reducible exact hf
    | with_reducible apply setItem_frame
    | with_reducible apply withItem_frame
    | with_reducible apply checkSyncs_frame
    | exact fun x hx => hs x (by revert x; decide +kernel)
    | intro _)

theorem abortFn_frame {k : List Fld} {a : Module} {i : ItemRef} {m : Module}
    (hf : SameBut k a m) (hs : Within [.start, .power, .fw, .ras, .fns, .parts, .fabParts, .slots, .cores, .nodes, .hedgeOut, .freeCtr] k)
        : SameBut k a (abortFn i m) := by
  unfold abortFn
  repeat' (first
    | with_reducible exact hf
    | with_reducible assumption
    | with_reducible exact SameBut.refl _ _
    | extract_lets
    | with_reducible apply SameBut.ite
    | with_reducible apply Module.setFn_frame
    | with_reducible apply finishAfter_frame
    | with_reducible apply finishV_frame
    | with_reducible apply withItem_frame
    | with_reducible apply startItem_frame
    | with_reducible apply claimCell_frame
    | with_reducible apply dispatchRing_frame
    | split
    | exact fun x hx => hs x (by revert x; decide +kernel)
    | intro _)

theorem meetAborts_frame {k : List Fld} {a : Module} {m : Module} {t : ItemRef} {p : Nat}
    (hf : SameBut k a m) (hs : Within [.start, .power, .ras, .fns, .parts, .fabParts, .slots, .cores, .nodes, .hedgeOut, .freeCtr] k) :
        SameBut k a (meetAborts m t p) := by
  unfold meetAborts
  repeat' (first
    | with_reducible exact hf
    | with_reducible assumption
    | with_reducible exact SameBut.refl _ _
    | with_reducible apply Module.setFn_frame
    | with_reducible apply foldM_frame
    | with_reducible apply finishAfter_frame
    | with_reducible apply finishV_frame
    | with_reducible apply claimCell_frame
    | split
    | exact fun x hx => hs x (by revert x; decide +kernel)
    | intro _)

theorem hostWait_frame {k : List Fld} {a : Module} {m : Module} {p : Nat}
    (hf : SameBut k a m) (hs : Within [.parts] k) : SameBut k a (hostWait m p) := by
  unfold hostWait
  repeat' (first
    | with_reducible assumption
    | with_reducible apply Module.setRegs_frame)

theorem withHost_frame {k : List Fld} {a : Module} {m : Module} {p n : Nat} {g : Module → Module}
    (hf : SameBut k a m) (hs : Within [.parts] k) (hg : ∀ x0, SameBut k a x0 → SameBut k a (g x0)) : SameBut k a (withHost m p n g) := by
  unfold withHost
  repeat' (first
    | with_reducible assumption
    | with_reducible apply hg
    | with_reducible apply SameBut.ite
    | with_reducible apply regTake_frame
    | with_reducible apply hostWait_frame)

theorem queryFn_frame {k : List Fld} {a : Module} {i : ItemRef} {m : Module}
    (hf : SameBut k a m) (hs : Within [.start, .fns, .parts, .fabParts, .nodes, .hedgeOut, .hostOut, .freeCtr] k) : SameBut k a (queryFn i
        m) := by
  unfold queryFn
  repeat' (first
    | with_reducible exact hf
    | with_reducible assumption
    | with_reducible exact SameBut.refl _ _
    | extract_lets
    | (refine SameBut.snd (by assumption) (show SameBut _ _ (_ : _ × _).2 from takeFree_frame ?_ ?_))
    | with_reducible apply emitBytes_frame
    | with_reducible apply finishV_frame
    | with_reducible apply withItem_frame
    | with_reducible apply withHost_frame
    | split
    | exact fun x hx => hs x (by revert x; decide +kernel)
    | intro _)

theorem sqDoorbellFn_frame {k : List Fld} {a : Module} {fn ring : Nat} {value : Word} {m : Module}
    (hf : SameBut k a m) (hs : Within [.start, .fns, .nodes, .hedgeOut] k) : SameBut k a (sqDoorbellFn fn ring value m) := by
  unfold sqDoorbellFn
  repeat' (first
    | with_reducible exact hf
    | with_reducible apply SameBut.ite
    | with_reducible apply Module.setRing_frame
    | with_reducible apply raise_frame
    | exact fun x hx => hs x (by revert x; decide +kernel))

theorem cqDoorbellFn_frame {k : List Fld} {a : Module} {fn ring : Nat} {value : Word} {m : Module}
    (hf : SameBut k a m) (hs : Within [.fns] k) : SameBut k a (cqDoorbellFn fn ring value m) := by
  unfold cqDoorbellFn
  repeat' (first
    | with_reducible assumption
    | with_reducible apply SameBut.ite
    | with_reducible apply Module.setRing_frame)

theorem fetchOne_frame {k : List Fld} {a : Module} {m : Module} {fn ring : Nat} {d : BitVec 512}
    (hf : SameBut k a m) (hs : Within [.start, .power, .ras, .fns, .parts, .fabParts, .slots, .cores, .nodes, .hedgeOut, .freeCtr] k) :
        SameBut k a (fetchOne m fn ring d) := by
  unfold fetchOne
  repeat' (first
    | with_reducible exact hf
    | with_reducible assumption
    | with_reducible apply SameBut.ite
    | with_reducible apply Module.setRing_frame
    | with_reducible apply raise_frame
    | with_reducible apply pushWaiting_frame
    | with_reducible apply meetAborts_frame
    | exact fun x hx => hs x (by revert x; decide +kernel))

theorem fetchAll_frame {k : List Fld} {a : Module} {m : Module} {fn ring : Nat} {y0 : List (BitVec 512)}
    (hf : SameBut k a m) (hs : Within [.start, .power, .ras, .fns, .parts, .fabParts, .slots, .cores, .nodes, .hedgeOut, .freeCtr] k) :
        SameBut k a (fetchAll m fn ring y0) := by
  induction y0 generalizing m with
  | nil =>
    unfold fetchAll
    exact hf
  | cons z zs ih =>
    unfold fetchAll
    repeat' (first
      | with_reducible assumption
      | with_reducible apply SameBut.ite
      | with_reducible apply fetchOne_frame
      | with_reducible apply ih)

theorem descriptorFetchFn_frame {k : List Fld} {a : Module} {fn ring : Nat} {descs : List (BitVec 512)} {m : Module}
    (hf : SameBut k a m) (hs : Within [.start, .power, .fw, .ras, .fns, .parts, .fabParts, .slots, .cores, .nodes, .hedgeOut, .freeCtr] k)
        : SameBut k a (descriptorFetchFn fn ring descs m) := by
  unfold descriptorFetchFn
  repeat' (first
    | with_reducible exact hf
    | with_reducible apply dispatchRing_frame
    | with_reducible apply fetchAll_frame
    | exact fun x hx => hs x (by revert x; decide +kernel))

theorem fetchErrFn_frame {k : List Fld} {a : Module} {fn ring : Nat} {m : Module}
    (hf : SameBut k a m) (hs : Within [.start, .fns, .nodes, .hedgeOut] k) : SameBut k a (fetchErrFn fn ring m) := by
  unfold fetchErrFn
  repeat' (first
    | with_reducible exact hf
    | with_reducible apply SameBut.ite
    | with_reducible apply Module.setRing_frame
    | with_reducible apply raise_frame
    | exact fun x hx => hs x (by revert x; decide +kernel))

theorem hostReadFn_frame {k : List Fld} {a : Module} {i : ItemRef} {timeout : Bool} {addr : Nat} {m : Module}
    (hf : SameBut k a m) (hs : Within [.start, .power, .fw, .ras, .fns, .parts, .fabParts, .slots, .cores, .nodes, .hedgeOut, .freeCtr] k)
        : SameBut k a (hostReadFn i timeout addr m) := by
  unfold hostReadFn
  repeat' (first
    | with_reducible exact hf
    | with_reducible assumption
    | extract_lets
    | with_reducible apply raise_frame
    | with_reducible apply finishV_frame
    | with_reducible apply failRequest_frame
    | with_reducible apply stopWork_frame
    | with_reducible apply dispatchRing_frame
    | split
    | exact fun x hx => hs x (by revert x; decide +kernel))

theorem writeLedger_frame {k : List Fld} {a : Module} {m : Module} {fn ring : Nat} {final : Bool}
    (hf : SameBut k a m) (hs : Within [.fns, .hostOut] k) : SameBut k a (writeLedger m fn ring final) := by
  unfold writeLedger
  repeat' (first
    | with_reducible exact hf
    | with_reducible apply Module.setRing_frame
    | with_reducible apply emit_frame
    | exact fun x hx => hs x (by revert x; decide +kernel))

theorem lateRecord_frame {k : List Fld} {a : Module} {m : Module} {slot : Nat} {q : Request} {w : Waiting}
    (hf : SameBut k a m) (hs : Within [.start, .fns, .parts, .fabParts, .slots, .nodes, .hedgeOut, .freeCtr] k) : SameBut k a (lateRecord m
        slot q w).1 := by
  unfold lateRecord
  repeat' (first
    | with_reducible exact hf
    | with_reducible apply SameBut.ite
    | with_reducible apply Module.setRegs_frame
    | with_reducible apply raise_frame
    | with_reducible apply setItem_frame
    | with_reducible apply endRequest_frame
    | split
    | exact fun x hx => hs x (by revert x; decide +kernel))

theorem putCompletion_frame {k : List Fld} {a : Module} {m : Module} {fn ring : Nat} {w : Waiting}
    (hf : SameBut k a m) (hs : Within [.fns, .hostOut] k) : SameBut k a (putCompletion m fn ring w) := by
  unfold putCompletion
  repeat' (first
    | with_reducible exact hf
    | with_reducible apply SameBut.ite
    | with_reducible apply Module.setRing_frame
    | with_reducible apply emit_frame
    | with_reducible apply setItem_frame
    | exact fun x hx => hs x (by revert x; decide +kernel))

theorem completionWriteFn_frame {k : List Fld} {a : Module} {fn ring : Nat} {m : Module}
    (hf : SameBut k a m) (hs : Within [.start, .fw, .fns, .parts, .fabParts, .slots, .nodes, .hedgeOut, .hostOut, .freeCtr] k) : SameBut k
        a (completionWriteFn fn ring m) := by
  unfold completionWriteFn
  repeat' (first
    | with_reducible exact hf
    | with_reducible assumption
    | with_reducible exact SameBut.refl _ _
    | extract_lets
    | with_reducible apply SameBut.ite
    | with_reducible apply Module.setRing_frame
    | with_reducible apply record_frame
    | with_reducible apply setReq_frame
    | with_reducible apply dispatchFn_frame
    | with_reducible apply checkSyncs_frame
    | with_reducible apply lateRecord_frame
    | with_reducible apply putCompletion_frame
    | split
    | exact fun x hx => hs x (by revert x; decide +kernel)
    | with_reducible apply SameBut.with_slots)

theorem completionBatchCloseFn_frame {k : List Fld} {a : Module} {fn ring : Nat} {m : Module}
    (hf : SameBut k a m) (hs : Within [.tick, .fns, .hostOut] k) : SameBut k a (completionBatchCloseFn fn ring m) := by
  unfold completionBatchCloseFn
  repeat' (first
    | with_reducible exact hf
    | with_reducible apply SameBut.ite
    | with_reducible apply Module.setRing_frame
    | with_reducible apply sendMsix_frame
    | with_reducible apply reachNs_frame
    | with_reducible apply writeLedger_frame
    | exact fun x hx => hs x (by revert x; decide +kernel))

theorem completionIntTimerFn_frame {k : List Fld} {a : Module} {fn ring : Nat} {m : Module}
    (hf : SameBut k a m) (hs : Within [.tick, .fns, .hostOut] k) : SameBut k a (completionIntTimerFn fn ring m) := by
  unfold completionIntTimerFn
  repeat' (first
    | with_reducible exact hf
    | with_reducible apply SameBut.ite
    | with_reducible apply Module.setRing_frame
    | with_reducible apply sendMsix_frame
    | with_reducible apply reachNs_frame
    | exact fun x hx => hs x (by revert x; decide +kernel))

theorem eventBatchCloseFn_frame {k : List Fld} {a : Module} {fn : Nat} {m : Module}
    (hf : SameBut k a m) (hs : Within [.fns, .hostOut] k) : SameBut k a (eventBatchCloseFn fn m) := by
  unfold eventBatchCloseFn
  repeat' (first
    | with_reducible exact hf
    | with_reducible apply SameBut.ite
    | with_reducible apply Module.setFn_frame
    | with_reducible apply sendMsix_frame
    | exact fun x hx => hs x (by revert x; decide +kernel))

theorem mgmtResponseBatchCloseFn_frame {k : List Fld} {a : Module} {fn : Nat} {m : Module}
    (hf : SameBut k a m) (hs : Within [.fns, .hostOut] k) : SameBut k a (mgmtResponseBatchCloseFn fn m) := by
  unfold mgmtResponseBatchCloseFn
  repeat' (first
    | with_reducible exact hf
    | with_reducible apply SameBut.ite
    | with_reducible apply Module.setFn_frame
    | with_reducible apply sendMsix_frame
    | exact fun x hx => hs x (by revert x; decide +kernel))

theorem failItem_frame {k : List Fld} {a : Module} {m : Module} {p : Nat} {x : Item} {st : Status} {v : Nat}
    (hf : SameBut k a m) (hs : Within [.start, .power, .ras, .fns, .parts, .fabParts, .slots, .cores, .nodes, .hedgeOut, .freeCtr] k) :
        SameBut k a (failItem m p x st v) := by
  unfold failItem
  repeat' (first
    | with_reducible exact hf
    | with_reducible apply finishV_frame
    | with_reducible apply stopWork_frame
    | exact fun x hx => hs x (by revert x; decide +kernel))

theorem poisonPages_frame {k : List Fld} {a : Module} {m : Module} {p t unit : Nat} {pages : List Nat}
    (hf : SameBut k a m) (hs : Within [.start, .power, .ras, .fns, .parts, .fabParts, .slots, .clusters, .cores, .nodes, .hedgeOut,
        .fabric, .xfers, .netOut, .freeCtr] k) : SameBut k a (poisonPages m p t unit pages) := by
  unfold poisonPages
  repeat' (first
    | with_reducible exact hf
    | with_reducible assumption
    | with_reducible exact SameBut.refl _ _
    | with_reducible apply SameBut.ite
    | with_reducible apply foldM_frame
    | with_reducible apply faultTask_frame
    | with_reducible apply poisonPage_frame
    | with_reducible apply failItem_frame
    | exact fun x hx => hs x (by revert x; decide +kernel)
    | intro _)

theorem tierFailureFn_frame {k : List Fld} {a : Module} {tier unit part page : Nat} {m : Module}
    (hf : SameBut k a m) (hs : Within [.start, .power, .ras, .fns, .parts, .fabParts, .slots, .clusters, .cores, .nodes, .hedgeOut,
        .fabric, .xfers, .netOut, .freeCtr] k) : SameBut k a (tierFailureFn tier unit part page m) := by
  unfold tierFailureFn
  repeat' (first
    | with_reducible assumption
    | with_reducible apply SameBut.ite
    | with_reducible apply poisonPages_frame)

theorem loseGranules_frame {k : List Fld} {a : Module} {m : Module} {t unit : Nat}
    (hf : SameBut k a m) (hs : Within [.start, .power, .ras, .fns, .parts, .fabParts, .slots, .clusters, .cores, .nodes, .hedgeOut,
        .fabric, .xfers, .netOut, .freeCtr] k) : SameBut k a (loseGranules m t unit) := by
  unfold loseGranules
  repeat' (first
    | with_reducible assumption
    | with_reducible exact SameBut.refl _ _
    | with_reducible apply foldM_frame
    | with_reducible apply poisonPages_frame
    | intro _)

theorem loseSward_frame {ks : List Fld} {a : Module} {m : Module} {k : Nat}
    (hf : SameBut ks a m) (hs : Within [.start, .power, .ras, .mem, .fns, .parts, .fabParts, .slots, .clusters, .cores, .nodes, .hedgeOut,
        .fabric, .xfers, .netOut, .freeCtr] ks) : SameBut ks a (loseSward m k) := by
  unfold loseSward
  repeat' (first
    | with_reducible exact hf
    | with_reducible apply SameBut.ite
    | with_reducible apply Module.setUnits_frame
    | with_reducible apply raise_frame
    | with_reducible apply loseGranules_frame
    | exact fun x hx => hs x (by revert x; decide +kernel))

theorem loseLeyChannel_frame {k : List Fld} {a : Module} {m : Module} {c : Nat}
    (hf : SameBut k a m) (hs : Within [.start, .power, .ras, .mem, .fns, .parts, .fabParts, .slots, .clusters, .cores, .nodes, .hedgeOut,
        .fabric, .xfers, .netOut, .freeCtr] k) : SameBut k a (loseLeyChannel m c) := by
  unfold loseLeyChannel
  repeat' (first
    | with_reducible exact hf
    | with_reducible apply SameBut.ite
    | with_reducible apply Module.setUnits_frame
    | with_reducible apply raise_frame
    | with_reducible apply loseGranules_frame
    | exact fun x hx => hs x (by revert x; decide +kernel))

theorem loseLeyGroup_frame {k : List Fld} {a : Module} {m : Module} {g : Nat}
    (hf : SameBut k a m) (hs : Within [.start, .power, .ras, .mem, .fns, .parts, .fabParts, .slots, .clusters, .cores, .nodes, .hedgeOut,
        .fabric, .xfers, .netOut, .freeCtr] k) : SameBut k a (loseLeyGroup m g) := by
  unfold loseLeyGroup
  repeat' (first
    | with_reducible exact hf
    | with_reducible assumption
    | with_reducible exact SameBut.refl _ _
    | extract_lets
    | with_reducible apply SameBut.ite
    | with_reducible apply Module.setUnits_frame
    | with_reducible apply foldM_frame
    | with_reducible apply raise_frame
    | with_reducible apply loseGranules_frame
    | exact fun x hx => hs x (by revert x; decide +kernel)
    | intro _)

theorem loseHeath_frame {ks : List Fld} {a : Module} {m : Module} {k : Nat}
    (hf : SameBut ks a m) (hs : Within [.start, .power, .ras, .mem, .fns, .parts, .fabParts, .slots, .clusters, .cores, .nodes, .hedgeOut,
        .fabric, .xfers, .netOut, .freeCtr] ks) : SameBut ks a (loseHeath m k) := by
  unfold loseHeath
  repeat' (first
    | with_reducible exact hf
    | with_reducible apply SameBut.ite
    | with_reducible apply Module.setUnits_frame
    | with_reducible apply raise_frame
    | with_reducible apply loseGranules_frame
    | exact fun x hx => hs x (by revert x; decide +kernel))

theorem correctedFn_frame {k : List Fld} {a : Module} {place : ErrPlace} {m : Module}
    (hf : SameBut k a m) (hs : Within [.start, .power, .flash, .ras, .fns, .parts, .fabParts, .slots, .clusters, .cores, .nodes, .hedgeOut,
        .fabric, .xfers, .netOut, .freeCtr] k) : SameBut k a (correctedFn place m) := by
  unfold correctedFn
  repeat' (first
    | with_reducible exact hf
    | with_reducible apply countCorrected_frame
    | with_reducible apply coreCorrected_frame
    | split
    | exact fun x hx => hs x (by revert x; decide +kernel))

theorem countUe_frame {k : List Fld} {a : Module} {m : Module} {place : ErrPlace}
    (hf : SameBut k a m) (hs : Within [.start, .ras, .fns, .nodes, .hedgeOut] k) : SameBut k a (countUe m place) := by
  unfold countUe
  repeat' (first
    | with_reducible exact hf
    | with_reducible apply Module.setRas_frame
    | with_reducible apply raisePlace_frame
    | exact fun x hx => hs x (by revert x; decide +kernel))

theorem uncorrectableFn_frame {k : List Fld} {a : Module} {place : ErrPlace} {m : Module}
    (hf : SameBut k a m) (hs : Within [.start, .power, .flash, .ras, .fns, .parts, .fabParts, .slots, .clusters, .cores, .nodes, .hedgeOut,
        .fabric, .xfers, .netOut, .freeCtr] k) : SameBut k a (uncorrectableFn place m) := by
  unfold uncorrectableFn
  repeat' (first
    | with_reducible exact hf
    | with_reducible assumption
    | with_reducible exact SameBut.refl _ _
    | with_reducible apply foldM_frame
    | with_reducible apply faultTask_frame
    | with_reducible apply coreUncorrectable_frame
    | with_reducible apply tierFailureFn_frame
    | with_reducible apply countUe_frame
    | split
    | exact fun x hx => hs x (by revert x; decide +kernel)
    | intro _)

theorem latentFn_frame {k : List Fld} {a : Module} {place : ErrPlace} {m : Module}
    (hf : SameBut k a m) (hs : Within [.start, .power, .ras, .fns, .parts, .fabParts, .slots, .clusters, .cores, .nodes, .hedgeOut,
        .fabric, .xfers, .netOut, .freeCtr] k) : SameBut k a (latentFn place m) := by
  unfold latentFn
  repeat' (first
    | with_reducible exact hf
    | with_reducible assumption
    | with_reducible exact SameBut.refl _ _
    | with_reducible apply Module.setRas_frame
    | with_reducible apply foldM_frame
    | with_reducible apply raisePlace_frame
    | with_reducible apply poisonPage_frame
    | with_reducible apply failItem_frame
    | split
    | exact fun x hx => hs x (by revert x; decide +kernel)
    | intro _)

theorem rasFenceFn_frame {k : List Fld} {a : Module} {fn : Nat} {value : Word} {m : Module}
    (hf : SameBut k a m) (hs : Within [.start, .power, .flash, .ras, .fns, .parts, .fabParts, .slots, .clusters, .cores, .nodes, .hedgeOut,
        .fabric, .xfers, .netOut, .freeCtr] k) : SameBut k a (rasFenceFn fn value m) := by
  unfold rasFenceFn
  repeat' (first
    | with_reducible exact hf
    | with_reducible assumption
    | with_reducible apply SameBut.ite
    | with_reducible apply fence_frame
    | with_reducible apply regWrite_frame
    | with_reducible apply refuseRas_frame
    | exact fun x hx => hs x (by revert x; decide +kernel)
    | intro _)

theorem patrolScrubFn_frame {k : List Fld} {a : Module} {unit lines : Nat} {m : Module}
    (hf : SameBut k a m) (hs : Within [.ras] k) : SameBut k a (patrolScrubFn unit lines m) := by
  unfold patrolScrubFn
  repeat' (first
    | with_reducible assumption
    | with_reducible apply SameBut.ite
    | with_reducible apply Module.setRas_frame)

theorem replaced_frame {k : List Fld} {a : Module} {m : Module} {p core : Nat}
    (hf : SameBut k a m) (hs : Within [.start, .ras, .fns, .parts, .fabParts, .slots, .clusters, .cores, .nodes, .hedgeOut, .fabric,
        .xfers, .netOut, .freeCtr] k) : SameBut k a (replaced m p core) := by
  unfold replaced
  repeat' (first
    | with_reducible exact hf
    | with_reducible assumption
    | extract_lets
    | with_reducible apply Module.setPart_frame
    | with_reducible apply Module.setRas_frame
    | with_reducible apply issueHedge_frame
    | with_reducible apply endRecovery_frame
    | with_reducible apply jobStop_frame
    | split
    | exact fun x hx => hs x (by revert x; decide +kernel))

theorem doReplacement_frame {k : List Fld} {a : Module} {m : Module} {p core : Nat}
    (hf : SameBut k a m) (hs : Within [.start, .ras, .fns, .parts, .fabParts, .slots, .clusters, .cores, .nodes, .hedgeOut, .fabric,
        .xfers, .netOut, .freeCtr] k) : SameBut k a (doReplacement m p core) := by
  unfold doReplacement
  repeat' (first
    | with_reducible exact hf
    | with_reducible apply SameBut.ite
    | with_reducible apply replaceAll_frame
    | with_reducible apply jobStop_frame
    | with_reducible apply replaced_frame
    | exact fun x hx => hs x (by revert x; decide +kernel))

theorem replacementDoneFn_frame {k : List Fld} {a : Module} {part core : Nat} {m : Module}
    (hf : SameBut k a m) (hs : Within [.start, .ras, .fns, .parts, .fabParts, .slots, .clusters, .cores, .nodes, .hedgeOut, .fabric,
        .xfers, .netOut, .freeCtr] k) : SameBut k a (replacementDoneFn part core m) := by
  unfold replacementDoneFn
  repeat' (first
    | with_reducible exact hf
    | extract_lets
    | with_reducible apply Module.setClu_frame
    | with_reducible apply doReplacement_frame
    | split
    | exact fun x hx => hs x (by revert x; decide +kernel))

theorem refreshRoles_frame {k : List Fld} {a : Module} {m : Module}
    (hf : SameBut k a m) (hs : Within [.fabric] k) : SameBut k a (refreshRoles m) := by
  unfold refreshRoles
  repeat' (first
    | with_reducible exact hf
    | with_reducible assumption
    | with_reducible exact SameBut.refl _ _
    | with_reducible apply Module.setLink_frame
    | with_reducible apply Module.setFabric_frame
    | with_reducible apply listFoldl_frame
    | intro _)

theorem sbQueue_frame {k : List Fld} {a : Module} {m : Module} {rtype : Nat} {body : List Byte}
    (hf : SameBut k a m) (hs : Within [.netOut, .sb] k) : SameBut k a (sbQueue m rtype body) := by
  unfold sbQueue
  repeat' (first
    | with_reducible exact hf
    | with_reducible apply SameBut.ite
    | with_reducible apply Module.setSb_frame
    | with_reducible apply emitNet_frame
    | exact fun x hx => hs x (by revert x; decide +kernel))

theorem stopJobsOn_frame {k : List Fld} {a : Module} {m : Module} {c : Coord} {l detail : Nat}
    (hf : SameBut k a m) (hs : Within [.start, .ras, .fns, .parts, .fabParts, .slots, .clusters, .cores, .nodes, .hedgeOut, .fabric,
        .xfers, .netOut, .freeCtr] k) : SameBut k a (stopJobsOn m c l detail) := by
  unfold stopJobsOn
  repeat' (first
    | with_reducible exact hf
    | with_reducible assumption
    | with_reducible exact SameBut.refl _ _
    | with_reducible apply foldM_frame
    | with_reducible apply markStopped_frame
    | with_reducible apply endRecovery_frame
    | with_reducible apply faultNow_frame
    | exact fun x hx => hs x (by revert x; decide +kernel)
    | intro _)

theorem loseLink_frame {k : List Fld} {a : Module} {m : Module} {l cause : Nat}
    (hf : SameBut k a m) (hs : Within [.start, .ras, .fns, .parts, .fabParts, .slots, .clusters, .cores, .nodes, .hedgeOut, .fabric,
        .xfers, .netOut, .freeCtr] k) : SameBut k a (loseLink m l cause) := by
  unfold loseLink
  repeat' (first
    | with_reducible exact hf
    | with_reducible assumption
    | with_reducible apply SameBut.ite
    | with_reducible apply Module.setLink_frame
    | with_reducible apply raise_frame
    | with_reducible apply issueHedge_frame
    | with_reducible apply refreshRoles_frame
    | with_reducible apply stopJobsOn_frame
    | exact fun x hx => hs x (by revert x; decide +kernel))

theorem linkTrainedFn_frame {k : List Fld} {a : Module} {link slice : Nat} {coord : Coord} {peer delay : Nat} {m : Module}
    (hf : SameBut k a m) (hs : Within [.fabric] k) : SameBut k a (linkTrainedFn link slice coord peer delay m) := by
  unfold linkTrainedFn
  repeat' (first
    | with_reducible assumption
    | with_reducible apply SameBut.ite
    | with_reducible apply Module.setLink_frame)

theorem linkDownFn_frame {k : List Fld} {a : Module} {link cause : Nat} {m : Module}
    (hf : SameBut k a m) (hs : Within [.start, .ras, .fns, .parts, .fabParts, .slots, .clusters, .cores, .nodes, .hedgeOut, .fabric,
        .xfers, .netOut, .freeCtr] k) : SameBut k a (linkDownFn link cause m) := by
  unfold linkDownFn
  repeat' (first
    | with_reducible assumption
    | with_reducible apply loseLink_frame)

theorem refuseFabric_frame {k : List Fld} {a : Module} {m : Module} {off : Nat}
    (hf : SameBut k a m) (hs : Within [.start, .fns, .nodes, .hedgeOut, .fabric] k) : SameBut k a (refuseFabric m off) := by
  unfold refuseFabric
  repeat' (first
    | with_reducible assumption
    | with_reducible apply Module.setFabric_frame
    | with_reducible apply refuse_frame
    | exact fun x hx => hs x (by revert x; decide +kernel)
    | intro _)

theorem retrainFn_frame {k : List Fld} {a m : Module} {fn : Nat} {value : Word} (hf : SameBut k a m)
    (hs : Within [.start, .fns, .nodes, .hedgeOut, .fabric] k) : SameBut k a (retrainFn fn value m) := by
  refine regWrite_frame hf (fun x hx => hs x (by revert x; decide +kernel)) fun x h => ?_
  dsimp only
  repeat' (first
    | with_reducible exact h
    | exact fun x hx => hs x (by revert x; decide +kernel)
    | with_reducible apply refuseFabric_frame
    | with_reducible apply Module.setLink_frame
    | split)

theorem sendSync_frame {k : List Fld} {a : Module} {m : Module} {l : Nat} {fwd : Bool}
    (hf : SameBut k a m) (hs : Within [.netOut] k) : SameBut k a (sendSync m l fwd) := by
  unfold sendSync
  repeat' (first
    | with_reducible assumption
    | with_reducible apply emitNet_frame)

theorem syncWordSendFn_frame {k : List Fld} {a : Module} {link : Nat} {fwd : Bool} {m : Module}
    (hf : SameBut k a m) (hs : Within [.netOut] k) : SameBut k a (syncWordSendFn link fwd m) := by
  unfold syncWordSendFn
  repeat' (first
    | with_reducible assumption
    | with_reducible apply SameBut.ite
    | with_reducible apply sendSync_frame)

theorem checkLink_frame {k : List Fld} {a : Module} {m : Module} {s : SliceRec} {l : Nat} {w : SyncWord} {delay : Int}
    (hf : SameBut k a m) (hs : Within [.fabric] k) : SameBut k a (checkLink m s l w delay) := by
  unfold checkLink
  repeat' (first
    | with_reducible assumption
    | with_reducible apply Module.setLink_frame
    | with_reducible apply refreshRoles_frame)

theorem followWord_frame {k : List Fld} {a : Module} {m : Module} {w : SyncWord}
    (hf : SameBut k a m) (hs : Within [.tick, .start, .fns, .nodes, .hedgeOut, .fabric] k) : SameBut k a (followWord m w) := by
  unfold followWord
  repeat' (first
    | with_reducible exact hf
    | with_reducible apply SameBut.ite
    | with_reducible apply Module.setTick_frame
    | with_reducible apply Module.setFabric_frame
    | with_reducible apply raise_frame
    | with_reducible apply refreshRoles_frame
    | exact fun x hx => hs x (by revert x; decide +kernel))

theorem syncLost_frame {k : List Fld} {a : Module} {m : Module} {st : Sync} {offsetNs : Int}
    (hf : SameBut k a m) (hs : Within [.tick, .start, .fns, .nodes, .hedgeOut] k) : SameBut k a (syncLost m st offsetNs) := by
  unfold syncLost
  repeat' (first
    | with_reducible exact hf
    | with_reducible apply SameBut.ite
    | with_reducible apply Module.setTick_frame
    | with_reducible apply raise_frame
    | exact fun x hx => hs x (by revert x; decide +kernel))

theorem enterAcquire_frame {k : List Fld} {a : Module} {m : Module} {w : SyncWord} {off : Int}
    (hf : SameBut k a m) (hs : Within [.tick] k) : SameBut k a (enterAcquire m w off) := by
  unfold enterAcquire
  repeat' (first
    | with_reducible assumption
    | with_reducible apply Module.setTick_frame)

theorem syncStep_frame {k : List Fld} {a : Module} {m : Module} {w : SyncWord} {off : Int}
    (hf : SameBut k a m) (hs : Within [.tick, .start, .fns, .nodes, .hedgeOut] k) : SameBut k a (syncStep m w off) := by
  unfold syncStep
  repeat' (first
    | with_reducible exact hf
    | extract_lets
    | with_reducible apply Module.setTick_frame
    | with_reducible apply syncLost_frame
    | with_reducible apply enterAcquire_frame
    | split
    | exact fun x hx => hs x (by revert x; decide +kernel))

theorem takeWord_frame {k : List Fld} {a : Module} {m : Module} {l : Nat} {w : SyncWord} {delay : Option Int}
    (hf : SameBut k a m) (hs : Within [.tick, .start, .fns, .nodes, .hedgeOut, .fabric, .netOut] k) : SameBut k a (takeWord m l w delay) :=
        by
  unfold takeWord
  repeat' (first
    | with_reducible exact hf
    | with_reducible assumption
    | with_reducible exact SameBut.refl _ _
    | extract_lets
    | with_reducible apply SameBut.ite
    | with_reducible apply Module.setTick_frame
    | with_reducible apply Module.setFabric_frame
    | with_reducible apply foldM_frame
    | with_reducible apply sendSync_frame
    | with_reducible apply syncStep_frame
    | exact fun x hx => hs x (by revert x; decide +kernel)
    | intro _
    | (dsimp +zetaDelta only; split))

theorem syncWordReceiveFn_frame {k : List Fld} {a : Module} {link : Nat} {w : SyncWord} {m : Module}
    (hf : SameBut k a m) (hs : Within [.tick, .start, .ras, .fns, .parts, .fabParts, .slots, .clusters, .cores, .nodes, .hedgeOut, .fabric,
        .xfers, .netOut, .freeCtr] k) : SameBut k a (syncWordReceiveFn link w m) := by
  unfold syncWordReceiveFn
  repeat' (first
    | with_reducible exact hf
    | with_reducible assumption
    | with_reducible exact SameBut.refl _ _
    | extract_lets
    | with_reducible apply SameBut.ite
    | with_reducible apply Module.setLink_frame
    | with_reducible apply refreshRoles_frame
    | with_reducible apply loseLink_frame
    | with_reducible apply checkLink_frame
    | with_reducible apply followWord_frame
    | with_reducible apply takeWord_frame
    | split
    | exact fun x hx => hs x (by revert x; decide +kernel)
    | (dsimp +zetaDelta only; split))

theorem boundaryArmFn_frame {k : List Fld} {a : Module} {m : Module}
    (hf : SameBut k a m) (hs : Within [.tick] k) : SameBut k a (boundaryArmFn m) := by
  unfold boundaryArmFn
  repeat' (first
    | with_reducible assumption
    | with_reducible apply SameBut.ite
    | with_reducible apply Module.setTick_frame
    | with_reducible apply reachNs_frame)

theorem syncStopFn_frame {k : List Fld} {a : Module} {m : Module}
    (hf : SameBut k a m) (hs : Within [.tick, .start, .fns, .nodes, .hedgeOut] k) : SameBut k a (syncStopFn m) := by
  unfold syncStopFn
  repeat' (first
    | with_reducible exact hf
    | with_reducible apply SameBut.ite
    | with_reducible apply reachNs_frame
    | with_reducible apply syncLost_frame
    | exact fun x hx => hs x (by revert x; decide +kernel))

theorem rampAll_frame {k : List Fld} {a : Module} {m : Module} {slope : Nat}
    (hf : SameBut k a m) (hs : Within [.power, .fabric, .netOut] k) : SameBut k a (rampAll m slope) := by
  unfold rampAll
  repeat' (first
    | with_reducible exact hf
    | with_reducible apply Module.setPower_frame
    | with_reducible apply issueHedge_frame
    | exact fun x hx => hs x (by revert x; decide +kernel))

theorem takeoverFn_frame {k : List Fld} {a : Module} {m : Module}
    (hf : SameBut k a m) (hs : Within [.tick, .start, .power, .fns, .nodes, .hedgeOut, .fabric, .netOut, .sb] k) : SameBut k a (takeoverFn
        m) := by
  unfold takeoverFn
  repeat' (first
    | with_reducible exact hf
    | with_reducible assumption
    | with_reducible exact SameBut.refl _ _
    | extract_lets
    | with_reducible apply SameBut.ite
    | with_reducible apply Module.setTick_frame
    | with_reducible apply Module.setFabric_frame
    | with_reducible apply raise_frame
    | with_reducible apply reachNs_frame
    | with_reducible apply refreshRoles_frame
    | with_reducible apply sbQueue_frame
    | with_reducible apply rampAll_frame
    | exact fun x hx => hs x (by revert x; decide +kernel))

theorem fabJobWrite_frame {k : List Fld} {a : Module} {fn : Nat} {value : Word} {m : Module}
    (hf : SameBut k a m) (hs : Within [.start, .fns, .parts, .fabParts, .nodes, .hedgeOut] k) : SameBut k a (fabJobWrite fn value m) := by
  unfold fabJobWrite
  repeat' (first
    | with_reducible exact hf
    | with_reducible assumption
    | with_reducible apply SameBut.ite
    | with_reducible apply Module.setFab_frame
    | with_reducible apply noteRead_frame
    | with_reducible apply regWrite_frame
    | with_reducible apply refuseFab_frame
    | exact fun x hx => hs x (by revert x; decide +kernel)
    | intro _)

theorem actOnStop_frame {k : List Fld} {a : Module} {m : Module} {link : Nat} {lost : Option (Coord × Nat)} {job gen core : Nat}
    (hf : SameBut k a m) (hs : Within [.start, .ras, .fns, .parts, .fabParts, .slots, .clusters, .cores, .nodes, .hedgeOut, .fabric,
        .xfers, .netOut, .freeCtr] k) : SameBut k a (actOnStop m link lost job gen core) := by
  unfold actOnStop
  repeat' (first
    | with_reducible exact hf
    | with_reducible assumption
    | with_reducible exact SameBut.refl _ _
    | with_reducible apply foldM_frame
    | with_reducible apply abortTask_frame
    | with_reducible apply markStopped_frame
    | with_reducible apply stopJobsOn_frame
    | split
    | exact fun x hx => hs x (by revert x; decide +kernel)
    | intro _)

theorem actOnRamp_frame {k : List Fld} {a : Module} {m : Module} {slope boundary : Nat}
    (hf : SameBut k a m) (hs : Within [.power] k) : SameBut k a (actOnRamp m slope boundary) := by
  unfold actOnRamp
  repeat' (first
    | with_reducible assumption
    | with_reducible apply Module.setPower_frame)

theorem replayPart_frame {k : List Fld} {a : Module} {m : Module} {p model step boundary : Nat}
    (hf : SameBut k a m) (hs : Within [.start, .ras, .fns, .parts, .fabParts, .slots, .clusters, .cores, .nodes, .hedgeOut, .fabric,
        .xfers, .netOut, .freeCtr] k) : SameBut k a (replayPart m p model step boundary) := by
  unfold replayPart
  repeat' (first
    | with_reducible exact hf
    | with_reducible apply Module.setPart_frame
    | with_reducible apply clearStep_frame
    | with_reducible apply jobStop_frame
    | split
    | exact fun x hx => hs x (by revert x; decide +kernel))

theorem actOnReplay_frame {k : List Fld} {a : Module} {m : Module} {job gen model step boundary : Nat}
    (hf : SameBut k a m) (hs : Within [.start, .ras, .fns, .parts, .fabParts, .slots, .clusters, .cores, .nodes, .hedgeOut, .fabric,
        .xfers, .netOut, .freeCtr] k) : SameBut k a (actOnReplay m job gen model step boundary) := by
  unfold actOnReplay
  repeat' (first
    | with_reducible assumption
    | with_reducible exact SameBut.refl _ _
    | with_reducible apply SameBut.ite
    | with_reducible apply foldM_frame
    | with_reducible apply replayPart_frame
    | intro _)

theorem takeHedge_frame {k : List Fld} {a : Module} {m : Module} {link : Nat} {origin : Coord} {oseq cls : Nat} {payload : List Nat} {act :
    Module → Module}
    (hf : SameBut k a m) (hs : Within [.fabric, .netOut] k) (hact : ∀ x0, SameBut k a x0 → SameBut k a (act x0)) : SameBut k a (takeHedge m
        link origin oseq cls payload act) := by
  unfold takeHedge
  repeat' (first
    | with_reducible exact hf
    | with_reducible apply hact
    | with_reducible apply SameBut.ite
    | with_reducible apply Module.setFabric_frame
    | with_reducible apply forwardHedge_frame
    | exact fun x hx => hs x (by revert x; decide +kernel))

theorem actOnPayload_frame {k : List Fld} {a : Module} {link cls : Nat} {payload : List Nat} {m : Module}
    (hf : SameBut k a m) (hs : Within [.start, .power, .ras, .fns, .parts, .fabParts, .slots, .clusters, .cores, .nodes, .hedgeOut,
        .fabric, .xfers, .netOut, .freeCtr] k) : SameBut k a (actOnPayload link cls payload m) := by
  unfold actOnPayload
  repeat' (first
    | with_reducible exact hf
    | with_reducible apply actOnStop_frame
    | with_reducible apply actOnRamp_frame
    | with_reducible apply actOnReplay_frame
    | split
    | exact fun x hx => hs x (by revert x; decide +kernel))

theorem jobStopOrderFn_frame {k : List Fld} {a : Module} {link : Nat} {origin : Coord} {oseq : Nat} {lost : Option (Coord × Nat)} {job gen
    core : Nat} {m : Module}
    (hf : SameBut k a m) (hs : Within [.start, .ras, .fns, .parts, .fabParts, .slots, .clusters, .cores, .nodes, .hedgeOut, .fabric,
        .xfers, .netOut, .freeCtr] k) : SameBut k a (jobStopOrderFn link origin oseq lost job gen core m) := by
  unfold jobStopOrderFn
  repeat' (first
    | with_reducible assumption
    | with_reducible apply actOnStop_frame
    | with_reducible apply takeHedge_frame
    | exact fun x hx => hs x (by revert x; decide +kernel)
    | intro _)

theorem rampOrderFn_frame {k : List Fld} {a : Module} {link : Nat} {origin : Coord} {oseq slope boundary : Nat} {m : Module}
    (hf : SameBut k a m) (hs : Within [.power, .fabric, .netOut] k) : SameBut k a (rampOrderFn link origin oseq slope boundary m) := by
  unfold rampOrderFn
  repeat' (first
    | with_reducible assumption
    | with_reducible apply actOnRamp_frame
    | with_reducible apply takeHedge_frame
    | exact fun x hx => hs x (by revert x; decide +kernel)
    | intro _)

theorem replayOrderFn_frame {k : List Fld} {a : Module} {job gen model step boundary : Nat} {m : Module}
    (hf : SameBut k a m) (hs : Within [.start, .ras, .fns, .parts, .fabParts, .slots, .clusters, .cores, .nodes, .hedgeOut, .fabric,
        .xfers, .netOut, .freeCtr] k) : SameBut k a (replayOrderFn job gen model step boundary m) := by
  unfold replayOrderFn
  repeat' (first
    | with_reducible assumption
    | with_reducible apply actOnReplay_frame)

theorem routeFrame_frame {k : List Fld} {a : Module} {m : Module} {from_ : Option (Nat × Nat)} {dest : Coord} {chan : Nat} {mk : Nat →
    FrameBody}
    (hf : SameBut k a m) (hs : Within [.fabric, .netOut] k) : SameBut k a (routeFrame m from_ dest chan mk) := by
  unfold routeFrame
  repeat' (first
    | with_reducible assumption
    | with_reducible apply sendFrame_frame
    | split)

theorem noteFrame_frame {k : List Fld} {a : Module} {m : Module} {p prog idx l : Nat}
    (hf : SameBut k a m) (hs : Within [.xfers] k) : SameBut k a (noteFrame m p prog idx l) := by
  unfold noteFrame
  repeat' (first
    | with_reducible assumption
    | with_reducible apply SameBut.with_xfers)

theorem sendRun_frame {k : List Fld} {a : Module} {p : Nat} {prog idx : Nat} {d : XfDesc} {dest : Coord} {bytes : List Byte} {off0 : Nat}
    {m : Module}
    (hf : SameBut k a m) (hs : Within [.fabric, .xfers, .netOut] k) : SameBut k a (sendRun p prog idx d dest bytes off0 m) := by
  unfold sendRun
  repeat' (first
    | with_reducible exact hf
    | with_reducible assumption
    | with_reducible exact SameBut.refl _ _
    | extract_lets
    | with_reducible apply foldM_frame
    | with_reducible apply routeFrame_frame
    | with_reducible apply noteFrame_frame
    | exact fun x hx => hs x (by revert x; decide +kernel)
    | intro _
    | (dsimp +zetaDelta only; split))

theorem putXfer_frame {k : List Fld} {a : Module} {m : Module} {x : Xfer}
    (hf : SameBut k a m) (hs : Within [.xfers] k) : SameBut k a (putXfer m x) := by
  unfold putXfer
  repeat' (first
    | with_reducible assumption
    | with_reducible apply SameBut.with_xfers)

theorem landAt_frame {k : List Fld} {m₀ : Module} {m : Module} {p a : Nat} {bs : List Byte}
    (hf : SameBut k m₀ m) (hs : Within [.start, .ras, .fns, .parts, .fabParts, .slots, .clusters, .cores, .nodes, .hedgeOut, .fabric,
        .xfers, .netOut, .freeCtr] k) : SameBut k m₀ (landAt m p a bs) := by
  unfold landAt
  repeat' (first
    | with_reducible exact hf
    | with_reducible apply devWrite_frame
    | with_reducible apply rangeFault_frame
    | with_reducible apply tierFault_frame
    | with_reducible apply tierTake_frame
    | split
    | exact fun x hx => hs x (by revert x; decide +kernel))

theorem countSums_frame {k : List Fld} {a : Module} {m : Module} {p nan inf : Nat}
    (hf : SameBut k a m) (hs : Within [.parts] k) : SameBut k a (countSums m p nan inf) := by
  unfold countSums
  repeat' (first
    | with_reducible assumption
    | with_reducible apply Module.setRegs_frame)

theorem finishReduce_frame {k : List Fld} {a : Module} {m : Module} {p : Nat} {x : Xfer} {d : XfDesc}
    (hf : SameBut k a m) (hs : Within [.start, .ras, .fns, .parts, .fabParts, .slots, .clusters, .cores, .nodes, .hedgeOut, .fabric,
        .xfers, .netOut, .freeCtr] k) : SameBut k a (finishReduce m p x d) := by
  unfold finishReduce
  repeat' (first
    | with_reducible exact hf
    | with_reducible assumption
    | with_reducible exact SameBut.refl _ _
    | with_reducible apply SameBut.ite
    | with_reducible apply foldM_frame
    | with_reducible apply sendRun_frame
    | with_reducible apply putXfer_frame
    | with_reducible apply landAt_frame
    | with_reducible apply countSums_frame
    | exact fun x hx => hs x (by revert x; decide +kernel)
    | intro _)

theorem contribute_frame {k : List Fld} {a : Module} {m : Module} {p : Nat} {x : Xfer} {d : XfDesc} {src : Nat} {bs : List Byte} {last :
    Bool}
    (hf : SameBut k a m) (hs : Within [.start, .ras, .fns, .parts, .fabParts, .slots, .clusters, .cores, .nodes, .hedgeOut, .fabric,
        .xfers, .netOut, .freeCtr] k) : SameBut k a (contribute m p x d src bs last) := by
  unfold contribute
  repeat' (first
    | with_reducible exact hf
    | with_reducible apply SameBut.ite
    | with_reducible apply putXfer_frame
    | with_reducible apply countSums_frame
    | with_reducible apply finishReduce_frame
    | exact fun x hx => hs x (by revert x; decide +kernel))

theorem landFrame_frame {k : List Fld} {a : Module} {m : Module} {p prog idx : Nat} {d : XfDesc} {src off : Nat} {bs : List Byte} {last :
    Bool}
    (hf : SameBut k a m) (hs : Within [.start, .ras, .fns, .parts, .fabParts, .slots, .clusters, .cores, .nodes, .hedgeOut, .fabric,
        .xfers, .netOut, .freeCtr] k) : SameBut k a (landFrame m p prog idx d src off bs last) := by
  unfold landFrame
  repeat' (first
    | with_reducible exact hf
    | extract_lets
    | with_reducible apply putXfer_frame
    | with_reducible apply landAt_frame
    | with_reducible apply contribute_frame
    | split
    | exact fun x hx => hs x (by revert x; decide +kernel))

theorem slotPayload_frame {k : List Fld} {a : Module} {m : Module} {d : XfDesc} {b : Nat}
    (hf : SameBut k a m) (hs : Within [.freeCtr] k) : SameBut k a (slotPayload m d b).2 := by
  unfold slotPayload
  repeat' (first
    | with_reducible assumption
    | with_reducible apply takeFree_frame
    | split)

theorem sendSlot_frame {k : List Fld} {m₀ : Module} {p prog idx : Nat} {d : XfDesc} {a rank : Nat} {m : Module}
    (hf : SameBut k m₀ m) (hs : Within [.start, .ras, .fns, .parts, .fabParts, .slots, .clusters, .cores, .nodes, .hedgeOut, .fabric,
        .xfers, .netOut, .freeCtr] k) : SameBut k m₀ (sendSlot p prog idx d a rank m) := by
  unfold sendSlot
  repeat' (first
    | with_reducible exact hf
    | with_reducible assumption
    | with_reducible exact SameBut.refl _ _
    | with_reducible apply SameBut.ite
    | with_reducible apply Module.setFab_frame
    | with_reducible apply regTake_frame
    | with_reducible apply sendRun_frame
    | with_reducible apply landFrame_frame
    | with_reducible apply slotPayload_frame
    | exact fun x hx => hs x (by revert x; decide +kernel))

theorem sendAll_frame {k : List Fld} {a : Module} {p prog idx : Nat} {d : XfDesc} {m : Module}
    (hf : SameBut k a m) (hs : Within [.start, .ras, .fns, .parts, .fabParts, .slots, .clusters, .cores, .nodes, .hedgeOut, .fabric,
        .xfers, .netOut, .freeCtr] k) : SameBut k a (sendAll p prog idx d m) := by
  unfold sendAll
  repeat' (first
    | with_reducible exact hf
    | with_reducible assumption
    | with_reducible exact SameBut.refl _ _
    | with_reducible apply foldM_frame
    | with_reducible apply regTake_frame
    | with_reducible apply sendRun_frame
    | with_reducible apply landFrame_frame
    | with_reducible apply sendSlot_frame
    | split
    | exact fun x hx => hs x (by revert x; decide +kernel)
    | intro _)

theorem transferIssueFn_frame {k : List Fld} {a : Module} {part prog idx : Nat} {m : Module}
    (hf : SameBut k a m) (hs : Within [.start, .ras, .fns, .parts, .fabParts, .slots, .clusters, .cores, .nodes, .hedgeOut, .fabric,
        .xfers, .netOut, .freeCtr] k) : SameBut k a (transferIssueFn part prog idx m) := by
  unfold transferIssueFn
  repeat' (first
    | with_reducible exact hf
    | with_reducible assumption
    | with_reducible exact SameBut.refl _ _
    | extract_lets
    | with_reducible apply Module.setRegs_frame
    | with_reducible apply noteRead_frame
    | with_reducible apply rangeFault_frame
    | with_reducible apply tierFault_frame
    | with_reducible apply tierTake_frame
    | with_reducible apply putXfer_frame
    | with_reducible apply sendAll_frame
    | split
    | exact fun x hx => hs x (by revert x; decide +kernel))

theorem deliverSlots_frame {k : List Fld} {a : Module} {p : Nat} {d : XfDesc} {core : Nat} {y0 : Nat} {y1 : Xfer} {m : Module}
    (hf : SameBut k a m) (hs : Within [.start, .ras, .fns, .parts, .fabParts, .slots, .clusters, .cores, .nodes, .hedgeOut, .fabric,
        .xfers, .netOut, .freeCtr] k) : SameBut k a (deliverSlots p d core y0 y1 m).2 := by
  induction y0 generalizing y1 m with
  | zero =>
    unfold deliverSlots
    exact hf
  | succ n ih =>
    unfold deliverSlots
    repeat' (first
      | with_reducible exact hf
      | with_reducible assumption
      | extract_lets
      | with_reducible apply noteRead_frame
      | with_reducible apply deliver_frame
      | split
      | exact fun x hx => hs x (by revert x; decide +kernel)
      | with_reducible apply ih)

theorem xferDone_frame {k : List Fld} {a : Module} {m : Module} {p : Nat} {x : Xfer}
    (hf : SameBut k a m) (hs : Within [.fabParts, .xfers] k) : SameBut k a (xferDone m p x) := by
  unfold xferDone
  repeat' (first
    | with_reducible exact hf
    | with_reducible apply Module.setFab_frame
    | with_reducible apply putXfer_frame
    | exact fun x hx => hs x (by revert x; decide +kernel))

theorem transferCompleteFn_frame {k : List Fld} {a : Module} {part prog idx : Nat} {m : Module}
    (hf : SameBut k a m) (hs : Within [.start, .ras, .fns, .parts, .fabParts, .slots, .clusters, .cores, .nodes, .hedgeOut, .fabric,
        .xfers, .netOut, .freeCtr] k) : SameBut k a (transferCompleteFn part prog idx m) := by
  unfold transferCompleteFn
  repeat' (first
    | with_reducible exact hf
    | with_reducible assumption
    | with_reducible apply SameBut.ite
    | with_reducible apply deliver_frame
    | with_reducible apply putXfer_frame
    | with_reducible apply deliverSlots_frame
    | with_reducible apply xferDone_frame
    | split
    | exact fun x hx => hs x (by revert x; decide +kernel))

theorem loseMemoryDie_frame {ks : List Fld} {a : Module} {m : Module} {k : Nat}
    (hf : SameBut ks a m) (hs : Within [.start, .power, .ras, .mem, .fns, .parts, .fabParts, .slots, .clusters, .cores, .nodes, .hedgeOut,
        .fabric, .xfers, .netOut, .freeCtr] ks) : SameBut ks a (loseMemoryDie m k) := by
  unfold loseMemoryDie
  repeat' (first
    | with_reducible assumption
    | with_reducible apply loseSward_frame
    | with_reducible apply loseLeyGroup_frame)

theorem loseComputeDie_frame {ks : List Fld} {a : Module} {m : Module} {k : Nat}
    (hf : SameBut ks a m) (hs : Within [.start, .power, .flash, .ras, .fns, .parts, .fabParts, .slots, .clusters, .cores, .nodes,
        .hedgeOut, .fabric, .xfers, .netOut, .freeCtr] ks) : SameBut ks a (loseComputeDie m k) := by
  unfold loseComputeDie
  repeat' (first
    | with_reducible exact hf
    | with_reducible assumption
    | with_reducible exact SameBut.refl _ _
    | with_reducible apply foldM_frame
    | with_reducible apply takeFree_frame
    | with_reducible apply faultTask_frame
    | with_reducible apply fence_frame
    | exact fun x hx => hs x (by revert x; decide +kernel)
    | intro _)

theorem dropWork_frame {k : List Fld} {a : Module} {m : Module} {p : Nat}
    (hf : SameBut k a m) (hs : Within [.parts, .clusters, .cores, .nodes, .hedgeOut, .xfers] k) : SameBut k a (dropWork m p) := by
  unfold dropWork
  repeat' (first
    | with_reducible exact hf
    | with_reducible apply Module.setPart_frame
    | with_reducible apply clearStep_frame
    | exact fun x hx => hs x (by revert x; decide +kernel))

theorem linksOff_frame {k : List Fld} {a : Module} {m : Module}
    (hf : SameBut k a m) (hs : Within [.power, .fabric] k) : SameBut k a (linksOff m) := by
  unfold linksOff
  repeat' (first
    | with_reducible exact hf
    | with_reducible exact SameBut.refl _ _
    | with_reducible apply Module.setLink_frame
    | with_reducible apply foldM_frame
    | with_reducible apply refreshDomains_frame
    | exact fun x hx => hs x (by revert x; decide +kernel)
    | intro _)

theorem loseFabricDie_frame {k : List Fld} {a : Module} {m : Module}
    (hf : SameBut k a m) (hs : Within [.start, .power, .ras, .fns, .parts, .fabParts, .slots, .clusters, .cores, .nodes, .hedgeOut,
        .hostOut, .fabric, .xfers, .freeCtr] k) : SameBut k a (loseFabricDie m) := by
  unfold loseFabricDie
  repeat' (first
    | with_reducible exact hf
    | with_reducible assumption
    | with_reducible exact SameBut.refl _ _
    | extract_lets
    | with_reducible apply SameBut.ite
    | with_reducible apply foldM_frame
    | with_reducible apply raise_frame
    | with_reducible apply finishV_frame
    | with_reducible apply failRequest_frame
    | with_reducible apply stopWork_frame
    | with_reducible apply writeLedger_frame
    | with_reducible apply dropWork_frame
    | with_reducible apply linksOff_frame
    | split
    | exact fun x hx => hs x (by revert x; decide +kernel)
    | intro _)

theorem loseHostDie_frame {k : List Fld} {a : Module} {m : Module}
    (hf : SameBut k a m) (hs : Within [.start, .power, .parts, .clusters, .cores, .nodes, .hedgeOut, .fabric, .xfers] k) : SameBut k a
        (loseHostDie m) := by
  unfold loseHostDie
  repeat' (first
    | with_reducible exact hf
    | with_reducible assumption
    | with_reducible exact SameBut.refl _ _
    | with_reducible apply Module.setStart_frame
    | with_reducible apply foldM_frame
    | with_reducible apply dropWork_frame
    | with_reducible apply linksOff_frame
    | exact fun x hx => hs x (by revert x; decide +kernel)
    | intro _)

theorem loseDie_frame {k : List Fld} {a : Module} {m : Module} {die : Nat}
    (hf : SameBut k a m) (hs : Within [.start, .power, .flash, .ras, .mem, .fns, .parts, .fabParts, .slots, .clusters, .cores, .nodes,
        .hedgeOut, .hostOut, .fabric, .xfers, .netOut, .freeCtr] k) : SameBut k a (loseDie m die) := by
  unfold loseDie
  repeat' (first
    | with_reducible exact hf
    | with_reducible assumption
    | with_reducible exact SameBut.refl _ _
    | extract_lets
    | with_reducible apply SameBut.ite
    | with_reducible apply Module.setRas_frame
    | with_reducible apply setNode_frame
    | with_reducible apply raise_frame
    | with_reducible apply loseMemoryDie_frame
    | with_reducible apply loseComputeDie_frame
    | with_reducible apply loseFabricDie_frame
    | with_reducible apply loseHostDie_frame
    | exact fun x hx => hs x (by revert x; decide +kernel))

theorem dieLostFn_frame {k : List Fld} {a : Module} {die : Nat} {m : Module}
    (hf : SameBut k a m) (hs : Within [.start, .power, .flash, .ras, .mem, .fns, .parts, .fabParts, .slots, .clusters, .cores, .nodes,
        .hedgeOut, .hostOut, .fabric, .xfers, .netOut, .freeCtr] k) : SameBut k a (dieLostFn die m) := by
  unfold dieLostFn
  repeat' (first
    | with_reducible assumption
    | with_reducible apply loseDie_frame)

theorem unitLossFn_frame {k : List Fld} {a : Module} {unit : LossUnit} {m : Module}
    (hf : SameBut k a m) (hs : Within [.start, .power, .flash, .ras, .mem, .fns, .parts, .fabParts, .slots, .clusters, .cores, .nodes,
        .hedgeOut, .hostOut, .fabric, .xfers, .netOut, .freeCtr] k) : SameBut k a (unitLossFn unit m) := by
  unfold unitLossFn
  repeat' (first
    | with_reducible exact hf
    | with_reducible assumption
    | with_reducible exact SameBut.refl _ _
    | extract_lets
    | with_reducible apply SameBut.ite
    | with_reducible apply Module.setRas_frame
    | with_reducible apply loseSward_frame
    | with_reducible apply loseLeyChannel_frame
    | with_reducible apply loseLeyGroup_frame
    | with_reducible apply loseHeath_frame
    | with_reducible apply loseLink_frame
    | with_reducible apply loseMemoryDie_frame
    | with_reducible apply loseDie_frame
    | split
    | exact fun x hx => hs x (by revert x; decide +kernel))

theorem planeLossFn_frame {k : List Fld} {a : Module} {die : Nat} {planeB : Bool} {m : Module}
    (hf : SameBut k a m) (hs : Within [.start, .power, .flash, .ras, .mem, .fns, .parts, .fabParts, .slots, .clusters, .cores, .nodes,
        .hedgeOut, .hostOut, .fabric, .xfers, .netOut, .freeCtr] k) : SameBut k a (planeLossFn die planeB m) := by
  unfold planeLossFn
  repeat' (first
    | with_reducible exact hf
    | with_reducible apply SameBut.ite
    | with_reducible apply setNode_frame
    | with_reducible apply raise_frame
    | with_reducible apply loseDie_frame
    | exact fun x hx => hs x (by revert x; decide +kernel))

theorem countSigFail_frame {k : List Fld} {a : Module} {m : Module} {p : Nat}
    (hf : SameBut k a m) (hs : Within [.sec] k) : SameBut k a (countSigFail m p) := by
  unfold countSigFail
  repeat' (first
    | with_reducible assumption
    | with_reducible apply Module.setSec_frame)

theorem countHashFail_frame {k : List Fld} {a : Module} {m : Module} {p : Nat}
    (hf : SameBut k a m) (hs : Within [.sec] k) : SameBut k a (countHashFail m p) := by
  unfold countHashFail
  repeat' (first
    | with_reducible assumption
    | with_reducible apply Module.setSec_frame)

theorem itemRange_frame {k : List Fld} {m₀ : Module} {m : Module} {p : Nat} {i : ItemRef} {a : Nat}
    (hf : SameBut k m₀ m) (hs : Within [.start, .fns, .fabParts, .nodes, .hedgeOut, .freeCtr] k) : SameBut k m₀ (itemRange m p i a) := by
  unfold itemRange
  repeat' (first
    | with_reducible exact hf
    | with_reducible apply raise_frame
    | with_reducible apply finishV_frame
    | exact fun x hx => hs x (by revert x; decide +kernel))

theorem badRun_frame {k : List Fld} {m₀ : Module} {m : Module} {p : Nat} {i : ItemRef} {a n : Nat} {m1 : Module}
    (hf : SameBut k m₀ m) (hs : Within [.start, .fns, .fabParts, .nodes, .hedgeOut, .freeCtr] k) (h : badRun m p i a n = some m1) : SameBut
        k m₀ m1 := by
  unfold badRun at h
  try dsimp only at h
  repeat' (split at h)
  all_goals first
    | cases h
  all_goals repeat' (first
    | with_reducible assumption
    | with_reducible apply finishV_frame
    | with_reducible apply itemRange_frame)

theorem issueReads_frame {k : List Fld} {a : Module} {i : ItemRef} {g : Manifest} {e : List Nat} {port : Nat} {y0 : Nat} {m : Module}
    (hf : SameBut k a m) (hs : Within [.fns, .eth, .netOut] k) : SameBut k a (issueReads i g e port y0 m) := by
  induction y0 generalizing m with
  | zero =>
    unfold issueReads
    exact hf
  | succ n ih =>
    unfold issueReads
    repeat' (first
      | with_reducible exact hf
      | with_reducible assumption
      | with_reducible exact SameBut.refl _ _
      | extract_lets
      | with_reducible apply Module.setEth_frame
      | with_reducible apply emitNet_frame
      | with_reducible apply setItem_frame
      | split
      | exact fun x hx => hs x (by revert x; decide +kernel)
      | with_reducible apply ih)

theorem dropReads_frame {k : List Fld} {a : Module} {m : Module} {i : ItemRef}
    (hf : SameBut k a m) (hs : Within [.eth] k) : SameBut k a (dropReads m i) := by
  unfold dropReads
  repeat' (first
    | with_reducible assumption
    | with_reducible exact SameBut.refl _ _
    | with_reducible apply Module.setEth_frame
    | with_reducible apply foldM_frame
    | intro _)

theorem ethFail_frame {k : List Fld} {a : Module} {m : Module} {p : Nat} {i : ItemRef} {port qp : Nat}
    (hf : SameBut k a m) (hs : Within [.start, .fns, .fabParts, .nodes, .hedgeOut, .eth, .freeCtr] k) : SameBut k a (ethFail m p i port qp)
        := by
  unfold ethFail
  repeat' (first
    | with_reducible exact hf
    | with_reducible apply raise_frame
    | with_reducible apply finishV_frame
    | with_reducible apply dropReads_frame
    | exact fun x hx => hs x (by revert x; decide +kernel))

theorem forwardChunk_frame {ks : List Fld} {a : Module} {m : Module} {p : Nat} {x : Item} {g : Manifest} {k : Nat}
    (hf : SameBut ks a m) (hs : Within [.parts, .fabric, .netOut] ks) : SameBut ks a (forwardChunk m p x g k) := by
  unfold forwardChunk
  repeat' (first
    | with_reducible exact hf
    | with_reducible assumption
    | with_reducible exact SameBut.refl _ _
    | with_reducible apply foldM_frame
    | with_reducible apply regTake_frame
    | with_reducible apply noteRead_frame
    | with_reducible apply routeFrame_frame
    | exact fun x hx => hs x (by revert x; decide +kernel)
    | intro _)

theorem forwardDue_frame {k : List Fld} {a : Module} {i : ItemRef} {p : Nat} {g : Manifest} {y0 : Nat} {m : Module}
    (hf : SameBut k a m) (hs : Within [.fns, .parts, .fabric, .netOut] k) : SameBut k a (forwardDue i p g y0 m) := by
  induction y0 generalizing m with
  | zero =>
    unfold forwardDue
    exact hf
  | succ n ih =>
    unfold forwardDue
    repeat' (first
      | with_reducible exact hf
      | with_reducible assumption
      | with_reducible apply setItem_frame
      | with_reducible apply forwardChunk_frame
      | split
      | exact fun x hx => hs x (by revert x; decide +kernel)
      | with_reducible apply ih)

theorem countChunks_frame {k : List Fld} {a : Module} {i : ItemRef} {g : Manifest} {y0 : Nat} {m : Module}
    (hf : SameBut k a m) (hs : Within [.fns] k) : SameBut k a (countChunks i g y0 m) := by
  induction y0 generalizing m with
  | zero =>
    unfold countChunks
    exact hf
  | succ n ih =>
    unfold countChunks
    repeat' (first
      | with_reducible assumption
      | with_reducible apply setItem_frame
      | split
      | with_reducible apply ih)

theorem advance_frame {k : List Fld} {a : Module} {i : ItemRef} {p : Nat} {g : Manifest} {m : Module}
    (hf : SameBut k a m) (hs : Within [.start, .fns, .parts, .fabParts, .nodes, .hedgeOut, .fabric, .eth, .netOut, .freeCtr] k) : SameBut k
        a (advance i p g m) := by
  unfold advance
  repeat' (first
    | with_reducible exact hf
    | with_reducible assumption
    | with_reducible exact SameBut.refl _ _
    | extract_lets
    | with_reducible apply Module.setPart_frame
    | with_reducible apply Module.setFab_frame
    | with_reducible apply finishV_frame
    | with_reducible apply dropReads_frame
    | with_reducible apply forwardDue_frame
    | with_reducible apply countChunks_frame
    | split
    | exact fun x hx => hs x (by revert x; decide +kernel))

theorem tellReady_frame {k : List Fld} {a : Module} {m : Module} {p id : Nat}
    (hf : SameBut k a m) (hs : Within [.fabric, .netOut] k) : SameBut k a (tellReady m p id) := by
  unfold tellReady
  repeat' (first
    | with_reducible assumption
    | with_reducible apply routeFrame_frame)

theorem chunkLanded_frame {ks : List Fld} {a : Module} {m : Module} {i : ItemRef} {x : Item} {p : Nat} {g : Manifest} {k : Nat}
    (hf : SameBut ks a m) (hs : Within [.start, .sec, .fns, .parts, .fabParts, .nodes, .hedgeOut, .fabric, .eth, .netOut, .freeCtr] ks) :
        SameBut ks a (chunkLanded m i x p g k) := by
  unfold chunkLanded
  repeat' (first
    | with_reducible exact hf
    | with_reducible assumption
    | with_reducible apply SameBut.ite
    | with_reducible apply setItem_frame
    | with_reducible apply finishV_frame
    | with_reducible apply countHashFail_frame
    | with_reducible apply dropReads_frame
    | with_reducible apply advance_frame
    | exact fun x hx => hs x (by revert x; decide +kernel))

theorem chunkLandFn_frame {k : List Fld} {a : Module} {i : ItemRef} {data : List Byte} {m : Module}
    (hf : SameBut k a m) (hs : Within [.start, .sec, .fns, .parts, .fabParts, .nodes, .hedgeOut, .fabric, .eth, .netOut, .freeCtr] k) :
        SameBut k a (chunkLandFn i data m) := by
  unfold chunkLandFn
  repeat' (first
    | with_reducible exact hf
    | with_reducible assumption
    | with_reducible exact SameBut.refl _ _
    | extract_lets
    | with_reducible apply SameBut.ite
    | with_reducible apply withItem_frame
    | with_reducible apply noteRead_frame
    | with_reducible apply devWrite_frame
    | with_reducible apply tierTake_frame
    | with_reducible apply withHost_frame
    | (refine badRun_frame ?_ ?_ (by assumption))
    | with_reducible apply chunkLanded_frame
    | split
    | exact fun x hx => hs x (by revert x; decide +kernel)
    | intro _)

theorem takeForward_frame {ks : List Fld} {a : Module} {m : Module} {p id k src off : Nat} {bs : List Byte}
    (hf : SameBut ks a m) (hs : Within [.start, .sec, .fns, .parts, .fabParts, .nodes, .hedgeOut, .fabric, .eth, .netOut, .freeCtr] ks) :
        SameBut ks a (takeForward m p id k src off bs) := by
  unfold takeForward
  repeat' (first
    | with_reducible exact hf
    | with_reducible assumption
    | with_reducible exact SameBut.refl _ _
    | extract_lets
    | with_reducible apply Module.setFab_frame
    | with_reducible apply setItem_frame
    | with_reducible apply devWrite_frame
    | with_reducible apply tierTake_frame
    | (refine badRun_frame ?_ ?_ (by assumption))
    | with_reducible apply advance_frame
    | with_reducible apply chunkLanded_frame
    | split
    | exact fun x hx => hs x (by revert x; decide +kernel))

theorem fwdAbortFn_frame {k : List Fld} {a : Module} {i : ItemRef} {broken : Bool} {m : Module}
    (hf : SameBut k a m) (hs : Within [.start, .fns, .fabParts, .nodes, .hedgeOut, .freeCtr] k) : SameBut k a (fwdAbortFn i broken m) := by
  unfold fwdAbortFn
  repeat' (first
    | with_reducible exact hf
    | with_reducible assumption
    | with_reducible exact SameBut.refl _ _
    | extract_lets
    | with_reducible apply SameBut.ite
    | with_reducible apply takeFree_frame
    | with_reducible apply raise_frame
    | with_reducible apply setItem_frame
    | with_reducible apply finishV_frame
    | with_reducible apply withItem_frame
    | exact fun x hx => hs x (by revert x; decide +kernel)
    | intro _)

theorem swapWeightsFn_frame {k : List Fld} {a : Module} {i : ItemRef} {m : Module}
    (hf : SameBut k a m) (hs : Within [.start, .fns, .parts, .fabParts, .nodes, .hedgeOut, .freeCtr] k) : SameBut k a (swapWeightsFn i m)
        := by
  unfold swapWeightsFn
  repeat' (first
    | with_reducible exact hf
    | with_reducible assumption
    | with_reducible exact SameBut.refl _ _
    | extract_lets
    | with_reducible apply SameBut.ite
    | with_reducible apply Module.setPart_frame
    | with_reducible apply finishV_frame
    | with_reducible apply withItem_frame
    | with_reducible apply startItem_frame
    | with_reducible apply noteRead_frame
    | with_reducible apply itemRange_frame
    | (refine badRun_frame ?_ ?_ (by assumption))
    | split
    | exact fun x hx => hs x (by revert x; decide +kernel)
    | intro _)

theorem endSwap_frame {k : List Fld} {a : Module} {m : Module} {p : Nat} {i : ItemRef}
    (hf : SameBut k a m) (hs : Within [.parts] k) : SameBut k a (endSwap m p i) := by
  unfold endSwap
  repeat' (first
    | with_reducible assumption
    | with_reducible apply Module.setPart_frame)

theorem swapCopyStartFn_frame {k : List Fld} {a : Module} {i : ItemRef} {m : Module}
    (hf : SameBut k a m) (hs : Within [.start, .mem, .fns, .parts, .fabParts, .nodes, .hedgeOut, .freeCtr] k) : SameBut k a
        (swapCopyStartFn i m) := by
  unfold swapCopyStartFn
  repeat' (first
    | with_reducible exact hf
    | with_reducible assumption
    | with_reducible exact SameBut.refl _ _
    | extract_lets
    | with_reducible apply Module.setPart_frame
    | with_reducible apply finishV_frame
    | with_reducible apply withItem_frame
    | (refine SameBut.fst (by assumption) (show SameBut _ _ (_ : _ × _).1 from backForWrite_frame ?_ ?_))
    | with_reducible apply endSwap_frame
    | split
    | exact fun x hx => hs x (by revert x; decide +kernel)
    | intro _)

theorem swapCopyDoneFn_frame {k : List Fld} {a : Module} {i : ItemRef} {m : Module}
    (hf : SameBut k a m) (hs : Within [.start, .fns, .parts, .fabParts, .nodes, .hedgeOut, .freeCtr] k) : SameBut k a (swapCopyDoneFn i m)
        := by
  unfold swapCopyDoneFn
  repeat' (first
    | with_reducible exact hf
    | with_reducible assumption
    | with_reducible exact SameBut.refl _ _
    | extract_lets
    | with_reducible apply finishV_frame
    | with_reducible apply withItem_frame
    | with_reducible apply noteRead_frame
    | with_reducible apply devWrite_frame
    | with_reducible apply tierTake_frame
    | with_reducible apply endSwap_frame
    | split
    | exact fun x hx => hs x (by revert x; decide +kernel)
    | intro _)

theorem takeAck_frame {k : List Fld} {a : Module} {m : Module} {link ack : Nat}
    (hf : SameBut k a m) (hs : Within [.fabric, .netOut] k) : SameBut k a (takeAck m link ack) := by
  unfold takeAck
  repeat' (first
    | with_reducible exact hf
    | with_reducible apply Module.setLink_frame
    | with_reducible apply drainFrames_frame
    | exact fun x hx => hs x (by revert x; decide +kernel))

theorem replayFrames_frame {k : List Fld} {a : Module} {m : Module} {link : Nat}
    (hf : SameBut k a m) (hs : Within [.start, .ras, .fns, .parts, .fabParts, .slots, .clusters, .cores, .nodes, .hedgeOut, .fabric,
        .xfers, .netOut, .freeCtr] k) : SameBut k a (replayFrames m link) := by
  unfold replayFrames
  repeat' (first
    | with_reducible exact hf
    | with_reducible assumption
    | with_reducible exact SameBut.refl _ _
    | with_reducible apply SameBut.ite
    | with_reducible apply Module.setLink_frame
    | with_reducible apply foldM_frame
    | with_reducible apply emitNet_frame
    | with_reducible apply loseLink_frame
    | exact fun x hx => hs x (by revert x; decide +kernel)
    | intro _)

theorem discardFrame_frame {k : List Fld} {a : Module} {m : Module} {job : Nat}
    (hf : SameBut k a m) (hs : Within [.fabParts, .freeCtr] k) : SameBut k a (discardFrame m job) := by
  unfold discardFrame
  repeat' (first
    | with_reducible exact hf
    | with_reducible apply Module.setFab_frame
    | with_reducible apply takeFree_frame
    | split
    | exact fun x hx => hs x (by revert x; decide +kernel))

theorem takeData_frame {k : List Fld} {a m : Module} {link job gen chan place : Nat} {shape : List Nat} {src off : Nat}
    {bs : List Byte} {last : Bool} (hf : SameBut k a m) (hs : Within [.start, .sec, .ras, .fns, .parts, .fabParts, .slots, .clusters, .cores, .nodes, .hedgeOut, .fabric, .xfers, .eth, .netOut, .freeCtr] k) :
    SameBut k a (takeData m link job gen chan place shape src off bs last) := by
  have mis : ∀ {m : Module} {p : Nat}, SameBut k a m → SameBut k a (takeData.mismatch link m p) := by
    intro m p h
    unfold takeData.mismatch
    exact faultTask_frame (raise_frame (takeFree_frame h (fun x hx => hs x (by revert x; decide +kernel))) (fun x hx => hs x (by revert x; decide +kernel))) (fun x hx => hs x (by revert x; decide +kernel))
  unfold takeData
  dsimp only
  repeat' (first
    | with_reducible exact hf
    | exact fun x hx => hs x (by revert x; decide +kernel)
    | with_reducible apply mis
    | with_reducible apply discardFrame_frame
    | with_reducible apply takeForward_frame
    | with_reducible apply noteFrame_frame
    | with_reducible apply landFrame_frame
    | with_reducible apply Module.setFab_frame
    | split)

theorem noteTransit_frame {k : List Fld} {a : Module} {m : Module} {job gen chan place link : Nat} {next : Option Nat}
    (hf : SameBut k a m) (hs : Within [.xfers] k) : SameBut k a (noteTransit m job gen chan place link next) := by
  unfold noteTransit
  repeat' (first
    | with_reducible assumption
    | with_reducible apply noteFrame_frame
    | split)

theorem frameReceiveFn_frame {k : List Fld} {a : Module} {link : Nat} {frame : Frame} {good : Bool} {m : Module}
    (hf : SameBut k a m) (hs : Within [.start, .power, .sec, .ras, .fns, .parts, .fabParts, .slots, .clusters, .cores, .nodes, .hedgeOut,
        .fabric, .xfers, .eth, .netOut, .freeCtr] k) : SameBut k a (frameReceiveFn link frame good m) := by
  unfold frameReceiveFn
  repeat' (first
    | with_reducible exact hf
    | with_reducible assumption
    | with_reducible exact SameBut.refl _ _
    | extract_lets
    | with_reducible apply SameBut.ite
    | with_reducible apply Module.setLink_frame
    | with_reducible apply takeHedge_frame
    | with_reducible apply actOnPayload_frame
    | with_reducible apply routeFrame_frame
    | with_reducible apply takeAck_frame
    | with_reducible apply replayFrames_frame
    | with_reducible apply takeData_frame
    | with_reducible apply noteTransit_frame
    | split
    | exact fun x hx => hs x (by revert x; decide +kernel)
    | intro _)

theorem respond_frame {k : List Fld} {a : Module} {m : Module} {fn : Nat} {msg : MgmtMsg} {st : Status} {detail : Nat} {body : List Byte}
    (hf : SameBut k a m) (hs : Within [.fns] k) : SameBut k a (respond m fn msg st detail body) := by
  unfold respond
  repeat' (first
    | with_reducible assumption
    | with_reducible apply Module.setFn_frame)

theorem respondDone_frame {k : List Fld} {a : Module} {m : Module} {fn : Nat} {msg : MgmtMsg} {body : List Byte}
    (hf : SameBut k a m) (hs : Within [.fns] k) : SameBut k a (respondDone m fn msg body) := by
  unfold respondDone
  repeat' (first
    | with_reducible assumption
    | with_reducible apply respond_frame)

theorem respondRej_frame {k : List Fld} {a : Module} {m : Module} {fn : Nat} {msg : MgmtMsg} {st : Status}
    (hf : SameBut k a m) (hs : Within [.fns] k) : SameBut k a (respondRej m fn msg st) := by
  unfold respondRej
  repeat' (first
    | with_reducible assumption
    | with_reducible apply respond_frame)

theorem respondBad_frame {k : List Fld} {a : Module} {m : Module} {fn : Nat} {msg : MgmtMsg} {off : Nat}
    (hf : SameBut k a m) (hs : Within [.start, .fns, .fabParts, .nodes, .hedgeOut, .freeCtr] k) : SameBut k a (respondBad m fn msg off) :=
        by
  unfold respondBad
  repeat' (first
    | with_reducible exact hf
    | with_reducible apply respond_frame
    | exact fun x hx => hs x (by revert x; decide +kernel))

theorem toProc_frame {k : List Fld} {a : Module} {m : Module} {fn : Nat} {msg : MgmtMsg} {proc : Nat} {act : Module → Module}
    (hf : SameBut k a m) (hs : Within [.fns] k) (hact : ∀ x0, SameBut k a x0 → SameBut k a (act x0)) : SameBut k a (toProc m fn msg proc
        act) := by
  unfold toProc
  repeat' (first
    | with_reducible assumption
    | with_reducible apply hact
    | with_reducible apply SameBut.ite
    | with_reducible apply Module.setFn_frame
    | with_reducible apply respond_frame)

theorem mgmtRow_frame {k : List Fld} {a : Module} {fn : Nat} {msg : MgmtMsg} {code target : Nat} {act : Module → Module} {m : Module}
    (hf : SameBut k a m) (hs : Within [.start, .fns, .fabParts, .nodes, .hedgeOut, .freeCtr] k) (hact : ∀ x0, SameBut k a x0 → SameBut k a
        (act x0)) : SameBut k a (mgmtRow fn msg code target act m) := by
  unfold mgmtRow
  repeat' (first
    | with_reducible exact hf
    | with_reducible assumption
    | with_reducible apply SameBut.ite
    | with_reducible apply Module.setFn_frame
    | with_reducible apply respondBad_frame
    | with_reducible apply toProc_frame
    | exact fun x hx => hs x (by revert x; decide +kernel))

theorem setQp_frame {k : List Fld} {a : Module} {m : Module} {port qp : Nat} {g : Qp → Qp}
    (hf : SameBut k a m) (hs : Within [.eth] k) : SameBut k a (setQp m port qp g) := by
  unfold setQp
  repeat' (first
    | with_reducible assumption
    | with_reducible apply Module.setEth_frame)

theorem ethReadResponseFn_frame {k : List Fld} {a : Module} {port qp : Nat} {data : List Byte} {m : Module}
    (hf : SameBut k a m) (hs : Within [.start, .sec, .fns, .parts, .fabParts, .nodes, .hedgeOut, .fabric, .eth, .netOut, .freeCtr] k) :
        SameBut k a (ethReadResponseFn port qp data m) := by
  unfold ethReadResponseFn
  repeat' (first
    | with_reducible exact hf
    | with_reducible assumption
    | with_reducible exact SameBut.refl _ _
    | extract_lets
    | with_reducible apply SameBut.ite
    | with_reducible apply Module.setRegs_frame
    | with_reducible apply Module.setEth_frame
    | with_reducible apply setItem_frame
    | with_reducible apply regTake_frame
    | with_reducible apply devWrite_frame
    | with_reducible apply tierTake_frame
    | (refine badRun_frame ?_ ?_ (by assumption))
    | with_reducible apply issueReads_frame
    | with_reducible apply dropReads_frame
    | with_reducible apply chunkLanded_frame
    | with_reducible apply setQp_frame
    | split
    | exact fun x hx => hs x (by revert x; decide +kernel))

theorem ethCnpFn_frame {k : List Fld} {a : Module} {port qp : Nat} {m : Module}
    (hf : SameBut k a m) (hs : Within [.eth] k) : SameBut k a (ethCnpFn port qp m) := by
  unfold ethCnpFn
  repeat' (first
    | with_reducible assumption
    | with_reducible apply Module.setEth_frame
    | with_reducible apply setQp_frame
    | split)

theorem ethInboundRequestFn_frame {k : List Fld} {a : Module} {port qp : Nat} {m : Module}
    (hf : SameBut k a m) (hs : Within [.eth, .netOut] k) : SameBut k a (ethInboundRequestFn port qp m) := by
  unfold ethInboundRequestFn
  repeat' (first
    | with_reducible exact hf
    | with_reducible apply SameBut.ite
    | with_reducible apply Module.setEth_frame
    | with_reducible apply emitNet_frame
    | exact fun x hx => hs x (by revert x; decide +kernel))

theorem retryRead_frame {k : List Fld} {a : Module} {m : Module} {port qp : Nat}
    (hf : SameBut k a m) (hs : Within [.start, .fns, .fabParts, .nodes, .hedgeOut, .eth, .netOut, .freeCtr] k) : SameBut k a (retryRead m
        port qp) := by
  unfold retryRead
  repeat' (first
    | with_reducible exact hf
    | with_reducible assumption
    | extract_lets
    | with_reducible apply Module.setEth_frame
    | with_reducible apply emitNet_frame
    | with_reducible apply dropReads_frame
    | with_reducible apply ethFail_frame
    | with_reducible apply setQp_frame
    | split
    | exact fun x hx => hs x (by revert x; decide +kernel))

theorem ethQpTimeoutFn_frame {k : List Fld} {a : Module} {port qp : Nat} {m : Module}
    (hf : SameBut k a m) (hs : Within [.start, .fns, .fabParts, .nodes, .hedgeOut, .eth, .netOut, .freeCtr] k) : SameBut k a
        (ethQpTimeoutFn port qp m) := by
  unfold ethQpTimeoutFn
  repeat' (first
    | with_reducible assumption
    | with_reducible apply retryRead_frame)

theorem ethAckReceiveFn_frame {k : List Fld} {a : Module} {port qp : Nat} {nak : Bool} {m : Module}
    (hf : SameBut k a m) (hs : Within [.start, .fns, .fabParts, .nodes, .hedgeOut, .eth, .netOut, .freeCtr] k) : SameBut k a
        (ethAckReceiveFn port qp nak m) := by
  unfold ethAckReceiveFn
  repeat' (first
    | with_reducible exact hf
    | with_reducible apply Module.setEth_frame
    | with_reducible apply retryRead_frame
    | split
    | exact fun x hx => hs x (by revert x; decide +kernel))

theorem ethLinkDownFn_frame {k : List Fld} {a : Module} {port : Nat} {m : Module}
    (hf : SameBut k a m) (hs : Within [.start, .fns, .fabParts, .nodes, .hedgeOut, .eth, .freeCtr] k) : SameBut k a (ethLinkDownFn port m)
        := by
  unfold ethLinkDownFn
  repeat' (first
    | with_reducible exact hf
    | with_reducible exact SameBut.refl _ _
    | with_reducible apply SameBut.ite
    | with_reducible apply Module.setEth_frame
    | with_reducible apply foldM_frame
    | with_reducible apply ethFail_frame
    | exact fun x hx => hs x (by revert x; decide +kernel)
    | intro _)

theorem ethLinkUpFn_frame {k : List Fld} {a : Module} {port : Nat} {m : Module}
    (hf : SameBut k a m) (hs : Within [.eth] k) : SameBut k a (ethLinkUpFn port m) := by
  unfold ethLinkUpFn
  repeat' (first
    | with_reducible assumption
    | with_reducible apply SameBut.ite
    | with_reducible apply Module.setEth_frame)

theorem qpSet_frame {k : List Fld} {a : Module} {fn : Nat} {msg : MgmtMsg} {m : Module}
    (hf : SameBut k a m) (hs : Within [.start, .fns, .fabParts, .nodes, .hedgeOut, .eth, .freeCtr] k) : SameBut k a (qpSet fn msg m) := by
  unfold qpSet
  repeat' (first
    | with_reducible exact hf
    | with_reducible apply SameBut.ite
    | with_reducible apply Module.setEth_frame
    | with_reducible apply respondDone_frame
    | with_reducible apply respondBad_frame
    | exact fun x hx => hs x (by revert x; decide +kernel))

theorem ethQpSetFn_frame {k : List Fld} {a : Module} {fn : Nat} {msg : MgmtMsg} {m : Module}
    (hf : SameBut k a m) (hs : Within [.start, .fns, .fabParts, .nodes, .hedgeOut, .eth, .freeCtr] k) : SameBut k a (ethQpSetFn fn msg m)
        := by
  unfold ethQpSetFn
  repeat' (first
    | with_reducible assumption
    | with_reducible apply mgmtRow_frame
    | with_reducible apply qpSet_frame
    | exact fun x hx => hs x (by revert x; decide +kernel)
    | intro _)

theorem qpClear_frame {k : List Fld} {a : Module} {fn : Nat} {msg : MgmtMsg} {m : Module}
    (hf : SameBut k a m) (hs : Within [.start, .fns, .fabParts, .nodes, .hedgeOut, .eth, .freeCtr] k) : SameBut k a (qpClear fn msg m) := by
  unfold qpClear
  repeat' (first
    | with_reducible exact hf
    | with_reducible assumption
    | with_reducible exact SameBut.refl _ _
    | with_reducible apply SameBut.ite
    | with_reducible apply Module.setEth_frame
    | with_reducible apply foldM_frame
    | with_reducible apply ethFail_frame
    | with_reducible apply respondDone_frame
    | with_reducible apply respondBad_frame
    | exact fun x hx => hs x (by revert x; decide +kernel)
    | intro _)

theorem ethQpClearFn_frame {k : List Fld} {a : Module} {fn : Nat} {msg : MgmtMsg} {m : Module}
    (hf : SameBut k a m) (hs : Within [.start, .fns, .fabParts, .nodes, .hedgeOut, .eth, .freeCtr] k) : SameBut k a (ethQpClearFn fn msg m)
        := by
  unfold ethQpClearFn
  repeat' (first
    | with_reducible assumption
    | with_reducible apply mgmtRow_frame
    | with_reducible apply qpClear_frame
    | exact fun x hx => hs x (by revert x; decide +kernel)
    | intro _)

theorem cableAlarm_frame {k : List Fld} {a : Module} {m : Module} {link : Nat}
    (hf : SameBut k a m) (hs : Within [.start, .fns, .nodes, .hedgeOut, .freeCtr] k) : SameBut k a (cableAlarm m link) := by
  unfold cableAlarm
  repeat' (first
    | with_reducible exact hf
    | with_reducible apply takeFree_frame
    | with_reducible apply raise_frame
    | exact fun x hx => hs x (by revert x; decide +kernel))

theorem cableInterruptFn_frame {k : List Fld} {a : Module} {link : Nat} {loss alarm : Bool} {m : Module}
    (hf : SameBut k a m) (hs : Within [.start, .ras, .fns, .parts, .fabParts, .slots, .clusters, .cores, .nodes, .hedgeOut, .fabric,
        .xfers, .netOut, .freeCtr] k) : SameBut k a (cableInterruptFn link loss alarm m) := by
  unfold cableInterruptFn
  repeat' (first
    | with_reducible exact hf
    | with_reducible apply SameBut.ite
    | with_reducible apply loseLink_frame
    | with_reducible apply cableAlarm_frame
    | exact fun x hx => hs x (by revert x; decide +kernel))

theorem cmisMonitorPollFn_frame {k : List Fld} {a : Module} {link : Nat} {alarm : Bool} {m : Module}
    (hf : SameBut k a m) (hs : Within [.start, .fns, .nodes, .hedgeOut, .freeCtr] k) : SameBut k a (cmisMonitorPollFn link alarm m) := by
  unfold cmisMonitorPollFn
  repeat' (first
    | with_reducible assumption
    | with_reducible apply SameBut.ite
    | with_reducible apply cableAlarm_frame)

theorem cmisReadServe_frame {k : List Fld} {a : Module} {fn : Nat} {msg : MgmtMsg} {data : List Byte} {m : Module}
    (hf : SameBut k a m) (hs : Within [.start, .fns, .fabParts, .nodes, .hedgeOut, .freeCtr] k) : SameBut k a (cmisReadServe fn msg data m)
        := by
  unfold cmisReadServe
  repeat' (first
    | with_reducible exact hf
    | with_reducible apply respondDone_frame
    | with_reducible apply respondBad_frame
    | split
    | exact fun x hx => hs x (by revert x; decide +kernel))

theorem cmisReadFn_frame {k : List Fld} {a : Module} {fn : Nat} {msg : MgmtMsg} {data : List Byte} {m : Module}
    (hf : SameBut k a m) (hs : Within [.start, .fns, .fabParts, .nodes, .hedgeOut, .freeCtr] k) : SameBut k a (cmisReadFn fn msg data m) :=
        by
  unfold cmisReadFn
  repeat' (first
    | with_reducible assumption
    | with_reducible apply mgmtRow_frame
    | with_reducible apply cmisReadServe_frame
    | intro _)

theorem cmisWriteServe_frame {k : List Fld} {a : Module} {fn : Nat} {msg : MgmtMsg} {m : Module}
    (hf : SameBut k a m) (hs : Within [.start, .fns, .fabParts, .nodes, .hedgeOut, .netOut, .freeCtr] k) : SameBut k a (cmisWriteServe fn
        msg m) := by
  unfold cmisWriteServe
  repeat' (first
    | with_reducible exact hf
    | extract_lets
    | with_reducible apply emitNet_frame
    | with_reducible apply respondDone_frame
    | with_reducible apply respondRej_frame
    | with_reducible apply respondBad_frame
    | split
    | exact fun x hx => hs x (by revert x; decide +kernel))

theorem cmisWriteFn_frame {k : List Fld} {a : Module} {fn : Nat} {msg : MgmtMsg} {m : Module}
    (hf : SameBut k a m) (hs : Within [.start, .fns, .fabParts, .nodes, .hedgeOut, .netOut, .freeCtr] k) : SameBut k a (cmisWriteFn fn msg
        m) := by
  unfold cmisWriteFn
  repeat' (first
    | with_reducible assumption
    | with_reducible apply mgmtRow_frame
    | with_reducible apply cmisWriteServe_frame
    | exact fun x hx => hs x (by revert x; decide +kernel)
    | intro _)

theorem startTest_frame {k : List Fld} {a : Module} {m : Module} {i : ItemRef}
    (hf : SameBut k a m) (hs : Within [.fns] k) : SameBut k a (startTest m i) := by
  unfold startTest
  repeat' (first
    | with_reducible assumption
    | with_reducible apply setItem_frame)

theorem testRow_frame {k : List Fld} {a : Module} {i : ItemRef} {op code : Nat} {exists_ : Nat → Bool} {may : Module → Nat → Nat → Bool}
    {go : Nat → Nat → Module → Module} {m : Module}
    (hf : SameBut k a m) (hs : Within [.start, .fns, .fabParts, .nodes, .hedgeOut, .freeCtr] k) (hgo : ∀ x0 x1 x2, SameBut k a x2 → SameBut
        k a (go x0 x1 x2)) : SameBut k a (testRow i op code exists_ may go m) := by
  unfold testRow
  repeat' (first
    | with_reducible exact hf
    | with_reducible assumption
    | with_reducible apply hgo
    | with_reducible apply SameBut.ite
    | with_reducible apply finishV_frame
    | with_reducible apply rejFormat_frame
    | with_reducible apply withItem_frame
    | intro _)

theorem endTest_frame {k : List Fld} {a : Module} {m : Module} {x : Item} {p failed specific : Nat} {mapOut : Module → Module}
    (hf : SameBut k a m) (hs : Within [.start, .fns, .parts, .fabParts, .nodes, .hedgeOut, .hostOut, .freeCtr] k) (hmapOut : ∀ x0, SameBut
        k a x0 → SameBut k a (mapOut x0)) : SameBut k a (endTest m x p failed specific mapOut) := by
  unfold endTest
  repeat' (first
    | with_reducible exact hf
    | with_reducible assumption
    | with_reducible apply hmapOut
    | with_reducible apply SameBut.ite
    | with_reducible apply emitBytes_frame
    | with_reducible apply finishV_frame
    | with_reducible apply withHost_frame
    | exact fun x hx => hs x (by revert x; decide +kernel)
    | intro _)

theorem coreRetestFn_frame {k : List Fld} {a : Module} {i : ItemRef} {m : Module}
    (hf : SameBut k a m) (hs : Within [.start, .power, .fns, .fabParts, .nodes, .hedgeOut, .freeCtr] k) : SameBut k a (coreRetestFn i m) :=
        by
  unfold coreRetestFn
  repeat' (first
    | with_reducible exact hf
    | with_reducible assumption
    | with_reducible apply SameBut.ite
    | with_reducible apply Module.setPower_frame
    | with_reducible apply finishV_frame
    | with_reducible apply startTest_frame
    | with_reducible apply testRow_frame
    | exact fun x hx => hs x (by revert x; decide +kernel)
    | intro _)

theorem scrubStatFn_frame {k : List Fld} {a : Module} {i : ItemRef} {m : Module}
    (hf : SameBut k a m) (hs : Within [.start, .fns, .parts, .fabParts, .nodes, .hedgeOut, .hostOut, .freeCtr] k) : SameBut k a
        (scrubStatFn i m) := by
  unfold scrubStatFn
  repeat' (first
    | with_reducible exact hf
    | with_reducible assumption
    | with_reducible apply testRow_frame
    | with_reducible apply endTest_frame
    | split
    | exact fun x hx => hs x (by revert x; decide +kernel)
    | intro _
    | assumption)

theorem startOn_frame {k : List Fld} {a : Module} {m : Module} {i : ItemRef} {dom : Nat}
    (hf : SameBut k a m) (hs : Within [.start, .fns, .fabParts, .nodes, .hedgeOut, .freeCtr] k) : SameBut k a (startOn m i dom) := by
  unfold startOn
  repeat' (first
    | with_reducible exact hf
    | with_reducible apply SameBut.ite
    | with_reducible apply finishV_frame
    | with_reducible apply startTest_frame
    | exact fun x hx => hs x (by revert x; decide +kernel))

theorem unitTest_frame {k : List Fld} {a : Module} {i : ItemRef} {code units tier : Nat} {dom : Nat → Nat} {m : Module}
    (hf : SameBut k a m) (hs : Within [.start, .fns, .fabParts, .nodes, .hedgeOut, .freeCtr] k) : SameBut k a (unitTest i code units tier
        dom m) := by
  unfold unitTest
  repeat' (first
    | with_reducible assumption
    | with_reducible apply testRow_frame
    | with_reducible apply startOn_frame
    | intro _)

theorem swardMarchFn_frame {k : List Fld} {a : Module} {i : ItemRef} {m : Module}
    (hf : SameBut k a m) (hs : Within [.start, .fns, .fabParts, .nodes, .hedgeOut, .freeCtr] k) : SameBut k a (swardMarchFn i m) := by
  unfold swardMarchFn
  repeat' (first
    | with_reducible assumption
    | with_reducible apply unitTest_frame)

theorem leyMarchFn_frame {k : List Fld} {a : Module} {i : ItemRef} {m : Module}
    (hf : SameBut k a m) (hs : Within [.start, .fns, .fabParts, .nodes, .hedgeOut, .freeCtr] k) : SameBut k a (leyMarchFn i m) := by
  unfold leyMarchFn
  repeat' (first
    | with_reducible assumption
    | with_reducible apply unitTest_frame)

theorem heathPortFn_frame {k : List Fld} {a : Module} {i : ItemRef} {m : Module}
    (hf : SameBut k a m) (hs : Within [.start, .fns, .fabParts, .nodes, .hedgeOut, .freeCtr] k) : SameBut k a (heathPortFn i m) := by
  unfold heathPortFn
  repeat' (first
    | with_reducible assumption
    | with_reducible apply unitTest_frame)

theorem linkTest_frame {k : List Fld} {a : Module} {i : ItemRef} {op code : Nat} {m : Module}
    (hf : SameBut k a m) (hs : Within [.start, .fns, .fabParts, .nodes, .hedgeOut, .freeCtr] k) : SameBut k a (linkTest i op code m) := by
  unfold linkTest
  repeat' (first
    | with_reducible assumption
    | with_reducible apply testRow_frame
    | with_reducible apply startOn_frame
    | intro _)

theorem linkLoopbackFn_frame {k : List Fld} {a : Module} {i : ItemRef} {m : Module}
    (hf : SameBut k a m) (hs : Within [.start, .fns, .fabParts, .nodes, .hedgeOut, .freeCtr] k) : SameBut k a (linkLoopbackFn i m) := by
  unfold linkLoopbackFn
  repeat' (first
    | with_reducible assumption
    | with_reducible apply linkTest_frame)

theorem leyPhyFn_frame {k : List Fld} {a : Module} {i : ItemRef} {m : Module}
    (hf : SameBut k a m) (hs : Within [.tick, .start, .fns, .fabParts, .nodes, .hedgeOut, .freeCtr] k) : SameBut k a (leyPhyFn i m) := by
  unfold leyPhyFn
  repeat' (first
    | with_reducible exact hf
    | with_reducible assumption
    | with_reducible apply Module.setTick_frame
    | with_reducible apply startTest_frame
    | with_reducible apply testRow_frame
    | exact fun x hx => hs x (by revert x; decide +kernel)
    | intro _)

theorem fabricLanesFn_frame {k : List Fld} {a : Module} {i : ItemRef} {m : Module}
    (hf : SameBut k a m) (hs : Within [.start, .fns, .fabParts, .nodes, .hedgeOut, .freeCtr] k) : SameBut k a (fabricLanesFn i m) := by
  unfold fabricLanesFn
  repeat' (first
    | with_reducible assumption
    | with_reducible apply linkTest_frame)

theorem sensorsFn_frame {k : List Fld} {a : Module} {i : ItemRef} {m : Module}
    (hf : SameBut k a m) (hs : Within [.start, .fns, .fabParts, .nodes, .hedgeOut, .freeCtr] k) : SameBut k a (sensorsFn i m) := by
  unfold sensorsFn
  repeat' (first
    | with_reducible assumption
    | with_reducible apply startTest_frame
    | with_reducible apply testRow_frame
    | exact fun x hx => hs x (by revert x; decide +kernel)
    | intro _)

theorem returnCore_frame {k : List Fld} {a : Module} {m : Module} {core : Nat}
    (hf : SameBut k a m) (hs : Within [.flash, .ras, .clusters, .cores] k) : SameBut k a (returnCore m core) := by
  unfold returnCore
  repeat' (first
    | with_reducible exact hf
    | with_reducible assumption
    | with_reducible exact SameBut.refl _ _
    | with_reducible apply SameBut.ite
    | with_reducible apply Module.setCore_frame
    | with_reducible apply Module.setClu_frame
    | with_reducible apply Module.setRas_frame
    | exact fun x hx => hs x (by revert x; decide +kernel)
    | with_reducible apply SameBut.with_flash)

theorem undoLoad_frame {k : List Fld} {a : Module} {m : Module} {p : Nat} {i : ItemRef}
    (hf : SameBut k a m) (hs : Within [.start, .fns, .parts, .fabParts, .cores, .nodes, .hedgeOut, .freeCtr] k) : SameBut k a (undoLoad m p
        i) := by
  unfold undoLoad
  repeat' (first
    | with_reducible exact hf
    | with_reducible assumption
    | with_reducible exact SameBut.refl _ _
    | with_reducible apply SameBut.ite
    | with_reducible apply foldM_frame
    | with_reducible apply setItem_frame
    | with_reducible apply release_frame
    | with_reducible apply unbackPage_frame
    | with_reducible apply dropSwath_frame
    | exact fun x hx => hs x (by revert x; decide +kernel)
    | intro _)

theorem failLoad_frame {k : List Fld} {a : Module} {m : Module} {p : Nat} {i : ItemRef} {st : Status} {v : Nat}
    (hf : SameBut k a m) (hs : Within [.start, .fns, .parts, .fabParts, .cores, .nodes, .hedgeOut, .freeCtr] k) : SameBut k a (failLoad m p
        i st v) := by
  unfold failLoad
  repeat' (first
    | with_reducible exact hf
    | with_reducible apply finishV_frame
    | with_reducible apply undoLoad_frame
    | exact fun x hx => hs x (by revert x; decide +kernel))

theorem reserveLoad_frame {k : List Fld} {a m : Module} {p : Nat} {ws : List Swath} {r : SMap Nat 0 × Module}
    (hf : SameBut k a m) (hs : Within [.parts] k) (h : reserveLoad m p ws = .ok r) : SameBut k a r.2 := by
  unfold reserveLoad at h
  dsimp only at h
  split at h
  · cases h; exact hf
  · split at h
    · cases h
    · split at h
      · cases h
      · rename_i e
        cases h
        have h1 := reserve_frame (addRsvd_frame hf (fun x hx => hs x (by revert x; decide +kernel))) (fun x hx => hs x (by revert x; decide +kernel)) e
        exact h1

theorem uncharge_frame {k : List Fld} {a : Module} {m : Module} {p n : Nat}
    (hf : SameBut k a m) (hs : Within [.parts] k) : SameBut k a (uncharge m p n) := by
  unfold uncharge
  repeat' (first
    | with_reducible assumption
    | with_reducible apply SameBut.ite
    | with_reducible apply addRsvd_frame
    | with_reducible apply subUsed_frame)

theorem chargeSward_frame {k : List Fld} {a m : Module} {p : Nat} {resv : SMap Nat 0} {n : Nat} (hf : SameBut k a m)
    (hs : Within [.mem, .parts, .freeCtr] k) : SameBut k a (chargeSward m p resv n).1 := by
  induction n generalizing m resv with
  | zero => exact hf
  | succ n ih =>
    have s1 : Within [.parts] k := fun x hx => hs x (by revert x; decide +kernel)
    unfold chargeSward
    dsimp only
    split
    · exact hf
    · rename_i m2 r2 e
      have h2 : SameBut k a m2 := by
        revert e; split
        · intro e
          obtain ⟨y, ey, e⟩ := Option.map_eq_some_iff.mp e
          cases e
          exact poolRoom_frame hf (fun x hx => hs x (by revert x; decide +kernel)) ey
        · split
          · intro e; cases e; exact subRsvd_frame hf s1
          · intro e; cases e
      have h3 := ih (resv := r2) (addUsed_frame (p := p) (t := 0) (n := 1) h2 s1)
      split
      · rename_i e3; exact SameBut.fst e3 h3
      · rename_i e3; exact uncharge_frame (SameBut.fst e3 h3) (fun x hx => hs x (by revert x; decide +kernel))

theorem backLoad_frame {k : List Fld} {a : Module} {m : Module} {p : Nat} {ws : List Swath} {resv : SMap Nat 0}
    (hf : SameBut k a m) (hs : Within [.start, .mem, .fns, .parts, .fabParts, .nodes, .hedgeOut, .freeCtr] k) : SameBut k a (backLoad m p
        ws resv).1 := by
  unfold backLoad
  repeat' (first
    | with_reducible exact hf
    | with_reducible assumption
    | (refine SameBut.fst (by assumption) (show SameBut _ _ (_ : _ × _).1 from backAll_frame ?_ ?_))
    | with_reducible apply uncharge_frame
    | (refine SameBut.fst (by assumption) (show SameBut _ _ (_ : _ × _).1 from chargeSward_frame ?_ ?_))
    | split
    | exact fun x hx => hs x (by revert x; decide +kernel))

theorem beginStream_frame {k : List Fld} {a : Module} {m : Module} {p : Nat} {i : ItemRef}
    (hf : SameBut k a m) (hs : Within [.start, .mem, .fns, .parts, .fabParts, .cores, .nodes, .hedgeOut, .freeCtr] k) : SameBut k a
        (beginStream m p i) := by
  unfold beginStream
  repeat' (first
    | with_reducible exact hf
    | with_reducible assumption
    | with_reducible exact SameBut.refl _ _
    | extract_lets
    | with_reducible apply SameBut.ite
    | with_reducible apply foldM_frame
    | with_reducible apply setItem_frame
    | with_reducible apply release_frame
    | with_reducible apply holdPages_frame
    | with_reducible apply setSwath_frame
    | with_reducible apply failLoad_frame
    | (refine SameBut.fst (by assumption) (show SameBut _ _ (_ : _ × _).1 from backLoad_frame ?_ ?_))
    | split
    | exact fun x hx => hs x (by revert x; decide +kernel)
    | intro _)

theorem takeGroup_frame {ks : List Fld} {a : Module} {m : Module} {p : Nat} {w : Swath} {k : Nat} {waits : Option Nat}
    (hf : SameBut ks a m) (hs : Within [.parts, .cores] ks) : SameBut ks a (takeGroup m p w k waits) := by
  unfold takeGroup
  repeat' (first
    | with_reducible exact hf
    | with_reducible exact SameBut.refl _ _
    | with_reducible apply Module.setCore_frame
    | with_reducible apply foldM_frame
    | with_reducible apply setSwath_frame
    | exact fun x hx => hs x (by revert x; decide +kernel)
    | intro _)

theorem dropGroup_frame {k : List Fld} {a : Module} {m : Module} {p : Nat} {w : Swath}
    (hf : SameBut k a m) (hs : Within [.parts, .cores] k) : SameBut k a (dropGroup m p w) := by
  unfold dropGroup
  repeat' (first
    | with_reducible exact hf
    | with_reducible apply emptyPlanes_frame
    | with_reducible apply setSwath_frame
    | exact fun x hx => hs x (by revert x; decide +kernel))

theorem placeLoop_frame {k : List Fld} {a : Module} {p : Nat} {i : ItemRef} {y0 : Nat} {m : Module}
    (hf : SameBut k a m) (hs : Within [.start, .mem, .fns, .parts, .fabParts, .cores, .nodes, .hedgeOut, .freeCtr] k) : SameBut k a
        (placeLoop p i y0 m) := by
  induction y0 generalizing m with
  | zero =>
    unfold placeLoop
    exact hf
  | succ n ih =>
    unfold placeLoop
    repeat' (first
      | with_reducible exact hf
      | with_reducible assumption
      | with_reducible exact SameBut.refl _ _
      | extract_lets
      | with_reducible apply SameBut.ite
      | with_reducible apply setSwath_frame
      | with_reducible apply failLoad_frame
      | with_reducible apply beginStream_frame
      | with_reducible apply takeGroup_frame
      | with_reducible apply dropGroup_frame
      | split
      | exact fun x hx => hs x (by revert x; decide +kernel)
      | with_reducible apply ih)

theorem resumeLoads_frame {k : List Fld} {a : Module} {m : Module}
    (hf : SameBut k a m) (hs : Within [.start, .mem, .fns, .parts, .fabParts, .cores, .nodes, .hedgeOut, .freeCtr] k) : SameBut k a
        (resumeLoads m) := by
  unfold resumeLoads
  repeat' (first
    | with_reducible assumption
    | with_reducible exact SameBut.refl _ _
    | with_reducible apply foldM_frame
    | with_reducible apply placeLoop_frame
    | intro _)

theorem admitLoad_frame {k : List Fld} {a m : Module} {p : Nat} {i : ItemRef} {x : Item} {ws : List Swath}
    (hf : SameBut k a m) (hs : Within [.start, .mem, .fns, .parts, .fabParts, .cores, .nodes, .hedgeOut, .freeCtr] k) : SameBut k a
        (admitLoad m p i x ws) := by
  unfold admitLoad
  split
  · exact itemRange_frame hf (fun x hx => hs x (by revert x; decide +kernel))
  · split
    · exact finishV_frame hf (fun x hx => hs x (by revert x; decide +kernel))
    · rename_i e
      have h1 := reserveLoad_frame (r := (_, _)) hf (fun x hx => hs x (by revert x; decide +kernel)) e
      repeat' (first
        | with_reducible exact hf
        | with_reducible assumption
        | exact fun x hx => hs x (by revert x; decide +kernel)
        | with_reducible apply SameBut.ite
        | with_reducible exact SameBut.refl _ _
        | intro _
        | with_reducible apply placeLoop_frame
        | with_reducible apply Module.setPart_frame
        | with_reducible apply setItem_frame
        | with_reducible apply startItem_frame
        | with_reducible apply foldM_frame
        | with_reducible apply noteRead_frame)

theorem readyPlanes_frame {k : List Fld} {a : Module} {m : Module} {p : Nat} {w : Swath}
    (hf : SameBut k a m) (hs : Within [.ras, .parts, .cores] k) : SameBut k a (readyPlanes m p w) := by
  unfold readyPlanes
  repeat' (first
    | with_reducible exact hf
    | with_reducible assumption
    | with_reducible exact SameBut.refl _ _
    | with_reducible apply Module.setPart_frame
    | with_reducible apply foldM_frame
    | with_reducible apply loadPlane_frame
    | with_reducible apply setSwath_frame
    | exact fun x hx => hs x (by revert x; decide +kernel)
    | intro _)

theorem loadSwathStreamEndFn_frame {k : List Fld} {a : Module} {i : ItemRef} {m : Module}
    (hf : SameBut k a m) (hs : Within [.start, .sec, .ras, .fns, .parts, .fabParts, .cores, .nodes, .hedgeOut, .freeCtr] k) : SameBut k a
        (loadSwathStreamEndFn i m) := by
  unfold loadSwathStreamEndFn
  repeat' (first
    | with_reducible exact hf
    | with_reducible assumption
    | with_reducible exact SameBut.refl _ _
    | extract_lets
    | with_reducible apply SameBut.ite
    | with_reducible apply foldM_frame
    | with_reducible apply finishV_frame
    | with_reducible apply rejFormat_frame
    | with_reducible apply withItem_frame
    | with_reducible apply noteRead_frame
    | with_reducible apply tierTake_frame
    | with_reducible apply countHashFail_frame
    | with_reducible apply undoLoad_frame
    | with_reducible apply failLoad_frame
    | with_reducible apply readyPlanes_frame
    | split
    | exact fun x hx => hs x (by revert x; decide +kernel)
    | intro _)

theorem takeFrame_frame {k : List Fld} {a m : Module} {p t : Nat} {m1 : Module} (hf : SameBut k a m)
    (hs : Within [.mem, .parts, .freeCtr] k) (h : takeFrame m p t = some m1) : SameBut k a m1 := by
  unfold takeFrame at h
  split at h
  · obtain ⟨x, e, rfl⟩ := Option.map_eq_some_iff.mp h
    exact addRsvd_frame (poolRoom_frame hf (fun x hx => hs x (by revert x; decide +kernel)) e) (fun x hx => hs x (by revert x; decide +kernel))
  · split at h
    · cases h; exact addRsvd_frame hf (fun x hx => hs x (by revert x; decide +kernel))
    · cases h

theorem takeFrom_frame {k : List Fld} {a m : Module} {p : Nat} {l : List Nat} {r : Nat × Module} (hf : SameBut k a m)
    (hs : Within [.mem, .parts, .freeCtr] k) (h : takeFrom m p l = some r) : SameBut k a r.2 := by
  induction l with
  | nil => cases h
  | cons t l ih =>
    unfold takeFrom at h
    split at h
    · cases h; exact takeFrame_frame hf (fun x hx => hs x (by revert x; decide +kernel)) (by assumption)
    · exact ih h

theorem takeFrames_frame {k : List Fld} {a m : Module} {p t n : Nat} (hf : SameBut k a m)
    (hs : Within [.mem, .parts, .freeCtr] k) : SameBut k a (takeFrames m p t n).1 := by
  induction n generalizing m with
  | zero => exact hf
  | succ n ih =>
    unfold takeFrames
    split
    · exact hf
    · rename_i u m2 e
      have h2 : SameBut k a m2 := takeFrom_frame (r := (_, _)) hf (fun x hx => hs x (by revert x; decide +kernel)) e
      split
      · rename_i e3; exact SameBut.fst e3 (ih h2)
      · rename_i e3; exact subRsvd_frame (SameBut.fst e3 (ih h2)) (fun x hx => hs x (by revert x; decide +kernel))

theorem lockPage_frame {k : List Fld} {a : Module} {m : Module} {p page : Nat} {lock : Bool}
    (hf : SameBut k a m) (hs : Within [.parts] k) : SameBut k a (lockPage m p page lock) := by
  unfold lockPage
  repeat' (first
    | with_reducible assumption
    | with_reducible apply SameBut.ite
    | with_reducible apply setPage_frame)

theorem sendPage_frame {k : List Fld} {a : Module} {i : ItemRef} {p t : Nat} {pl : Placement} {lock : Bool} {m : Module} {x : Nat × Nat}
    (hf : SameBut k a m) (hs : Within [.parts, .freeCtr] k) : SameBut k a (sendPage i p t pl lock m x) := by
  unfold sendPage
  repeat' (first
    | with_reducible exact hf
    | extract_lets
    | with_reducible apply subRsvd_frame
    | with_reducible apply setPage_frame
    | with_reducible apply placeFrame_frame
    | with_reducible apply lockPage_frame
    | split
    | exact fun x hx => hs x (by revert x; decide +kernel))

theorem moveRetierFn_frame {k : List Fld} {a : Module} {i : ItemRef} {m : Module}
    (hf : SameBut k a m) (hs : Within [.start, .mem, .fns, .parts, .fabParts, .nodes, .hedgeOut, .freeCtr] k) : SameBut k a (moveRetierFn i
        m) := by
  unfold moveRetierFn
  repeat' (first
    | with_reducible exact hf
    | with_reducible assumption
    | with_reducible exact SameBut.refl _ _
    | extract_lets
    | with_reducible apply SameBut.ite
    | with_reducible apply foldM_frame
    | with_reducible apply finishV_frame
    | with_reducible apply rejFormat_frame
    | with_reducible apply withItem_frame
    | with_reducible apply startItem_frame
    | with_reducible apply setPage_frame
    | (refine badRun_frame ?_ ?_ (by assumption))
    | with_reducible apply takeFrames_frame
    | (refine SameBut.fst (by assumption) (show SameBut _ _ (_ : _ × _).1 from takeFrames_frame ?_ ?_))
    | with_reducible apply lockPage_frame
    | with_reducible apply sendPage_frame
    | split
    | exact fun x hx => hs x (by revert x; decide +kernel)
    | intro _)

theorem beginMove_frame {k : List Fld} {a m : Module} {i : ItemRef} {x : Item} {p : Nat}
    (hf : SameBut k a m) (hs : Within [.start, .mem, .fns, .parts, .fabParts, .nodes, .hedgeOut, .freeCtr] k) : SameBut k a (beginMove m i
        x p) := by
  unfold beginMove
  dsimp only
  split
  · rename_i e
    split at e
    · cases e
    · exact badRun_frame hf (fun x hx => hs x (by revert x; decide +kernel)) e
  · repeat' (first
      | with_reducible exact hf
      | exact fun x hx => hs x (by revert x; decide +kernel)
      | with_reducible apply startItem_frame
      | with_reducible apply itemRange_frame
      | with_reducible apply finishV_frame
      | (refine SameBut.fst (by assumption) (show SameBut _ _ (_ : _ × _).1 from backForWrite_frame ?_ ?_))
      | split)

theorem rangeCopy_frame {k : List Fld} {a : Module} {m : Module} {p : Nat} {x : Item} {off n : Nat}
    (hf : SameBut k a m) (hs : Within [.freeCtr] k) : SameBut k a (rangeCopy m p x off n).2 := by
  unfold rangeCopy
  repeat' (first
    | with_reducible assumption
    | with_reducible apply SameBut.ite
    | with_reducible apply takeFree_frame)

theorem moveLines_frame {k : List Fld} {a m : Module} {i : ItemRef} {x : Item} {p : Nat} {data : List Byte}
    (hf : SameBut k a m) (hs : Within [.start, .fns, .parts, .fabParts, .nodes, .hedgeOut, .hostOut, .freeCtr] k) : SameBut k a (moveLines
        m i x p data) := by
  have bad : ∀ {c : Prop} [Decidable c] {s n : Nat} {m1 : Module}, (if c then none else badRun m p i s n) = some m1 → SameBut k a m1 := by
    intro c _ s n m1 e
    split at e
    · cases e
    · exact badRun_frame hf (fun x hx => hs x (by revert x; decide +kernel)) e
  unfold moveLines
  dsimp only
  split
  · exact hf
  · split
    · rename_i m1 e
      rcases e1 : (if mvKind x = 2 then none else badRun m p i (mvSrc x + x.progress) data.length) with _ | y
      · rw [e1] at e
        exact bad e
      · rw [e1] at e
        cases e
        exact bad e1
    · repeat' (first
      | with_reducible exact hf
      | with_reducible assumption
      | exact fun x hx => hs x (by revert x; decide +kernel)
      | with_reducible apply SameBut.ite
      | with_reducible apply withHost_frame
      | with_reducible apply rangeCopy_frame
      | with_reducible apply setItem_frame
      | with_reducible apply emitBytes_frame
      | with_reducible apply tierTake_frame
      | with_reducible apply noteRead_frame
      | with_reducible apply devWrite_frame
      | intro _)

theorem moveCopyFn_frame {k : List Fld} {a : Module} {i : ItemRef} {data : List Byte} {m : Module}
    (hf : SameBut k a m) (hs : Within [.start, .mem, .fns, .parts, .fabParts, .nodes, .hedgeOut, .hostOut, .freeCtr] k) : SameBut k a
        (moveCopyFn i data m) := by
  unfold moveCopyFn
  repeat' (first
    | with_reducible exact hf
    | extract_lets
    | with_reducible apply beginMove_frame
    | with_reducible apply moveLines_frame
    | split
    | exact fun x hx => hs x (by revert x; decide +kernel))

theorem moveCopyDoneFn_frame {k : List Fld} {a : Module} {i : ItemRef} {m : Module}
    (hf : SameBut k a m) (hs : Within [.start, .fns, .fabParts, .nodes, .hedgeOut, .freeCtr] k) : SameBut k a (moveCopyDoneFn i m) := by
  unfold moveCopyDoneFn
  repeat' (first
    | with_reducible assumption
    | with_reducible apply SameBut.ite
    | with_reducible apply finishV_frame
    | with_reducible apply withItem_frame
    | intro _)

theorem dropPrefix_frame {k : List Fld} {a : Module} {m : Module} {p : Nat} {x : Prefix}
    (hf : SameBut k a m) (hs : Within [.start, .fns, .parts, .fabParts, .nodes, .hedgeOut, .freeCtr] k) : SameBut k a (dropPrefix m p x) :=
        by
  unfold dropPrefix
  repeat' (first
    | with_reducible exact hf
    | with_reducible apply Module.setPart_frame
    | with_reducible apply freeCache_frame
    | exact fun x hx => hs x (by revert x; decide +kernel))

theorem evictAll_frame {k : List Fld} {a : Module} {m : Module} {p : Nat} {i : ItemRef} {ws : List Swath} {ps : List Prefix} {model :
    Option Nat}
    (hf : SameBut k a m) (hs : Within [.start, .fns, .parts, .fabParts, .cores, .nodes, .hedgeOut, .freeCtr] k) : SameBut k a (evictAll m p
        i ws ps model) := by
  unfold evictAll
  repeat' (first
    | with_reducible exact hf
    | with_reducible assumption
    | with_reducible exact SameBut.refl _ _
    | extract_lets
    | with_reducible apply SameBut.ite
    | with_reducible apply Module.setPart_frame
    | with_reducible apply foldM_frame
    | with_reducible apply finishV_frame
    | with_reducible apply dropSwath_frame
    | with_reducible apply dropPrefix_frame
    | exact fun x hx => hs x (by revert x; decide +kernel)
    | intro _
    | (dsimp +zetaDelta only; split))

theorem evictFn_frame {k : List Fld} {a : Module} {i : ItemRef} {m : Module}
    (hf : SameBut k a m) (hs : Within [.start, .fns, .parts, .fabParts, .cores, .nodes, .hedgeOut, .freeCtr] k) : SameBut k a (evictFn i m)
        := by
  unfold evictFn
  repeat' (first
    | with_reducible exact hf
    | with_reducible assumption
    | with_reducible exact SameBut.refl _ _
    | extract_lets
    | with_reducible apply SameBut.ite
    | with_reducible apply foldM_frame
    | with_reducible apply finishV_frame
    | with_reducible apply withItem_frame
    | with_reducible apply unbackPage_frame
    | with_reducible apply itemRange_frame
    | with_reducible apply evictAll_frame
    | exact fun x hx => hs x (by revert x; decide +kernel)
    | intro _)

theorem openRun_frame {k : List Fld} {a : Module} {m : Module} {i : ItemRef} {p : Nat} {mk : Nat → Run} {model cap : Nat}
    (hf : SameBut k a m) (hs : Within [.start, .fns, .parts, .fabParts, .nodes, .hedgeOut, .freeCtr] k) : SameBut k a (openRun m i p mk
        model cap) := by
  unfold openRun
  repeat' (first
    | with_reducible exact hf
    | with_reducible apply Module.setPart_frame
    | with_reducible apply finishV_frame
    | with_reducible apply rejFormat_frame
    | with_reducible apply startItem_frame
    | split
    | exact fun x hx => hs x (by revert x; decide +kernel))

theorem stepFn_frame {k : List Fld} {a : Module} {i : ItemRef} {m : Module}
    (hf : SameBut k a m) (hs : Within [.start, .fns, .parts, .fabParts, .nodes, .hedgeOut, .freeCtr] k) : SameBut k a (stepFn i m) := by
  unfold stepFn
  repeat' (first
    | with_reducible exact hf
    | with_reducible assumption
    | extract_lets
    | with_reducible apply finishV_frame
    | with_reducible apply rejFormat_frame
    | with_reducible apply withItem_frame
    | with_reducible apply openRun_frame
    | split
    | exact fun x hx => hs x (by revert x; decide +kernel)
    | intro _)

theorem runGraphFn_frame {k : List Fld} {a : Module} {i : ItemRef} {m : Module}
    (hf : SameBut k a m) (hs : Within [.start, .fns, .parts, .fabParts, .nodes, .hedgeOut, .freeCtr] k) : SameBut k a (runGraphFn i m) := by
  unfold runGraphFn
  repeat' (first
    | with_reducible assumption
    | with_reducible apply withItem_frame
    | with_reducible apply openRun_frame
    | intro _)

theorem startList_frame {k : List Fld} {m₀ : Module} {m : Module} {p a : Nat} {v : Serving} {c : Cache}
    (hf : SameBut k m₀ m) (hs : Within [.parts] k) : SameBut k m₀ (startList m p a v c) := by
  unfold startList
  repeat' (first
    | with_reducible assumption
    | with_reducible apply devWrite_frame)

theorem startLists_frame {k : List Fld} {a m : Module} {i : ItemRef} {p : Nat} {q : Request}
    (hf : SameBut k a m) (hs : Within [.start, .mem, .fns, .parts, .fabParts, .nodes, .hedgeOut, .freeCtr] k) : SameBut k a (startLists m i
        p q).1 := by
  have one : ∀ (m : Module) (n : Nat) (v : Option Serving) (c : Cache), SameBut k a m → SameBut k a (match v with
      | none => (m, true)
      | some v =>
        if rangeEnd m p < n + 4 * listLen v then (itemRange m p i n, false)
        else match backForWrite m p (firstTierOf m p) n (4 * listLen v) with
          | (m, some (st, d)) => (finishV m i st d, false)
          | (m, none) => (startList m p n v c, true) : Module × Bool).1 := by
    intro m n v c hf
    repeat' (first
      | with_reducible exact hf
      | exact fun x hx => hs x (by revert x; decide +kernel)
      | with_reducible apply itemRange_frame
      | with_reducible apply finishV_frame
      | with_reducible apply startList_frame
      | (refine SameBut.fst (by assumption) (show SameBut _ _ (_ : _ × _).1 from backForWrite_frame ?_ ?_))
      | split)
  unfold startLists
  dsimp only
  split
  · rename_i e
    exact SameBut.fst e (one _ _ _ _ hf)
  · rename_i e
    exact one _ _ _ _ (SameBut.fst e (one _ _ _ _ hf))

theorem admitRequest_frame {k : List Fld} {m₀ : Module} {m : Module} {i : ItemRef} {p : Nat} {a : Asked}
    (hf : SameBut k m₀ m) (hs : Within [.start, .mem, .fns, .parts, .fabParts, .slots, .nodes, .hedgeOut, .freeCtr] k) : SameBut k m₀
        (admitRequest m i p a) := by
  unfold admitRequest
  repeat' (first
    | with_reducible exact hf
    | with_reducible assumption
    | with_reducible exact SameBut.refl _ _
    | extract_lets
    | with_reducible apply SameBut.ite
    | with_reducible apply Module.setPart_frame
    | with_reducible apply finishV_frame
    | with_reducible apply startItem_frame
    | (refine reserve_frame (r := (_, _)) ?_ ?_ (by assumption))
    | with_reducible apply release_frame
    | with_reducible apply noteRead_frame
    | with_reducible apply checkSyncs_frame
    | (refine SameBut.fst (by assumption) (show SameBut _ _ (_ : _ × _).1 from startLists_frame ?_ ?_))
    | split
    | exact fun x hx => hs x (by revert x; decide +kernel)
    | with_reducible apply SameBut.with_slots)

theorem admitFn_frame {k : List Fld} {a : Module} {i : ItemRef} {block : List Byte} {prompt : List Nat} {m : Module}
    (hf : SameBut k a m) (hs : Within [.start, .mem, .fns, .parts, .fabParts, .slots, .nodes, .hedgeOut, .freeCtr] k) : SameBut k a
        (admitFn i block prompt m) := by
  unfold admitFn
  repeat' (first
    | with_reducible exact hf
    | with_reducible assumption
    | with_reducible exact SameBut.refl _ _
    | with_reducible apply finishV_frame
    | with_reducible apply rejFormat_frame
    | with_reducible apply withItem_frame
    | with_reducible apply withHost_frame
    | with_reducible apply admitRequest_frame
    | split
    | exact fun x hx => hs x (by revert x; decide +kernel)
    | intro _)

theorem pauseFn_frame {k : List Fld} {a : Module} {i : ItemRef} {m : Module}
    (hf : SameBut k a m) (hs : Within [.start, .fns, .fabParts, .slots, .nodes, .hedgeOut, .freeCtr] k) : SameBut k a (pauseFn i m) := by
  unfold pauseFn
  repeat' (first
    | with_reducible exact hf
    | with_reducible assumption
    | with_reducible apply finishV_frame
    | with_reducible apply withItem_frame
    | with_reducible apply startItem_frame
    | with_reducible apply setReq_frame
    | split
    | exact fun x hx => hs x (by revert x; decide +kernel)
    | intro _)

theorem promote_frame {k : List Fld} {a : Module} {m : Module} {q : Request}
    (hf : SameBut k a m) (hs : Within [.mem, .parts, .freeCtr] k) : SameBut k a (promote m q) := by
  unfold promote
  repeat' (first
    | with_reducible exact hf
    | with_reducible exact SameBut.refl _ _
    | extract_lets
    | with_reducible apply foldM_frame
    | with_reducible apply setPage_frame
    | (refine takeFrame_frame ?_ ?_ (by assumption))
    | split
    | exact fun x hx => hs x (by revert x; decide +kernel)
    | intro _)

theorem resumeFn_frame {k : List Fld} {a : Module} {i : ItemRef} {m : Module}
    (hf : SameBut k a m) (hs : Within [.start, .mem, .fns, .parts, .fabParts, .slots, .nodes, .hedgeOut, .freeCtr] k) : SameBut k a
        (resumeFn i m) := by
  unfold resumeFn
  repeat' (first
    | with_reducible exact hf
    | with_reducible assumption
    | with_reducible exact SameBut.refl _ _
    | extract_lets
    | with_reducible apply finishV_frame
    | with_reducible apply withItem_frame
    | with_reducible apply startItem_frame
    | with_reducible apply setReq_frame
    | with_reducible apply promote_frame
    | split
    | exact fun x hx => hs x (by revert x; decide +kernel)
    | intro _)

theorem postPaused_frame {k : List Fld} {a : Module} {m : Module} {slot : Nat}
    (hf : SameBut k a m) (hs : Within [.start, .fns, .parts, .fabParts, .slots, .nodes, .hedgeOut, .freeCtr] k) : SameBut k a (postPaused m
        slot) := by
  unfold postPaused
  repeat' (first
    | with_reducible exact hf
    | with_reducible assumption
    | with_reducible exact SameBut.refl _ _
    | extract_lets
    | with_reducible apply SameBut.ite
    | with_reducible apply pushWaiting_frame
    | with_reducible apply finishV_frame
    | with_reducible apply setReq_frame
    | with_reducible apply settleModel_frame
    | with_reducible apply listFoldl_frame
    | split
    | exact fun x hx => hs x (by revert x; decide +kernel)
    | intro _)

theorem takePause_frame {k : List Fld} {a : Module} {m : Module} {slot : Nat} {kind : PauseKind}
    (hf : SameBut k a m) (hs : Within [.start, .fns, .parts, .fabParts, .slots, .nodes, .hedgeOut, .freeCtr] k) : SameBut k a (takePause m
        slot kind) := by
  unfold takePause
  repeat' (first
    | with_reducible exact hf
    | with_reducible apply setReq_frame
    | with_reducible apply postPaused_frame
    | split
    | exact fun x hx => hs x (by revert x; decide +kernel))

theorem takeResume_frame {k : List Fld} {a : Module} {m : Module} {slot : Nat}
    (hf : SameBut k a m) (hs : Within [.start, .fns, .fabParts, .slots, .nodes, .hedgeOut, .freeCtr] k) : SameBut k a (takeResume m slot)
        := by
  unfold takeResume
  repeat' (first
    | with_reducible exact hf
    | with_reducible assumption
    | with_reducible exact SameBut.refl _ _
    | with_reducible apply finishV_frame
    | with_reducible apply setReq_frame
    | with_reducible apply listFoldl_frame
    | split
    | exact fun x hx => hs x (by revert x; decide +kernel)
    | intro _)

theorem sealPauses_frame {k : List Fld} {a : Module} {m : Module} {p : Nat}
    (hf : SameBut k a m) (hs : Within [.start, .mem, .fns, .parts, .fabParts, .slots, .nodes, .hedgeOut, .freeCtr] k) : SameBut k a
        (sealPauses m p) := by
  unfold sealPauses
  repeat' (first
    | with_reducible exact hf
    | with_reducible assumption
    | with_reducible exact SameBut.refl _ _
    | with_reducible apply SameBut.ite
    | with_reducible apply foldM_frame
    | with_reducible apply promote_frame
    | with_reducible apply takePause_frame
    | with_reducible apply takeResume_frame
    | exact fun x hx => hs x (by revert x; decide +kernel)
    | intro _)

theorem refuseRuns_frame {k : List Fld} {a : Module} {m : Module} {p : Nat}
    (hf : SameBut k a m) (hs : Within [.start, .fns, .parts, .fabParts, .nodes, .hedgeOut, .freeCtr] k) : SameBut k a (refuseRuns m p) := by
  unfold refuseRuns
  repeat' (first
    | with_reducible exact hf
    | with_reducible assumption
    | with_reducible exact SameBut.refl _ _
    | with_reducible apply SameBut.ite
    | with_reducible apply Module.setPart_frame
    | with_reducible apply foldM_frame
    | with_reducible apply rejFormat_frame
    | with_reducible apply completeRun_frame
    | exact fun x hx => hs x (by revert x; decide +kernel)
    | intro _)

theorem sealDrain_frame {k : List Fld} {a : Module} {m : Module} {p : Nat}
    (hf : SameBut k a m) (hs : Within [.start, .fw, .fns, .parts, .fabParts, .slots, .nodes, .hedgeOut, .freeCtr] k) : SameBut k a
        (sealDrain m p) := by
  unfold sealDrain
  repeat' (first
    | with_reducible exact hf
    | with_reducible assumption
    | with_reducible exact SameBut.refl _ _
    | extract_lets
    | with_reducible apply SameBut.ite
    | with_reducible apply Module.setPart_frame
    | with_reducible apply foldM_frame
    | with_reducible apply finishV_frame
    | with_reducible apply setReq_frame
    | with_reducible apply stopRun_frame
    | with_reducible apply dispatchAll_frame
    | with_reducible apply takePause_frame
    | exact fun x hx => hs x (by revert x; decide +kernel)
    | intro _)

theorem orderPreempt_frame {k : List Fld} {a : Module} {m : Module} {n q : Nat}
    (hf : SameBut k a m) (hs : Within [.parts, .nodes, .hedgeOut] k) : SameBut k a (orderPreempt m n q) := by
  unfold orderPreempt
  repeat' (first
    | with_reducible exact hf
    | with_reducible apply Module.setPart_frame
    | with_reducible apply hedgeSend_frame
    | exact fun x hx => hs x (by revert x; decide +kernel))

theorem readyPages_frame {k : List Fld} {a : Module} {m : Module} {p slot : Nat} {q : Request} {es : List (Nat × SetEntry)}
    (hf : SameBut k a m) (hs : Within [.start, .mem, .fns, .parts, .fabParts, .slots, .nodes, .hedgeOut, .freeCtr] k) : SameBut k a
        (readyPages m p slot q es).1 := by
  unfold readyPages
  repeat' (first
    | with_reducible exact hf
    | with_reducible assumption
    | with_reducible exact SameBut.refl _ _
    | extract_lets
    | with_reducible apply foldM_frame
    | with_reducible apply setReq_frame
    | (refine SameBut.fst (by assumption) (show SameBut _ _ (_ : _ × _).1 from backAll_frame ?_ ?_))
    | with_reducible apply devWrite_frame
    | split
    | exact fun x hx => hs x (by revert x; decide +kernel)
    | intro _)

theorem dropRequest_frame {k : List Fld} {a : Module} {m : Module} {slot : Nat} {q : Request}
    (hf : SameBut k a m) (hs : Within [.start, .fns, .parts, .fabParts, .slots, .nodes, .hedgeOut, .freeCtr] k) : SameBut k a (dropRequest
        m slot q) := by
  unfold dropRequest
  repeat' (first
    | with_reducible exact hf
    | with_reducible apply Module.setRegs_frame
    | with_reducible apply setItem_frame
    | with_reducible apply pushWaiting_frame
    | with_reducible apply endRequest_frame
    | exact fun x hx => hs x (by revert x; decide +kernel))

theorem joinOne_frame {k : List Fld} {a : Module} {n p : Nat} {acc : Module × List Build} {slot : Nat}
    (hf : SameBut k a acc.1) (hs : Within [.start, .mem, .fns, .parts, .fabParts, .slots, .nodes, .hedgeOut, .freeCtr] k) : SameBut k a
        (joinOne n p acc slot).1 := by
  unfold joinOne
  repeat' (first
    | with_reducible exact hf
    | with_reducible assumption
    | extract_lets
    | with_reducible apply Module.setMemRegs_frame
    | with_reducible apply setReq_frame
    | (refine SameBut.fst (by assumption) (show SameBut _ _ (_ : _ × _).1 from readyPages_frame ?_ ?_))
    | with_reducible apply dropRequest_frame
    | split
    | exact fun x hx => hs x (by revert x; decide +kernel))

theorem fillBuilds_frame {k : List Fld} {a : Module} {m : Module} {n p : Nat} {bs : List Build}
    (hf : SameBut k a m) (hs : Within [.start, .mem, .fns, .parts, .fabParts, .slots, .nodes, .hedgeOut, .freeCtr] k) : SameBut k a
        (fillBuilds m n p bs).1 := by
  unfold fillBuilds
  repeat' (first
    | with_reducible exact hf
    | with_reducible assumption
    | with_reducible exact SameBut.refl _ _
    | with_reducible apply joinOne_frame
    | intro _
    | with_reducible apply listFoldlFst_frame)

theorem sealBuild_frame {k : List Fld} {a : Module} {m : Module} {n p : Nat} {b : Build}
    (hf : SameBut k a m) (hs : Within [.parts] k) : SameBut k a (sealBuild m n p b).1 := by
  unfold sealBuild
  repeat' (first
    | with_reducible assumption
    | with_reducible apply devWrite_frame)

theorem autoPause_frame {k : List Fld} {a : Module} {before m : Module} {p : Nat}
    (_hf : SameBut k a before) (hs : Within [.start, .fns, .parts, .fabParts, .slots, .nodes, .hedgeOut, .freeCtr] k) (hf2 : SameBut k a m)
        : SameBut k a (autoPause before m p) := by
  unfold autoPause
  repeat' (first
    | with_reducible assumption
    | extract_lets
    | with_reducible apply takePause_frame
    | split)

theorem autoResume_frame {k : List Fld} {a : Module} {m : Module} {p : Nat}
    (hf : SameBut k a m) (hs : Within [.slots] k) : SameBut k a (autoResume m p) := by
  unfold autoResume
  repeat' (first
    | with_reducible assumption
    | with_reducible apply setReq_frame
    | split)

theorem raiseV_frame {k : List Fld} {a : Module} {m : Module} {n p : Nat}
    (hf : SameBut k a m) (hs : Within [.parts] k) : SameBut k a (raiseV m n p) := by
  unfold raiseV
  repeat' (first
    | with_reducible assumption
    | extract_lets
    | with_reducible apply Module.setRegs_frame
    | split)

theorem accrue_frame {k : List Fld} {a : Module} {m : Module} {p : Nat}
    (hf : SameBut k a m) (hs : Within [.parts] k) : SameBut k a (accrue m p) := by
  unfold accrue
  repeat' (first
    | with_reducible assumption
    | with_reducible apply Module.setPart_frame
    | split)

theorem saveCore_frame {k : List Fld} {a : Module} {m : Module} {p core : Nat}
    (hf : SameBut k a m) (hs : Within [.parts, .clusters] k) : SameBut k a (saveCore m p core) := by
  unfold saveCore
  repeat' (first
    | with_reducible exact hf
    | with_reducible assumption
    | with_reducible exact SameBut.refl _ _
    | extract_lets
    | with_reducible apply Module.setPart_frame
    | with_reducible apply Module.setClu_frame
    | with_reducible apply foldM_frame
    | with_reducible apply regTake_frame
    | split
    | exact fun x hx => hs x (by revert x; decide +kernel)
    | intro _)

theorem refetchAll_frame {k : List Fld} {a : Module} {m : Module} {p : Nat} {w : Swath} {core : Nat}
    (hf : SameBut k a m) (hs : Within [.cores] k) : SameBut k a (refetchAll m p w core) := by
  unfold refetchAll
  repeat' (first
    | with_reducible assumption
    | extract_lets
    | with_reducible apply Module.setMe_frame
    | with_reducible apply fillFront_frame
    | with_reducible apply loadNext_frame
    | split)

theorem clearMarks_frame {k : List Fld} {a : Module} {m : Module} {core : Nat}
    (hf : SameBut k a m) (hs : Within [.ras] k) : SameBut k a (clearMarks m core) := by
  unfold clearMarks
  repeat' (first
    | with_reducible assumption
    | with_reducible apply Module.setRas_frame)

theorem bringCore_frame {k : List Fld} {a : Module} {m : Module} {p core : Nat}
    (hf : SameBut k a m) (hs : Within [.ras, .parts, .cores] k) : SameBut k a (bringCore m p core) := by
  unfold bringCore
  repeat' (first
    | with_reducible exact hf
    | with_reducible assumption
    | extract_lets
    | with_reducible apply Module.setPart_frame
    | with_reducible apply Module.setCore_frame
    | with_reducible apply regTake_frame
    | with_reducible apply refetchAll_frame
    | with_reducible apply clearMarks_frame
    | split
    | exact fun x hx => hs x (by revert x; decide +kernel))

theorem restoreStreams_frame {k : List Fld} {a : Module} {m : Module} {p : Nat}
    (hf : SameBut k a m) (hs : Within [.parts, .clusters] k) : SameBut k a (restoreStreams m p) := by
  unfold restoreStreams
  repeat' (first
    | with_reducible exact hf
    | with_reducible assumption
    | with_reducible exact SameBut.refl _ _
    | with_reducible apply Module.setPart_frame
    | with_reducible apply Module.setClu_frame
    | with_reducible apply foldM_frame
    | with_reducible apply regTake_frame
    | split
    | exact fun x hx => hs x (by revert x; decide +kernel)
    | intro _)

theorem takeCores_frame {k : List Fld} {a : Module} {m : Module} {p : Nat} {cs : List Nat}
    (hf : SameBut k a m) (hs : Within [.ras, .parts, .cores] k) : SameBut k a (takeCores m p cs).1 := by
  unfold takeCores
  repeat' (first
    | with_reducible exact hf
    | with_reducible exact SameBut.refl _ _
    | with_reducible apply SameBut.ite
    | with_reducible apply Module.setCore_frame
    | with_reducible apply foldM_frame
    | with_reducible apply bringCore_frame
    | exact fun x hx => hs x (by revert x; decide +kernel)
    | intro _)

theorem startCore_frame {k : List Fld} {a : Module} {m : Module} {w : Swath} {core : Nat}
    (hf : SameBut k a m) (hs : Within [.cores] k) : SameBut k a (startCore m w core) := by
  unfold startCore
  repeat' (first
    | with_reducible assumption
    | with_reducible exact SameBut.refl _ _
    | with_reducible apply Module.setCore_frame
    | with_reducible apply foldM_frame
    | with_reducible apply setOut_frame
    | intro _)

theorem startFold_frame {k : List Fld} {a : Module} {m : Module} {p run : Nat} {w : Swath} {sw : List Nat}
    (hf : SameBut k a m) (hs : Within [.cores, .barriers] k) : SameBut k a (startFold m p run w sw) := by
  unfold startFold
  repeat' (first
    | with_reducible exact hf
    | with_reducible assumption
    | with_reducible exact SameBut.refl _ _
    | with_reducible apply foldM_frame
    | with_reducible apply startCore_frame
    | exact fun x hx => hs x (by revert x; decide +kernel)
    | intro _
    | with_reducible apply SameBut.with_barriers)

theorem forgetIssues_frame {k : List Fld} {a : Module} {m : Module} {p : Nat} {rs : List RunStep}
    (hf : SameBut k a m) (hs : Within [.parts] k) : SameBut k a (forgetIssues m p rs) := by
  unfold forgetIssues
  repeat' (first
    | with_reducible assumption
    | with_reducible apply Module.setPart_frame)

theorem countSteps_frame {k : List Fld} {a : Module} {m : Module} {p : Nat} {rs : List RunStep}
    (hf : SameBut k a m) (hs : Within [.parts] k) : SameBut k a (countSteps m p rs) := by
  unfold countSteps
  repeat' (first
    | with_reducible assumption
    | with_reducible apply Module.setPart_frame)

theorem launchStep_frame {k : List Fld} {a : Module} {m : Module} {p : Nat} {rs : List RunStep} {replayOf : Option Nat}
    (hf : SameBut k a m) (hs : Within [.ras, .parts, .slots, .cores, .barriers, .xfers] k) : SameBut k a (launchStep m p rs replayOf) := by
  unfold launchStep
  repeat' (first
    | with_reducible exact hf
    | with_reducible assumption
    | with_reducible exact SameBut.refl _ _
    | extract_lets
    | with_reducible apply SameBut.ite
    | with_reducible apply Module.setPart_frame
    | with_reducible apply Module.setCore_frame
    | with_reducible apply foldM_frame
    | with_reducible apply markProv_frame
    | with_reducible apply takeCores_frame
    | (refine SameBut.fst (by assumption) (show SameBut _ _ (_ : _ × _).1 from takeCores_frame ?_ ?_))
    | with_reducible apply startFold_frame
    | with_reducible apply forgetIssues_frame
    | with_reducible apply countSteps_frame
    | split
    | exact fun x hx => hs x (by revert x; decide +kernel)
    | intro _
    | with_reducible apply SameBut.with_xfers)

theorem launchReplay_frame {k : List Fld} {a : Module} {m : Module} {p : Nat} {r : Replay}
    (hf : SameBut k a m) (hs : Within [.start, .ras, .fns, .parts, .fabParts, .slots, .clusters, .cores, .nodes, .barriers, .hedgeOut,
        .xfers, .freeCtr] k) : SameBut k a (launchReplay m p r) := by
  unfold launchReplay
  repeat' (first
    | with_reducible exact hf
    | with_reducible assumption
    | with_reducible exact SameBut.refl _ _
    | extract_lets
    | with_reducible apply Module.setPart_frame
    | with_reducible apply Module.setRas_frame
    | with_reducible apply raise_frame
    | with_reducible apply endRecovery_frame
    | with_reducible apply launchStep_frame
    | exact fun x hx => hs x (by revert x; decide +kernel))

theorem preemptNow_frame {k : List Fld} {a : Module} {m : Module} {p : Nat}
    (hf : SameBut k a m) (hs : Within [.parts, .cores] k) : SameBut k a (preemptNow m p) := by
  unfold preemptNow
  repeat' (first
    | with_reducible exact hf
    | with_reducible assumption
    | with_reducible exact SameBut.refl _ _
    | with_reducible apply Module.setPart_frame
    | with_reducible apply Module.setRegs_frame
    | with_reducible apply Module.setCore_frame
    | with_reducible apply foldM_frame
    | with_reducible apply accrue_frame
    | split
    | exact fun x hx => hs x (by revert x; decide +kernel)
    | intro _)

theorem resumeNow_frame {k : List Fld} {a : Module} {m : Module} {p : Nat}
    (hf : SameBut k a m) (hs : Within [.ras, .parts, .clusters, .cores] k) : SameBut k a (resumeNow m p) := by
  unfold resumeNow
  repeat' (first
    | with_reducible exact hf
    | with_reducible assumption
    | with_reducible exact SameBut.refl _ _
    | extract_lets
    | with_reducible apply SameBut.ite
    | with_reducible apply Module.setPart_frame
    | with_reducible apply Module.setCore_frame
    | with_reducible apply foldM_frame
    | with_reducible apply accrue_frame
    | with_reducible apply restoreStreams_frame
    | with_reducible apply takeCores_frame
    | split
    | exact fun x hx => hs x (by revert x; decide +kernel)
    | intro _)

theorem switchCompleteFn_frame {k : List Fld} {a : Module} {core part : Nat} {m : Module}
    (hf : SameBut k a m) (hs : Within [.ras, .parts, .clusters, .cores] k) : SameBut k a (switchCompleteFn core part m) := by
  unfold switchCompleteFn
  repeat' (first
    | with_reducible exact hf
    | with_reducible assumption
    | with_reducible exact SameBut.refl _ _
    | extract_lets
    | with_reducible apply SameBut.ite
    | with_reducible apply Module.setPart_frame
    | with_reducible apply Module.setRegs_frame
    | with_reducible apply Module.setCore_frame
    | with_reducible apply accrue_frame
    | with_reducible apply saveCore_frame
    | with_reducible apply bringCore_frame
    | with_reducible apply restoreStreams_frame
    | with_reducible apply startCore_frame
    | split
    | exact fun x hx => hs x (by revert x; decide +kernel)
    | (dsimp +zetaDelta only; split))

theorem checkDrained_frame {k : List Fld} {a : Module} {m : Module} {p : Nat}
    (hf : SameBut k a m) (hs : Within [.start, .ras, .fns, .parts, .clusters, .cores, .nodes, .hedgeOut] k) : SameBut k a (checkDrained m
        p) := by
  unfold checkDrained
  repeat' (first
    | with_reducible exact hf
    | with_reducible assumption
    | with_reducible exact SameBut.refl _ _
    | extract_lets
    | with_reducible apply SameBut.ite
    | with_reducible apply Module.setRegs_frame
    | with_reducible apply Module.setCore_frame
    | with_reducible apply foldM_frame
    | with_reducible apply raise_frame
    | with_reducible apply saveCore_frame
    | with_reducible apply clearMarks_frame
    | exact fun x hx => hs x (by revert x; decide +kernel)
    | intro _)

theorem runFinished_frame {k : List Fld} {a : Module} {m : Module} {p : Nat} {r : Run}
    (hf : SameBut k a m) (hs : Within [.start, .fns, .parts, .fabParts, .nodes, .hedgeOut, .freeCtr] k) : SameBut k a (runFinished m p r)
        := by
  unfold runFinished
  repeat' (first
    | with_reducible exact hf
    | with_reducible apply SameBut.ite
    | with_reducible apply Module.setPart_frame
    | with_reducible apply completeRun_frame
    | exact fun x hx => hs x (by revert x; decide +kernel))

theorem stepFinishFn_frame {k : List Fld} {a : Module} {part : Nat} {m : Module}
    (hf : SameBut k a m) (hs : Within [.tick, .start, .ras, .fns, .parts, .fabParts, .clusters, .cores, .nodes, .hedgeOut, .freeCtr] k) :
        SameBut k a (stepFinishFn part m) := by
  unfold stepFinishFn
  repeat' (first
    | with_reducible exact hf
    | with_reducible assumption
    | with_reducible exact SameBut.refl _ _
    | extract_lets
    | with_reducible apply SameBut.ite
    | with_reducible apply Module.setPart_frame
    | with_reducible apply Module.setCore_frame
    | with_reducible apply Module.setTick_frame
    | with_reducible apply Module.setRas_frame
    | with_reducible apply foldM_frame
    | with_reducible apply accrue_frame
    | with_reducible apply checkDrained_frame
    | with_reducible apply runFinished_frame
    | split
    | exact fun x hx => hs x (by revert x; decide +kernel)
    | intro _)

theorem pinPages_frame {k : List Fld} {a : Module} {m : Module} {slot model : Nat}
    (hf : SameBut k a m) (hs : Within [.parts, .slots] k) : SameBut k a (pinPages m slot model) := by
  unfold pinPages
  repeat' (first
    | with_reducible exact hf
    | extract_lets
    | with_reducible apply Module.setPart_frame
    | with_reducible apply setReq_frame
    | split
    | exact fun x hx => hs x (by revert x; decide +kernel))

theorem commitMark_frame {k : List Fld} {a : Module} {m : Module} {slot model w : Nat}
    (hf : SameBut k a m) (hs : Within [.parts, .slots] k) : SameBut k a (commitMark m slot model w) := by
  unfold commitMark
  repeat' (first
    | with_reducible assumption
    | with_reducible apply settleModel_frame
    | with_reducible apply pinPages_frame)

theorem postRecord_frame {k : List Fld} {a : Module} {m : Module} {slot index : Nat} {v : Serving} {r : ResultEntry}
    (hf : SameBut k a m) (hs : Within [.start, .fns, .parts, .fabParts, .slots, .nodes, .hedgeOut, .hostOut, .freeCtr] k) : SameBut k a
        (postRecord m slot index v r) := by
  unfold postRecord
  repeat' (first
    | with_reducible exact hf
    | with_reducible assumption
    | with_reducible exact SameBut.refl _ _
    | with_reducible apply SameBut.ite
    | with_reducible apply emitBytes_frame
    | with_reducible apply setItem_frame
    | with_reducible apply pushWaiting_frame
    | with_reducible apply setReq_frame
    | with_reducible apply regTake_frame
    | with_reducible apply endRequest_frame
    | split
    | exact fun x hx => hs x (by revert x; decide +kernel))

theorem takeMain_frame {k : List Fld} {a : Module} {m : Module} {slot index : Nat} {v : Serving} {e : SetEntry} {r : ResultEntry}
    (hf : SameBut k a m) (hs : Within [.start, .fns, .parts, .fabParts, .slots, .nodes, .hedgeOut, .hostOut, .freeCtr] k) : SameBut k a
        (takeMain m slot index v e r) := by
  unfold takeMain
  repeat' (first
    | with_reducible exact hf
    | with_reducible apply SameBut.ite
    | with_reducible apply Module.setRegs_frame
    | with_reducible apply setReq_frame
    | with_reducible apply commitMark_frame
    | with_reducible apply postRecord_frame
    | split
    | exact fun x hx => hs x (by revert x; decide +kernel))

theorem takeDraft_frame {k : List Fld} {a : Module} {m : Module} {slot : Nat} {e : SetEntry} {r : ResultEntry}
    (hf : SameBut k a m) (hs : Within [.parts, .slots] k) : SameBut k a (takeDraft m slot e r) := by
  unfold takeDraft
  repeat' (first
    | with_reducible exact hf
    | with_reducible apply setReq_frame
    | with_reducible apply commitMark_frame
    | split
    | exact fun x hx => hs x (by revert x; decide +kernel))

theorem pauseAfter_frame {k : List Fld} {a : Module} {m : Module} {slot : Nat}
    (hf : SameBut k a m) (hs : Within [.start, .fns, .parts, .fabParts, .slots, .nodes, .hedgeOut, .freeCtr] k) : SameBut k a (pauseAfter m
        slot) := by
  unfold pauseAfter
  repeat' (first
    | with_reducible assumption
    | with_reducible apply postPaused_frame
    | split)

theorem takeEntry_frame {k : List Fld} {a : Module} {m : Module} {p : Nat} {rs : RunStep} {v : Serving} {j : Nat} {e : SetEntry}
    (hf : SameBut k a m) (hs : Within [.start, .fns, .parts, .fabParts, .slots, .nodes, .hedgeOut, .hostOut, .freeCtr] k) : SameBut k a
        (takeEntry m p rs v j e) := by
  unfold takeEntry
  repeat' (first
    | with_reducible exact hf
    | with_reducible assumption
    | with_reducible exact SameBut.refl _ _
    | extract_lets
    | with_reducible apply SameBut.ite
    | with_reducible apply takeFree_frame
    | with_reducible apply noteRead_frame
    | with_reducible apply releaseAborted_frame
    | with_reducible apply failRequest_frame
    | with_reducible apply discardEntry_frame
    | with_reducible apply takeMain_frame
    | with_reducible apply takeDraft_frame
    | with_reducible apply pauseAfter_frame
    | split
    | exact fun x hx => hs x (by revert x; decide +kernel))

theorem takeRun_frame {k : List Fld} {a : Module} {m : Module} {p : Nat} {rs : RunStep}
    (hf : SameBut k a m) (hs : Within [.start, .fns, .parts, .fabParts, .slots, .nodes, .hedgeOut, .hostOut, .freeCtr] k) : SameBut k a
        (takeRun m p rs) := by
  unfold takeRun
  repeat' (first
    | with_reducible assumption
    | with_reducible exact SameBut.refl _ _
    | with_reducible apply foldM_frame
    | with_reducible apply takeEntry_frame
    | split
    | intro _)

theorem stepResultsProcessFn_frame {k : List Fld} {a : Module} {part : Nat} {m : Module}
    (hf : SameBut k a m) (hs : Within [.start, .fns, .parts, .fabParts, .slots, .nodes, .hedgeOut, .hostOut, .freeCtr] k) : SameBut k a
        (stepResultsProcessFn part m) := by
  unfold stepResultsProcessFn
  repeat' (first
    | with_reducible exact hf
    | with_reducible assumption
    | with_reducible exact SameBut.refl _ _
    | with_reducible apply SameBut.ite
    | with_reducible apply Module.setPart_frame
    | with_reducible apply foldM_frame
    | with_reducible apply hostWait_frame
    | with_reducible apply takeRun_frame
    | exact fun x hx => hs x (by revert x; decide +kernel)
    | intro _)

theorem setLimit_frame {k : List Fld} {a : Module} {m : Module}
    (hf : SameBut k a m) (hs : Within [.power] k) : SameBut k a (setLimit m) := by
  unfold setLimit
  repeat' (first
    | with_reducible assumption
    | with_reducible apply Module.setPower_frame)

theorem taBad_frame {k : List Fld} {a : Module} {p block off : Nat} {m : Module}
    (hf : SameBut k a m) (hs : Within [.tick, .power, .parts] k) : SameBut k a (taBad p block off m) := by
  unfold taBad
  repeat' (first
    | with_reducible exact hf
    | with_reducible apply SameBut.ite
    | with_reducible apply Module.setRegs_frame
    | with_reducible apply Module.setLark_frame
    | with_reducible apply Module.setTick_frame
    | with_reducible apply Module.setPower_frame
    | exact fun x hx => hs x (by revert x; decide +kernel))

theorem applyTa_frame {k : List Fld} {a : Module} {m : Module} {w : TaWrite}
    (hf : SameBut k a m) (hs : Within [.tick, .start, .power, .fns, .parts, .fabParts, .slots, .nodes, .hedgeOut, .fabric, .freeCtr] k) :
        SameBut k a (applyTa m w) := by
  unfold applyTa
  repeat' (first
    | with_reducible exact hf
    | with_reducible assumption
    | with_reducible exact SameBut.refl _ _
    | extract_lets
    | with_reducible apply SameBut.ite
    | with_reducible apply Module.setRegs_frame
    | with_reducible apply Module.setLark_frame
    | with_reducible apply Module.setTick_frame
    | with_reducible apply Module.setPower_frame
    | with_reducible apply Module.setFabric_frame
    | with_reducible apply setLimit_frame
    | exact fun x hx => hs x (by revert x; decide +kernel))

theorem stageTa_frame {k : List Fld} {a : Module} {m : Module} {p block off v : Nat}
    (hf : SameBut k a m) (hs : Within [.tick, .start, .power, .fns, .parts, .fabParts, .slots, .nodes, .hedgeOut, .fabric, .freeCtr] k) :
        SameBut k a (stageTa m p block off v) := by
  unfold stageTa
  repeat' (first
    | with_reducible exact hf
    | with_reducible apply SameBut.ite
    | with_reducible apply Module.setTick_frame
    | with_reducible apply configRefused_frame
    | with_reducible apply applyTa_frame
    | exact fun x hx => hs x (by revert x; decide +kernel))

theorem taArrives_frame {k : List Fld} {a : Module} {m : Module} {fn block off v : Nat}
    (hf : SameBut k a m) (hs : Within [.tick, .start, .power, .fns, .parts, .fabParts, .slots, .nodes, .hedgeOut, .fabric, .freeCtr] k) :
        SameBut k a (taArrives m fn block off v) := by
  unfold taArrives
  repeat' (first
    | with_reducible exact hf
    | with_reducible assumption
    | with_reducible exact SameBut.refl _ _
    | with_reducible apply SameBut.ite
    | with_reducible apply busError_frame
    | with_reducible apply refuse_frame
    | with_reducible apply taBad_frame
    | with_reducible apply stageTa_frame
    | exact fun x hx => hs x (by revert x; decide +kernel)
    | intro _
    | (dsimp +zetaDelta only; split))

theorem taWriteFn_frame {k : List Fld} {a : Module} {fn offset : Nat} {value : Word} {m : Module}
    (hf : SameBut k a m) (hs : Within [.tick, .start, .power, .fns, .parts, .fabParts, .slots, .nodes, .hedgeOut, .fabric, .freeCtr] k) :
        SameBut k a (taWriteFn fn offset value m) := by
  unfold taWriteFn
  repeat' (first
    | with_reducible assumption
    | with_reducible apply SameBut.ite
    | with_reducible apply regWrite_frame
    | with_reducible apply taArrives_frame
    | exact fun x hx => hs x (by revert x; decide +kernel)
    | intro _)

theorem applyStaged_frame {k : List Fld} {a : Module} {m : Module}
    (hf : SameBut k a m) (hs : Within [.tick, .start, .power, .fns, .parts, .fabParts, .slots, .nodes, .hedgeOut, .fabric, .freeCtr] k) :
        SameBut k a (applyStaged m) := by
  unfold applyStaged
  repeat' (first
    | with_reducible exact hf
    | with_reducible exact SameBut.refl _ _
    | with_reducible apply Module.setTick_frame
    | with_reducible apply foldM_frame
    | with_reducible apply applyTa_frame
    | exact fun x hx => hs x (by revert x; decide +kernel)
    | intro _)

theorem changeClock_frame {k : List Fld} {a : Module} {m : Module} {v : Nat}
    (hf : SameBut k a m) (hs : Within [.power, .parts] k) : SameBut k a (changeClock m v) := by
  unfold changeClock
  repeat' (first
    | with_reducible exact hf
    | with_reducible exact SameBut.refl _ _
    | with_reducible apply Module.setPower_frame
    | with_reducible apply foldM_frame
    | with_reducible apply accrue_frame
    | exact fun x hx => hs x (by revert x; decide +kernel)
    | intro _)

theorem runWork_frame {k : List Fld} {a : Module} {m : Module} {w : ReserveWork}
    (hf : SameBut k a m) (hs : Within [.tick, .power, .parts] k) : SameBut k a (runWork m w) := by
  unfold runWork
  repeat' (first
    | with_reducible exact hf
    | with_reducible apply Module.setTick_frame
    | with_reducible apply Module.setPower_frame
    | with_reducible apply changeClock_frame
    | split
    | exact fun x hx => hs x (by revert x; decide +kernel))

theorem fallNow_frame {k : List Fld} {a : Module} {m : Module}
    (hf : SameBut k a m) (hs : Within [.tick, .power, .parts] k) : SameBut k a (fallNow m) := by
  unfold fallNow
  repeat' (first
    | with_reducible assumption
    | with_reducible apply SameBut.ite
    | with_reducible apply runWork_frame)

theorem advanceTick_frame {k : List Fld} {a : Module} {m : Module}
    (hf : SameBut k a m) (hs : Within [.tick, .nodes, .fabric] k) : SameBut k a (advanceTick m) := by
  unfold advanceTick
  repeat' (first
    | with_reducible exact hf
    | with_reducible assumption
    | with_reducible exact SameBut.refl _ _
    | extract_lets
    | with_reducible apply SameBut.ite
    | with_reducible apply Module.setTick_frame
    | with_reducible apply Module.setFabric_frame
    | exact fun x hx => hs x (by revert x; decide +kernel)
    | with_reducible apply SameBut.with_nodes)

theorem chargeTick_frame {k : List Fld} {a : Module} {m : Module} {p : Nat}
    (hf : SameBut k a m) (hs : Within [.parts] k) : SameBut k a (chargeTick m p) := by
  unfold chargeTick
  repeat' (first
    | with_reducible assumption
    | with_reducible apply Module.setRegs_frame
    | with_reducible apply accrue_frame)

theorem fillBuckets_frame {k : List Fld} {a : Module} {m : Module} {p : Nat}
    (hf : SameBut k a m) (hs : Within [.parts] k) : SameBut k a (fillBuckets m p) := by
  unfold fillBuckets
  repeat' (first
    | with_reducible assumption
    | with_reducible apply Module.setRegs_frame)

theorem powerBoundary_frame {k : List Fld} {a : Module} {m : Module}
    (hf : SameBut k a m) (hs : Within [.power] k) : SameBut k a (powerBoundary m) := by
  unfold powerBoundary
  repeat' (first
    | with_reducible assumption
    | extract_lets
    | with_reducible apply SameBut.ite
    | with_reducible apply Module.setPower_frame
    | with_reducible apply setLimit_frame
    | (dsimp +zetaDelta only; split))

theorem countSlip_frame {k : List Fld} {a : Module} {m : Module} {p : Nat}
    (hf : SameBut k a m) (hs : Within [.tick, .start, .fns, .parts, .nodes, .hedgeOut] k) : SameBut k a (countSlip m p) := by
  unfold countSlip
  repeat' (first
    | with_reducible exact hf
    | with_reducible apply Module.setPart_frame
    | with_reducible apply Module.setRegs_frame
    | with_reducible apply Module.setTick_frame
    | with_reducible apply raise_frame
    | split
    | exact fun x hx => hs x (by revert x; decide +kernel))

theorem launchPart_frame {k : List Fld} {a : Module} {m : Module} {p : Nat}
    (hf : SameBut k a m) (hs : Within [.start, .ras, .fns, .parts, .fabParts, .slots, .clusters, .cores, .nodes, .barriers, .hedgeOut,
        .xfers, .freeCtr] k) : SameBut k a (launchPart m p) := by
  unfold launchPart
  repeat' (first
    | with_reducible exact hf
    | with_reducible assumption
    | with_reducible exact SameBut.refl _ _
    | extract_lets
    | with_reducible apply Module.setPart_frame
    | with_reducible apply clearStep_frame
    | with_reducible apply launchStep_frame
    | with_reducible apply launchReplay_frame
    | with_reducible apply resumeNow_frame
    | split
    | exact fun x hx => hs x (by revert x; decide +kernel))

theorem unsealPart_frame {k : List Fld} {a : Module} {m : Module} {p : Nat}
    (hf : SameBut k a m) (hs : Within [.parts, .slots] k) : SameBut k a (unsealPart m p) := by
  unfold unsealPart
  repeat' (first
    | with_reducible exact hf
    | with_reducible assumption
    | with_reducible exact SameBut.refl _ _
    | extract_lets
    | with_reducible apply Module.setPart_frame
    | with_reducible apply foldM_frame
    | with_reducible apply takeBack_frame
    | exact fun x hx => hs x (by revert x; decide +kernel)
    | intro _
    | (dsimp +zetaDelta only; split))

theorem countHolds_frame {k : List Fld} {a : Module} {m : Module} {n : Nat}
    (hf : SameBut k a m) (hs : Within [.fw] k) : SameBut k a (countHolds m n) := by
  unfold countHolds
  repeat' (first
    | with_reducible assumption
    | with_reducible exact SameBut.refl _ _
    | with_reducible apply SameBut.ite
    | with_reducible apply Module.setProc_frame
    | with_reducible apply foldM_frame
    | intro _)

theorem reserveStartFn_frame {k : List Fld} {a : Module} {m : Module}
    (hf : SameBut k a m) (hs : Within [.tick, .power, .fns, .parts, .hostOut] k) : SameBut k a (reserveStartFn m) := by
  unfold reserveStartFn
  repeat' (first
    | with_reducible exact hf
    | with_reducible assumption
    | with_reducible exact SameBut.refl _ _
    | with_reducible apply SameBut.ite
    | with_reducible apply Module.setTick_frame
    | with_reducible apply foldM_frame
    | with_reducible apply writeLedger_frame
    | with_reducible apply runWork_frame
    | exact fun x hx => hs x (by revert x; decide +kernel)
    | intro _)

theorem leyCalibrationDueFn_frame {k : List Fld} {a : Module} {m : Module}
    (hf : SameBut k a m) (hs : Within [.tick] k) : SameBut k a (leyCalibrationDueFn m) := by
  unfold leyCalibrationDueFn
  repeat' (first
    | with_reducible assumption
    | with_reducible apply SameBut.ite
    | with_reducible apply Module.setTick_frame)

theorem deferredReserveWorkFn_frame {k : List Fld} {a : Module} {m : Module}
    (hf : SameBut k a m) (hs : Within [.tick, .power, .parts] k) : SameBut k a (deferredReserveWorkFn m) := by
  unfold deferredReserveWorkFn
  repeat' (first
    | with_reducible exact hf
    | with_reducible assumption
    | with_reducible exact SameBut.refl _ _
    | with_reducible apply SameBut.ite
    | with_reducible apply Module.setTick_frame
    | with_reducible apply foldM_frame
    | with_reducible apply runWork_frame
    | exact fun x hx => hs x (by revert x; decide +kernel)
    | intro _)

theorem dropPending_frame {k : List Fld} {a : Module} {m : Module} {fn ring : Nat}
    (hf : SameBut k a m) (hs : Within [.start, .fns, .fabParts, .nodes, .hedgeOut, .freeCtr] k) : SameBut k a (dropPending m fn ring) := by
  unfold dropPending
  repeat' (first
    | with_reducible exact hf
    | with_reducible exact SameBut.refl _ _
    | with_reducible apply Module.setFn_frame
    | with_reducible apply foldM_frame
    | with_reducible apply finishV_frame
    | exact fun x hx => hs x (by revert x; decide +kernel)
    | intro _)

theorem ringSqCfgWriteFn_frame {k : List Fld} {a : Module} {fn : Nat} {value : Word} {m : Module}
    (hf : SameBut k a m) (hs : Within [.start, .fns, .fabParts, .nodes, .hedgeOut, .freeCtr] k) : SameBut k a (ringSqCfgWriteFn fn value m)
        := by
  unfold ringSqCfgWriteFn
  repeat' (first
    | with_reducible exact hf
    | with_reducible assumption
    | with_reducible apply SameBut.ite
    | with_reducible apply Module.setRing_frame
    | with_reducible apply regWrite_frame
    | with_reducible apply refuseRing_frame
    | with_reducible apply dropPending_frame
    | exact fun x hx => hs x (by revert x; decide +kernel)
    | intro _)

theorem ringCqCfgWriteFn_frame {k : List Fld} {a : Module} {fn : Nat} {value : Word} {m : Module}
    (hf : SameBut k a m) (hs : Within [.start, .fns, .nodes, .hedgeOut] k) : SameBut k a (ringCqCfgWriteFn fn value m) := by
  unfold ringCqCfgWriteFn
  repeat' (first
    | with_reducible exact hf
    | with_reducible assumption
    | with_reducible apply SameBut.ite
    | with_reducible apply Module.setRing_frame
    | with_reducible apply regWrite_frame
    | with_reducible apply refuseRing_frame
    | exact fun x hx => hs x (by revert x; decide +kernel)
    | intro _)

theorem orphanSlots_frame {k : List Fld} {a : Module} {m : Module} {fn : Nat}
    (hf : SameBut k a m) (hs : Within [.start, .fns, .parts, .fabParts, .slots, .nodes, .hedgeOut, .freeCtr] k) : SameBut k a (orphanSlots
        m fn) := by
  unfold orphanSlots
  repeat' (first
    | with_reducible exact hf
    | with_reducible exact SameBut.refl _ _
    | extract_lets
    | with_reducible apply foldM_frame
    | with_reducible apply setReq_frame
    | with_reducible apply releaseAborted_frame
    | split
    | exact fun x hx => hs x (by revert x; decide +kernel)
    | intro _)

theorem endItem_frame {k : List Fld} {a : Module} {m : Module} {i : ItemRef}
    (hf : SameBut k a m) (hs : Within [.start, .power, .ras, .fns, .parts, .fabParts, .slots, .cores, .nodes, .hedgeOut, .freeCtr] k) :
        SameBut k a (endItem m i) := by
  unfold endItem
  repeat' (first
    | with_reducible exact hf
    | with_reducible apply setItem_frame
    | with_reducible apply stopWork_frame
    | split
    | exact fun x hx => hs x (by revert x; decide +kernel))

theorem beginReset_frame {k : List Fld} {a : Module} {m : Module} {fn : Nat} {ledgers : Bool}
    (hf : SameBut k a m) (hs : Within [.start, .power, .ras, .fns, .parts, .fabParts, .slots, .cores, .nodes, .hedgeOut, .hostOut,
        .freeCtr] k) : SameBut k a (beginReset m fn ledgers) := by
  unfold beginReset
  repeat' (first
    | with_reducible exact hf
    | with_reducible assumption
    | with_reducible exact SameBut.refl _ _
    | with_reducible apply SameBut.ite
    | with_reducible apply Module.setFn_frame
    | with_reducible apply foldM_frame
    | with_reducible apply writeLedger_frame
    | with_reducible apply orphanSlots_frame
    | with_reducible apply endItem_frame
    | exact fun x hx => hs x (by revert x; decide +kernel)
    | intro _)

theorem forgetItems_frame {k : List Fld} {a : Module} {m : Module} {fn : Nat}
    (hf : SameBut k a m) (hs : Within [.ras, .fns, .parts] k) : SameBut k a (forgetItems m fn) := by
  unfold forgetItems
  repeat' (first
    | with_reducible exact hf
    | with_reducible assumption
    | with_reducible exact SameBut.refl _ _
    | with_reducible apply Module.setFn_frame
    | with_reducible apply Module.setPart_frame
    | with_reducible apply Module.setRas_frame
    | with_reducible apply foldM_frame
    | exact fun x hx => hs x (by revert x; decide +kernel)
    | intro _)

theorem fnResetCompleteFn_frame {k : List Fld} {a : Module} {fn : Nat} {m : Module}
    (hf : SameBut k a m) (hs : Within [.ras, .fns, .parts] k) : SameBut k a (fnResetCompleteFn fn m) := by
  unfold fnResetCompleteFn
  repeat' (first
    | with_reducible exact hf
    | with_reducible apply SameBut.ite
    | with_reducible apply Module.setFn_frame
    | with_reducible apply forgetItems_frame
    | exact fun x hx => hs x (by revert x; decide +kernel))

theorem functionLevelResetFn_frame {k : List Fld} {a : Module} {fn : Nat} {m : Module}
    (hf : SameBut k a m) (hs : Within [.start, .power, .ras, .fns, .parts, .fabParts, .slots, .cores, .nodes, .hedgeOut, .hostOut,
        .freeCtr] k) : SameBut k a (functionLevelResetFn fn m) := by
  unfold functionLevelResetFn
  repeat' (first
    | with_reducible assumption
    | with_reducible apply SameBut.ite
    | with_reducible apply beginReset_frame)

theorem fnPartWrite_frame {k : List Fld} {a : Module} {value : Word} {m : Module}
    (hf : SameBut k a m) (hs : Within [.start, .power, .ras, .fns, .parts, .fabParts, .slots, .cores, .nodes, .hedgeOut, .hostOut,
        .freeCtr] k) : SameBut k a (fnPartWrite value m) := by
  unfold fnPartWrite
  repeat' (first
    | with_reducible exact hf
    | with_reducible assumption
    | with_reducible apply SameBut.ite
    | with_reducible apply Module.setFn_frame
    | with_reducible apply regWrite_frame
    | with_reducible apply refuseFn_frame
    | with_reducible apply beginReset_frame
    | exact fun x hx => hs x (by revert x; decide +kernel)
    | intro _)

theorem hifFnPartBindFn_frame {k : List Fld} {a : Module} {value : Word} {m : Module}
    (hf : SameBut k a m) (hs : Within [.start, .power, .ras, .fns, .parts, .fabParts, .slots, .cores, .nodes, .hedgeOut, .hostOut,
        .freeCtr] k) : SameBut k a (hifFnPartBindFn value m) := by
  unfold hifFnPartBindFn
  repeat' (first
    | with_reducible assumption
    | with_reducible apply fnPartWrite_frame)

theorem hifFnPartResetFn_frame {k : List Fld} {a : Module} {value : Word} {m : Module}
    (hf : SameBut k a m) (hs : Within [.start, .power, .ras, .fns, .parts, .fabParts, .slots, .cores, .nodes, .hedgeOut, .hostOut,
        .freeCtr] k) : SameBut k a (hifFnPartResetFn value m) := by
  unfold hifFnPartResetFn
  repeat' (first
    | with_reducible assumption
    | with_reducible apply SameBut.ite
    | with_reducible apply fnPartWrite_frame)

theorem setCtx_frame {k : List Fld} {a : Module} {m : Module} {p n : Nat}
    (hf : SameBut k a m) (hs : Within [.mem, .parts, .freeCtr] k) : SameBut k a (setCtx m p n).1 := by
  unfold setCtx
  repeat' (first
    | with_reducible exact hf
    | extract_lets
    | with_reducible apply Module.setPart_frame
    | with_reducible apply subUsed_frame
    | (refine SameBut.fst (by assumption) (show SameBut _ _ (_ : _ × _).1 from chargePages_frame ?_ ?_))
    | split
    | exact fun x hx => hs x (by revert x; decide +kernel))

theorem resizeCtx_frame {k : List Fld} {a m : Module} {ps : List Nat} (hf : SameBut k a m)
    (hs : Within [.mem, .parts, .freeCtr] k) : SameBut k a (resizeCtx m ps).1 := by
  induction ps generalizing m with
  | nil => exact hf
  | cons p ps ih =>
    unfold resizeCtx
    split
    · split
      · rename_i e; exact SameBut.fst e (setCtx_frame hf (fun x hx => hs x (by revert x; decide +kernel)))
      · rename_i e
        have h1 := SameBut.fst e (setCtx_frame hf (fun x hx => hs x (by revert x; decide +kernel)))
        split
        · rename_i e2; exact SameBut.fst e2 (ih h1)
        · rename_i e2; exact setCtx_frame (SameBut.fst e2 (ih h1)) (fun x hx => hs x (by revert x; decide +kernel))
    · exact ih hf

theorem setOwned_frame {k : List Fld} {a : Module} {m : Module} {p : Nat} {new : BitVec 160}
    (hf : SameBut k a m) (hs : Within [.power, .parts] k) : SameBut k a (setOwned m p new).1 := by
  unfold setOwned
  repeat' (first
    | with_reducible exact hf
    | extract_lets
    | with_reducible apply Module.setRegs_frame
    | with_reducible apply refreshDomains_frame
    | split
    | exact fun x hx => hs x (by revert x; decide +kernel))

theorem setPool_frame {k : List Fld} {a : Module} {m : Module} {new : BitVec 160}
    (hf : SameBut k a m) (hs : Within [.power, .mem, .pool, .parts, .freeCtr] k) : SameBut k a (setPool m new).1 := by
  unfold setPool
  repeat' (first
    | with_reducible exact hf
    | with_reducible assumption
    | with_reducible exact SameBut.refl _ _
    | extract_lets
    | with_reducible apply refreshDomains_frame
    | (refine SameBut.fst (by assumption) (show SameBut _ _ (_ : _ × _).1 from resizeCtx_frame ?_ ?_))
    | split
    | exact fun x hx => hs x (by revert x; decide +kernel)
    | with_reducible apply SameBut.with_pool)

theorem beginPartReset_frame {k : List Fld} {a : Module} {m : Module} {p : Nat}
    (hf : SameBut k a m) (hs : Within [.start, .power, .ras, .fns, .parts, .fabParts, .slots, .clusters, .cores, .nodes, .hedgeOut,
        .hostOut, .xfers, .freeCtr] k) : SameBut k a (beginPartReset m p) := by
  unfold beginPartReset
  repeat' (first
    | with_reducible exact hf
    | with_reducible assumption
    | with_reducible exact SameBut.refl _ _
    | extract_lets
    | with_reducible apply SameBut.ite
    | with_reducible apply Module.setPart_frame
    | with_reducible apply Module.setRegs_frame
    | with_reducible apply Module.setFab_frame
    | with_reducible apply Module.setCore_frame
    | with_reducible apply Module.setRas_frame
    | with_reducible apply foldM_frame
    | with_reducible apply clearStep_frame
    | with_reducible apply dropSwath_frame
    | with_reducible apply clearMarks_frame
    | with_reducible apply beginReset_frame
    | exact fun x hx => hs x (by revert x; decide +kernel)
    | intro _
    | with_reducible apply SameBut.with_slots
    | with_reducible apply SameBut.with_clusters)

theorem partResetCompleteFn_frame {k : List Fld} {a : Module} {part : Nat} {m : Module}
    (hf : SameBut k a m) (hs : Within [.power, .parts] k) : SameBut k a (partResetCompleteFn part m) := by
  unfold partResetCompleteFn
  repeat' (first
    | with_reducible exact hf
    | with_reducible apply SameBut.ite
    | with_reducible apply Module.setPart_frame
    | with_reducible apply Module.setRegs_frame
    | with_reducible apply refreshDomains_frame
    | with_reducible apply subUsed_frame
    | exact fun x hx => hs x (by revert x; decide +kernel))

theorem emptyTrust_frame {k : List Fld} {a : Module} {m : Module} {p : Nat}
    (hf : SameBut k a m) (hs : Within [.sec] k) : SameBut k a (emptyTrust m p) := by
  unfold emptyTrust
  repeat' (first
    | with_reducible assumption
    | with_reducible apply Module.setSec_frame)

theorem applyCfg_frame {k : List Fld} {a m : Module} {p : Nat} {en pool : Bool} (hf : SameBut k a m)
    (hs : Within [.start, .power, .sec, .ras, .mem, .fns, .parts, .fabParts, .slots, .clusters, .cores, .nodes, .hedgeOut, .hostOut,
        .xfers, .freeCtr] k) : SameBut k a (applyCfg m p en pool).1 := by
  have st : ∀ {c d : Prop} [Decidable c] [Decidable d] {x : Module} {n : Nat} {y : Module × Bool}, SameBut k a x →
      (if c then setCtx x p n else if d then setCtx x p 0 else (x, true)) = y → SameBut k a y.1 := by
    intro c d _ _ x n y hx e
    subst e
    split
    · exact setCtx_frame hx (fun x hx => hs x (by revert x; decide +kernel))
    · split
      · exact setCtx_frame hx (fun x hx => hs x (by revert x; decide +kernel))
      · exact hx
  unfold applyCfg
  dsimp only
  split
  · rename_i e
    have h1 := st (Module.setRegs_frame hf (fun x hx => hs x (by revert x; decide +kernel))) e
    split
    · exact hf
    · split
      · exact emptyTrust_frame (beginPartReset_frame h1 (fun x hx => hs x (by revert x; decide +kernel))) (fun x hx => hs x (by revert x; decide +kernel))
      · exact h1
  · rename_i e
    have h1 := st (Module.setRegs_frame hf (fun x hx => hs x (by revert x; decide +kernel))) e
    dsimp only at h1 ⊢
    exact Module.setRegs_frame h1 (fun x hx => hs x (by revert x; decide +kernel))

theorem partCfgWriteFn_frame {k : List Fld} {a : Module} {fn : Nat} {value : Word} {m : Module}
    (hf : SameBut k a m) (hs : Within [.start, .power, .sec, .ras, .mem, .fns, .parts, .fabParts, .slots, .clusters, .cores, .nodes,
        .hedgeOut, .hostOut, .xfers, .freeCtr] k) : SameBut k a (partCfgWriteFn fn value m) := by
  unfold partCfgWriteFn
  repeat' (first
    | with_reducible exact hf
    | with_reducible assumption
    | with_reducible exact SameBut.refl _ _
    | extract_lets
    | with_reducible apply busError_frame
    | with_reducible apply regWrite_frame
    | with_reducible apply refusePart_frame
    | (refine SameBut.fst (by assumption) (show SameBut _ _ (_ : _ × _).1 from applyCfg_frame ?_ ?_))
    | split
    | exact fun x hx => hs x (by revert x; decide +kernel)
    | intro _)

theorem undrainRequests_frame {k : List Fld} {a : Module} {m : Module} {p : Nat}
    (hf : SameBut k a m) (hs : Within [.slots] k) : SameBut k a (undrainRequests m p) := by
  unfold undrainRequests
  repeat' (first
    | with_reducible assumption
    | with_reducible exact SameBut.refl _ _
    | with_reducible apply SameBut.ite
    | with_reducible apply foldM_frame
    | with_reducible apply setReq_frame
    | intro _)

theorem partCtrlWrite_frame {k : List Fld} {a : Module} {fn : Nat} {value : Word} {m : Module}
    (hf : SameBut k a m) (hs : Within [.start, .power, .ras, .fns, .parts, .fabParts, .slots, .clusters, .cores, .nodes, .hedgeOut,
        .hostOut, .xfers, .freeCtr] k) : SameBut k a (partCtrlWrite fn value m) := by
  unfold partCtrlWrite
  repeat' (first
    | with_reducible exact hf
    | with_reducible assumption
    | with_reducible exact SameBut.refl _ _
    | extract_lets
    | with_reducible apply SameBut.ite
    | with_reducible apply Module.setPart_frame
    | with_reducible apply Module.setRegs_frame
    | with_reducible apply busError_frame
    | with_reducible apply regWrite_frame
    | with_reducible apply refusePart_frame
    | with_reducible apply beginPartReset_frame
    | with_reducible apply undrainRequests_frame
    | exact fun x hx => hs x (by revert x; decide +kernel)
    | intro _)

theorem partDrainFn_frame {k : List Fld} {a : Module} {fn : Nat} {value : Word} {m : Module}
    (hf : SameBut k a m) (hs : Within [.start, .power, .ras, .fns, .parts, .fabParts, .slots, .clusters, .cores, .nodes, .hedgeOut,
        .hostOut, .xfers, .freeCtr] k) : SameBut k a (partDrainFn fn value m) := by
  unfold partDrainFn
  repeat' (first
    | with_reducible assumption
    | with_reducible apply SameBut.ite
    | with_reducible apply partCtrlWrite_frame)

theorem partUndrainFn_frame {k : List Fld} {a : Module} {fn : Nat} {value : Word} {m : Module}
    (hf : SameBut k a m) (hs : Within [.start, .power, .ras, .fns, .parts, .fabParts, .slots, .clusters, .cores, .nodes, .hedgeOut,
        .hostOut, .xfers, .freeCtr] k) : SameBut k a (partUndrainFn fn value m) := by
  unfold partUndrainFn
  repeat' (first
    | with_reducible assumption
    | with_reducible apply SameBut.ite
    | with_reducible apply partCtrlWrite_frame)

theorem partResetFn_frame {k : List Fld} {a : Module} {fn : Nat} {value : Word} {m : Module}
    (hf : SameBut k a m) (hs : Within [.start, .power, .ras, .fns, .parts, .fabParts, .slots, .clusters, .cores, .nodes, .hedgeOut,
        .hostOut, .xfers, .freeCtr] k) : SameBut k a (partResetFn fn value m) := by
  unfold partResetFn
  repeat' (first
    | with_reducible assumption
    | with_reducible apply SameBut.ite
    | with_reducible apply partCtrlWrite_frame)

theorem overrun_frame {k : List Fld} {a : Module} {m : Module} {fn : Nat}
    (hf : SameBut k a m) (hs : Within [.fns] k) : SameBut k a (overrun m fn) := by
  unfold overrun
  repeat' (first
    | with_reducible assumption
    | with_reducible apply Module.setFn_frame)

theorem wideReadFn_frame {k : List Fld} {a : Module} {fn : Nat} {selector : BitVec 16} {m : Module}
    (hf : SameBut k a m) (hs : Within [.start, .fns, .nodes, .hedgeOut] k) : SameBut k a (wideReadFn fn selector m) := by
  unfold wideReadFn
  repeat' (first
    | with_reducible exact hf
    | with_reducible assumption
    | with_reducible apply SameBut.ite
    | with_reducible apply Module.setFn_frame
    | with_reducible apply regWrite_frame
    | with_reducible apply overrun_frame
    | exact fun x hx => hs x (by revert x; decide +kernel)
    | intro _)

theorem moveRing_frame {ks : List Fld} {a : Module} {m : Module} {p : Nat} {k : LarkRegs} {pages : List Nat}
    (hf : SameBut ks a m) (hs : Within [.start, .mem, .fns, .parts, .fabParts, .nodes, .hedgeOut, .freeCtr] ks) : SameBut ks a (moveRing m
        p k pages).1 := by
  unfold moveRing
  repeat' (first
    | with_reducible exact hf
    | (refine SameBut.fst (by assumption) (show SameBut _ _ (_ : _ × _).1 from backList_frame ?_ ?_))
    | with_reducible apply holdPages_frame
    | with_reducible apply unholdPages_frame
    | split
    | exact fun x hx => hs x (by revert x; decide +kernel))

theorem setLarkBase_frame {k : List Fld} {a : Module} {m : Module} {p v : Nat}
    (hf : SameBut k a m) (hs : Within [.start, .mem, .fns, .parts, .fabParts, .nodes, .hedgeOut, .freeCtr] k) : SameBut k a (setLarkBase m
        p v).1 := by
  unfold setLarkBase
  repeat' (first
    | with_reducible exact hf
    | extract_lets
    | with_reducible apply Module.setLark_frame
    | with_reducible apply moveRing_frame
    | (refine SameBut.fst (by assumption) (show SameBut _ _ (_ : _ × _).1 from moveRing_frame ?_ ?_))
    | split
    | exact fun x hx => hs x (by revert x; decide +kernel))

theorem wideApply_frame {k : List Fld} {a : Module} {m : Module} {fn sel : Nat} {s : Selects} {v : Nat}
    (hf : SameBut k a m) (hs : Within [.start, .power, .mem, .pool, .fns, .parts, .fabParts, .nodes, .hedgeOut, .eth, .freeCtr] k) :
        SameBut k a (wideApply m fn sel s v).1 := by
  unfold wideApply
  repeat' (first
    | with_reducible exact hf
    | with_reducible assumption
    | with_reducible exact SameBut.refl _ _
    | extract_lets
    | with_reducible apply SameBut.ite
    | with_reducible apply Module.setFab_frame
    | with_reducible apply Module.setRing_frame
    | with_reducible apply Module.setEth_frame
    | with_reducible apply setOwned_frame
    | with_reducible apply setPool_frame
    | with_reducible apply setLarkBase_frame
    | split
    | exact fun x hx => hs x (by revert x; decide +kernel))

theorem wideBad_frame {k : List Fld} {a : Module} {m : Module} {fn sel : Nat} {s : Selects}
    (hf : SameBut k a m) (hs : Within [.fns, .parts] k) : SameBut k a (wideBad m fn sel s) := by
  unfold wideBad
  repeat' (first
    | with_reducible exact hf
    | with_reducible apply SameBut.ite
    | with_reducible apply Module.setRegs_frame
    | with_reducible apply Module.setLark_frame
    | with_reducible apply Module.setRing_frame
    | exact fun x hx => hs x (by revert x; decide +kernel))

theorem wideCommitOut_frame {k : List Fld} {a : Module} {m : Module} {fn sel : Nat} {b : Mailbox}
    (hf : SameBut k a m) (hs : Within [.start, .power, .mem, .pool, .fns, .parts, .fabParts, .nodes, .hedgeOut, .eth, .freeCtr] k) :
        SameBut k a (wideCommitOut m fn sel b).1 := by
  unfold wideCommitOut
  repeat' (first
    | with_reducible exact hf
    | (refine SameBut.fst (by assumption) (show SameBut _ _ (_ : _ × _).1 from wideApply_frame ?_ ?_))
    | with_reducible apply wideBad_frame
    | split
    | exact fun x hx => hs x (by revert x; decide +kernel))

theorem wideCommitFn_frame {k : List Fld} {a : Module} {fn : Nat} {selector : BitVec 16} {m : Module}
    (hf : SameBut k a m) (hs : Within [.start, .power, .mem, .pool, .fns, .parts, .fabParts, .nodes, .hedgeOut, .eth, .freeCtr] k) :
        SameBut k a (wideCommitFn fn selector m) := by
  unfold wideCommitFn
  repeat' (first
    | with_reducible exact hf
    | with_reducible assumption
    | with_reducible exact SameBut.refl _ _
    | with_reducible apply SameBut.ite
    | with_reducible apply Module.setFn_frame
    | with_reducible apply regWrite_frame
    | with_reducible apply overrun_frame
    | with_reducible apply wideCommitOut_frame
    | exact fun x hx => hs x (by revert x; decide +kernel)
    | intro _)

theorem windowWrite_frame {ks : List Fld} {a : Module} {m : Module} {fn k off : Nat} {g : Module → Module}
    (hf : SameBut ks a m) (hs : Within [.start, .fns, .nodes, .hedgeOut] ks) (hg : ∀ x0, SameBut ks a x0 → SameBut ks a (g x0)) : SameBut
        ks a (windowWrite m fn k off g) := by
  unfold windowWrite
  repeat' (first
    | with_reducible assumption
    | with_reducible apply hg
    | with_reducible apply SameBut.ite
    | with_reducible apply busError_frame)

theorem cluCntCtrlFn_frame {k : List Fld} {a : Module} {fn cluster : Nat} {value : Word} {m : Module}
    (hf : SameBut k a m) (hs : Within [.start, .fns, .clusters, .nodes, .hedgeOut] k) : SameBut k a (cluCntCtrlFn fn cluster value m) := by
  unfold cluCntCtrlFn
  repeat' (first
    | with_reducible assumption
    | with_reducible apply Module.setClu_frame
    | with_reducible apply windowWrite_frame
    | exact fun x hx => hs x (by revert x; decide +kernel)
    | intro _)

theorem cluCntClrFn_frame {k : List Fld} {a : Module} {fn cluster : Nat} {value : Word} {m : Module}
    (hf : SameBut k a m) (hs : Within [.start, .fns, .clusters, .nodes, .hedgeOut] k) : SameBut k a (cluCntClrFn fn cluster value m) := by
  unfold cluCntClrFn
  repeat' (first
    | with_reducible exact hf
    | with_reducible assumption
    | with_reducible apply SameBut.ite
    | with_reducible apply Module.setClu_frame
    | with_reducible apply busError_frame
    | with_reducible apply windowWrite_frame
    | exact fun x hx => hs x (by revert x; decide +kernel)
    | intro _)

theorem pbWriteAppliedFn_frame {k : List Fld} {a : Module} {cluster : Nat} {m : Module}
    (hf : SameBut k a m) (hs : Within [.clusters, .cores, .freeCtr] k) : SameBut k a (pbWriteAppliedFn cluster m) := by
  unfold pbWriteAppliedFn
  repeat' (first
    | with_reducible exact hf
    | with_reducible assumption
    | with_reducible exact SameBut.refl _ _
    | with_reducible apply SameBut.ite
    | with_reducible apply Module.setCore_frame
    | with_reducible apply Module.setClu_frame
    | with_reducible apply foldM_frame
    | with_reducible apply takeFree_frame
    | exact fun x hx => hs x (by revert x; decide +kernel)
    | intro _)

theorem stopStart_frame {k : List Fld} {a : Module} {m : Module}
    (hf : SameBut k a m) (hs : Within [.start, .power, .netOut, .sb] k) : SameBut k a (stopStart m) := by
  unfold stopStart
  repeat' (first
    | with_reducible exact hf
    | with_reducible apply Module.setPower_frame
    | with_reducible apply Module.setStart_frame
    | with_reducible apply sbQueue_frame
    | exact fun x hx => hs x (by revert x; decide +kernel))

theorem latchImage_frame {k : List Fld} {a : Module} {m : Module} {proc slot : Nat}
    (hf : SameBut k a m) (hs : Within [.fw] k) : SameBut k a (latchImage m proc slot) := by
  unfold latchImage
  repeat' (first
    | with_reducible assumption
    | with_reducible apply Module.setProc_frame)

theorem startRestart_frame {k : List Fld} {a : Module} {m : Module} {proc cause : Nat}
    (hf : SameBut k a m) (hs : Within [.start, .fw, .ras, .fns, .parts, .fabParts, .slots, .clusters, .cores, .nodes, .hedgeOut, .fabric,
        .xfers, .netOut, .freeCtr] k) : SameBut k a (startRestart m proc cause) := by
  unfold startRestart
  repeat' (first
    | with_reducible exact hf
    | with_reducible assumption
    | with_reducible exact SameBut.refl _ _
    | extract_lets
    | with_reducible apply SameBut.ite
    | with_reducible apply Module.setClu_frame
    | with_reducible apply Module.setProc_frame
    | with_reducible apply foldM_frame
    | with_reducible apply takeFree_frame
    | with_reducible apply raise_frame
    | with_reducible apply jobStop_frame
    | exact fun x hx => hs x (by revert x; decide +kernel)
    | intro _)

theorem restartCause_frame {k : List Fld} {a : Module} {m : Module} {proc cause : Nat}
    (hf : SameBut k a m) (hs : Within [.start, .fw, .ras, .fns, .parts, .fabParts, .slots, .clusters, .cores, .nodes, .hedgeOut, .fabric,
        .xfers, .netOut, .freeCtr] k) : SameBut k a (restartCause m proc cause) := by
  unfold restartCause
  repeat' (first
    | with_reducible assumption
    | with_reducible apply SameBut.ite
    | with_reducible apply startRestart_frame)

theorem fwCtrlRestartFn_frame {k : List Fld} {a : Module} {fn : Nat} {value : Word} {m : Module}
    (hf : SameBut k a m) (hs : Within [.start, .fw, .fwBadWrite, .ras, .fns, .parts, .fabParts, .slots, .clusters, .cores, .nodes,
        .hedgeOut, .fabric, .xfers, .netOut, .freeCtr] k) : SameBut k a (fwCtrlRestartFn fn value m) := by
  unfold fwCtrlRestartFn
  repeat' (first
    | with_reducible exact hf
    | with_reducible assumption
    | with_reducible apply SameBut.ite
    | with_reducible apply regWrite_frame
    | with_reducible apply refuseFw_frame
    | with_reducible apply startRestart_frame
    | exact fun x hx => hs x (by revert x; decide +kernel)
    | intro _)

theorem fatalExceptionFn_frame {k : List Fld} {a : Module} {proc : Nat} {m : Module}
    (hf : SameBut k a m) (hs : Within [.start, .fw, .ras, .fns, .parts, .fabParts, .slots, .clusters, .cores, .nodes, .hedgeOut, .fabric,
        .xfers, .netOut, .freeCtr] k) : SameBut k a (fatalExceptionFn proc m) := by
  unfold fatalExceptionFn
  repeat' (first
    | with_reducible assumption
    | with_reducible apply restartCause_frame)

theorem watchdogExpiryFn_frame {k : List Fld} {a : Module} {proc : Nat} {m : Module}
    (hf : SameBut k a m) (hs : Within [.tick, .start, .fw, .ras, .fns, .parts, .fabParts, .slots, .clusters, .cores, .nodes, .hedgeOut,
        .fabric, .xfers, .netOut, .freeCtr] k) : SameBut k a (watchdogExpiryFn proc m) := by
  unfold watchdogExpiryFn
  repeat' (first
    | with_reducible exact hf
    | with_reducible apply SameBut.ite
    | with_reducible apply reachNs_frame
    | with_reducible apply restartCause_frame
    | exact fun x hx => hs x (by revert x; decide +kernel))

theorem fwHeartbeatFn_frame {k : List Fld} {a : Module} {proc : Nat} {m : Module}
    (hf : SameBut k a m) (hs : Within [.fw] k) : SameBut k a (fwHeartbeatFn proc m) := by
  unfold fwHeartbeatFn
  repeat' (first
    | with_reducible assumption
    | with_reducible apply SameBut.ite
    | with_reducible apply Module.setProc_frame)

theorem completeActivation_frame {k : List Fld} {a m : Module} {x : Activation} (hf : SameBut k a m)
    (hs : Within [.start, .activation, .flash, .sec, .fns] k) : SameBut k a (completeActivation m x) := by
  unfold completeActivation
  dsimp only
  refine respondDone_frame (Module.setSec_frame ?_ (fun x hx => hs x (by revert x; decide +kernel))) (fun x hx => hs x (by revert x; decide +kernel))
  exact hf.trans (by constructor <;> intro hn <;> first | exact rfl | exact absurd (hs _ (by decide +kernel)) hn)

theorem advanceActivation_frame {k : List Fld} {a : Module} {m : Module}
    (hf : SameBut k a m) (hs : Within [.start, .fw, .activation, .flash, .sec, .ras, .fns, .parts, .fabParts, .slots, .clusters, .cores,
        .nodes, .hedgeOut, .fabric, .xfers, .netOut, .freeCtr] k) : SameBut k a (advanceActivation m) := by
  unfold advanceActivation
  repeat' (first
    | with_reducible exact hf
    | with_reducible assumption
    | with_reducible exact SameBut.refl _ _
    | extract_lets
    | with_reducible apply respondDone_frame
    | with_reducible apply latchImage_frame
    | with_reducible apply startRestart_frame
    | with_reducible apply completeActivation_frame
    | split
    | exact fun x hx => hs x (by revert x; decide +kernel)
    | with_reducible apply SameBut.with_activation)

theorem rollBack_frame {k : List Fld} {m₀ : Module} {m : Module} {a : Activation} {proc : Nat}
    (hf : SameBut k m₀ m) (hs : Within [.start, .fw, .activation, .ras, .fns, .parts, .fabParts, .slots, .clusters, .cores, .nodes,
        .hedgeOut, .fabric, .xfers, .netOut, .freeCtr] k) : SameBut k m₀ (rollBack m a proc) := by
  unfold rollBack
  repeat' (first
    | with_reducible exact hf
    | with_reducible assumption
    | with_reducible exact SameBut.refl _ _
    | with_reducible apply raise_frame
    | with_reducible apply latchImage_frame
    | with_reducible apply startRestart_frame
    | exact fun x hx => hs x (by revert x; decide +kernel)
    | with_reducible apply SameBut.with_activation)

theorem goDown_frame {k : List Fld} {a : Module} {m : Module} {proc : Nat}
    (hf : SameBut k a m) (hs : Within [.start, .power, .fw, .activation, .flash, .sec, .ras, .fns, .parts, .fabParts, .slots, .clusters,
        .cores, .nodes, .hedgeOut, .fabric, .xfers, .netOut, .freeCtr] k) : SameBut k a (goDown m proc) := by
  unfold goDown
  repeat' (first
    | with_reducible exact hf
    | with_reducible assumption
    | with_reducible exact SameBut.refl _ _
    | extract_lets
    | with_reducible apply SameBut.ite
    | with_reducible apply Module.setProc_frame
    | with_reducible apply foldM_frame
    | with_reducible apply takeFree_frame
    | (refine SameBut.snd (by assumption) (show SameBut _ _ (_ : _ × _).2 from takeFree_frame ?_ ?_))
    | with_reducible apply raise_frame
    | with_reducible apply jobStop_frame
    | with_reducible apply fence_frame
    | with_reducible apply advanceActivation_frame
    | exact fun x hx => hs x (by revert x; decide +kernel)
    | intro _)

theorem restartBoundMissedFn_frame {k : List Fld} {a : Module} {proc : Nat} {m : Module}
    (hf : SameBut k a m) (hs : Within [.tick, .start, .power, .fw, .activation, .flash, .sec, .ras, .fns, .parts, .fabParts, .slots,
        .clusters, .cores, .nodes, .hedgeOut, .fabric, .xfers, .netOut, .sb, .freeCtr] k) : SameBut k a (restartBoundMissedFn proc m) := by
  unfold restartBoundMissedFn
  repeat' (first
    | with_reducible exact hf
    | with_reducible assumption
    | with_reducible exact SameBut.refl _ _
    | extract_lets
    | with_reducible apply Module.setProc_frame
    | with_reducible apply reachNs_frame
    | with_reducible apply stopStart_frame
    | with_reducible apply startRestart_frame
    | with_reducible apply rollBack_frame
    | with_reducible apply goDown_frame
    | split
    | exact fun x hx => hs x (by revert x; decide +kernel))

theorem failMessages_frame {k : List Fld} {a : Module} {m : Module} {proc : Nat}
    (hf : SameBut k a m) (hs : Within [.fns] k) : SameBut k a (failMessages m proc) := by
  unfold failMessages
  repeat' (first
    | with_reducible assumption
    | with_reducible exact SameBut.refl _ _
    | with_reducible apply Module.setFn_frame
    | with_reducible apply foldM_frame
    | with_reducible apply respond_frame
    | intro _)

theorem limitControl_frame {ks : List Fld} {a : Module} {m : Module} {k : Nat}
    (hf : SameBut ks a m) (hs : Within [.start, .ras, .mem, .fns, .parts, .fabParts, .slots, .clusters, .cores, .nodes, .hedgeOut, .xfers,
        .freeCtr] ks) : SameBut ks a (limitControl m k) := by
  unfold limitControl
  repeat' (first
    | with_reducible exact hf
    | with_reducible assumption
    | with_reducible exact SameBut.refl _ _
    | with_reducible apply Module.setClu_frame
    | with_reducible apply foldM_frame
    | with_reducible apply abortTask_frame
    | with_reducible apply endRecovery_frame
    | with_reducible apply resumeLoads_frame
    | exact fun x hx => hs x (by revert x; decide +kernel)
    | intro _)

theorem limitRuns_frame {k : List Fld} {a : Module} {m : Module} {p : Nat}
    (hf : SameBut k a m) (hs : Within [.start, .fns, .parts, .fabParts, .slots, .clusters, .cores, .nodes, .hedgeOut, .xfers, .freeCtr] k)
        : SameBut k a (limitRuns m p) := by
  unfold limitRuns
  repeat' (first
    | with_reducible exact hf
    | with_reducible assumption
    | with_reducible exact SameBut.refl _ _
    | with_reducible apply Module.setPart_frame
    | with_reducible apply foldM_frame
    | with_reducible apply finishV_frame
    | with_reducible apply failRequest_frame
    | with_reducible apply abortTask_frame
    | exact fun x hx => hs x (by revert x; decide +kernel)
    | intro _)

theorem limitPower_frame {k : List Fld} {a : Module} {m : Module}
    (hf : SameBut k a m) (hs : Within [.tick, .power, .parts] k) : SameBut k a (limitPower m) := by
  unfold limitPower
  repeat' (first
    | with_reducible exact hf
    | with_reducible apply SameBut.ite
    | with_reducible apply Module.setTick_frame
    | with_reducible apply Module.setPower_frame
    | with_reducible apply setLimit_frame
    | with_reducible apply changeClock_frame
    | exact fun x hx => hs x (by revert x; decide +kernel))

theorem absenceLimitFn_frame {k : List Fld} {a : Module} {proc : Nat} {m : Module}
    (hf : SameBut k a m) (hs : Within [.tick, .start, .power, .fw, .ras, .mem, .fns, .parts, .fabParts, .slots, .clusters, .cores, .nodes,
        .hedgeOut, .xfers, .freeCtr] k) : SameBut k a (absenceLimitFn proc m) := by
  unfold absenceLimitFn
  repeat' (first
    | with_reducible exact hf
    | with_reducible assumption
    | with_reducible exact SameBut.refl _ _
    | extract_lets
    | with_reducible apply SameBut.ite
    | with_reducible apply Module.setProc_frame
    | with_reducible apply foldM_frame
    | with_reducible apply reachNs_frame
    | with_reducible apply dispatchAll_frame
    | with_reducible apply failMessages_frame
    | with_reducible apply limitControl_frame
    | with_reducible apply limitRuns_frame
    | with_reducible apply limitPower_frame
    | exact fun x hx => hs x (by revert x; decide +kernel)
    | intro _)

theorem pf0Message_frame {k : List Fld} {a : Module} {fn : Nat} {msg : MgmtMsg} {act : Module → Module} {m : Module}
    (hf : SameBut k a m) (hs : Within [.fns] k) (hact : ∀ x0, SameBut k a x0 → SameBut k a (act x0)) : SameBut k a (pf0Message fn msg act
        m) := by
  unfold pf0Message
  repeat' (first
    | with_reducible assumption
    | with_reducible apply hact
    | with_reducible apply SameBut.ite
    | with_reducible apply respondRej_frame)

theorem stageServe_frame {k : List Fld} {a : Module} {fn : Nat} {msg : MgmtMsg} {m : Module}
    (hf : SameBut k a m) (hs : Within [.start, .flash, .sec, .fns, .fabParts, .nodes, .hedgeOut, .freeCtr] k) : SameBut k a (stageServe fn
        msg m) := by
  unfold stageServe
  repeat' (first
    | with_reducible exact hf
    | with_reducible assumption
    | with_reducible exact SameBut.refl _ _
    | extract_lets
    | with_reducible apply SameBut.ite
    | with_reducible apply Module.setSec_frame
    | with_reducible apply respondDone_frame
    | with_reducible apply respondRej_frame
    | with_reducible apply respondBad_frame
    | with_reducible apply pf0Message_frame
    | split
    | exact fun x hx => hs x (by revert x; decide +kernel)
    | intro _
    | dsimp only
    | with_reducible apply SameBut.with_flash)

theorem fwStageFn_frame {k : List Fld} {a : Module} {fn : Nat} {msg : MgmtMsg} {m : Module}
    (hf : SameBut k a m) (hs : Within [.start, .flash, .sec, .fns, .fabParts, .nodes, .hedgeOut, .freeCtr] k) : SameBut k a (fwStageFn fn
        msg m) := by
  unfold fwStageFn
  repeat' (first
    | with_reducible exact hf
    | with_reducible assumption
    | with_reducible exact SameBut.refl _ _
    | extract_lets
    | with_reducible apply SameBut.ite
    | with_reducible apply mgmtRow_frame
    | with_reducible apply stageServe_frame
    | split
    | exact fun x hx => hs x (by revert x; decide +kernel)
    | intro _)

theorem activateServe_frame {k : List Fld} {a : Module} {fn : Nat} {msg : MgmtMsg} {m : Module}
    (hf : SameBut k a m) (hs : Within [.start, .fw, .activation, .flash, .sec, .ras, .fns, .parts, .fabParts, .slots, .clusters, .cores,
        .nodes, .hedgeOut, .fabric, .xfers, .netOut, .freeCtr] k) : SameBut k a (activateServe fn msg m) := by
  unfold activateServe
  repeat' (first
    | with_reducible exact hf
    | with_reducible assumption
    | with_reducible exact SameBut.refl _ _
    | extract_lets
    | with_reducible apply SameBut.ite
    | with_reducible apply respondRej_frame
    | with_reducible apply advanceActivation_frame
    | with_reducible apply pf0Message_frame
    | split
    | exact fun x hx => hs x (by revert x; decide +kernel)
    | intro _
    | dsimp only
    | with_reducible apply SameBut.with_activation)

theorem fwActivateFn_frame {k : List Fld} {a : Module} {fn : Nat} {msg : MgmtMsg} {m : Module}
    (hf : SameBut k a m) (hs : Within [.start, .fw, .activation, .flash, .sec, .ras, .fns, .parts, .fabParts, .slots, .clusters, .cores,
        .nodes, .hedgeOut, .fabric, .xfers, .netOut, .freeCtr] k) : SameBut k a (fwActivateFn fn msg m) := by
  unfold fwActivateFn
  repeat' (first
    | with_reducible exact hf
    | with_reducible assumption
    | with_reducible exact SameBut.refl _ _
    | extract_lets
    | with_reducible apply SameBut.ite
    | with_reducible apply mgmtRow_frame
    | with_reducible apply activateServe_frame
    | split
    | exact fun x hx => hs x (by revert x; decide +kernel)
    | intro _)

theorem slotsServe_frame {k : List Fld} {a : Module} {fn : Nat} {msg : MgmtMsg} {m : Module}
    (hf : SameBut k a m) (hs : Within [.fns] k) : SameBut k a (slotsServe fn msg m) := by
  unfold slotsServe
  repeat' (first
    | with_reducible exact hf
    | with_reducible assumption
    | with_reducible exact SameBut.refl _ _
    | extract_lets
    | with_reducible apply SameBut.ite
    | with_reducible apply respondDone_frame
    | with_reducible apply pf0Message_frame
    | split
    | intro _)

theorem fwSlotsFn_frame {k : List Fld} {a : Module} {fn : Nat} {msg : MgmtMsg} {m : Module}
    (hf : SameBut k a m) (hs : Within [.start, .fns, .fabParts, .nodes, .hedgeOut, .freeCtr] k) : SameBut k a (fwSlotsFn fn msg m) := by
  unfold fwSlotsFn
  repeat' (first
    | with_reducible exact hf
    | with_reducible assumption
    | with_reducible exact SameBut.refl _ _
    | extract_lets
    | with_reducible apply SameBut.ite
    | with_reducible apply mgmtRow_frame
    | with_reducible apply slotsServe_frame
    | split
    | exact fun x hx => hs x (by revert x; decide +kernel)
    | intro _)

theorem orderLower_frame {k : List Fld} {a : Module} {m : Module}
    (hf : SameBut k a m) (hs : Within [.tick, .power] k) : SameBut k a (orderLower m) := by
  unfold orderLower
  repeat' (first
    | with_reducible exact hf
    | with_reducible assumption
    | with_reducible exact SameBut.refl _ _
    | extract_lets
    | with_reducible apply SameBut.ite
    | with_reducible apply Module.setTick_frame
    | with_reducible apply Module.setPower_frame
    | split
    | exact fun x hx => hs x (by revert x; decide +kernel))

theorem orderRaise_frame {k : List Fld} {a : Module} {m : Module}
    (hf : SameBut k a m) (hs : Within [.tick, .power] k) : SameBut k a (orderRaise m) := by
  unfold orderRaise
  repeat' (first
    | with_reducible exact hf
    | with_reducible assumption
    | with_reducible exact SameBut.refl _ _
    | extract_lets
    | with_reducible apply SameBut.ite
    | with_reducible apply Module.setTick_frame
    | with_reducible apply Module.setPower_frame
    | split
    | exact fun x hx => hs x (by revert x; decide +kernel))

theorem powerLoop_frame {k : List Fld} {a : Module} {m : Module}
    (hf : SameBut k a m) (hs : Within [.tick, .power] k) : SameBut k a (powerLoop m) := by
  unfold powerLoop
  repeat' (first
    | with_reducible exact hf
    | with_reducible assumption
    | with_reducible exact SameBut.refl _ _
    | extract_lets
    | with_reducible apply SameBut.ite
    | with_reducible apply Module.setPower_frame
    | with_reducible apply orderLower_frame
    | with_reducible apply orderRaise_frame
    | split
    | exact fun x hx => hs x (by revert x; decide +kernel))

theorem powerLoopSampleFn_frame {k : List Fld} {a : Module} {watts : Nat} {m : Module}
    (hf : SameBut k a m) (hs : Within [.tick, .power, .freeCtr] k) : SameBut k a (powerLoopSampleFn watts m) := by
  unfold powerLoopSampleFn
  repeat' (first
    | with_reducible exact hf
    | with_reducible assumption
    | with_reducible exact SameBut.refl _ _
    | extract_lets
    | with_reducible apply SameBut.ite
    | with_reducible apply Module.setPower_frame
    | with_reducible apply takeFree_frame
    | (refine SameBut.snd (by assumption) (show SameBut _ _ (_ : _ × _).2 from takeFree_frame ?_ ?_))
    | with_reducible apply powerLoop_frame
    | split
    | exact fun x hx => hs x (by revert x; decide +kernel))

theorem thermalLoopSampleFn_frame {k : List Fld} {a : Module} {temps : List (Nat × Nat)} {m : Module}
    (hf : SameBut k a m) (hs : Within [.tick, .power] k) : SameBut k a (thermalLoopSampleFn temps m) := by
  unfold thermalLoopSampleFn
  repeat' (first
    | with_reducible exact hf
    | with_reducible assumption
    | with_reducible exact SameBut.refl _ _
    | extract_lets
    | with_reducible apply SameBut.ite
    | with_reducible apply Module.setPower_frame
    | with_reducible apply orderLower_frame
    | split
    | exact fun x hx => hs x (by revert x; decide +kernel))

theorem peakTimeCapFn_frame {k : List Fld} {a : Module} {m : Module}
    (hf : SameBut k a m) (hs : Within [.power] k) : SameBut k a (peakTimeCapFn m) := by
  unfold peakTimeCapFn
  repeat' (first
    | with_reducible exact hf
    | with_reducible assumption
    | with_reducible exact SameBut.refl _ _
    | extract_lets
    | with_reducible apply SameBut.ite
    | with_reducible apply Module.setPower_frame)

theorem moveFeed_frame {k : List Fld} {a : Module} {m : Module} {backup : Bool}
    (hf : SameBut k a m) (hs : Within [.start, .power, .fns, .nodes, .hedgeOut] k) : SameBut k a (moveFeed m backup) := by
  unfold moveFeed
  repeat' (first
    | with_reducible exact hf
    | with_reducible assumption
    | with_reducible exact SameBut.refl _ _
    | extract_lets
    | with_reducible apply SameBut.ite
    | with_reducible apply Module.setPower_frame
    | with_reducible apply raise_frame
    | split
    | exact fun x hx => hs x (by revert x; decide +kernel))

theorem feedBadFn_frame {k : List Fld} {a : Module} {backup : Bool} {m : Module}
    (hf : SameBut k a m) (hs : Within [.start, .power, .fns, .nodes, .hedgeOut] k) : SameBut k a (feedBadFn backup m) := by
  unfold feedBadFn
  repeat' (first
    | with_reducible exact hf
    | with_reducible assumption
    | with_reducible exact SameBut.refl _ _
    | extract_lets
    | with_reducible apply SameBut.ite
    | with_reducible apply Module.setPower_frame
    | with_reducible apply moveFeed_frame
    | split
    | exact fun x hx => hs x (by revert x; decide +kernel))

theorem feedGoodFn_frame {k : List Fld} {a : Module} {backup : Bool} {m : Module}
    (hf : SameBut k a m) (hs : Within [.power] k) : SameBut k a (feedGoodFn backup m) := by
  unfold feedGoodFn
  repeat' (first
    | with_reducible exact hf
    | with_reducible assumption
    | with_reducible exact SameBut.refl _ _
    | extract_lets
    | with_reducible apply SameBut.ite
    | with_reducible apply Module.setPower_frame)

theorem feedSwitchBackFn_frame {k : List Fld} {a : Module} {m : Module}
    (hf : SameBut k a m) (hs : Within [.tick, .start, .power, .fns, .nodes, .hedgeOut] k) : SameBut k a (feedSwitchBackFn m) := by
  unfold feedSwitchBackFn
  repeat' (first
    | with_reducible exact hf
    | with_reducible assumption
    | with_reducible exact SameBut.refl _ _
    | extract_lets
    | with_reducible apply SameBut.ite
    | with_reducible apply reachNs_frame
    | with_reducible apply moveFeed_frame
    | split
    | exact fun x hx => hs x (by revert x; decide +kernel))

theorem haltAll_frame {k : List Fld} {a : Module} {m : Module}
    (hf : SameBut k a m) (hs : Within [.parts, .clusters, .cores, .nodes, .hedgeOut, .xfers] k) : SameBut k a (haltAll m) := by
  unfold haltAll
  repeat' (first
    | with_reducible exact hf
    | with_reducible assumption
    | with_reducible exact SameBut.refl _ _
    | extract_lets
    | with_reducible apply SameBut.ite
    | with_reducible apply foldM_frame
    | with_reducible apply dropWork_frame
    | split
    | exact fun x hx => hs x (by revert x; decide +kernel)
    | intro _
    | dsimp only
    | with_reducible apply SameBut.with_cores)

theorem writeDecided_frame {k : List Fld} {a : Module} {fn ring : Nat} {y0 : Nat} {m : Module}
    (hf : SameBut k a m) (hs : Within [.tick, .start, .fw, .fns, .parts, .fabParts, .slots, .nodes, .hedgeOut, .hostOut, .freeCtr] k) :
        SameBut k a (writeDecided fn ring y0 m) := by
  induction y0 generalizing m with
  | zero =>
    unfold writeDecided
    repeat' (first
      | with_reducible exact hf
      | with_reducible assumption
      | with_reducible exact SameBut.refl _ _
      | extract_lets
      | with_reducible apply SameBut.ite
      | with_reducible apply completionWriteFn_frame
      | with_reducible apply completionBatchCloseFn_frame
      | split
      | exact fun x hx => hs x (by revert x; decide +kernel))
  | succ n ih =>
    unfold writeDecided
    repeat' (first
      | with_reducible exact hf
      | with_reducible assumption
      | with_reducible exact SameBut.refl _ _
      | extract_lets
      | with_reducible apply SameBut.ite
      | with_reducible apply completionWriteFn_frame
      | with_reducible apply completionBatchCloseFn_frame
      | split
      | exact fun x hx => hs x (by revert x; decide +kernel)
      | intro _
      | dsimp only
      | with_reducible apply ih)

theorem finalLedgerWriteFn_frame {k : List Fld} {a : Module} {m : Module}
    (hf : SameBut k a m) (hs : Within [.tick, .start, .power, .fw, .fns, .parts, .fabParts, .slots, .nodes, .hedgeOut, .hostOut, .freeCtr]
        k) : SameBut k a (finalLedgerWriteFn m) := by
  unfold finalLedgerWriteFn
  repeat' (first
    | with_reducible exact hf
    | with_reducible assumption
    | with_reducible exact SameBut.refl _ _
    | extract_lets
    | with_reducible apply SameBut.ite
    | with_reducible apply Module.setPower_frame
    | with_reducible apply foldM_frame
    | with_reducible apply writeLedger_frame
    | with_reducible apply writeDecided_frame
    | split
    | exact fun x hx => hs x (by revert x; decide +kernel)
    | intro _)

theorem coolantFaultFn_frame {k : List Fld} {a : Module} {m : Module}
    (hf : SameBut k a m) (hs : Within [.start, .power, .fns, .nodes, .hedgeOut, .freeCtr] k) : SameBut k a (coolantFaultFn m) := by
  unfold coolantFaultFn
  repeat' (first
    | with_reducible exact hf
    | with_reducible assumption
    | with_reducible exact SameBut.refl _ _
    | extract_lets
    | with_reducible apply SameBut.ite
    | with_reducible apply Module.setPower_frame
    | with_reducible apply Module.setStart_frame
    | with_reducible apply takeFree_frame
    | (refine SameBut.snd (by assumption) (show SameBut _ _ (_ : _ × _).2 from takeFree_frame ?_ ?_))
    | with_reducible apply raise_frame
    | with_reducible apply setLimit_frame
    | split
    | exact fun x hx => hs x (by revert x; decide +kernel))

theorem coolantClearFn_frame {k : List Fld} {a : Module} {m : Module}
    (hf : SameBut k a m) (hs : Within [.start, .power] k) : SameBut k a (coolantClearFn m) := by
  unfold coolantClearFn
  repeat' (first
    | with_reducible exact hf
    | with_reducible assumption
    | with_reducible exact SameBut.refl _ _
    | extract_lets
    | with_reducible apply SameBut.ite
    | with_reducible apply Module.setPower_frame
    | with_reducible apply Module.setStart_frame
    | with_reducible apply refreshDomains_frame
    | with_reducible apply setLimit_frame
    | split
    | exact fun x hx => hs x (by revert x; decide +kernel))

theorem leaseExpiredFn_frame {k : List Fld} {a : Module} {m : Module}
    (hf : SameBut k a m) (hs : Within [.tick, .start, .power, .fns, .nodes, .hedgeOut, .freeCtr] k) : SameBut k a (leaseExpiredFn m) := by
  unfold leaseExpiredFn
  repeat' (first
    | with_reducible exact hf
    | with_reducible assumption
    | with_reducible exact SameBut.refl _ _
    | extract_lets
    | with_reducible apply SameBut.ite
    | with_reducible apply Module.setPower_frame
    | with_reducible apply takeFree_frame
    | (refine SameBut.snd (by assumption) (show SameBut _ _ (_ : _ × _).2 from takeFree_frame ?_ ?_))
    | with_reducible apply raise_frame
    | with_reducible apply reachNs_frame
    | with_reducible apply setLimit_frame
    | split
    | exact fun x hx => hs x (by revert x; decide +kernel))

theorem failCores_frame {k : List Fld} {a : Module} {m : Module} {d : Nat}
    (hf : SameBut k a m) (hs : Within [.start, .power, .flash, .ras, .fns, .parts, .fabParts, .slots, .clusters, .cores, .nodes, .hedgeOut,
        .fabric, .xfers, .netOut, .freeCtr] k) : SameBut k a (failCores m d) := by
  unfold failCores
  repeat' (first
    | with_reducible exact hf
    | with_reducible assumption
    | with_reducible exact SameBut.refl _ _
    | extract_lets
    | with_reducible apply SameBut.ite
    | with_reducible apply foldM_frame
    | with_reducible apply jobStopWith_frame
    | with_reducible apply fence_frame
    | split
    | exact fun x hx => hs x (by revert x; decide +kernel)
    | intro _)

theorem failUnit_frame {k : List Fld} {a : Module} {d t unit : Nat} {m : Module}
    (hf : SameBut k a m) (hs : Within [.start, .power, .ras, .fns, .parts, .fabParts, .slots, .clusters, .cores, .nodes, .hedgeOut,
        .fabric, .xfers, .netOut, .freeCtr] k) : SameBut k a (failUnit d t unit m) := by
  unfold failUnit
  repeat' (first
    | with_reducible exact hf
    | with_reducible assumption
    | with_reducible exact SameBut.refl _ _
    | extract_lets
    | with_reducible apply SameBut.ite
    | with_reducible apply foldM_frame
    | with_reducible apply faultTask_frame
    | with_reducible apply failItem_frame
    | split
    | exact fun x hx => hs x (by revert x; decide +kernel)
    | intro _)

theorem swardDark_frame {ks : List Fld} {a : Module} {d k : Nat} {m : Module}
    (hf : SameBut ks a m) (hs : Within [.start, .power, .ras, .mem, .fns, .parts, .fabParts, .slots, .clusters, .cores, .nodes, .hedgeOut,
        .fabric, .xfers, .netOut, .freeCtr] ks) : SameBut ks a (swardDark d k m) := by
  unfold swardDark
  repeat' (first
    | with_reducible exact hf
    | with_reducible assumption
    | with_reducible exact SameBut.refl _ _
    | extract_lets
    | with_reducible apply SameBut.ite
    | with_reducible apply loseSward_frame
    | with_reducible apply failUnit_frame
    | split
    | exact fun x hx => hs x (by revert x; decide +kernel))

theorem leyDark_frame {k : List Fld} {a : Module} {d g : Nat} {m : Module}
    (hf : SameBut k a m) (hs : Within [.start, .power, .ras, .mem, .fns, .parts, .fabParts, .slots, .clusters, .cores, .nodes, .hedgeOut,
        .fabric, .xfers, .netOut, .freeCtr] k) : SameBut k a (leyDark d g m) := by
  unfold leyDark
  repeat' (first
    | with_reducible exact hf
    | with_reducible assumption
    | with_reducible exact SameBut.refl _ _
    | extract_lets
    | with_reducible apply SameBut.ite
    | with_reducible apply foldM_frame
    | with_reducible apply loseLeyGroup_frame
    | with_reducible apply failUnit_frame
    | split
    | exact fun x hx => hs x (by revert x; decide +kernel)
    | intro _)

theorem procDark_frame {k : List Fld} {a : Module} {m : Module} {proc : Nat}
    (hf : SameBut k a m) (hs : Within [.fw] k) : SameBut k a (procDark m proc) := by
  unfold procDark
  repeat' (first
    | with_reducible exact hf
    | with_reducible assumption
    | with_reducible exact SameBut.refl _ _
    | extract_lets
    | with_reducible apply SameBut.ite
    | with_reducible apply Module.setProc_frame)

theorem failRunsPower_frame {k : List Fld} {a : Module} {d : Nat} {m : Module} {p : Nat}
    (hf : SameBut k a m) (hs : Within [.start, .fns, .parts, .fabParts, .slots, .clusters, .cores, .nodes, .hedgeOut, .xfers, .freeCtr] k)
        : SameBut k a (failRunsPower d m p) := by
  unfold failRunsPower
  repeat' (first
    | with_reducible exact hf
    | with_reducible assumption
    | with_reducible exact SameBut.refl _ _
    | extract_lets
    | with_reducible apply SameBut.ite
    | with_reducible apply Module.setPart_frame
    | with_reducible apply foldM_frame
    | with_reducible apply finishV_frame
    | with_reducible apply failRequest_frame
    | with_reducible apply abortTask_frame
    | split
    | exact fun x hx => hs x (by revert x; decide +kernel)
    | intro _)

theorem hostLinkLost_frame {k : List Fld} {a : Module} {m : Module}
    (hf : SameBut k a m) (hs : Within [.start] k) : SameBut k a (hostLinkLost m) := by
  unfold hostLinkLost
  repeat' (first
    | with_reducible exact hf
    | with_reducible assumption
    | with_reducible exact SameBut.refl _ _
    | extract_lets
    | with_reducible apply SameBut.ite
    | with_reducible apply Module.setStart_frame)

theorem domainFails_frame {k : List Fld} {a : Module} {d : Nat} {m : Module}
    (hf : SameBut k a m) (hs : Within [.start, .power, .fw, .flash, .ras, .mem, .fns, .parts, .fabParts, .slots, .clusters, .cores, .nodes,
        .hedgeOut, .hostOut, .fabric, .xfers, .eth, .netOut, .freeCtr] k) : SameBut k a (domainFails d m) := by
  unfold domainFails
  repeat' (first
    | with_reducible exact hf
    | with_reducible assumption
    | with_reducible exact SameBut.refl _ _
    | extract_lets
    | with_reducible apply SameBut.ite
    | with_reducible apply foldM_frame
    | with_reducible apply faultTask_frame
    | with_reducible apply dispatchAll_frame
    | with_reducible apply failItem_frame
    | with_reducible apply loseHeath_frame
    | with_reducible apply loseLink_frame
    | with_reducible apply loseDie_frame
    | with_reducible apply ethLinkDownFn_frame
    | with_reducible apply failCores_frame
    | with_reducible apply failUnit_frame
    | with_reducible apply swardDark_frame
    | with_reducible apply leyDark_frame
    | with_reducible apply procDark_frame
    | with_reducible apply failRunsPower_frame
    | with_reducible apply hostLinkLost_frame
    | split
    | exact fun x hx => hs x (by revert x; decide +kernel)
    | intro _)

theorem pwrDomainFaultFn_frame {k : List Fld} {a : Module} {domain : Nat} {m : Module}
    (hf : SameBut k a m) (hs : Within [.start, .power, .fw, .flash, .ras, .mem, .fns, .parts, .fabParts, .slots, .clusters, .cores, .nodes,
        .hedgeOut, .hostOut, .fabric, .xfers, .eth, .netOut, .freeCtr] k) : SameBut k a (pwrDomainFaultFn domain m) := by
  unfold pwrDomainFaultFn
  repeat' (first
    | with_reducible exact hf
    | with_reducible assumption
    | with_reducible exact SameBut.refl _ _
    | extract_lets
    | with_reducible apply SameBut.ite
    | with_reducible apply Module.setPower_frame
    | with_reducible apply raise_frame
    | with_reducible apply raiseCore_frame
    | with_reducible apply refreshDomains_frame
    | with_reducible apply fence_frame
    | with_reducible apply domainFails_frame
    | split
    | exact fun x hx => hs x (by revert x; decide +kernel))

theorem domainsServe_frame {k : List Fld} {a : Module} {fn : Nat} {msg : MgmtMsg} {m : Module}
    (hf : SameBut k a m) (hs : Within [.start, .fns, .fabParts, .nodes, .hedgeOut, .freeCtr] k) : SameBut k a (domainsServe fn msg m) := by
  unfold domainsServe
  repeat' (first
    | with_reducible exact hf
    | with_reducible assumption
    | with_reducible exact SameBut.refl _ _
    | extract_lets
    | with_reducible apply SameBut.ite
    | with_reducible apply respondDone_frame
    | with_reducible apply respondBad_frame
    | split
    | exact fun x hx => hs x (by revert x; decide +kernel))

theorem pwrDomainsFn_frame {k : List Fld} {a : Module} {fn : Nat} {msg : MgmtMsg} {m : Module}
    (hf : SameBut k a m) (hs : Within [.start, .fns, .fabParts, .nodes, .hedgeOut, .freeCtr] k) : SameBut k a (pwrDomainsFn fn msg m) := by
  unfold pwrDomainsFn
  repeat' (first
    | with_reducible exact hf
    | with_reducible assumption
    | with_reducible exact SameBut.refl _ _
    | extract_lets
    | with_reducible apply SameBut.ite
    | with_reducible apply mgmtRow_frame
    | with_reducible apply domainsServe_frame
    | split
    | intro _)

theorem recordServe_frame {k : List Fld} {a : Module} {fn : Nat} {msg : MgmtMsg} {m : Module}
    (hf : SameBut k a m) (hs : Within [.fns] k) : SameBut k a (recordServe fn msg m) := by
  unfold recordServe
  repeat' (first
    | with_reducible exact hf
    | with_reducible assumption
    | with_reducible exact SameBut.refl _ _
    | extract_lets
    | with_reducible apply SameBut.ite
    | with_reducible apply respondDone_frame)

theorem pwrRecordFn_frame {k : List Fld} {a : Module} {fn : Nat} {msg : MgmtMsg} {m : Module}
    (hf : SameBut k a m) (hs : Within [.start, .fns, .fabParts, .nodes, .hedgeOut, .freeCtr] k) : SameBut k a (pwrRecordFn fn msg m) := by
  unfold pwrRecordFn
  repeat' (first
    | with_reducible exact hf
    | with_reducible assumption
    | with_reducible exact SameBut.refl _ _
    | extract_lets
    | with_reducible apply SameBut.ite
    | with_reducible apply mgmtRow_frame
    | with_reducible apply recordServe_frame
    | split
    | exact fun x hx => hs x (by revert x; decide +kernel)
    | intro _)

theorem enrolServe_frame {k : List Fld} {a : Module} {fn : Nat} {msg : MgmtMsg} {m : Module}
    (hf : SameBut k a m) (hs : Within [.start, .sec, .fns, .fabParts, .nodes, .hedgeOut, .freeCtr] k) : SameBut k a (enrolServe fn msg m)
        := by
  unfold enrolServe
  repeat' (first
    | with_reducible exact hf
    | with_reducible assumption
    | with_reducible exact SameBut.refl _ _
    | extract_lets
    | with_reducible apply SameBut.ite
    | with_reducible apply Module.setSec_frame
    | with_reducible apply respondDone_frame
    | with_reducible apply respondRej_frame
    | with_reducible apply respondBad_frame
    | with_reducible apply pf0Message_frame
    | split
    | exact fun x hx => hs x (by revert x; decide +kernel)
    | intro _)

theorem keyEnrolFn_frame {k : List Fld} {a : Module} {fn : Nat} {msg : MgmtMsg} {m : Module}
    (hf : SameBut k a m) (hs : Within [.start, .sec, .fns, .fabParts, .nodes, .hedgeOut, .freeCtr] k) : SameBut k a (keyEnrolFn fn msg m)
        := by
  unfold keyEnrolFn
  repeat' (first
    | with_reducible exact hf
    | with_reducible assumption
    | with_reducible exact SameBut.refl _ _
    | extract_lets
    | with_reducible apply SameBut.ite
    | with_reducible apply mgmtRow_frame
    | with_reducible apply enrolServe_frame
    | split
    | exact fun x hx => hs x (by revert x; decide +kernel)
    | intro _)

theorem revokeServe_frame {k : List Fld} {a : Module} {fn : Nat} {msg : MgmtMsg} {m : Module}
    (hf : SameBut k a m) (hs : Within [.start, .sec, .fns, .fabParts, .nodes, .hedgeOut, .freeCtr] k) : SameBut k a (revokeServe fn msg m)
        := by
  unfold revokeServe
  repeat' (first
    | with_reducible exact hf
    | with_reducible assumption
    | with_reducible exact SameBut.refl _ _
    | extract_lets
    | with_reducible apply SameBut.ite
    | with_reducible apply Module.setSec_frame
    | with_reducible apply respondDone_frame
    | with_reducible apply respondBad_frame
    | with_reducible apply pf0Message_frame
    | split
    | exact fun x hx => hs x (by revert x; decide +kernel)
    | intro _)

theorem keyRevokeFn_frame {k : List Fld} {a : Module} {fn : Nat} {msg : MgmtMsg} {m : Module}
    (hf : SameBut k a m) (hs : Within [.start, .sec, .fns, .fabParts, .nodes, .hedgeOut, .freeCtr] k) : SameBut k a (keyRevokeFn fn msg m)
        := by
  unfold keyRevokeFn
  repeat' (first
    | with_reducible exact hf
    | with_reducible assumption
    | with_reducible exact SameBut.refl _ _
    | extract_lets
    | with_reducible apply SameBut.ite
    | with_reducible apply mgmtRow_frame
    | with_reducible apply revokeServe_frame
    | split
    | exact fun x hx => hs x (by revert x; decide +kernel)
    | intro _)

theorem attestServe_frame {k : List Fld} {a : Module} {fn : Nat} {msg : MgmtMsg} {m : Module}
    (hf : SameBut k a m) (hs : Within [.start, .fns, .fabParts, .nodes, .hedgeOut, .hostOut, .freeCtr] k) : SameBut k a (attestServe fn msg
        m) := by
  unfold attestServe
  repeat' (first
    | with_reducible exact hf
    | with_reducible assumption
    | with_reducible exact SameBut.refl _ _
    | extract_lets
    | with_reducible apply SameBut.ite
    | with_reducible apply emitBytes_frame
    | with_reducible apply respondDone_frame
    | with_reducible apply respondRej_frame
    | with_reducible apply respondBad_frame
    | split
    | exact fun x hx => hs x (by revert x; decide +kernel))

theorem attestFn_frame {k : List Fld} {a : Module} {fn : Nat} {msg : MgmtMsg} {m : Module}
    (hf : SameBut k a m) (hs : Within [.start, .fns, .fabParts, .nodes, .hedgeOut, .hostOut, .freeCtr] k) : SameBut k a (attestFn fn msg m)
        := by
  unfold attestFn
  repeat' (first
    | with_reducible exact hf
    | with_reducible assumption
    | with_reducible exact SameBut.refl _ _
    | extract_lets
    | with_reducible apply SameBut.ite
    | with_reducible apply mgmtRow_frame
    | with_reducible apply attestServe_frame
    | split
    | exact fun x hx => hs x (by revert x; decide +kernel)
    | intro _)

theorem idServe_frame {k : List Fld} {a : Module} {fn : Nat} {msg : MgmtMsg} {m : Module}
    (hf : SameBut k a m) (hs : Within [.start, .fns, .fabParts, .nodes, .hedgeOut, .hostOut, .freeCtr] k) : SameBut k a (idServe fn msg m)
        := by
  unfold idServe
  repeat' (first
    | with_reducible exact hf
    | with_reducible assumption
    | with_reducible exact SameBut.refl _ _
    | extract_lets
    | with_reducible apply SameBut.ite
    | with_reducible apply emitBytes_frame
    | with_reducible apply respondDone_frame
    | with_reducible apply respondBad_frame
    | split
    | exact fun x hx => hs x (by revert x; decide +kernel))

theorem idGetFn_frame {k : List Fld} {a : Module} {fn : Nat} {msg : MgmtMsg} {m : Module}
    (hf : SameBut k a m) (hs : Within [.start, .fns, .fabParts, .nodes, .hedgeOut, .hostOut, .freeCtr] k) : SameBut k a (idGetFn fn msg m)
        := by
  unfold idGetFn
  repeat' (first
    | with_reducible exact hf
    | with_reducible assumption
    | with_reducible exact SameBut.refl _ _
    | extract_lets
    | with_reducible apply SameBut.ite
    | with_reducible apply mgmtRow_frame
    | with_reducible apply idServe_frame
    | split
    | exact fun x hx => hs x (by revert x; decide +kernel)
    | intro _)

theorem debugServe_frame {k : List Fld} {a : Module} {fn : Nat} {msg : MgmtMsg} {m : Module}
    (hf : SameBut k a m) (hs : Within [.start, .sec, .fns, .fabParts, .nodes, .hedgeOut, .freeCtr] k) : SameBut k a (debugServe fn msg m)
        := by
  unfold debugServe
  repeat' (first
    | with_reducible exact hf
    | with_reducible assumption
    | with_reducible exact SameBut.refl _ _
    | extract_lets
    | with_reducible apply SameBut.ite
    | with_reducible apply Module.setSec_frame
    | with_reducible apply respondDone_frame
    | with_reducible apply respondRej_frame
    | with_reducible apply respondBad_frame
    | with_reducible apply pf0Message_frame
    | split
    | exact fun x hx => hs x (by revert x; decide +kernel)
    | intro _)

theorem debugUnlockFn_frame {k : List Fld} {a : Module} {fn : Nat} {msg : MgmtMsg} {m : Module}
    (hf : SameBut k a m) (hs : Within [.start, .sec, .fns, .fabParts, .nodes, .hedgeOut, .freeCtr] k) : SameBut k a (debugUnlockFn fn msg
        m) := by
  unfold debugUnlockFn
  repeat' (first
    | with_reducible exact hf
    | with_reducible assumption
    | with_reducible exact SameBut.refl _ _
    | extract_lets
    | with_reducible apply SameBut.ite
    | with_reducible apply mgmtRow_frame
    | with_reducible apply debugServe_frame
    | split
    | exact fun x hx => hs x (by revert x; decide +kernel)
    | intro _)

theorem runListServe_frame {k : List Fld} {a : Module} {fn : Nat} {msg : MgmtMsg} {m : Module}
    (hf : SameBut k a m) (hs : Within [.start, .fns, .fabParts, .nodes, .hedgeOut, .freeCtr] k) : SameBut k a (runListServe fn msg m) := by
  unfold runListServe
  repeat' (first
    | with_reducible exact hf
    | with_reducible assumption
    | with_reducible exact SameBut.refl _ _
    | extract_lets
    | with_reducible apply SameBut.ite
    | with_reducible apply respondDone_frame
    | with_reducible apply respondRej_frame
    | with_reducible apply respondBad_frame
    | split
    | exact fun x hx => hs x (by revert x; decide +kernel))

theorem runListFn_frame {k : List Fld} {a : Module} {fn : Nat} {msg : MgmtMsg} {m : Module}
    (hf : SameBut k a m) (hs : Within [.start, .fns, .fabParts, .nodes, .hedgeOut, .freeCtr] k) : SameBut k a (runListFn fn msg m) := by
  unfold runListFn
  repeat' (first
    | with_reducible exact hf
    | with_reducible assumption
    | with_reducible exact SameBut.refl _ _
    | extract_lets
    | with_reducible apply SameBut.ite
    | with_reducible apply mgmtRow_frame
    | with_reducible apply runListServe_frame
    | split
    | intro _)

theorem cgOwnerServe_frame {k : List Fld} {a : Module} {fn : Nat} {msg : MgmtMsg} {m : Module}
    (hf : SameBut k a m) (hs : Within [.fns] k) : SameBut k a (cgOwnerServe fn msg m) := by
  unfold cgOwnerServe
  repeat' (first
    | with_reducible exact hf
    | with_reducible assumption
    | with_reducible exact SameBut.refl _ _
    | extract_lets
    | with_reducible apply SameBut.ite
    | with_reducible apply respondDone_frame)

theorem cgOwnerFn_frame {k : List Fld} {a : Module} {fn : Nat} {msg : MgmtMsg} {m : Module}
    (hf : SameBut k a m) (hs : Within [.start, .fns, .fabParts, .nodes, .hedgeOut, .freeCtr] k) : SameBut k a (cgOwnerFn fn msg m) := by
  unfold cgOwnerFn
  repeat' (first
    | with_reducible exact hf
    | with_reducible assumption
    | with_reducible exact SameBut.refl _ _
    | extract_lets
    | with_reducible apply SameBut.ite
    | with_reducible apply mgmtRow_frame
    | with_reducible apply cgOwnerServe_frame
    | split
    | exact fun x hx => hs x (by revert x; decide +kernel)
    | intro _)

theorem takeProgram_frame {k : List Fld} {a : Module} {m : Module} {fn : Nat} {msg : MgmtMsg} {p : Nat} {w : Swath} {b : Mem}
    (hf : SameBut k a m) (hs : Within [.start, .mem, .fns, .parts, .fabParts, .nodes, .hedgeOut, .freeCtr] k) : SameBut k a (takeProgram m
        fn msg p w b) := by
  unfold takeProgram
  repeat' (first
    | with_reducible exact hf
    | with_reducible assumption
    | with_reducible exact SameBut.refl _ _
    | extract_lets
    | with_reducible apply SameBut.ite
    | with_reducible apply Module.setPart_frame
    | with_reducible apply foldM_frame
    | with_reducible apply backList_frame
    | (refine SameBut.fst (by assumption) (show SameBut _ _ (_ : _ × _).1 from backList_frame ?_ ?_))
    | with_reducible apply holdPages_frame
    | with_reducible apply unholdPages_frame
    | with_reducible apply noteRead_frame
    | with_reducible apply respondDone_frame
    | with_reducible apply respondRej_frame
    | split
    | exact fun x hx => hs x (by revert x; decide +kernel)
    | intro _)

theorem fabLoadServe_frame {k : List Fld} {a : Module} {fn : Nat} {msg : MgmtMsg} {m : Module}
    (hf : SameBut k a m) (hs : Within [.start, .sec, .mem, .fns, .parts, .fabParts, .nodes, .hedgeOut, .freeCtr] k) : SameBut k a
        (fabLoadServe fn msg m) := by
  unfold fabLoadServe
  repeat' (first
    | with_reducible exact hf
    | with_reducible assumption
    | with_reducible exact SameBut.refl _ _
    | extract_lets
    | with_reducible apply SameBut.ite
    | with_reducible apply countSigFail_frame
    | with_reducible apply countHashFail_frame
    | with_reducible apply respondRej_frame
    | with_reducible apply respondBad_frame
    | with_reducible apply takeProgram_frame
    | split
    | exact fun x hx => hs x (by revert x; decide +kernel))

theorem fabLoadBoth_frame {k : List Fld} {a : Module} {fn : Nat} {msg : MgmtMsg} {m : Module}
    (hf : SameBut k a m) (hs : Within [.start, .sec, .mem, .fns, .parts, .fabParts, .nodes, .hedgeOut, .freeCtr] k) : SameBut k a
        (fabLoadBoth fn msg m) := by
  unfold fabLoadBoth
  repeat' (first
    | with_reducible exact hf
    | with_reducible assumption
    | with_reducible exact SameBut.refl _ _
    | extract_lets
    | with_reducible apply SameBut.ite
    | with_reducible apply toProc_frame
    | with_reducible apply fabLoadServe_frame
    | split
    | exact fun x hx => hs x (by revert x; decide +kernel)
    | intro _)

theorem fabLoadFn_frame {k : List Fld} {a : Module} {fn : Nat} {msg : MgmtMsg} {m : Module}
    (hf : SameBut k a m) (hs : Within [.start, .sec, .mem, .fns, .parts, .fabParts, .nodes, .hedgeOut, .freeCtr] k) : SameBut k a
        (fabLoadFn fn msg m) := by
  unfold fabLoadFn
  repeat' (first
    | with_reducible exact hf
    | with_reducible assumption
    | with_reducible exact SameBut.refl _ _
    | extract_lets
    | with_reducible apply SameBut.ite
    | with_reducible apply mgmtRow_frame
    | with_reducible apply fabLoadBoth_frame
    | split
    | exact fun x hx => hs x (by revert x; decide +kernel)
    | intro _)

theorem budgetLimit_frame {k : List Fld} {a : Module} {m : Module}
    (hf : SameBut k a m) (hs : Within [.power] k) : SameBut k a (budgetLimit m) := by
  unfold budgetLimit
  repeat' (first
    | with_reducible exact hf
    | with_reducible assumption
    | with_reducible exact SameBut.refl _ _
    | extract_lets
    | with_reducible apply SameBut.ite
    | with_reducible apply Module.setPower_frame
    | with_reducible apply setLimit_frame)

theorem ownSlope_frame {k : List Fld} {a : Module} {m : Module} {isNew : Bool}
    (hf : SameBut k a m) (hs : Within [.power, .fabric, .netOut] k) : SameBut k a (ownSlope m isNew) := by
  unfold ownSlope
  repeat' (first
    | with_reducible exact hf
    | with_reducible assumption
    | with_reducible exact SameBut.refl _ _
    | extract_lets
    | with_reducible apply SameBut.ite
    | with_reducible apply Module.setPower_frame
    | with_reducible apply rampAll_frame
    | split
    | exact fun x hx => hs x (by revert x; decide +kernel))

theorem applyBudget_frame {k : List Fld} {a : Module} {m : Module} {b : List Byte}
    (hf : SameBut k a m) (hs : Within [.power, .fabric, .netOut, .sb] k) : SameBut k a (applyBudget m b) := by
  unfold applyBudget
  repeat' (first
    | with_reducible exact hf
    | with_reducible assumption
    | with_reducible exact SameBut.refl _ _
    | extract_lets
    | with_reducible apply SameBut.ite
    | with_reducible apply Module.setPower_frame
    | with_reducible apply Module.setSb_frame
    | with_reducible apply budgetLimit_frame
    | with_reducible apply ownSlope_frame
    | split
    | exact fun x hx => hs x (by revert x; decide +kernel))

theorem boundaryZero_frame {k : List Fld} {a : Module} {m : Module}
    (hf : SameBut k a m) (hs : Within [.tick, .start, .power, .fns, .parts, .fabParts, .slots, .cores, .nodes, .hedgeOut, .fabric,
        .freeCtr] k) : SameBut k a (boundaryZero m) := by
  unfold boundaryZero
  repeat' (first
    | with_reducible exact hf
    | with_reducible assumption
    | with_reducible exact SameBut.refl _ _
    | extract_lets
    | with_reducible apply SameBut.ite
    | with_reducible apply foldM_frame
    | with_reducible apply hedgeSend_frame
    | with_reducible apply preemptNow_frame
    | with_reducible apply applyStaged_frame
    | with_reducible apply fillBuckets_frame
    | with_reducible apply powerBoundary_frame
    | split
    | exact fun x hx => hs x (by revert x; decide +kernel)
    | intro _)

theorem roleStarts_frame {k : List Fld} {a : Module} {m : Module} {was : Role}
    (hf : SameBut k a m) (hs : Within [.tick, .start, .power, .fns, .parts, .fabParts, .slots, .cores, .nodes, .hedgeOut, .fabric,
        .freeCtr] k) : SameBut k a (roleStarts m was) := by
  unfold roleStarts
  repeat' (first
    | with_reducible exact hf
    | with_reducible assumption
    | with_reducible exact SameBut.refl _ _
    | extract_lets
    | with_reducible apply SameBut.ite
    | with_reducible apply Module.setTick_frame
    | with_reducible apply Module.setFabric_frame
    | with_reducible apply boundaryZero_frame
    | split
    | exact fun x hx => hs x (by revert x; decide +kernel))

theorem applySlice_frame {k : List Fld} {a : Module} {m : Module} {b : List Byte}
    (hf : SameBut k a m) (hs : Within [.tick, .start, .power, .fns, .parts, .fabParts, .slots, .cores, .nodes, .hedgeOut, .fabric, .netOut,
        .sb, .freeCtr] k) : SameBut k a (applySlice m b) := by
  unfold applySlice
  repeat' (first
    | with_reducible exact hf
    | with_reducible assumption
    | with_reducible exact SameBut.refl _ _
    | extract_lets
    | with_reducible apply SameBut.ite
    | with_reducible apply Module.setTick_frame
    | with_reducible apply Module.setSb_frame
    | with_reducible apply Module.setFabric_frame
    | with_reducible apply refreshDomains_frame
    | with_reducible apply refreshRoles_frame
    | with_reducible apply ownSlope_frame
    | with_reducible apply roleStarts_frame
    | with_reducible apply foldM_frame
    | with_reducible apply listFoldl_frame
    | split
    | exact fun x hx => hs x (by revert x; decide +kernel))

theorem applyHeld_frame {k : List Fld} {a : Module} {m : Module}
    (hf : SameBut k a m) (hs : Within [.tick, .start, .power, .fns, .parts, .fabParts, .slots, .cores, .nodes, .hedgeOut, .fabric, .netOut,
        .sb, .freeCtr] k) : SameBut k a (applyHeld m) := by
  unfold applyHeld
  repeat' (first
    | with_reducible exact hf
    | with_reducible assumption
    | with_reducible exact SameBut.refl _ _
    | extract_lets
    | with_reducible apply SameBut.ite
    | with_reducible apply Module.setSb_frame
    | with_reducible apply applyBudget_frame
    | with_reducible apply applySlice_frame
    | split
    | exact fun x hx => hs x (by revert x; decide +kernel)
    | intro _
    | (dsimp +zetaDelta only; split))

theorem sbAnswer_frame {k : List Fld} {a : Module} {m : Module} {b : List Byte}
    (hf : SameBut k a m) (hs : Within [.sb] k) : SameBut k a (sbAnswer m b) := by
  unfold sbAnswer
  repeat' (first
    | with_reducible exact hf
    | with_reducible assumption
    | with_reducible exact SameBut.refl _ _
    | extract_lets
    | with_reducible apply SameBut.ite
    | with_reducible apply Module.setSb_frame)

theorem sbIdFn_frame {k : List Fld} {a : Module} {m : Module}
    (hf : SameBut k a m) (hs : Within [.sb] k) : SameBut k a (sbIdFn m) := by
  unfold sbIdFn
  repeat' (first
    | with_reducible exact hf
    | with_reducible assumption
    | with_reducible exact SameBut.refl _ _
    | extract_lets
    | with_reducible apply SameBut.ite
    | with_reducible apply sbAnswer_frame)

theorem sbStatusFn_frame {k : List Fld} {a : Module} {m : Module}
    (hf : SameBut k a m) (hs : Within [.sb] k) : SameBut k a (sbStatusFn m) := by
  unfold sbStatusFn
  repeat' (first
    | with_reducible exact hf
    | with_reducible assumption
    | with_reducible exact SameBut.refl _ _
    | extract_lets
    | with_reducible apply SameBut.ite
    | with_reducible apply sbAnswer_frame)

theorem sbSerialFn_frame {k : List Fld} {a : Module} {m : Module}
    (hf : SameBut k a m) (hs : Within [.sb] k) : SameBut k a (sbSerialFn m) := by
  unfold sbSerialFn
  repeat' (first
    | with_reducible exact hf
    | with_reducible assumption
    | with_reducible exact SameBut.refl _ _
    | extract_lets
    | with_reducible apply SameBut.ite
    | with_reducible apply sbAnswer_frame)

theorem sbRecInFn_frame {k : List Fld} {a : Module} {data : List Byte} {m : Module}
    (hf : SameBut k a m) (hs : Within [.tick, .start, .power, .fns, .parts, .fabParts, .slots, .cores, .nodes, .hedgeOut, .fabric, .netOut,
        .sb, .freeCtr] k) : SameBut k a (sbRecInFn data m) := by
  unfold sbRecInFn
  repeat' (first
    | with_reducible exact hf
    | with_reducible assumption
    | with_reducible exact SameBut.refl _ _
    | extract_lets
    | with_reducible apply SameBut.ite
    | with_reducible apply Module.setSb_frame
    | with_reducible apply applyHeld_frame
    | split
    | exact fun x hx => hs x (by revert x; decide +kernel))

theorem sbRecStatFn_frame {k : List Fld} {a : Module} {m : Module}
    (hf : SameBut k a m) (hs : Within [.sb] k) : SameBut k a (sbRecStatFn m) := by
  unfold sbRecStatFn
  repeat' (first
    | with_reducible exact hf
    | with_reducible assumption
    | with_reducible exact SameBut.refl _ _
    | extract_lets
    | with_reducible apply SameBut.ite
    | with_reducible apply sbAnswer_frame)

theorem sbRecOutFn_frame {k : List Fld} {a : Module} {m : Module}
    (hf : SameBut k a m) (hs : Within [.sb] k) : SameBut k a (sbRecOutFn m) := by
  unfold sbRecOutFn
  repeat' (first
    | with_reducible exact hf
    | with_reducible assumption
    | with_reducible exact SameBut.refl _ _
    | extract_lets
    | with_reducible apply SameBut.ite
    | with_reducible apply sbAnswer_frame)

theorem sbRecAckFn_frame {k : List Fld} {a : Module} {oseq : Word} {m : Module}
    (hf : SameBut k a m) (hs : Within [.sb] k) : SameBut k a (sbRecAckFn oseq m) := by
  unfold sbRecAckFn
  repeat' (first
    | with_reducible exact hf
    | with_reducible assumption
    | with_reducible exact SameBut.refl _ _
    | extract_lets
    | with_reducible apply SameBut.ite
    | with_reducible apply Module.setSb_frame
    | split)

theorem toStage_frame {k : List Fld} {a : Module} {m : Module} {n : Nat}
    (hf : SameBut k a m) (hs : Within [.start] k) : SameBut k a (toStage m n) := by
  unfold toStage
  repeat' (first
    | with_reducible exact hf
    | with_reducible assumption
    | with_reducible exact SameBut.refl _ _
    | extract_lets
    | with_reducible apply SameBut.ite
    | with_reducible apply Module.setStart_frame)

theorem busInRegulationFn_frame {k : List Fld} {a : Module} {m : Module}
    (hf : SameBut k a m) (hs : Within [.start, .power] k) : SameBut k a (busInRegulationFn m) := by
  unfold busInRegulationFn
  repeat' (first
    | with_reducible exact hf
    | with_reducible assumption
    | with_reducible exact SameBut.refl _ _
    | extract_lets
    | with_reducible apply SameBut.ite
    | with_reducible apply Module.setPower_frame
    | with_reducible apply toStage_frame
    | split
    | exact fun x hx => hs x (by revert x; decide +kernel))

theorem bootFirmware_frame {k : List Fld} {a : Module} {m : Module}
    (hf : SameBut k a m) (hs : Within [.start, .power, .fw, .flash, .sec, .fns, .nodes, .hedgeOut, .netOut, .sb, .freeCtr] k) : SameBut k a
        (bootFirmware m) := by
  unfold bootFirmware
  repeat' (first
    | with_reducible exact hf
    | with_reducible assumption
    | with_reducible exact SameBut.refl _ _
    | extract_lets
    | with_reducible apply SameBut.ite
    | with_reducible apply Module.setProc_frame
    | with_reducible apply Module.setPower_frame
    | with_reducible apply Module.setSec_frame
    | with_reducible apply foldM_frame
    | with_reducible apply takeFree_frame
    | (refine SameBut.snd (by assumption) (show SameBut _ _ (_ : _ × _).2 from takeFree_frame ?_ ?_))
    | with_reducible apply raise_frame
    | with_reducible apply stopStart_frame
    | with_reducible apply latchImage_frame
    | with_reducible apply toStage_frame
    | split
    | exact fun x hx => hs x (by revert x; decide +kernel)
    | intro _
    | dsimp only
    | with_reducible apply SameBut.with_flash)

theorem bootChainFn_frame {k : List Fld} {a : Module} {puf region : Bool} {m : Module}
    (hf : SameBut k a m) (hs : Within [.start, .power, .fw, .flash, .sec, .fns, .nodes, .hedgeOut, .netOut, .sb, .freeCtr] k) : SameBut k a
        (bootChainFn puf region m) := by
  unfold bootChainFn
  repeat' (first
    | with_reducible exact hf
    | with_reducible assumption
    | with_reducible exact SameBut.refl _ _
    | extract_lets
    | with_reducible apply SameBut.ite
    | with_reducible apply Module.setSec_frame
    | with_reducible apply stopStart_frame
    | with_reducible apply toStage_frame
    | with_reducible apply bootFirmware_frame
    | split
    | exact fun x hx => hs x (by revert x; decide +kernel)
    | intro _
    | dsimp only
    | with_reducible apply SameBut.with_flash)

theorem powerOnDomainsFn_frame {k : List Fld} {a : Module} {m : Module}
    (hf : SameBut k a m) (hs : Within [.tick, .start, .power, .fns, .parts, .fabParts, .slots, .cores, .nodes, .hedgeOut, .fabric, .netOut,
        .sb, .freeCtr] k) : SameBut k a (powerOnDomainsFn m) := by
  unfold powerOnDomainsFn
  repeat' (first
    | with_reducible exact hf
    | with_reducible assumption
    | with_reducible exact SameBut.refl _ _
    | extract_lets
    | with_reducible apply SameBut.ite
    | with_reducible apply refreshDomains_frame
    | with_reducible apply applyHeld_frame
    | with_reducible apply toStage_frame
    | split
    | exact fun x hx => hs x (by revert x; decide +kernel))

theorem hedgerowTrimFn_frame {k : List Fld} {a : Module} {m : Module}
    (hf : SameBut k a m) (hs : Within [.start, .nodes] k) : SameBut k a (hedgerowTrimFn m) := by
  unfold hedgerowTrimFn
  repeat' (first
    | with_reducible exact hf
    | with_reducible assumption
    | with_reducible exact SameBut.refl _ _
    | extract_lets
    | with_reducible apply SameBut.ite
    | with_reducible apply toStage_frame
    | with_reducible apply foldM_frame
    | with_reducible apply listFoldl_frame
    | split
    | exact fun x hx => hs x (by revert x; decide +kernel)
    | intro _
    | with_reducible apply listFoldlFst_frame
    | dsimp only
    | with_reducible apply SameBut.with_nodes)

theorem memoryTrainingFn_frame {k : List Fld} {a : Module} {sward : BitVec 8} {ley : BitVec 16} {m : Module}
    (hf : SameBut k a m) (hs : Within [.start, .power, .mem, .fns, .nodes, .hedgeOut, .netOut, .sb] k) : SameBut k a (memoryTrainingFn
        sward ley m) := by
  unfold memoryTrainingFn
  repeat' (first
    | with_reducible exact hf
    | with_reducible assumption
    | with_reducible exact SameBut.refl _ _
    | extract_lets
    | with_reducible apply SameBut.ite
    | with_reducible apply Module.setUnits_frame
    | with_reducible apply foldM_frame
    | with_reducible apply raise_frame
    | with_reducible apply stopStart_frame
    | with_reducible apply toStage_frame
    | with_reducible apply foldM_frame
    | with_reducible apply listFoldl_frame
    | split
    | exact fun x hx => hs x (by revert x; decide +kernel)
    | intro _)

theorem coreTestFn_frame {k : List Fld} {a : Module} {failed : List Nat} {m : Module}
    (hf : SameBut k a m) (hs : Within [.start, .power, .flash, .ras, .fns, .parts, .fabParts, .slots, .clusters, .cores, .nodes, .hedgeOut,
        .fabric, .xfers, .netOut, .freeCtr] k) : SameBut k a (coreTestFn failed m) := by
  unfold coreTestFn
  repeat' (first
    | with_reducible exact hf
    | with_reducible assumption
    | with_reducible exact SameBut.refl _ _
    | extract_lets
    | with_reducible apply SameBut.ite
    | with_reducible apply Module.setClu_frame
    | with_reducible apply Module.setRas_frame
    | with_reducible apply foldM_frame
    | with_reducible apply fence_frame
    | with_reducible apply toStage_frame
    | split
    | exact fun x hx => hs x (by revert x; decide +kernel)
    | intro _)

theorem heathEnumerationFn_frame {k : List Fld} {a : Module} {capacity : List (Option Nat)} {m : Module}
    (hf : SameBut k a m) (hs : Within [.start, .mem, .fns, .nodes, .hedgeOut] k) : SameBut k a (heathEnumerationFn capacity m) := by
  unfold heathEnumerationFn
  repeat' (first
    | with_reducible exact hf
    | with_reducible assumption
    | with_reducible exact SameBut.refl _ _
    | extract_lets
    | with_reducible apply SameBut.ite
    | with_reducible apply Module.setUnits_frame
    | with_reducible apply foldM_frame
    | with_reducible apply raise_frame
    | with_reducible apply toStage_frame
    | split
    | exact fun x hx => hs x (by revert x; decide +kernel)
    | intro _)

theorem flushLog_frame {k : List Fld} {a : Module} {m : Module}
    (hf : SameBut k a m) (hs : Within [.start, .fns] k) : SameBut k a (flushLog m) := by
  unfold flushLog
  repeat' (first
    | with_reducible exact hf
    | with_reducible assumption
    | with_reducible exact SameBut.refl _ _
    | extract_lets
    | with_reducible apply SameBut.ite
    | with_reducible apply Module.setFn_frame
    | with_reducible apply Module.setStart_frame
    | with_reducible apply foldM_frame
    | with_reducible apply writeEvent_frame
    | split
    | exact fun x hx => hs x (by revert x; decide +kernel)
    | intro _)

theorem readyFn_frame {k : List Fld} {a : Module} {m : Module}
    (hf : SameBut k a m) (hs : Within [.start, .power, .fns] k) : SameBut k a (readyFn m) := by
  unfold readyFn
  repeat' (first
    | with_reducible exact hf
    | with_reducible assumption
    | with_reducible exact SameBut.refl _ _
    | extract_lets
    | with_reducible apply SameBut.ite
    | with_reducible apply Module.setStart_frame
    | with_reducible apply refreshDomains_frame
    | with_reducible apply toStage_frame
    | with_reducible apply flushLog_frame
    | split
    | exact fun x hx => hs x (by revert x; decide +kernel))

theorem startStopFn_frame {k : List Fld} {a : Module} {m : Module}
    (hf : SameBut k a m) (hs : Within [.start, .power, .netOut, .sb] k) : SameBut k a (startStopFn m) := by
  unfold startStopFn
  repeat' (first
    | with_reducible exact hf
    | with_reducible assumption
    | with_reducible exact SameBut.refl _ _
    | extract_lets
    | with_reducible apply SameBut.ite
    | with_reducible apply stopStart_frame)

theorem portReset_frame {k : List Fld} {a : Module} {m : Module}
    (hf : SameBut k a m) (hs : Within [.start, .power, .ras, .fns, .parts, .fabParts, .slots, .cores, .nodes, .hedgeOut, .hostOut,
        .freeCtr] k) : SameBut k a (portReset m) := by
  unfold portReset
  repeat' (first
    | with_reducible exact hf
    | with_reducible assumption
    | with_reducible exact SameBut.refl _ _
    | extract_lets
    | with_reducible apply SameBut.ite
    | with_reducible apply Module.setStart_frame
    | with_reducible apply foldM_frame
    | with_reducible apply beginReset_frame
    | split
    | exact fun x hx => hs x (by revert x; decide +kernel)
    | intro _
    | dsimp only
    | with_reducible apply SameBut.with_fns)

theorem perstAssertFn_frame {k : List Fld} {a : Module} {m : Module}
    (hf : SameBut k a m) (hs : Within [.start, .power, .ras, .fns, .parts, .fabParts, .slots, .cores, .nodes, .hedgeOut, .hostOut,
        .freeCtr] k) : SameBut k a (perstAssertFn m) := by
  unfold perstAssertFn
  repeat' (first
    | with_reducible exact hf
    | with_reducible assumption
    | with_reducible exact SameBut.refl _ _
    | extract_lets
    | with_reducible apply SameBut.ite
    | with_reducible apply Module.setStart_frame
    | with_reducible apply portReset_frame
    | split
    | exact fun x hx => hs x (by revert x; decide +kernel))

theorem perstDeassertFn_frame {k : List Fld} {a : Module} {m : Module}
    (hf : SameBut k a m) (hs : Within [.start] k) : SameBut k a (perstDeassertFn m) := by
  unfold perstDeassertFn
  repeat' (first
    | with_reducible exact hf
    | with_reducible assumption
    | with_reducible exact SameBut.refl _ _
    | extract_lets
    | with_reducible apply SameBut.ite
    | with_reducible apply Module.setStart_frame)

theorem refclkLossFn_frame {k : List Fld} {a : Module} {m : Module}
    (hf : SameBut k a m) (hs : Within [.start, .power, .ras, .fns, .parts, .fabParts, .slots, .cores, .nodes, .hedgeOut, .hostOut,
        .freeCtr] k) : SameBut k a (refclkLossFn m) := by
  unfold refclkLossFn
  repeat' (first
    | with_reducible exact hf
    | with_reducible assumption
    | with_reducible exact SameBut.refl _ _
    | extract_lets
    | with_reducible apply SameBut.ite
    | with_reducible apply Module.setStart_frame
    | with_reducible apply portReset_frame
    | split
    | exact fun x hx => hs x (by revert x; decide +kernel))

theorem refclkStableFn_frame {k : List Fld} {a : Module} {m : Module}
    (hf : SameBut k a m) (hs : Within [.start] k) : SameBut k a (refclkStableFn m) := by
  unfold refclkStableFn
  repeat' (first
    | with_reducible exact hf
    | with_reducible assumption
    | with_reducible exact SameBut.refl _ _
    | extract_lets
    | with_reducible apply SameBut.ite
    | with_reducible apply Module.setStart_frame)

theorem hostLinkUpFn_frame {k : List Fld} {a : Module} {width speed : BitVec 2} {m : Module}
    (hf : SameBut k a m) (hs : Within [.start, .fns, .nodes, .hedgeOut] k) : SameBut k a (hostLinkUpFn width speed m) := by
  unfold hostLinkUpFn
  repeat' (first
    | with_reducible exact hf
    | with_reducible assumption
    | with_reducible exact SameBut.refl _ _
    | extract_lets
    | with_reducible apply SameBut.ite
    | with_reducible apply Module.setStart_frame
    | with_reducible apply configRefused_frame
    | split
    | exact fun x hx => hs x (by revert x; decide +kernel))

theorem hostLinkDownFn_frame {k : List Fld} {a : Module} {m : Module}
    (hf : SameBut k a m) (hs : Within [.start] k) : SameBut k a (hostLinkDownFn m) := by
  unfold hostLinkDownFn
  repeat' (first
    | with_reducible exact hf
    | with_reducible assumption
    | with_reducible exact SameBut.refl _ _
    | extract_lets
    | with_reducible apply SameBut.ite
    | with_reducible apply hostLinkLost_frame)

theorem configAct_frame {k : List Fld} {a : Module} {m : Module} {y0 : CfgReq}
    (hf : SameBut k a m) (hs : Within [.start, .power, .ras, .fns, .parts, .fabParts, .slots, .cores, .nodes, .hedgeOut, .hostOut,
        .freeCtr] k) : SameBut k a (configAct m y0) := by
  unfold configAct
  repeat' (first
    | with_reducible exact hf
    | with_reducible assumption
    | with_reducible exact SameBut.refl _ _
    | extract_lets
    | with_reducible apply SameBut.ite
    | with_reducible apply Module.setFn_frame
    | with_reducible apply Module.setStart_frame
    | with_reducible apply foldM_frame
    | with_reducible apply beginReset_frame
    | split
    | exact fun x hx => hs x (by revert x; decide +kernel)
    | intro _)

theorem configurationRequestFn_frame {k : List Fld} {a : Module} {req : CfgReq} {m : Module}
    (hf : SameBut k a m) (hs : Within [.start, .power, .ras, .fns, .parts, .fabParts, .slots, .cores, .nodes, .hedgeOut, .hostOut,
        .freeCtr] k) : SameBut k a (configurationRequestFn req m) := by
  unfold configurationRequestFn
  repeat' (first
    | with_reducible exact hf
    | with_reducible assumption
    | with_reducible exact SameBut.refl _ _
    | extract_lets
    | with_reducible apply SameBut.ite
    | with_reducible apply Module.setStart_frame
    | with_reducible apply configAct_frame
    | split
    | exact fun x hx => hs x (by revert x; decide +kernel))

theorem sysclkLossFn_frame {k : List Fld} {a : Module} {m : Module}
    (hf : SameBut k a m) (hs : Within [.tick, .start, .power, .parts, .clusters, .cores, .nodes, .hedgeOut, .fabric, .xfers, .netOut, .sb]
        k) : SameBut k a (sysclkLossFn m) := by
  unfold sysclkLossFn
  repeat' (first
    | with_reducible exact hf
    | with_reducible assumption
    | with_reducible exact SameBut.refl _ _
    | extract_lets
    | with_reducible apply SameBut.ite
    | with_reducible apply Module.setTick_frame
    | with_reducible apply Module.setStart_frame
    | with_reducible apply sbQueue_frame
    | with_reducible apply linksOff_frame
    | with_reducible apply haltAll_frame
    | split
    | exact fun x hx => hs x (by revert x; decide +kernel))

theorem cxlPrsntChangeFn_frame {k : List Fld} {a : Module} {port : BitVec 2} {attached : Bool} {m : Module}
    (hf : SameBut k a m) (hs : Within [.start, .power, .ras, .mem, .fns, .parts, .fabParts, .slots, .clusters, .cores, .nodes, .hedgeOut,
        .fabric, .xfers, .netOut, .freeCtr] k) : SameBut k a (cxlPrsntChangeFn port attached m) := by
  unfold cxlPrsntChangeFn
  repeat' (first
    | with_reducible exact hf
    | with_reducible assumption
    | with_reducible exact SameBut.refl _ _
    | extract_lets
    | with_reducible apply SameBut.ite
    | with_reducible apply Module.setStart_frame
    | with_reducible apply refreshDomains_frame
    | with_reducible apply loseHeath_frame
    | split
    | exact fun x hx => hs x (by revert x; decide +kernel))

theorem cableBytes_frame {k : List Fld} {a : Module} {m : Module}
    (hf : SameBut k a m) (hs : Within [.freeCtr] k) : SameBut k a (cableBytes m).2 := by
  unfold cableBytes
  repeat' (first
    | with_reducible exact hf
    | with_reducible assumption
    | with_reducible exact SameBut.refl _ _
    | extract_lets
    | with_reducible apply SameBut.ite
    | split
    | intro _
    | dsimp only
    | with_reducible apply SameBut.with_freeCtr)

theorem serveMsg_frame {k : List Fld} {a : Module} {fn : Nat} {msg : MgmtMsg} {m : Module}
    (hf : SameBut k a m) (hs : Within [.start, .fw, .activation, .flash, .sec, .ras, .mem, .fns, .parts, .fabParts, .slots, .clusters,
        .cores, .nodes, .hedgeOut, .hostOut, .fabric, .xfers, .eth, .netOut, .freeCtr] k) : SameBut k a (serveMsg fn msg m) := by
  unfold serveMsg
  repeat' (first
    | with_reducible exact hf
    | with_reducible assumption
    | with_reducible exact SameBut.refl _ _
    | extract_lets
    | with_reducible apply SameBut.ite
    | with_reducible apply qpSet_frame
    | with_reducible apply qpClear_frame
    | with_reducible apply cmisReadServe_frame
    | with_reducible apply cmisWriteServe_frame
    | with_reducible apply stageServe_frame
    | with_reducible apply activateServe_frame
    | with_reducible apply slotsServe_frame
    | with_reducible apply domainsServe_frame
    | with_reducible apply recordServe_frame
    | with_reducible apply enrolServe_frame
    | with_reducible apply revokeServe_frame
    | with_reducible apply attestServe_frame
    | with_reducible apply idServe_frame
    | with_reducible apply debugServe_frame
    | with_reducible apply runListServe_frame
    | with_reducible apply cgOwnerServe_frame
    | with_reducible apply fabLoadServe_frame
    | with_reducible apply cableBytes_frame
    | (refine SameBut.snd (by assumption) (show SameBut _ _ (_ : _ × _).2 from cableBytes_frame ?_ ?_))
    | split
    | exact fun x hx => hs x (by revert x; decide +kernel))

theorem serveList_frame {k : List Fld} {a : Module} {fn : Nat} {y0 : List MgmtMsg} {y1 : List Nat} {m : Module}
    (hf : SameBut k a m) (hs : Within [.start, .fw, .activation, .flash, .sec, .ras, .mem, .fns, .parts, .fabParts, .slots, .clusters,
        .cores, .nodes, .hedgeOut, .hostOut, .fabric, .xfers, .eth, .netOut, .freeCtr] k) : SameBut k a (serveList fn y0 y1 m) := by
  induction y0 generalizing y1 m with
  | nil =>
    unfold serveList
    exact hf
  | cons z zs ih =>
    unfold serveList
    repeat' (first
      | with_reducible exact hf
      | with_reducible assumption
      | with_reducible exact SameBut.refl _ _
      | extract_lets
      | with_reducible apply SameBut.ite
      | with_reducible apply Module.setFn_frame
      | with_reducible apply serveMsg_frame
      | split
      | exact fun x hx => hs x (by revert x; decide +kernel)
      | intro _
      | dsimp only
      | with_reducible apply ih)

theorem serveWaiting_frame {k : List Fld} {a : Module} {m : Module}
    (hf : SameBut k a m) (hs : Within [.start, .fw, .activation, .flash, .sec, .ras, .mem, .fns, .parts, .fabParts, .slots, .clusters,
        .cores, .nodes, .hedgeOut, .hostOut, .fabric, .xfers, .eth, .netOut, .freeCtr] k) : SameBut k a (serveWaiting m) := by
  unfold serveWaiting
  repeat' (first
    | with_reducible exact hf
    | with_reducible assumption
    | with_reducible exact SameBut.refl _ _
    | extract_lets
    | with_reducible apply SameBut.ite
    | with_reducible apply foldM_frame
    | with_reducible apply serveList_frame
    | split
    | intro _)

theorem serveHolding_frame {ks : List Fld} {a : Module} {m : Module} {k : Nat}
    (hf : SameBut ks a m) (hs : Within [.start, .ras, .mem, .fns, .parts, .fabParts, .slots, .clusters, .cores, .nodes, .hedgeOut, .fabric,
        .xfers, .netOut, .freeCtr] ks) : SameBut ks a (serveHolding m k) := by
  unfold serveHolding
  repeat' (first
    | with_reducible exact hf
    | with_reducible assumption
    | with_reducible exact SameBut.refl _ _
    | extract_lets
    | with_reducible apply SameBut.ite
    | with_reducible apply Module.setClu_frame
    | with_reducible apply foldM_frame
    | with_reducible apply doReplacement_frame
    | with_reducible apply resumeLoads_frame
    | split
    | exact fun x hx => hs x (by revert x; decide +kernel)
    | intro _)

theorem powerReturns_frame {k : List Fld} {a : Module} {m : Module}
    (hf : SameBut k a m) (hs : Within [.tick, .start, .power, .fns, .parts, .fabParts, .slots, .cores, .nodes, .hedgeOut, .fabric, .netOut,
        .sb, .freeCtr] k) : SameBut k a (powerReturns m) := by
  unfold powerReturns
  repeat' (first
    | with_reducible exact hf
    | with_reducible assumption
    | with_reducible exact SameBut.refl _ _
    | extract_lets
    | with_reducible apply SameBut.ite
    | with_reducible apply Module.setPower_frame
    | with_reducible apply setLimit_frame
    | with_reducible apply applyHeld_frame
    | split
    | exact fun x hx => hs x (by revert x; decide +kernel))

theorem fwReturnFn_frame {k : List Fld} {a : Module} {proc : Nat} {m : Module}
    (hf : SameBut k a m) (hs : Within [.tick, .start, .power, .fw, .activation, .flash, .sec, .ras, .mem, .fns, .parts, .fabParts, .slots,
        .clusters, .cores, .nodes, .hedgeOut, .hostOut, .fabric, .xfers, .eth, .netOut, .sb, .freeCtr] k) : SameBut k a (fwReturnFn proc m)
        := by
  unfold fwReturnFn
  repeat' (first
    | with_reducible exact hf
    | with_reducible assumption
    | with_reducible exact SameBut.refl _ _
    | extract_lets
    | with_reducible apply SameBut.ite
    | with_reducible apply Module.setProc_frame
    | with_reducible apply raise_frame
    | with_reducible apply dispatchAll_frame
    | with_reducible apply advanceActivation_frame
    | with_reducible apply serveWaiting_frame
    | with_reducible apply serveHolding_frame
    | with_reducible apply powerReturns_frame
    | split
    | exact fun x hx => hs x (by revert x; decide +kernel))

theorem noRegister_frame {k : List Fld} {a : Module} {m : Module} {fn block off : Nat}
    (hf : SameBut k a m) (hs : Within [.start, .fns, .nodes, .hedgeOut] k) : SameBut k a (noRegister m fn block off) := by
  unfold noRegister
  repeat' (first
    | with_reducible exact hf
    | with_reducible assumption
    | with_reducible exact SameBut.refl _ _
    | extract_lets
    | with_reducible apply SameBut.ite
    | with_reducible apply busError_frame)

theorem setSel_frame {k : List Fld} {a : Module} {m : Module} {fn : Nat} {g : Selects → Selects}
    (hf : SameBut k a m) (hs : Within [.fns] k) : SameBut k a (setSel m fn g) := by
  unfold setSel
  repeat' (first
    | with_reducible exact hf
    | with_reducible assumption
    | with_reducible exact SameBut.refl _ _
    | extract_lets
    | with_reducible apply SameBut.ite
    | with_reducible apply Module.setFn_frame)

theorem partSelect_frame {k : List Fld} {a : Module} {m : Module} {fn : Nat} {g : Selects → Selects}
    (hf : SameBut k a m) (hs : Within [.fns] k) : SameBut k a (partSelect m fn g) := by
  unfold partSelect
  repeat' (first
    | with_reducible exact hf
    | with_reducible assumption
    | with_reducible exact SameBut.refl _ _
    | extract_lets
    | with_reducible apply SameBut.ite
    | with_reducible apply setSel_frame)

theorem writeWideWord_frame {k : List Fld} {a : Module} {m : Module} {fn i : Nat} {w : Word}
    (hf : SameBut k a m) (hs : Within [.fns] k) : SameBut k a (writeWideWord m fn i w) := by
  unfold writeWideWord
  repeat' (first
    | with_reducible exact hf
    | with_reducible assumption
    | with_reducible exact SameBut.refl _ _
    | extract_lets
    | with_reducible apply SameBut.ite
    | with_reducible apply Module.setFn_frame)

theorem writeMsix_frame {k : List Fld} {a : Module} {m : Module} {fn vec i : Nat} {w : Word}
    (hf : SameBut k a m) (hs : Within [.fns, .hostOut] k) : SameBut k a (writeMsix m fn vec i w) := by
  unfold writeMsix
  repeat' (first
    | with_reducible exact hf
    | with_reducible assumption
    | with_reducible exact SameBut.refl _ _
    | extract_lets
    | with_reducible apply SameBut.ite
    | with_reducible apply Module.setFn_frame
    | with_reducible apply sendMsix_frame
    | split
    | exact fun x hx => hs x (by revert x; decide +kernel))

theorem writeHif_frame {k : List Fld} {a : Module} {m : Module} {fn off : Nat} {w : Word}
    (hf : SameBut k a m) (hs : Within [.start, .power, .ras, .mem, .pool, .fns, .parts, .fabParts, .slots, .cores, .nodes, .hedgeOut,
        .hostOut, .eth, .freeCtr] k) : SameBut k a (writeHif m fn off w) := by
  unfold writeHif
  repeat' (first
    | with_reducible exact hf
    | with_reducible assumption
    | with_reducible exact SameBut.refl _ _
    | extract_lets
    | with_reducible apply SameBut.ite
    | with_reducible apply Module.setFn_frame
    | with_reducible apply fnPartWrite_frame
    | with_reducible apply wideReadFn_frame
    | with_reducible apply wideCommitFn_frame
    | with_reducible apply noRegister_frame
    | with_reducible apply setSel_frame
    | with_reducible apply writeWideWord_frame
    | with_reducible apply writeMsix_frame
    | split
    | exact fun x hx => hs x (by revert x; decide +kernel))

theorem writeRing_frame {k : List Fld} {a : Module} {m : Module} {fn off : Nat} {w : Word}
    (hf : SameBut k a m) (hs : Within [.start, .fns, .fabParts, .nodes, .hedgeOut, .freeCtr] k) : SameBut k a (writeRing m fn off w) := by
  unfold writeRing
  repeat' (first
    | with_reducible exact hf
    | with_reducible assumption
    | with_reducible exact SameBut.refl _ _
    | extract_lets
    | with_reducible apply SameBut.ite
    | with_reducible apply Module.setRing_frame
    | with_reducible apply refuseRing_frame
    | with_reducible apply ringSqCfgWriteFn_frame
    | with_reducible apply ringCqCfgWriteFn_frame
    | with_reducible apply noRegister_frame
    | with_reducible apply setSel_frame
    | split
    | exact fun x hx => hs x (by revert x; decide +kernel))

theorem writeTick_frame {k : List Fld} {a : Module} {m : Module} {fn off : Nat} {w : Word}
    (hf : SameBut k a m) (hs : Within [.tick, .start, .power, .fns, .parts, .fabParts, .slots, .nodes, .hedgeOut, .fabric, .freeCtr] k) :
        SameBut k a (writeTick m fn off w) := by
  unfold writeTick
  repeat' (first
    | with_reducible exact hf
    | with_reducible assumption
    | with_reducible exact SameBut.refl _ _
    | extract_lets
    | with_reducible apply SameBut.ite
    | with_reducible apply Module.setTick_frame
    | with_reducible apply taArrives_frame
    | with_reducible apply noRegister_frame
    | split
    | exact fun x hx => hs x (by revert x; decide +kernel))

theorem writePwr_frame {k : List Fld} {a : Module} {m : Module} {fn off : Nat} {w : Word}
    (hf : SameBut k a m) (hs : Within [.tick, .start, .power, .fns, .parts, .fabParts, .slots, .nodes, .hedgeOut, .fabric, .freeCtr] k) :
        SameBut k a (writePwr m fn off w) := by
  unfold writePwr
  repeat' (first
    | with_reducible exact hf
    | with_reducible assumption
    | with_reducible exact SameBut.refl _ _
    | extract_lets
    | with_reducible apply SameBut.ite
    | with_reducible apply Module.setPower_frame
    | with_reducible apply taArrives_frame
    | with_reducible apply noRegister_frame
    | split
    | exact fun x hx => hs x (by revert x; decide +kernel))

theorem writeSec_frame {k : List Fld} {a : Module} {m : Module} {fn off : Nat} {w : Word}
    (hf : SameBut k a m) (hs : Within [.start, .fns, .nodes, .hedgeOut] k) : SameBut k a (writeSec m fn off w) := by
  unfold writeSec
  repeat' (first
    | with_reducible exact hf
    | with_reducible assumption
    | with_reducible exact SameBut.refl _ _
    | extract_lets
    | with_reducible apply SameBut.ite
    | with_reducible apply noRegister_frame
    | with_reducible apply setSel_frame
    | split
    | exact fun x hx => hs x (by revert x; decide +kernel))

theorem writeFw_frame {k : List Fld} {a : Module} {m : Module} {fn off : Nat} {w : Word}
    (hf : SameBut k a m) (hs : Within [.start, .fw, .fwBadWrite, .ras, .fns, .parts, .fabParts, .slots, .clusters, .cores, .nodes,
        .hedgeOut, .fabric, .xfers, .netOut, .freeCtr] k) : SameBut k a (writeFw m fn off w) := by
  unfold writeFw
  repeat' (first
    | with_reducible exact hf
    | with_reducible assumption
    | with_reducible exact SameBut.refl _ _
    | extract_lets
    | with_reducible apply SameBut.ite
    | with_reducible apply refuseFw_frame
    | with_reducible apply fwCtrlRestartFn_frame
    | with_reducible apply noRegister_frame
    | with_reducible apply setSel_frame
    | split
    | exact fun x hx => hs x (by revert x; decide +kernel)
    | intro _
    | dsimp only
    | with_reducible apply SameBut.with_fwBadWrite)

theorem writeRas_frame {k : List Fld} {a : Module} {m : Module} {fn off : Nat} {w : Word}
    (hf : SameBut k a m) (hs : Within [.start, .power, .flash, .ras, .fns, .parts, .fabParts, .slots, .clusters, .cores, .nodes, .hedgeOut,
        .fabric, .xfers, .netOut, .freeCtr] k) : SameBut k a (writeRas m fn off w) := by
  unfold writeRas
  repeat' (first
    | with_reducible exact hf
    | with_reducible assumption
    | with_reducible exact SameBut.refl _ _
    | extract_lets
    | with_reducible apply SameBut.ite
    | with_reducible apply Module.setRas_frame
    | with_reducible apply refuseRas_frame
    | with_reducible apply rasFenceFn_frame
    | with_reducible apply noRegister_frame
    | split
    | exact fun x hx => hs x (by revert x; decide +kernel))

theorem setEthCfg_frame {k : List Fld} {a : Module} {m : Module} {port v : Nat}
    (hf : SameBut k a m) (hs : Within [.start, .power, .fns, .fabParts, .nodes, .hedgeOut, .eth, .freeCtr] k) : SameBut k a (setEthCfg m
        port v) := by
  unfold setEthCfg
  repeat' (first
    | with_reducible exact hf
    | with_reducible assumption
    | with_reducible exact SameBut.refl _ _
    | extract_lets
    | with_reducible apply SameBut.ite
    | with_reducible apply Module.setEth_frame
    | with_reducible apply refreshDomains_frame
    | with_reducible apply ethLinkDownFn_frame
    | split
    | exact fun x hx => hs x (by revert x; decide +kernel))

theorem writeEth_frame {k : List Fld} {a : Module} {m : Module} {fn off : Nat} {w : Word}
    (hf : SameBut k a m) (hs : Within [.start, .power, .fns, .fabParts, .nodes, .hedgeOut, .eth, .freeCtr] k) : SameBut k a (writeEth m fn
        off w) := by
  unfold writeEth
  repeat' (first
    | with_reducible exact hf
    | with_reducible assumption
    | with_reducible exact SameBut.refl _ _
    | extract_lets
    | with_reducible apply SameBut.ite
    | with_reducible apply Module.setEth_frame
    | with_reducible apply refuse_frame
    | with_reducible apply noRegister_frame
    | with_reducible apply setSel_frame
    | with_reducible apply setEthCfg_frame
    | split
    | exact fun x hx => hs x (by revert x; decide +kernel)
    | intro _)

theorem refuseMem_frame {k : List Fld} {a : Module} {m : Module} {p off : Nat}
    (hf : SameBut k a m) (hs : Within [.start, .fns, .parts, .nodes, .hedgeOut] k) : SameBut k a (refuseMem m p off) := by
  unfold refuseMem
  repeat' (first
    | with_reducible exact hf
    | with_reducible assumption
    | with_reducible exact SameBut.refl _ _
    | extract_lets
    | with_reducible apply SameBut.ite
    | with_reducible apply Module.setMemRegs_frame
    | with_reducible apply refuse_frame
    | split
    | exact fun x hx => hs x (by revert x; decide +kernel)
    | intro _)

theorem memKeep_frame {k : List Fld} {a : Module} {m m' : Module} {p off : Nat} {ok : Bool}
    (hf : SameBut k a m) (hs : Within [.start, .fns, .parts, .nodes, .hedgeOut] k) (hf2 : SameBut k a m') : SameBut k a (memKeep m m' p off
        ok) := by
  unfold memKeep
  repeat' (first
    | with_reducible exact hf
    | with_reducible assumption
    | with_reducible exact SameBut.refl _ _
    | extract_lets
    | with_reducible apply SameBut.ite
    | with_reducible apply refuseMem_frame)

theorem writeMemPart_frame {k : List Fld} {a : Module} {m : Module} {fn off : Nat} {w : Word}
    (hf : SameBut k a m) (hs : Within [.start, .fns, .parts, .nodes, .hedgeOut] k) : SameBut k a (writeMemPart m fn off w) := by
  unfold writeMemPart
  repeat' (first
    | with_reducible exact hf
    | with_reducible assumption
    | with_reducible exact SameBut.refl _ _
    | extract_lets
    | with_reducible apply SameBut.ite
    | with_reducible apply Module.setMemRegs_frame
    | with_reducible apply noRegister_frame
    | with_reducible apply refuseMem_frame
    | with_reducible apply memKeep_frame
    | split
    | exact fun x hx => hs x (by revert x; decide +kernel))

theorem writeMem_frame {k : List Fld} {a : Module} {m : Module} {fn off : Nat} {w : Word}
    (hf : SameBut k a m) (hs : Within [.start, .fns, .parts, .nodes, .hedgeOut] k) : SameBut k a (writeMem m fn off w) := by
  unfold writeMem
  repeat' (first
    | with_reducible exact hf
    | with_reducible assumption
    | with_reducible exact SameBut.refl _ _
    | extract_lets
    | with_reducible apply SameBut.ite
    | with_reducible apply partSelect_frame
    | with_reducible apply writeMemPart_frame
    | split
    | exact fun x hx => hs x (by revert x; decide +kernel))

theorem fabRankWrite_frame {k : List Fld} {a : Module} {m : Module} {p v : Nat}
    (hf : SameBut k a m) (hs : Within [.start, .fns, .fabParts, .nodes, .hedgeOut] k) : SameBut k a (fabRankWrite m p v) := by
  unfold fabRankWrite
  repeat' (first
    | with_reducible exact hf
    | with_reducible assumption
    | with_reducible exact SameBut.refl _ _
    | extract_lets
    | with_reducible apply SameBut.ite
    | with_reducible apply Module.setFab_frame
    | with_reducible apply refuseFab_frame
    | split
    | exact fun x hx => hs x (by revert x; decide +kernel))

theorem writeFab_frame {k : List Fld} {a : Module} {m : Module} {fn off : Nat} {w : Word}
    (hf : SameBut k a m) (hs : Within [.start, .fns, .parts, .fabParts, .nodes, .hedgeOut, .fabric] k) : SameBut k a (writeFab m fn off w)
        := by
  unfold writeFab
  repeat' (first
    | with_reducible exact hf
    | with_reducible assumption
    | with_reducible exact SameBut.refl _ _
    | extract_lets
    | with_reducible apply SameBut.ite
    | with_reducible apply Module.setFab_frame
    | with_reducible apply Module.setFabric_frame
    | with_reducible apply refuseFabric_frame
    | with_reducible apply retrainFn_frame
    | with_reducible apply fabJobWrite_frame
    | with_reducible apply noRegister_frame
    | with_reducible apply setSel_frame
    | with_reducible apply partSelect_frame
    | with_reducible apply fabRankWrite_frame
    | split
    | exact fun x hx => hs x (by revert x; decide +kernel))

theorem writePartRw_frame {k : List Fld} {a : Module} {m : Module} {p off v : Nat}
    (hf : SameBut k a m) (hs : Within [.start, .fns, .parts, .nodes, .hedgeOut] k) : SameBut k a (writePartRw m p off v) := by
  unfold writePartRw
  repeat' (first
    | with_reducible exact hf
    | with_reducible assumption
    | with_reducible exact SameBut.refl _ _
    | extract_lets
    | with_reducible apply SameBut.ite
    | with_reducible apply Module.setRegs_frame
    | with_reducible apply refuse_frame
    | with_reducible apply refusePart_frame
    | split
    | exact fun x hx => hs x (by revert x; decide +kernel)
    | intro _)

theorem writePart_frame {k : List Fld} {a : Module} {m : Module} {fn off : Nat} {w : Word}
    (hf : SameBut k a m) (hs : Within [.tick, .start, .power, .sec, .ras, .mem, .fns, .parts, .fabParts, .slots, .clusters, .cores, .nodes,
        .hedgeOut, .hostOut, .fabric, .xfers, .freeCtr] k) : SameBut k a (writePart m fn off w) := by
  unfold writePart
  repeat' (first
    | with_reducible exact hf
    | with_reducible assumption
    | with_reducible exact SameBut.refl _ _
    | extract_lets
    | with_reducible apply SameBut.ite
    | with_reducible apply busError_frame
    | with_reducible apply taArrives_frame
    | with_reducible apply partCfgWriteFn_frame
    | with_reducible apply partCtrlWrite_frame
    | with_reducible apply noRegister_frame
    | with_reducible apply partSelect_frame
    | with_reducible apply writePartRw_frame
    | split
    | exact fun x hx => hs x (by revert x; decide +kernel))

theorem setLarkSize_frame {k : List Fld} {a : Module} {m : Module} {p n : Nat}
    (hf : SameBut k a m) (hs : Within [.start, .mem, .fns, .parts, .fabParts, .nodes, .hedgeOut, .freeCtr] k) : SameBut k a (setLarkSize m
        p n).1 := by
  unfold setLarkSize
  repeat' (first
    | with_reducible exact hf
    | with_reducible assumption
    | with_reducible exact SameBut.refl _ _
    | extract_lets
    | with_reducible apply SameBut.ite
    | with_reducible apply Module.setLark_frame
    | with_reducible apply moveRing_frame
    | (refine SameBut.fst (by assumption) (show SameBut _ _ (_ : _ × _).1 from moveRing_frame ?_ ?_))
    | split
    | exact fun x hx => hs x (by revert x; decide +kernel))

theorem writeLark_frame {k : List Fld} {a : Module} {m : Module} {fn off : Nat} {w : Word}
    (hf : SameBut k a m) (hs : Within [.tick, .start, .power, .mem, .fns, .parts, .fabParts, .slots, .nodes, .hedgeOut, .fabric, .freeCtr]
        k) : SameBut k a (writeLark m fn off w) := by
  unfold writeLark
  repeat' (first
    | with_reducible exact hf
    | with_reducible assumption
    | with_reducible exact SameBut.refl _ _
    | extract_lets
    | with_reducible apply SameBut.ite
    | with_reducible apply Module.setLark_frame
    | with_reducible apply refuse_frame
    | with_reducible apply taArrives_frame
    | with_reducible apply noRegister_frame
    | with_reducible apply partSelect_frame
    | with_reducible apply setLarkSize_frame
    | (refine SameBut.fst (by assumption) (show SameBut _ _ (_ : _ × _).1 from setLarkSize_frame ?_ ?_))
    | split
    | exact fun x hx => hs x (by revert x; decide +kernel)
    | intro _)

theorem writeBlock_frame {k : List Fld} {a : Module} {m : Module} {fn block off : Nat} {w : Word}
    (hf : SameBut k a m) (hs : Within [.tick, .start, .power, .fw, .fwBadWrite, .flash, .sec, .ras, .mem, .pool, .fns, .parts, .fabParts,
        .slots, .clusters, .cores, .nodes, .hedgeOut, .hostOut, .fabric, .xfers, .eth, .netOut, .freeCtr] k) : SameBut k a (writeBlock m fn
        block off w) := by
  unfold writeBlock
  repeat' (first
    | with_reducible exact hf
    | with_reducible assumption
    | with_reducible exact SameBut.refl _ _
    | extract_lets
    | with_reducible apply SameBut.ite
    | with_reducible apply noRegister_frame
    | with_reducible apply writeHif_frame
    | with_reducible apply writeRing_frame
    | with_reducible apply writeTick_frame
    | with_reducible apply writePwr_frame
    | with_reducible apply writeSec_frame
    | with_reducible apply writeFw_frame
    | with_reducible apply writeRas_frame
    | with_reducible apply writeEth_frame
    | with_reducible apply writeMem_frame
    | with_reducible apply writeFab_frame
    | with_reducible apply writePart_frame
    | with_reducible apply writeLark_frame
    | split
    | exact fun x hx => hs x (by revert x; decide +kernel))

theorem writeWindow_frame {ks : List Fld} {a : Module} {m : Module} {fn k off : Nat} {w : Word}
    (hf : SameBut ks a m) (hs : Within [.start, .fns, .clusters, .nodes, .hedgeOut] ks) : SameBut ks a (writeWindow m fn k off w) := by
  unfold writeWindow
  repeat' (first
    | with_reducible exact hf
    | with_reducible assumption
    | with_reducible exact SameBut.refl _ _
    | extract_lets
    | with_reducible apply SameBut.ite
    | with_reducible apply busError_frame
    | with_reducible apply windowWrite_frame
    | with_reducible apply cluCntCtrlFn_frame
    | with_reducible apply cluCntClrFn_frame
    | split
    | exact fun x hx => hs x (by revert x; decide +kernel)
    | intro _)

theorem writeBar0_frame {k : List Fld} {m₀ : Module} {m : Module} {fn a : Nat} {w : Word}
    (hf : SameBut k m₀ m) (hs : Within [.tick, .start, .power, .fw, .fwBadWrite, .flash, .sec, .ras, .mem, .pool, .fns, .parts, .fabParts,
        .slots, .clusters, .cores, .nodes, .hedgeOut, .hostOut, .fabric, .xfers, .eth, .netOut, .freeCtr] k) : SameBut k m₀ (writeBar0 m fn
        a w) := by
  unfold writeBar0
  repeat' (first
    | with_reducible exact hf
    | with_reducible assumption
    | with_reducible exact SameBut.refl _ _
    | extract_lets
    | with_reducible apply SameBut.ite
    | with_reducible apply busError_frame
    | with_reducible apply regWrite_frame
    | with_reducible apply writeBlock_frame
    | with_reducible apply writeWindow_frame
    | split
    | exact fun x hx => hs x (by revert x; decide +kernel)
    | intro _)

theorem bar0Write_frame {k : List Fld} {a : Module} {m : Module} {fn off : Nat} {data : List Byte} {enables : List Bool}
    (hf : SameBut k a m) (hs : Within [.tick, .start, .power, .fw, .fwBadWrite, .flash, .sec, .ras, .mem, .pool, .fns, .parts, .fabParts,
        .slots, .clusters, .cores, .nodes, .hedgeOut, .hostOut, .fabric, .xfers, .eth, .netOut, .freeCtr] k) : SameBut k a (bar0Write m fn
        off data enables) := by
  unfold bar0Write
  repeat' (first
    | with_reducible exact hf
    | with_reducible assumption
    | with_reducible exact SameBut.refl _ _
    | extract_lets
    | with_reducible apply SameBut.ite
    | with_reducible apply busError_frame
    | with_reducible apply writeBar0_frame
    | split
    | exact fun x hx => hs x (by revert x; decide +kernel))

theorem writeBar2_frame {k : List Fld} {m₀ : Module} {m : Module} {fn a : Nat} {w : Word}
    (hf : SameBut k m₀ m) (hs : Within [.start, .fns, .nodes, .hedgeOut] k) : SameBut k m₀ (writeBar2 m fn a w) := by
  unfold writeBar2
  repeat' (first
    | with_reducible exact hf
    | with_reducible assumption
    | with_reducible exact SameBut.refl _ _
    | extract_lets
    | with_reducible apply SameBut.ite
    | with_reducible apply busError_frame
    | with_reducible apply sqDoorbellFn_frame
    | with_reducible apply cqDoorbellFn_frame
    | split
    | exact fun x hx => hs x (by revert x; decide +kernel))

theorem bar2Write_frame {k : List Fld} {a : Module} {m : Module} {fn off : Nat} {data : List Byte} {enables : List Bool}
    (hf : SameBut k a m) (hs : Within [.start, .fns, .nodes, .hedgeOut] k) : SameBut k a (bar2Write m fn off data enables) := by
  unfold bar2Write
  repeat' (first
    | with_reducible exact hf
    | with_reducible assumption
    | with_reducible exact SameBut.refl _ _
    | extract_lets
    | with_reducible apply SameBut.ite
    | with_reducible apply busError_frame
    | with_reducible apply writeBar2_frame)

theorem bar4Write_frame {k : List Fld} {a : Module} {m : Module} {fn off : Nat} {data : List Byte} {enables : List Bool}
    (hf : SameBut k a m) (hs : Within [.start, .fns, .nodes, .hedgeOut] k) : SameBut k a (bar4Write m fn off data enables) := by
  unfold bar4Write
  repeat' (first
    | with_reducible exact hf
    | with_reducible assumption
    | with_reducible exact SameBut.refl _ _
    | extract_lets
    | with_reducible apply SameBut.ite
    | with_reducible apply Module.setFn_frame
    | with_reducible apply busError_frame
    | with_reducible apply foldM_frame
    | with_reducible apply listFoldl_frame
    | split
    | exact fun x hx => hs x (by revert x; decide +kernel))

theorem registerWriteFn_frame {k : List Fld} {a : Module} {fn bar offset : Nat} {data : List Byte} {enables : List Bool} {m : Module}
    (hf : SameBut k a m) (hs : Within [.tick, .start, .power, .fw, .fwBadWrite, .flash, .sec, .ras, .mem, .pool, .fns, .parts, .fabParts,
        .slots, .clusters, .cores, .nodes, .hedgeOut, .hostOut, .fabric, .xfers, .eth, .netOut, .freeCtr] k) : SameBut k a (registerWriteFn
        fn bar offset data enables m) := by
  unfold registerWriteFn
  repeat' (first
    | with_reducible exact hf
    | with_reducible assumption
    | with_reducible exact SameBut.refl _ _
    | extract_lets
    | with_reducible apply SameBut.ite
    | with_reducible apply bar0Write_frame
    | with_reducible apply bar2Write_frame
    | with_reducible apply bar4Write_frame
    | split
    | exact fun x hx => hs x (by revert x; decide +kernel))

theorem regRead_frame {k : List Fld} {m₀ : Module} {m : Module} {fn a n : Nat}
    (hf : SameBut k m₀ m) (hs : Within [.fns] k) : SameBut k m₀ (regRead m fn a n).1 := by
  unfold regRead
  repeat' (first
    | with_reducible exact hf
    | with_reducible assumption
    | with_reducible exact SameBut.refl _ _
    | extract_lets
    | with_reducible apply SameBut.ite
    | with_reducible apply Module.setFn_frame
    | split)

end Sys2Proof.Machine
end

