-- ==== Sys2Proof/Tests/Slice0.lean ====
section
/-! SUPPORT. The model's own tests: ill-formed terms that the checks refuse, single steps with values worked out by hand from the
manual, and for every clause with hypotheses a state and operands that meet them all. -/

set_option maxRecDepth 4000
set_option Elab.async false

namespace Sys2Proof.Tests

open Sys2Proof Sys2Proof.Machine

/-! ### Small states -/

/-- The state of a module. -/
def st (m : Module) : State := { m := m }
/-- Power on, the always-on domain out of reset. -/
def onW : Power := { dark := false, domains := BitVec.allOnes 2662 }
/-- A module that is READY with its host link up. -/
def upM : Module := { power := onW, start := { stage := 11, ready := true, ringUp := true, linkUp := true, perst := false, refclk := true } }
/-- The start at the end of a stage. -/
def atM (n : Nat) : Module := { power := onW, start := { stage := n } }
/-- A module whose PF0 has rung messages up to MSN 9. -/
def upMsg : Module := { upM with fns := SMap.put {} 0 { mrqTail := 9 } }
/-- A READY module one of whose processors is in a state. -/
def upProc (p : Nat) (y : FwProc) : Module := { upM with fw := SMap.put {} p y }
/-- A READY module whose PF0 has selected by its select registers. -/
def upSel (x : Selects) : Module := { upM with fns := SMap.put {} 0 { sel := x } }
/-- A READY swath. -/
def fabLoadW : Swath := { id := 7, ready := true }
/-- A module with a fabric program of no descriptor in partition 3, bound to PF0, and a READY swath 7. -/
def fabLoadM : Module := { upM with
  fns := SMap.put {} 0 { mrqTail := 9, bound := true, part := 3 }
  parts := SMap.put {} 3 { mem := { rangePages := 1 }, swaths := [fabLoadW], range := Mem.wr (Mem.wr [] 0 6 0x15A540C0D) 8 8 7 } }
/-- FAB_LOAD of that program. -/
def fabLoadMsg : MgmtMsg := { msn := 1, mcode := 0x210, body := leBytes 7 8 ++ leBytes 0 8 ++ leBytes 128 4 ++ leBytes 0 4 ++ leBytes 0x1000 8 }
/-- A READY module with a load of two chunks of 64 bytes running on ring 2 of PF0 in partition 3, over QP 5 of port 1. -/
def ethM : Module := { upM with
  fns := SMap.put {} 0 { bound := true, part := 3, rings := SMap.put {} 2 { items := [{ ref := ⟨0, 2, 9⟩, opcode := 5, desc := 0, st := .running }] } }
  parts := SMap.put {} 3 { mem := { rangePages := 1 } }
  eth := SMap.put {} 1 { en := true, linkUp := true, qps := SMap.put {} 5 (some { reads := [(⟨0, 2, 9⟩, 0, 128)] }) } }
/-- A READY module whose ring 2 of PF0 is in a state. -/
def upRing (r : Ringp) : Module := { upM with fns := SMap.put {} 0 { rings := SMap.put {} 2 r } }
/-- A completion that waits for item 9 of ring 2 of PF0. -/
def waiter : Waiting := { ref := ⟨0, 2, 9⟩, tag := 5, status := .done, detail := .val 0 }
/-- A running MOVE of KIND 2, item 9 of ring 2 of PF0. -/
def hostReadItem : Item := { ref := ⟨0, 2, 9⟩, opcode := opMove, desc := 2 * 2 ^ 192, st := .running }
/-- A READY manager. -/
def upMgr : Module := { upM with tick := { role := .manager, sync := .locked } }
/-- Item 9 of ring 2 of PF0, dispatched, with opcode-specific bytes from offset 0x18 on. -/
def itm (op d : Nat) : Item := { ref := ⟨0, 2, 9⟩, opcode := op, desc := BitVec.ofNat 512 (d * 2 ^ 192), st := .dispatched }
/-- A READY module with items on ring 2 of PF0, bound to partition 3. -/
def upItems (l : List Item) : Module := { upM with
  fns := SMap.put {} 0 { bound := true, part := 3, rings := SMap.put {} 2 { items := l, sqEn := true, sqNext := 10 } }
  parts := SMap.put {} 3 { mem := { rangePages := 1 } } }
/-- A request that the ADMIT item 5 of ring 2 of PF0 made. -/
def req5 (x : ReqState) : Request := { part := 3, fn := 0, ring := 2, ssn := 5, st := x }
/-- The module with that request in slot 4. -/
def upReq (x : ReqState) (l : List Item) : Module := { upItems l with slots := SMap.put {} 4 (some (req5 x)) }
/-- The serving record of model 7. -/
def serveRec : Serving :=
  { draft := false, draftMax := 0, modelId := 7, tokensMax := 64, reqMax := 8, vocab := 100, maxContext := 64, pageBytes := 2097152
    cachePages := 1, cacheBase := 0, draftModel := 0, stepTable := 0, resultTable := 0, tableBytes := 0, eos := [] }
/-- A partition with a READY swath of that model. -/
def servePart : Part :=
  { mem := { rangePages := 4, quota := SMap.put {} 0 8 }, regs := { srvQuota := 4 }
    swaths := [{ id := 7, model := 7, ready := true, serving := some serveRec }] }
/-- A request block of model 7: a prompt of one token, one new token, TEMP 0, TOP_P 1, TOP_K 1. -/
def admitBlock : List Byte :=
  leBytes 7 8 ++ leBytes 0 16 ++ leBytes 1 4 ++ leBytes 1 4 ++ leBytes 0 28 ++ leBytes 0x3F800000 4 ++ leBytes 1 1 ++ leBytes 0 63
/-- The module that takes it. -/
def admitM : Module := regTake { upItems [itm opAdmit 0] with parts := SMap.put {} 3 servePart } 3 4 3
/-- What the block asks for. -/
def admitAsked : Asked := (askedOf admitM ⟨0, 2, 9⟩ (itm opAdmit 0) 3 admitBlock [5] serveRec).getD { q := {}, pages := 0 }
/-- What it reserves. -/
def admitTaken : Option (SMap Nat 0 × Module) := reserve admitM 3 (firstTierOf admitM 3) admitAsked.pages
/-- A module with an item on ring 2 of PF0 and a partition 3. -/
def upPart (p : Part) (l : List Item) : Module := { upItems l with parts := SMap.put {} 3 p }
/-- The numbers written into a memory: address, bytes, value. -/
def wrAll (l : List (Nat × Nat × Nat)) : Mem := l.foldl (fun b x => b.wr x.1 x.2.1 x.2.2) []
/-- A range with a one-core image at 0, its schedule at 0x10_0000 and a load list of one entry at 0x18_0000. -/
def loadRange : Mem := wrAll
  [(0, 6, 0x15A540C07), (8, 1, 9), (0x19, 3, 0x101), (0x1C, 1, 1), (0x2C, 1, 1), (0x30, 2, 0x1000), (0x38, 4, 0x10000),
    (0x1000, 1, 1), (0x18002, 1, 0xFF), (0x18042, 1, 0xFF), (0x18082, 1, 0xFF), (0x180C2, 1, 0xFF), (0x18102, 1, 0xFF),
    (0x18142, 1, 0xFF), (0x18182, 1, 0xFF), (0x181C2, 1, 0xFF), (0x1B001, 1, 0xE4), (0x100000, 6, 0x15A540C08),
    (0x100008, 1, 9), (0x180008, 4, 0x100000), (0x180018, 4, 0x190000), (0x180028, 4, 0x20000)]
/-- The LOAD_SWATH of that list. -/
def loadItem : Item := itm opLoadSwath (1 * 2 ^ 64 + 0x180000)
/-- The module that takes it. -/
def loadM : Module := upPart { mem := { rangePages := 4 }, range := loadRange } [loadItem]
/-- A range with a manifest of one chunk of 64 bytes at 0: one layer, model 7. -/
def manifestRange : Mem :=
  Mem.wr (Mem.wr (Mem.wr (Mem.wr (Mem.wr [] 0 8 0x100015A540C11) 8 8 7) 0x10 4 0x100000) 0x14 4 1) 0x18 8 64
/-- Its LOAD_WEIGHTS from host memory to 0x20_0000. -/
def weightItem : Item := itm opLoadWeights (64 * 2 ^ 256 + 0xFF * 2 ^ 200 + 0x200000 * 2 ^ 64)
/-- That range with a storage read block of port 0 and queue pair 5 at 0x10_0000, and the LOAD_WEIGHTS that names it. -/
def ethRange : Mem := Mem.wr (Mem.wr manifestRange 0x100000 4 0x5A540C0E) 0x100004 2 5
def ethWeightItem : Item := itm opLoadWeights (64 * 2 ^ 256 + 0xFF * 2 ^ 200 + 1 * 2 ^ 192 + 0x100000 * 2 ^ 128 + 0x200000 * 2 ^ 64)
/-- A manifest of two chunks of 64 bytes at 0. -/
def twoChunks : Mem := Mem.wr (Mem.wr (Mem.wr [] 0x10 4 64) 0x14 4 2) 0x18 8 128
/-- A SWAP_WEIGHTS of 64 bytes from 0x20_0000 to 0x40_0000. -/
def swapItem : Item := itm opSwap (64 * 2 ^ 256 + 0x400000 * 2 ^ 192 + 0x200000 * 2 ^ 128)
/-- Its swap, held. -/
def swap9 : Swap :=
  { item := ⟨0, 2, 9⟩, model := 0, manifest := 0, stage := 0x200000, target := 0x400000, bytes := 64, held := true }
/-- A test item: opcode, code, target, result address. -/
def testItem (op code t out : Nat) : Item := itm op (code + t * 2 ^ 32 + out * 2 ^ 64)
/-- The module with every core live. -/
def upLive (m : Module) : Module := { m with ras := { m.ras with liveMap := BitVec.allOnes 2560, liveCount := 2560 } }
/-- A slice record: 3D, 4 x 4 x 4, this module at (1, 0, 0). -/
def slice9 : SliceRec :=
  { rseq := 0, slice := 9, mode3 := true, dim := ⟨4, 4, 4⟩, at_ := ⟨1, 0, 0⟩, role := .standby, mgr := {}, linkEn := BitVec.allOnes 12 }
/-- A READY module with one fabric link in a state, in that slice. -/
def upLink (l : Nat) (k : Link) : Module := { upM with fabric := { links := SMap.put {} l k, slice := some slice9 } }
/-- A fabric program of one descriptor: SHIFT of 64-byte slots by 1, channel 0, at launch, no receive stream. -/
def shiftProg : FabProg :=
  { swath := 7, bytes := Mem.wr (Mem.wr (Mem.wr (Mem.wr (Mem.wr [] 0x10 4 1) 128 1 1) 132 2 1) 137 1 0xFF) 160 4 128 }
/-- A partition whose swath 7 runs a step, with that program. -/
def shiftPart : Part :=
  { mem := { rangePages := 4 }, swaths := [{ id := 7, model := 7, ready := true }], fabProgs := [shiftProg]
    step := some { tick := 0, launchNs := 0, runs := [{ run := 0, model := 7, index := 0 }], cores := [] } }
/-- The module of rank 1 of 4 of that job, open. -/
def shiftM : Module := { upM with
  parts := SMap.put {} 3 shiftPart
  fabParts := SMap.put {} 3 { job := 5, gen := 1, en := true, nranks := 4, rank := 1, map := [⟨0, 0, 0⟩, ⟨1, 0, 0⟩, ⟨2, 0, 0⟩, ⟨3, 0, 0⟩] }
  fabric := { links := SMap.put {} 0 { st := .up }, slice := some slice9 } }
/-- A READY manager that has armed the next boundary. -/
def armedM : Module := { upM with tick := { role := .manager, sync := .locked, armed := 9, due := [.leyCal false] } }
/-- A partition whose step of one drained run holds core 7. -/
def donePart : Part :=
  { swaths := [{ id := 7, model := 7, ready := true, cores := [7] }]
    step := some { tick := 0, launchNs := 0, runs := [{ run := 0, model := 7, index := 0, foldDone := true }], cores := [7] } }
/-- A decode entry of slot 4 at position 64. -/
def decodeEntry : SetEntry := { slot := 4, kind := 1, firstPos := 64, npos := 1, produce := 1, tokens := [] }
/-- Its request, in a step of model 7. -/
def decodeReq : Request :=
  { part := 3, fn := 0, ring := 2, ssn := 5, st := .running, model := 7, srv := some serveRec, maxNew := 9, outAddr := 4096
    prompt := List.replicate 8 5, inStep := some (7, 0, 64, 1), main := { mark := 64 } }
/-- The module whose scheduler has its results to process: one token, 42. -/
def resultM : Module := { upReq .running [] with
  slots := SMap.put {} 4 (some decodeReq)
  parts := SMap.put {} 3 { mem := { rangePages := 4 }, range := Mem.wr (Mem.wr [] 66 1 1) 80 4 42
                           results := [{ run := 0, model := 7, index := 0, entries := [decodeEntry] }] } }
/-- A plane of partition 3's swath 7 that is active. -/
def flowPlane (l : Nat) (b : Mem) : Plane := { st := .active, part := 3, swath := 7, logical := some l, bytes := b }
/-- Bindings: outbound queue 1 to queue 2 of logical core 1, queue 2 fed by queue 1 of logical core 0, pair 0 from queue 3 to queue 1,
run-list entry 0 is descriptor 0. -/
def flowBytes : Mem := wrAll
  [(0xB000, 1, 1), (0xB260, 1, 1), (0xB262, 2, 1), (0xB264, 1, 2), (0xB080, 1, 1), (0xB084, 1, 1), (0xB0A0, 1, 4), (0x8000, 4, 0x0000FF03),
    (0x8004, 4, 0x0FFFFFFF), (0x8012, 1, 1), (0xB004, 1, 1), (0xBC44, 1, 1), (0xB002, 2, 1), (0xB440, 4, 5), (0xB444, 1, 2), (0xB446, 2, 9), (0xB448, 2, 2)]
/-- Logical core 0 is core 7, logical core 1 is core 9, of a step of one run. -/
def flowMB (f : Mem) (a b : Core) : Module := { upM with
  parts := SMap.put {} 3
    { mem := { rangePages := 4 }, swaths := [{ id := 7, model := 7, ready := true, cores := [7, 9] }]
      step := some { tick := 0, launchNs := 0, runs := [{ run := 0, model := 7, index := 0 }], cores := [7, 9] } }
  cores := SMap.put (SMap.put {} 7 { a with planes := SMap.put {} 0 (flowPlane 0 f) })
    9 { b with planes := SMap.put {} 0 (flowPlane 1 f) } }
/-- The same with the bindings above. -/
def flowM (a b : Core) : Module := flowMB flowBytes a b
/-- A flit that is a whole bundle: a DATA header. -/
def flit1 : Flit := { data := 5, first := true, last := true }
/-- That running step. -/
def flowStep : PartStep := { tick := 0, launchNs := 0, runs := [{ run := 0, model := 7, index := 0 }], cores := [7, 9] }
/-- A vector engine that runs a handler: VL 3, m1 = 0b101, some lanes and scalars. -/
def veW : Ve :=
  { vl := 3, mask := SMap.put {} 1 5, sc := SMap.put (SMap.put {} 2 64) 3 0x3F800000, pc := 4
    v := SMap.put (SMap.put (SMap.put (SMap.put {} 64 0x40000000) 66 7) 128 0x3F800000) 130 9
    handler := some { inQ := 2, header := 5, outMask := 2, startCc := 0 } }
/-- Core 7 runs it. -/
def veM : Module := flowM { ve := veW } {}

/-- A narrow descriptor of two weight blocks in local store, one row; run-list entry 1 waits for ring 1. -/
def meBytes : Mem := flowBytes.overlay 0xA000 64 (wrAll [(1, 1, 0x33), (4, 2, 1), (6, 2, 1), (12, 4, 128), (16, 4, 0x4000), (20, 4, 0x8000)])
/-- Run list: entry 0 waits for ring 1, which queue 2 feeds. -/
def meWaitBytes : Mem := Mem.wr (Mem.wr (Mem.wr (Mem.wr flowBytes 0xBC41 1 1) 0xBC42 1 1) 0xBE62 2 1) 0xBE64 2 4
/-- A descriptor whose rows start from seeds of queue 2. -/
def meSeedBytes : Mem := flowBytes.overlay 0xA000 64 (wrAll [(1, 1, 0x33), (3, 1, 1), (4, 2, 1), (6, 2, 1), (12, 4, 128), (26, 1, 2)])
/-- Queue 2 is bound to the merge unit. -/
def meMergeBytes : Mem := Mem.wr (Mem.wr flowBytes 0xB080 1 3) 0xA019 1 4
/-- A bundle of a header and eight flits. -/
def bundle8 (h : BitVec 512) : List Flit := bundleFlits h (List.replicate 8 1)
/-- Header of a block record: row 0, block 0 of stream 0. -/
def recHeader (j : Nat) : BitVec 512 := flitOfWords fun i => if i = 0 then 0x20000000 else if i = 11 then j else 0
/-- A schedule of one entry: one FP32 word to local store 0x40 of logical core 0. -/
def tmSchedule (op lv t : Nat) : Mem := wrAll
  [(128, 1, op), (129, 1, lv), (132, 1, 0xE4), (136, 2, 1), (138, 2, 1), (140, 2, 1), (142, 2, 1), (152, 8, 0x40), (208, 4, 77),
    (216, 8, 1), (236, 1, t)]
/-- Its swath. -/
def tmSwath (op lv t : Nat) : Swath :=
  { id := 7, model := 7, ready := true, cores := [7, 9], groups := [0], need := [2], lclusters := [0], entries := 1
    schedule := tmSchedule op lv t }
/-- Its entry gated by queue 0 of core 7. -/
def gatedSwath : Swath := { tmSwath 1 0x20 0 with schedule := Mem.wr (tmSchedule 1 0x20 0) 133 1 1 }
/-- A module with that swath in partition 3 and streams on cluster 0. -/
def tmM (op lv t : Nat) (x : Part) (ss : SMap (Option Stream) none) : Module := { upM with
  parts := SMap.put {} 3 { x with swaths := [tmSwath op lv t] }
  clusters := SMap.put {} 0 { tm := ss } }
/-- A partition whose step of one run is due the release of its first fold. -/
def foldPart : Part :=
  { swaths := [{ id := 7, model := 7, ready := true, cores := [7] },
               { id := 8, model := 7, ready := true, cores := [7, 9], plane := 1, foldIndex := 1 }]
    step := some { tick := 0, launchNs := 0, runs := [{ run := 0, model := 7, index := 0, foldDone := true }], cores := [7, 9] } }
/-- A tick boundary in the queue is runnable. -/
theorem tick_runnable : Runnable { pending := [.tickBoundary], m := upM } := by
  intro c h
  rw [List.mem_singleton.mp h]
  exact ⟨rfl, nofun, fun _ _ _ _ _ => nofun⟩
/-- The VL of the witness engine is 3, of every other 64. -/
theorem veM_vlOk : VlOk veM := by
  intro c
  have h : ∀ k, k = 7 ∨ k = 9 ∨ (k ≠ 7 ∧ k ≠ 9) := by omega
  rcases h c with h | h | h
  · subst h; exact ⟨by decide +kernel, by rw [show (veM.core 7).ve.loops = [] by decide +kernel]; nofun⟩
  · subst h; exact ⟨by decide +kernel, by rw [show (veM.core 9).ve.loops = [] by decide +kernel]; nofun⟩
  · have e : veM.core c = {} := by
      show ((SMap.put (SMap.put {} 7 _) 9 _ : SMap Core {}).get c) = {}
      rw [SMap.get_put_other _ _ h.2, SMap.get_put_other _ _ h.1]; rfl
    rw [e]; exact ⟨by decide, by intro l hl; cases hl⟩

/-! ### Ill-formed commands are refused -/

theorem test_wf_core : (Instr.coreDrained 2560).wellFormed = false := by decide
theorem test_wf_function : (Instr.functionLevelReset 64).wellFormed = false := by decide
theorem test_wf_ring : (Instr.completionWrite 0 16).wellFormed = false := by decide
theorem test_wf_ssn : (Instr.abort ⟨0, 2, 4294967296⟩).wellFormed = false := by decide
theorem test_wf_item_function : (Instr.abort ⟨64, 2, 1⟩).wellFormed = false := by decide
theorem test_wf_part : (Instr.stepFinish 64).wellFormed = false := by decide
theorem test_wf_cluster : (Instr.pbWriteApplied 32).wellFormed = false := by decide
theorem test_wf_die : (Instr.dieLost 18).wellFormed = false := by decide
theorem test_wf_link : (Instr.linkDown 12 0).wellFormed = false := by decide
theorem test_wf_port : (Instr.ethLinkUp 2).wellFormed = false := by decide
theorem test_wf_qp : (Instr.ethCnp 0 1024).wellFormed = false := by decide
theorem test_wf_processor : (Instr.fwReturn 3).wellFormed = false := by decide
theorem test_wf_body : (Instr.attest 0 { body := List.replicate 241 0 }).wellFormed = false := by decide
theorem test_wf_msn : (Instr.attest 0 { msn := 4294967296 }).wellFormed = false := by decide
theorem test_wf_target : (Instr.attest 0 { target := 256 }).wellFormed = false := by decide
theorem test_wf_message_cluster : (Instr.attest 0 { cluster := 256 }).wellFormed = false := by decide
theorem test_wf_mcode : (Instr.attest 0 { mcode := 65536 }).wellFormed = false := by decide
theorem test_wf_tag : (Instr.attest 0 { tag := 2 ^ 64 }).wellFormed = false := by decide
theorem test_wf_place_core : (Instr.corrected (.core 2560 0 0)).wellFormed = false := by decide
theorem test_wf_place_tier : (Instr.latent (.tier 0 0 3 0 0)).wellFormed = false := by decide
theorem test_wf_unit_sward : (Instr.unitLoss (.sward 8)).wellFormed = false := by decide
theorem test_wf_unit_group : (Instr.unitLoss (.leyGroup 16)).wellFormed = false := by decide
theorem test_wf_unit_channel : (Instr.unitLoss (.leyChannel 64)).wellFormed = false := by decide
theorem test_wf_unit_heath : (Instr.unitLoss (.heathPort 4)).wellFormed = false := by decide
theorem test_wf_request_block : (Instr.admitReq ⟨0, 2, 1⟩ [] []).wellFormed = false := by decide
theorem test_wf_fetch : (Instr.descriptorFetch 0 2 (List.replicate 65 0)).wellFormed = false := by decide
theorem test_wf_ta : (Instr.taWrite 0 2 0).wellFormed = false := by decide
theorem test_wf_bar : (Instr.registerWrite 0 1 0 [] []).wellFormed = false := by decide
theorem test_wf_enables : (Instr.registerWrite 0 0 0 [0] []).wellFormed = false := by decide
theorem test_wf_heath : (Instr.heathEnumeration [none]).wellFormed = false := by decide
theorem test_wf_node : (Instr.barrierArrival 0 4096).wellFormed = false := by decide
theorem test_wf_run : (Instr.barrierRelease 0 64).wellFormed = false := by decide
theorem test_wf_swath : (Instr.tmStreamIssue 0 (2 ^ 64) 0).wellFormed = false := by decide
theorem test_wf_entry : (Instr.tmStreamIssue 0 7 65536).wellFormed = false := by decide
theorem test_wf_scrub : (Instr.patrolScrub 72 0).wellFormed = false := by decide
theorem test_wf_tier : (Instr.tierFailure 3 0 0 0).wellFormed = false := by decide
theorem test_wf_domain : (Instr.pwrDomainFault 2661).wellFormed = false := by decide
theorem test_wf_temperature : (Instr.thermalLoopSample [(18, 40)]).wellFormed = false := by decide
theorem test_wf_vfs : (Instr.configurationRequest (.numVfs 64)).wellFormed = false := by decide
theorem test_wf_cmp_m0 : (Instr.cmpEq 7 { d := 0 }).wellFormed = false := by decide
theorem test_wf_cmp_ord_int : (Instr.cmpOrd 7 { d := 1, int := true }).wellFormed = false := by decide
theorem test_wf_cvt_format : (Instr.cvt 7 { src := 10 }).wellFormed = false := by decide
theorem test_wf_cvt_mode : (Instr.cvt 7 { rmode := 5 }).wellFormed = false := by decide
theorem test_wf_ld_format : (Instr.ld 7 { fmt := 11 }).wellFormed = false := by decide
theorem test_wf_lds_narrow : (Instr.lds 7 { fmt := 3 }).wellFormed = false := by decide
theorem test_wf_ldm_m0 : (Instr.ldm 7 { d := 0 }).wellFormed = false := by decide
theorem test_wf_stm_mask : (Instr.stm 7 { a := 8 }).wellFormed = false := by decide
theorem test_wf_pair : (Instr.rsum 7 { d := 3 }).wellFormed = false := by decide
theorem test_wf_mand_mask : (Instr.mand 7 { d := 1, b := 8 }).wellFormed = false := by decide
theorem test_wf_mnot_masked : (Instr.mnot 7 { d := 1, msk := 1 }).wellFormed = false := by decide
theorem test_wf_loop_body : (Instr.loop 7 { imm := 4096 }).wellFormed = false := by decide

/-! ### Words, checks and codes worked out by hand -/

/-- Class 1, op 8, MSK 3, ZM, v5 from v6 and v7: each field at its bits of Table 5.1. -/
theorem test_word_sra : veDecode 7 (1 * 2 ^ 60 + 8 * 2 ^ 54 + 3 * 2 ^ 51 + 2 ^ 50 + 5 * 2 ^ 45 + 6 * 2 ^ 40 + 7 * 2 ^ 35) =
    some (.ialuSra 7 { msk := 3, zm := true, d := 5, a := 6, b := 7 }) := by decide +kernel
/-- Class 7, op 1, base s4, BF16, offset 0x12345 in bits 25 to 6 (Table 5.2). -/
theorem test_word_st : veDecode 7 (7 * 2 ^ 60 + 1 * 2 ^ 54 + 9 * 2 ^ 40 + 4 * 2 ^ 30 + 1 * 2 ^ 26 + 0x12345 * 2 ^ 6) =
    some (.st 7 { a := 9, base := 4, fmt := 1, offset := 0x12345 }) := by decide +kernel
/-- Class 8, op 1, four flits of v9 to queue 10 with tag 0x1234567, LAST (Table 5.2). -/
theorem test_word_send : veDecode 7 (8 * 2 ^ 60 + 1 * 2 ^ 54 + 9 * 2 ^ 40 + 10 * 2 ^ 31 + 3 * 2 ^ 29 + 0x1234567 * 2 + 1) =
    some (.send 7 { a := 9, q := 10, nf := 3, tag := 0x1234567, last := true }) := by decide +kernel
/-- Class 11, op 7 is LOOP: strip over s3, body 5 (Tables 5.2, 5.3). -/
theorem test_word_loop : veDecode 7 (11 * 2 ^ 60 + 7 * 2 ^ 54 + 3 * 2 ^ 40 + 2 ^ 32 + 5) =
    some (.loop 7 { a := 3, strip := true, imm := 5 }) := by decide +kernel
/-- Class 12 is reserved (Table 5.3). -/
theorem test_word_reserved : veDecode 7 (12 * 2 ^ 60) = none := by decide +kernel

/-- The check value of CRC-32C: "123456789" gives 0xE3069283. -/
theorem test_crc32c : crc32c [0x31, 0x32, 0x33, 0x34, 0x35, 0x36, 0x37, 0x38, 0x39] = 0xE3069283 := by decide +kernel
/-- -0.375 is 0xAC in E4M3 and 0xB6 in E5M2 (03_numbers, after Table 3.1). -/
theorem test_encode_e4m3 : (e4m3.round .ieee 0 0 (.fin true 3 (-3))).code = 0xAC := by decide +kernel
theorem test_encode_e5m2 : (e5m2.round .ieee 0 0 (.fin true 3 (-3))).code = 0xB6 := by decide +kernel
/-- 1.25 in FP4 in SR mode is 1.5 when r is 32,768 and 1 at 32,767 (03_numbers, after R72). -/
theorem test_sr_up : (e2m1.round .ieee 4 32768 (.fin false 5 (-2))).code = 3 := by decide +kernel
theorem test_sr_down : (e2m1.round .ieee 4 32767 (.fin false 5 (-2))).code = 2 := by decide +kernel
/-- Blocks of 2^24, 1 and -2^24 leave S 0 and C 1 (03_numbers, the example after R77). -/
theorem test_combine :
    (let a := combineHiLo 0 0 0x4B800000 0
     let b := combineHiLo a.1 a.2 0x3F800000 0
     combineHiLo b.1 b.2 0xCB800000 0) = (0, 0x3F800000) := by decide +kernel

/-! ### Single steps on the vector engine -/

/-- The engine of core 7 after an instruction on an engine whose handler runs. -/
def veAfter (e : Ve) (i : Instr) : Option Ve :=
  match exec i (st (flowM { ve := { e with handler := some { inQ := 2, header := 5, outMask := 2, startCc := 0 } } } {})) with
  | .next t => some (t.m.core 7).ve
  | _ => none
/-- An engine whose lane 1 of v1 and v2 holds two values, VL 64. -/
def two (a b : BitVec 32) : Ve := { v := SMap.put (SMap.put {} 65 a) 129 b }
/-- v3 from v1 and v2. -/
def o312 : AluOps := { d := 3, a := 1, b := 2 }
/-- m3 from v1 and v2. -/
def c312 : CmpOps := { d := 3, a := 1, b := 2 }
/-- Lane 1 of v3 after an instruction on two lanes. -/
def lane3 (a b : BitVec 32) (i : Instr) : Option (BitVec 32) := (veAfter (two a b) i).map fun e => e.lane 3 1
/-- Bit 1 of m3 after a compare of two lanes. -/
def bit3 (a b : BitVec 32) (i : Instr) : Option Bool := (veAfter (two a b) i).map fun e => (e.maskOf 3).getLsbD 1
/-- Scalar s4 after an instruction. -/
def scal4 (e : Ve) (i : Instr) : Option (BitVec 64) := (veAfter e i).map fun e => e.scalar 4

theorem test_falu_add : lane3 0x3F800000 0x40000000 (.faluAdd 7 o312) = some 0x40400000 := by decide +kernel
/-- 1 + 2^-24 ties to even (RNE). -/
theorem test_falu_add_tie : lane3 0x3F800000 0x33800000 (.faluAdd 7 o312) = some 0x3F800000 := by decide +kernel
theorem test_falu_sub : lane3 0x3F800000 0x40000000 (.faluSub 7 o312) = some 0xBF800000 := by decide +kernel
theorem test_falu_mul_overflow : lane3 0x7F7FFFFF 0x40000000 (.faluMul 7 o312) = some 0x7F800000 := by decide +kernel
/-- -0 is below +0 for MIN and MAX (R122). -/
theorem test_falu_min_zero : lane3 0 0x80000000 (.faluMin 7 o312) = some 0x80000000 := by decide +kernel
theorem test_falu_max_zero : lane3 0 0x80000000 (.faluMax 7 o312) = some 0 := by decide +kernel
theorem test_falu_min_nan : lane3 0x7F800001 0 (.faluMin 7 o312) = some 0x7FC00000 := by decide +kernel
theorem test_falu_neg : lane3 0x3F800000 0 (.faluNeg 7 o312) = some 0xBF800000 := by decide +kernel
theorem test_ialu_add_wraps : lane3 0xFFFFFFFF 2 (.ialuAdd 7 o312) = some 1 := by decide +kernel
theorem test_ialu_mul_low : lane3 0x10001 0x10001 (.ialuMul 7 o312) = some 0x20001 := by decide +kernel
theorem test_ialu_sra : lane3 0x80000000 4 (.ialuSra 7 o312) = some 0xF8000000 := by decide +kernel
theorem test_ialu_shr_33 : lane3 0x80000000 33 (.ialuShr 7 o312) = some 0x40000000 := by decide +kernel
theorem test_ialu_min_signed : lane3 0xFFFFFFFF 1 (.ialuMin 7 o312) = some 0xFFFFFFFF := by decide +kernel
theorem test_ialu_minu : lane3 0xFFFFFFFF 1 (.ialuMinu 7 o312) = some 1 := by decide +kernel
theorem test_cmp_zeros : bit3 0 0x80000000 (.cmpEq 7 c312) = some true := by decide +kernel
theorem test_cmp_nan : bit3 0x7FC00000 0x7FC00000 (.cmpNe 7 c312) = some true := by decide +kernel
theorem test_cmp_lt_uns : bit3 0xFFFFFFFF 1 (.cmpLt 7 { c312 with int := true, uns := true }) = some false := by decide +kernel
theorem test_cmp_lt_int : bit3 0xFFFFFFFF 1 (.cmpLt 7 { c312 with int := true }) = some true := by decide +kernel
/-- 1.0 to BF16 lands in bits 15 to 0 of its lane (R112). -/
theorem test_cvt_bf16 : lane3 0x3F800000 0 (.cvt 7 { d := 3, s := 1, a := 1, src := 0, dst := 1 }) = some 0x3F80 := by decide +kernel
theorem test_sqrt_four : lane3 0x40800000 0 (.sqrt 7 o312.toThreeOps) = some 0x40000000 := by decide +kernel
/-- A source that is also the destination is read first. -/
theorem test_source_is_destination :
    (veAfter (two 5 7) (.ialuSub 7 { d := 1, a := 1, b := 1 })).map (fun e => e.lane 1 1) = some 0 := by decide +kernel
/-- A masked lane keeps its value, or reads 0 with ZM (R114). -/
theorem test_masked_keeps :
    (veAfter { two 5 7 with v := (two 5 7).v.put 193 9 } (.ialuAdd 7 { o312 with msk := 1 })).map (fun e => e.lane 3 1) =
      some 9 := by decide +kernel
theorem test_masked_zeroed :
    (veAfter { two 5 7 with v := (two 5 7).v.put 193 9 } (.ialuAdd 7 { o312 with msk := 1, zm := true })).map (fun e => e.lane 3 1) =
      some 0 := by decide +kernel
theorem test_mfirst_none : scal4 {} (.mfirst 7 { d := 4, a := 1 }) = some 64 := by decide +kernel
theorem test_mpop_below_vl : scal4 { vl := 3, mask := SMap.put {} 1 0xFF } (.mpop 7 { d := 4, a := 1 }) = some 3 := by decide +kernel
theorem test_setvl : (veAfter { sc := SMap.put {} 2 100 } (.setvl 7 { d := 4, a := 2 })).map (fun e => (e.vl, e.scalar 4)) =
    some (64, 64) := by decide +kernel
theorem test_li_sign : scal4 {} (.li 7 { d := 4, imm := 0x80000000 }) = some 0xFFFFFFFF80000000 := by decide +kernel
theorem test_lih : scal4 { sc := SMap.put {} 4 9 } (.lih 7 { d := 4, imm := 3 }) = some 0x300000009 := by decide +kernel
theorem test_s0_reads_zero : scal4 {} (.saddi 7 { d := 4, a := 0, imm := 1 }) = some 1 := by decide +kernel
/-- SLIDEUP by 1: lane 2 takes lane 1. -/
theorem test_slideup : (veAfter (two 5 7) (.slideup 7 { d := 3, a := 1, sh := 1 })).map (fun e => e.lane 3 2) = some 5 := by
  decide +kernel
/-- COMPRESS under a mask of lane 1 alone packs it into lane 0. -/
theorem test_compress :
    (veAfter { two 5 7 with mask := SMap.put {} 1 2 } (.compress 7 { d := 3, a := 1, msk := 1 })).map (fun e => e.lane 3 0) =
      some 5 := by decide +kernel
theorem test_risum : scal4 (two 0xFFFFFFFF 0) (.risum 7 { d := 4, a := 1 }) = some 0xFFFFFFFFFFFFFFFF := by decide +kernel

/-- ST writes the lane's bytes little-endian at its address (R132). -/
theorem test_st_bytes :
    (match exec (.st 7 { a := 1, base := 0, fmt := 0, offset := 0x40 })
        (st (flowM { ve := { two 0x04030201 0 with vl := 2, handler := some { inQ := 2, header := 5, outMask := 2, startCc := 0 } } } {})) with
      | .next t => some (((t.m.core 7).ls.rd 0x44 1, (t.m.core 7).ls.rd 0x44 4))
      | _ => none) = some (1, 0x04030201) := by decide +kernel

/-! ### Single steps elsewhere -/

/-- SHA3-512 of the empty message (R425). -/
theorem test_sha3_empty : sha3 [] = 0x26CD1D2886857501E3D3B6959D1900F558C53A2C40E9E3114CF9F5F13A12B215A6805C47C1DCD1E05958E24F1682C9976E755A18DC67B5C8C59A3AA2CC739FA6 := by
  decide +kernel

/-- The module after a command. -/
def after (i : Instr) (m : Module) : Option Module := match exec i (st m) with | .next t => some t.m | _ => none

/-- The bus in regulation ends stage 0x00 (R484). -/
theorem test_bus_in_regulation :
    (after .busInRegulation { power := { onW with domains := 0 }, start := { stage := 0 } }).map (fun m => m.start.stage) =
      some 1 := by decide +kernel
/-- A junction trip opens the switched domains, none of always-on (R424). -/
theorem test_thermal_trip : (after (.thermalTrip 3 105) upM).map (fun m => m.power.domains.getLsbD 0) = some false := by decide +kernel
/-- At the end of the lease, a budget of 1,000 W gives a limit of 40 %, 400 W (R416, R418). -/
theorem test_lease :
    (after .leaseExpired { upM with power := { onW with budgetW := 1000, capW := 1000, leaseFrom := some 0 } }).map (fun m => m.power.limitW) =
      some 400 := by decide +kernel
/-- 0x0005_0001 at +0x008 of the window of cluster 21, BAR0 offset 0x01A8_0000, freezes group 0 and resumes group 2 (01_organisation,
the example after R23; 18_registers, the example after R473). -/
theorem test_window :
    (after (.registerWrite 0 0 0x01A80008 [1, 0, 5, 0] [true, true, true, true])
        { upM with clusters := SMap.put {} 21 { freeze := 0b11110 } }).map (fun m => (m.clu 21).freeze) = some 0b11011 := by
  decide +kernel

/-! ### Hypotheses are met -/

theorem wit_StepRunsFront_2 : ∃ (s : State), s.pending.isEmpty = true :=
  ⟨st upM, by decide +kernel⟩

theorem wit_StepRunsFront_3 : ∃ (s : State), s.pending.isEmpty = true ∧ s.m.parts.wf = true ∧ s.m.cores.wf = true ∧
  s.m.parts.cells.all (fun c => c.2.tmWait.isEmpty) = true :=
  ⟨st (flowM { outq := SMap.put {} 1 { inFlight := [flit1] } } {}), by decide +kernel⟩

theorem wit_CommandsComplete_1 : ∃ (c : Instr), c.wellFormed = false :=
  ⟨.coreDrained 2560, by decide +kernel⟩

theorem wit_CommandsComplete_2 : ∃ (c : Instr) (s : State), c.wellFormed = true ∧ s.m.sec.debug = false :=
  ⟨.coreDrained 2559, st upM, by decide +kernel⟩

theorem wit_CommandsComplete_3 : ∃ (c : Instr) (s : State), c.wellFormed = true ∧ s.m.sec.debug = true :=
  ⟨.coreDrained 2559, st { upM with sec := { debug := true } }, by decide +kernel⟩

theorem wit_QueueRuns_1 : ∃ (s : State), Runnable s :=
  ⟨{ pending := [.tickBoundary], m := upM }, tick_runnable⟩

theorem wit_QueueRuns_2 : ∃ (s : State), Runnable s :=
  ⟨{ pending := [.tickBoundary], m := upM }, tick_runnable⟩

theorem wit_VectorWords_1 : ∃ (i : Instr) (core : Nat) (w : Nat), i.wellFormed = true ∧ veEncode i = some (core, w) :=
  ⟨.faluFma 7 { a := 3, b := 1, c := 2, d := 4 }, 7, veHead 0 3 { a := 3, b := 1, d := 4 } + 2 * 2 ^ 30, by decide +kernel⟩

theorem wit_VectorWords_2 : ∃ (i : Instr) (core : Nat) (w : Nat), w < 2 ^ 64 ∧ veDecode core w = some i :=
  ⟨(veDecode 7 0x00D4611100000000).getD (.coreDrained 0), 7, 0x00D4611100000000, by decide +kernel⟩

theorem wit_VectorLength_1 : ∃ (i : Instr) (core : Nat) (w : Nat) (s : State), veEncode i = some (core, w) ∧ i.wellFormed
  = true ∧ w / 2 ^ 60 ≠ 7 ∧ w / 2 ^ 60 ≠ 8 ∧ VlOk s.m :=
  ⟨.setvl 7 { d := 4, a := 2 }, 7, putSctl 11 6 { d := 4, a := 2 }, st veM, by decide +kernel, by decide +kernel, by decide +kernel, by decide +kernel, veM_vlOk⟩

theorem wit_SidebandReads_1 : ∃ (s : State), s.m.power.dark = false ∧ 1 ≤ s.m.start.stage :=
  ⟨st upM, by decide +kernel⟩

theorem wit_SidebandReads_2 : ∃ (s : State), s.m.power.dark = false ∧ 1 ≤ s.m.start.stage ∧ s.m.start.stage < 256 :=
  ⟨st upM, by decide +kernel⟩

theorem wit_SidebandReads_3 : ∃ (s : State), s.m.power.dark = false ∧ 1 ≤ s.m.start.stage :=
  ⟨st upM, by decide +kernel⟩

theorem wit_SidebandReads_4 : ∃ (s : State), s.m.power.dark = false ∧ 1 ≤ s.m.start.stage ∧ s.m.sb.heldSlice = none ∧
  s.m.sb.heldBudget = none ∧ s.m.sb.refused < 2 ^ 32 :=
  ⟨st upM, by decide +kernel⟩

theorem wit_SidebandReads_5 : ∃ (s : State) (r : SbRec) (rest : List SbRec), s.m.power.dark = false ∧ 1 ≤ s.m.start.stage
  ∧ s.m.sb.out = r :: rest ∧ r.rtype < 256 ∧ r.oseq < 2 ^ 32 :=
  ⟨st { upM with sb := { out := [{ rtype := 0x82, lost := 0, oseq := 1, tick := 5, body := [1] }] } }, { rtype := 0x82, lost := 0, oseq := 1, tick := 5, body := [1] }, [], by decide +kernel⟩

theorem wit_SidebandRecords_1 : ∃ (s : State) (data : List Byte), s.m.power.dark = false ∧ 1 ≤ s.m.start.stage ∧
  (data.length ≠ 64 ∨ (field data 0 1 ≠ 1 ∧ field data 0 1 ≠ 2)) :=
  ⟨st upM, [], by decide +kernel⟩

theorem wit_SidebandRecords_2 : ∃ (s : State) (data : List Byte), s.m.power.dark = false ∧ 1 ≤ s.m.start.stage ∧
  s.m.start.stage < 6 ∧ data.length = 64 ∧ field data 0 1 = 1 :=
  ⟨st (atM 3), 1 :: List.replicate 63 0, by decide +kernel⟩

theorem wit_SidebandRecords_3 : ∃ (s : State) (data : List Byte), s.m.power.dark = false ∧ 1 ≤ s.m.start.stage ∧
  s.m.start.stage < 6 ∧ data.length = 64 ∧ field data 0 1 = 2 :=
  ⟨st (atM 3), 2 :: List.replicate 63 0, by decide +kernel⟩

theorem wit_SidebandRecords_4 : ∃ (s : State) (r : SbRec) (rest : List SbRec), s.m.power.dark = false ∧ 1 ≤
  s.m.start.stage ∧ s.m.sb.out = r :: rest :=
  ⟨st { upM with sb := { out := [{ rtype := 0x82, lost := 0, oseq := 1, tick := 5, body := [1] }] } }, { rtype := 0x82, lost := 0, oseq := 1, tick := 5, body := [1] }, [], by decide +kernel⟩

theorem wit_SidebandRecords_5 : ∃ (s : State) (r : SbRec) (rest : List SbRec), s.m.power.dark = false ∧
  s.m.start.startFail = false ∧ s.m.start.tripped = false ∧ s.m.start.ready = false ∧ s.m.sb.out = r :: rest ∧ rest.length
  = 15 ∧ r.lost < 65535 :=
  ⟨st { atM 3 with sb := { out := List.replicate 16 { rtype := 0x82, lost := 0, oseq := 1, tick := 5, body := [1] } } }, { rtype := 0x82, lost := 0, oseq := 1, tick := 5, body := [1] }, List.replicate 15 { rtype := 0x82, lost := 0, oseq := 1, tick := 5, body := [1] }, by decide +kernel⟩

theorem wit_SidebandRecords_6 : ∃ (s : State), s.m.power.dark = false ∧ s.m.start.startFail = false ∧ s.m.start.tripped =
  false ∧ s.m.start.ready = false ∧ s.m.sb.out.length < 16 :=
  ⟨st (atM 3), by decide +kernel⟩

theorem wit_SidebandRecords_7 : ∃ (s : State), s.m.power.dark = false ∧ 1 ≤ s.m.start.stage :=
  ⟨st upM, by decide +kernel⟩

theorem wit_StartStages_1 : ∃ (s : State), s.m.power.dark = true ∧ s.m.start.epo = false ∧ (s.m.power.mainOk = true ∨
  s.m.power.backupOk = true) :=
  ⟨st { power := { mainOk := true } }, by decide +kernel⟩

theorem wit_StartStages_2 : ∃ (s : State), s.m.power.dark = false ∧ s.m.start.startFail = false ∧ s.m.start.tripped =
  false ∧ s.m.start.stage = 0 :=
  ⟨st (atM 0), by decide +kernel⟩

theorem wit_StartStages_3 : ∃ (s : State), s.m.power.dark = false ∧ s.m.start.startFail = false ∧ s.m.start.tripped =
  false ∧ s.m.start.stage = 5 :=
  ⟨st (atM 5), by decide +kernel⟩

theorem wit_StartStages_4 : ∃ (s : State), s.m.power.dark = false ∧ s.m.start.startFail = false ∧ s.m.start.tripped =
  false ∧ s.m.start.stage = 6 :=
  ⟨st (atM 6), by decide +kernel⟩

theorem wit_StartStages_5 : ∃ (s : State) (sward : BitVec 8), s.m.power.dark = false ∧ s.m.start.startFail = false ∧
  s.m.start.tripped = false ∧ s.m.start.stage = 7 ∧ sward ≠ 0 :=
  ⟨st (atM 7), 0xFF, by decide +kernel⟩

theorem wit_StartStages_6 : ∃ (s : State) (failed : List Nat), failed.all coreOk = true ∧ s.m.power.dark = false ∧
  s.m.start.startFail = false ∧ s.m.start.tripped = false ∧ s.m.start.stage = 8 :=
  ⟨st { atM 8 with flash := { record := Mem.wr [] 0x50 320 (2 ^ 2560 - 1) } }, [3], by decide +kernel⟩

theorem wit_StartStages_7 : ∃ (s : State) (capacity : List (Option Nat)), capacity.length = 4 ∧ s.m.power.dark = false ∧
  s.m.start.startFail = false ∧ s.m.start.tripped = false ∧ s.m.start.stage = 9 :=
  ⟨st (atM 9), [some 4194304, none, none, none], by decide +kernel⟩

theorem wit_StartStages_8 : ∃ (s : State), s.m.power.dark = false ∧ s.m.start.startFail = false ∧ s.m.start.tripped =
  false ∧ s.m.start.stage = 10 :=
  ⟨st (atM 10), by decide +kernel⟩

theorem wit_BootChain_1 : ∃ (s : State), s.m.power.dark = false ∧ s.m.start.startFail = false ∧ s.m.start.tripped = false
  ∧ s.m.start.stage = 1 :=
  ⟨st (atM 1), by decide +kernel⟩

theorem wit_BootChain_2 : ∃ (s : State), s.m.power.dark = false ∧ s.m.start.startFail = false ∧ s.m.start.tripped = false
  ∧ s.m.start.stage = 1 :=
  ⟨st (atM 1), by decide +kernel⟩

theorem wit_BootChain_3 : ∃ (s : State), s.m.power.dark = false ∧ s.m.start.startFail = false ∧ s.m.start.tripped = false
  ∧ s.m.start.stage = 1 :=
  ⟨st (atM 1), by decide +kernel⟩

theorem wit_BootChain_4 : ∃ (s : State), s.m.power.dark = false ∧ s.m.start.startFail = false ∧ s.m.start.tripped = false
  ∧ s.m.start.ready = false :=
  ⟨st (atM 4), by decide +kernel⟩

theorem wit_BootChain_5 : ∃ (s : State), s.m.power.dark = false ∧ s.m.start.startFail = false ∧ s.m.start.tripped = false
  ∧ s.m.start.stage = 7 :=
  ⟨st (atM 7), by decide +kernel⟩

theorem wit_ResetsAndClocks_1 : ∃ (s : State) (serial : BitVec 16), s.m.power.dark = false ∧ 1 ≤ s.m.start.stage ∧
  s.m.start.tripped = false ∧ serial.toNat = s.m.flash.serial % 65536 :=
  ⟨st upM, 0, by decide +kernel⟩

theorem wit_ResetsAndClocks_2 : ∃ (s : State) (serial : BitVec 16), s.m.power.dark = false ∧ 1 ≤ s.m.start.stage ∧
  s.m.start.tripped = true ∧ s.m.power.tempDeg < 85 ∧ s.m.start.epo = false ∧ (s.m.power.mainOk = true ∨
  s.m.power.backupOk = true) ∧ serial.toNat = s.m.flash.serial % 65536 :=
  ⟨st { upM with power := { onW with mainOk := true }, start := { stage := 11, tripped := true, faultN := true } }, 0, by decide +kernel⟩

theorem wit_ResetsAndClocks_3 : ∃ (s : State), s.m.power.dark = false ∧ s.m.start.sysclk = true ∧ s.m.start.stage ≠ 0 ∧
  s.m.start.tripped = false :=
  ⟨st upM, by decide +kernel⟩

theorem wit_OrdersAgree_1 : ∃ (s : State) (order : BitVec 8) (inverse : BitVec 8) (serial : BitVec 16), (order ≠ 1 ∨
  inverse ≠ ~~~order ∨ serial.toNat ≠ s.m.flash.serial % 65536 ∨ s.m.start.tripped = true) :=
  ⟨st upM, 1, 1, 0, by decide +kernel⟩

theorem wit_OrdersAgree_2 : ∃ (s : State) (order : BitVec 8) (inverse : BitVec 8) (serial : BitVec 16), (order ≠ 2 ∨
  inverse ≠ ~~~order ∨ serial.toNat ≠ s.m.flash.serial % 65536 ∨ s.m.start.tripped = false ∨ 85 ≤ s.m.power.tempDeg) :=
  ⟨st upM, 2, 0xFD, 0, by decide +kernel⟩

theorem wit_OrdersAgree_3 : ∃ (s : State) (serial : BitVec 16), s.m.power.dark = false ∧ 1 ≤ s.m.start.stage ∧
  s.m.start.tripped = false ∧ serial.toNat = s.m.flash.serial % 65536 :=
  ⟨st upM, 0, by decide +kernel⟩

theorem wit_OrdersAgree_4 : ∃ (s : State) (serial : BitVec 16), s.m.power.dark = false ∧ 1 ≤ s.m.start.stage ∧
  s.m.start.tripped = true ∧ s.m.power.tempDeg < 85 ∧ s.m.start.epo = false ∧ (s.m.power.mainOk = true ∨
  s.m.power.backupOk = true) ∧ serial.toNat = s.m.flash.serial % 65536 :=
  ⟨st { upM with power := { onW with mainOk := true }, start := { stage := 11, tripped := true, faultN := true } }, 0, by decide +kernel⟩

theorem wit_HostPort_1 : ∃ (s : State), s.m.start.ready = false :=
  ⟨st (atM 4), by decide +kernel⟩

theorem wit_HostPort_2 : ∃ (s : State), s.m.start.ready = false :=
  ⟨st (atM 4), by decide +kernel⟩

theorem wit_HostPort_3 : ∃ (s : State), s.m.start.ready = true :=
  ⟨st upMsg, by decide +kernel⟩

theorem wit_HostPort_5 : ∃ (s : State) (width : BitVec 2) (speed : BitVec 2), s.m.start.perst = false ∧ s.m.start.refclk =
  true ∧ s.m.start.linkUp = false ∧ s.m.power.domains.getLsbD 2636 = true ∧ s.m.ras.lostDies.contains 16 = false ∧ 2 ≤
  width.toNat ∧ 2 ≤ speed.toNat :=
  ⟨st { atM 4 with start := { stage := 4, perst := false, refclk := true } }, 2, 2, by decide +kernel⟩

theorem wit_HostPort_6 : ∃ (s : State) (width : BitVec 2) (speed : BitVec 2), s.m.start.perst = false ∧ s.m.start.refclk =
  true ∧ s.m.start.linkUp = false ∧ s.m.power.domains.getLsbD 2636 = true ∧ s.m.ras.lostDies.contains 16 = false ∧
  (width.toNat < 2 ∨ speed.toNat < 2) :=
  ⟨st { atM 4 with start := { stage := 4, perst := false, refclk := true } }, 1, 2, by decide +kernel⟩

theorem wit_HostPort_7 : ∃ (s : State) (req : CfgReq), req.ok = true ∧ s.m.start.linkUp = true ∧ s.m.start.perst = false ∧
  s.m.start.stage < 4 ∧ s.m.start.startFail = false :=
  ⟨st { atM 2 with start := { stage := 2, perst := false, linkUp := true } }, .numVfs 3, by decide +kernel⟩

theorem wit_HostPort_8 : ∃ (s : State) (f : Nat), f < 64 ∧ s.m.start.linkUp = true ∧ s.m.start.perst = false ∧ 4 ≤
  s.m.start.stage :=
  ⟨st upM, 0, by decide +kernel⟩

theorem wit_PowerLoops_1 : ∃ (s : State), s.m.power.dark = false ∧ s.m.start.tripped = false :=
  ⟨st { upM with power := { onW with setPoint := 3 } }, by decide +kernel⟩

theorem wit_PowerLoops_2 : ∃ (s : State) (die : Nat), dieOk die = true ∧ s.m.power.dark = false ∧ loopRuns s.m = true :=
  ⟨st { upM with power := { onW with setPoint := 3 } }, 4, by decide +kernel⟩

theorem wit_PowerLoops_3 : ∃ (s : State), s.m.power.dark = false ∧ s.m.start.tripped = false :=
  ⟨st upM, by decide +kernel⟩

theorem wit_PowerLoops_4 : ∃ (s : State) (backup : Bool), s.m.power.dark = false ∧ s.m.power.loss = .none ∧
  s.m.power.mainOk = true ∧ s.m.power.backupOk = true ∧ s.m.power.onBackup = backup :=
  ⟨st { upM with power := { onW with mainOk := true, backupOk := true } }, false, by decide +kernel⟩

theorem wit_PowerLoops_5 : ∃ (s : State) (backup : Bool), s.m.power.dark = false ∧ s.m.power.loss = .none ∧ (if backup
  then s.m.power.backupOk else s.m.power.mainOk) = true ∧ (if backup then s.m.power.mainOk else s.m.power.backupOk) =
  false :=
  ⟨st { upM with power := { onW with mainOk := true } }, false, by decide +kernel⟩

theorem wit_PowerLoops_6 : ∃ (s : State), s.m.power.mainOk = false :=
  ⟨st upM, by decide +kernel⟩

theorem wit_PowerLoops_7 : ∃ (s : State), s.m.power.dark = false ∧ s.m.power.loss = .none ∧ s.m.power.onBackup = true ∧
  s.m.power.mainOk = true :=
  ⟨st { upM with power := { onW with mainOk := true, onBackup := true } }, by decide +kernel⟩

theorem wit_PowerLoss_1 : ∃ (s : State), s.m.power.loss = .bad ∧ (s.m.power.mainOk = true ∨ s.m.power.backupOk = true) :=
  ⟨st { upM with power := { onW with mainOk := true, loss := .bad } }, by decide +kernel⟩

theorem wit_PowerLoss_2 : ∃ (s : State), s.m.power.loss = .bad ∧ s.m.power.mainOk = false ∧ s.m.power.backupOk = false ∧
  s.m.start.ready = false :=
  ⟨st { atM 6 with power := { onW with loss := .bad } }, by decide +kernel⟩

theorem wit_PowerLoss_3 : ∃ (s : State), s.m.power.loss = .bad ∧ s.m.power.mainOk = false ∧ s.m.power.backupOk = false ∧
  s.m.start.ready = true :=
  ⟨st { upM with power := { onW with loss := .bad } }, by decide +kernel⟩

theorem wit_PowerLoss_4 : ∃ (s : State), s.m.power.loss = .committed ∧ s.m.power.dark = false ∧ s.m.start.linkUp = true ∧
  s.m.ras.lostDies.contains 16 = false :=
  ⟨st { upM with power := { onW with loss := .committed } }, by decide +kernel⟩

theorem wit_PowerLoss_5 : ∃ (s : State), (s.m.power.loss = .committed ∨ s.m.power.loss = .ledgers) :=
  ⟨st { upM with power := { onW with loss := .ledgers } }, by decide +kernel⟩

theorem wit_PowerLoss_7 : ∃ (s : State), s.m.start.epo = true ∧ s.m.power.dark = true ∧ (s.m.power.mainOk = true ∨
  s.m.power.backupOk = true) :=
  ⟨st { power := { mainOk := true }, start := { epo := true } }, by decide +kernel⟩

theorem wit_PowerLoss_8 : ∃ (s : State) (die : Nat) (deg : Nat), dieOk die = true ∧ s.m.power.dark = false ∧
  s.m.start.tripped = false ∧ 105 ≤ deg :=
  ⟨st upM, 3, 110, by decide +kernel⟩

theorem wit_PowerLoss_9 : ∃ (s : State) (d : Nat), d < 2661 ∧ s.m.power.dark = false ∧ s.m.start.tripped = false ∧
  s.m.power.domains.getLsbD d = true :=
  ⟨st upM, 7, by decide +kernel⟩

theorem wit_PowerLimit_1 : ∃ (s : State), s.m.power.dark = false ∧ s.m.power.coolant = false ∧ s.m.power.fallPending =
  false :=
  ⟨st upM, by decide +kernel⟩

theorem wit_PowerLimit_2 : ∃ (s : State), s.m.power.dark = false ∧ s.m.power.fallPending = false :=
  ⟨st { upM with power := { onW with coolant := true } }, by decide +kernel⟩

theorem wit_PowerLimit_3 : ∃ (s : State) (t : Nat), s.m.power.dark = false ∧ s.m.power.leaseFrom = some t ∧
  s.m.power.fallPending = false :=
  ⟨st { upM with power := { onW with leaseFrom := some 5, leaseS := 2 } }, 5, by decide +kernel⟩

theorem wit_PowerLimit_4 : ∃ (s : State) (fn : Nat) (msg : MgmtMsg), ServedAtOnce s.m fn msg 0x0300 2 ∧ bodyField msg 0 2
  < 2662 :=
  ⟨st upMsg, 0, { msn := 1, mcode := 0x300, target := 2 }, by decide +kernel⟩

theorem wit_PowerLimit_5 : ∃ (s : State) (fn : Nat) (msg : MgmtMsg), ServedAtOnce s.m fn msg 0x0300 2 ∧ 2662 ≤ bodyField
  msg 0 2 :=
  ⟨st upMsg, 0, { msn := 1, mcode := 0x300, target := 2, body := [0xFF, 0xFF] }, by decide +kernel⟩

theorem wit_PowerLimit_6 : ∃ (s : State) (fn : Nat) (msg : MgmtMsg), ServedAtOnce s.m fn msg 0x0301 2 :=
  ⟨st upMsg, 0, { msn := 1, mcode := 0x301, target := 2 }, by decide +kernel⟩

theorem wit_Restarts_1 : ∃ (s : State) (proc : Nat), ProcRuns s.m proc :=
  ⟨st { upM with tick := { ns := 77 } }, 33, by decide +kernel⟩

theorem wit_Restarts_2 : ∃ (s : State) (proc : Nat), ProcRuns s.m proc :=
  ⟨st upM, 33, by decide +kernel⟩

theorem wit_Restarts_3 : ∃ (s : State) (proc : Nat), ProcRuns s.m proc :=
  ⟨st upM, 0, by decide +kernel⟩

theorem wit_Restarts_4 : ∃ (s : State) (fn : Nat) (value : Word), WriteActs s.m fn blkFw 8 ∧ fn = 0 ∧ value.getLsbD 0 =
  true ∧ ProcRuns s.m (s.m.fn 0).sel.fw :=
  ⟨st (upSel { fw := 2 }), 0, 1, by decide +kernel⟩

theorem wit_Restarts_5 : ∃ (s : State) (value : Word), WriteActs s.m 0 blkFw 8 ∧ value.getLsbD 0 = true ∧ (s.m.proc
  (s.m.fn 0).sel.fw).st ≠ .running :=
  ⟨st { upProc 2 { st := .absent } with fns := SMap.put {} 0 { sel := { fw := 2 } } }, 1, by decide +kernel⟩

theorem wit_AbsenceAndReturn_1 : ∃ (s : State) (proc : Nat), ProcAbsent s.m proc ∧ s.m.start.ready = true ∧ s.m.activation
  = none ∧ (s.m.proc proc).misses < 2 :=
  ⟨st (upProc 2 { st := .restarting }), 2, by decide +kernel⟩

theorem wit_AbsenceAndReturn_2 : ∃ (s : State) (proc : Nat), ProcAbsent s.m proc ∧ s.m.start.ready = true ∧ s.m.activation
  = none ∧ 2 ≤ (s.m.proc proc).misses :=
  ⟨st (upProc 2 { st := .restarting, misses := 2 }), 2, by decide +kernel⟩

theorem wit_AbsenceAndReturn_3 : ∃ (s : State) (proc : Nat), ProcAbsent s.m proc ∧ (s.m.proc proc).limitPassed = false :=
  ⟨st (upProc 2 { st := .restarting }), 2, by decide +kernel⟩

theorem wit_AbsenceAndReturn_4 : ∃ (s : State) (proc : Nat), ProcAbsent s.m proc ∧ s.m.power.domains.getLsbD (procDomain
  proc) = true ∧ s.m.activation = none ∧ NoMessageWaits s.m :=
  ⟨st { upProc 2 { st := .absent, limitPassed := true } with tick := { ns := 7000 } }, 2, by decide +kernel⟩

theorem wit_AbsenceAndReturn_5 : ∃ (s : State) (fn : Nat) (msg : MgmtMsg), fnOk fn = true ∧ msg.ok = true ∧ msgRung s.m fn
  msg = true ∧ (s.m.proc msg.target).st ≠ .running ∧ (s.m.proc msg.target).limitPassed = false ∧ ((msg.mcode = 0x0301 ∧
  msg.target = 2) ∨ (msg.mcode = 0x0201 ∧ msg.target = 0) ∨ (msg.mcode = 0x0102 ∧ msg.target = 1)) :=
  ⟨st { upMsg with fw := SMap.put {} 2 { st := .restarting } }, 0, { msn := 1, mcode := 0x301, target := 2 }, by decide +kernel⟩

theorem wit_AbsenceAndReturn_6 : ∃ (s : State) (fn : Nat) (msg : MgmtMsg) (w : MgmtMsg), fnOk fn = true ∧ msg.ok = true ∧
  msgRung s.m fn msg = true ∧ (s.m.proc msg.target).st = .running ∧ w ∈ (s.m.fn fn).mgmtWait ∧ w.target = msg.target ∧
  ((msg.mcode = 0x0301 ∧ msg.target = 2) ∨ (msg.mcode = 0x0201 ∧ msg.target = 0) ∨ (msg.mcode = 0x0102 ∧ msg.target = 1))
  :=
  ⟨st { upM with fns := SMap.put {} 0 { mrqTail := 9, mgmtWait := [{ msn := 1, mcode := 0x300, target := 2 }] } }, 0, { msn := 1, mcode := 0x301, target := 2 }, { msn := 1, mcode := 0x300, target := 2 }, by decide +kernel⟩

theorem wit_AbsenceAndReturn_7 : ∃ (s : State) (fn : Nat) (msg : MgmtMsg), fnOk fn = true ∧ msg.ok = true ∧ msgRung s.m fn
  msg = true ∧ (s.m.proc msg.target).st ≠ .running ∧ (s.m.proc msg.target).limitPassed = true ∧ ((msg.mcode = 0x0301 ∧
  msg.target = 2) ∨ (msg.mcode = 0x0201 ∧ msg.target = 0) ∨ (msg.mcode = 0x0102 ∧ msg.target = 1)) :=
  ⟨st { upMsg with fw := SMap.put {} 2 { st := .absent, limitPassed := true } }, 0, { msn := 1, mcode := 0x301, target := 2 }, by decide +kernel⟩

theorem wit_FirmwareImages_1 : ∃ (s : State) (msg : MgmtMsg), ServedAtOnce s.m 0 msg 0x0102 1 :=
  ⟨st upMsg, { msn := 1, mcode := 0x102, target := 1 }, by decide +kernel⟩

theorem wit_FirmwareImages_2 : ∃ (s : State) (msg : MgmtMsg), ServedAtOnce s.m 0 msg 0x0100 1 ∧ s.m.activation = none ∧
  0x181000 ≤ bodyField msg 0 8 ∧ bodyField msg 0 8 + bodyField msg 8 4 ≤ 0x181000 + 520192 ∧ bodyField msg 0 8 < 0x181000
  + 520192 :=
  ⟨st upMsg, { msn := 1, mcode := 0x100, target := 1, body := [0x00, 0x10, 0x18] }, by decide +kernel⟩

theorem wit_FirmwareImages_3 : ∃ (s : State) (msg : MgmtMsg), ServedAtOnce s.m 0 msg 0x0100 1 ∧ s.m.activation = none ∧
  bodyField msg 0 8 < 0x181000 :=
  ⟨st upMsg, { msn := 1, mcode := 0x100, target := 1 }, by decide +kernel⟩

theorem wit_FirmwareImages_4 : ∃ (s : State) (msg : MgmtMsg), ServedAtOnce s.m 0 msg 0x0101 1 ∧ s.m.activation = none ∧
  (s.m.flash.slots.get (1 - s.m.flash.active)).valid = true ∧ s.m.flash.minSvn ≤ (s.m.flash.slots.get (1 -
  s.m.flash.active)).svn ∧ (s.m.proc 32).st = .running ∧ (s.m.proc 32).limitPassed = false :=
  ⟨st { upMsg with flash := { slots := SMap.put {} 1 { valid := true } } }, { msn := 1, mcode := 0x101, target := 1 }, by decide +kernel⟩

theorem wit_FirmwareImages_5 : ∃ (s : State) (msg : MgmtMsg), ServedAtOnce s.m 0 msg 0x0101 1 ∧ (s.m.flash.slots.get (1 -
  s.m.flash.active)).valid = false :=
  ⟨st { upMsg with flash := { slots := SMap.put {} 1 { valid := false } } }, { msn := 1, mcode := 0x101, target := 1 }, by decide +kernel⟩

theorem wit_FirmwareImages_6 : ∃ (s : State) (fn : Nat) (msg : MgmtMsg) (code : Nat), ServedAtOnce s.m fn msg code 1 ∧ fn
  ≠ 0 :=
  ⟨st { upM with start := { stage := 11, ready := true, linkUp := true, perst := false, numVfs := 4 }, fns := SMap.put {} 3 { mrqTail := 9 } }, 3, { msn := 1, mcode := 0x100, target := 1 }, 0x100, by decide +kernel⟩

theorem wit_KeyMessages_1 : ∃ (s : State) (msg : MgmtMsg), ServedAtOnce s.m 0 msg 0x0110 1 ∧ bodyField msg 0 1 < 64 ∧
  bodyField msg 1 1 < 8 ∧ bodyField msg 8 8 + 2592 ≤ 520192 ∧ (range' 0 8).all (fun k => k == bodyField msg 1 1 || decide
  (s.m.sec.keys.get (8 * bodyField msg 0 1 + k) = none)) = true :=
  ⟨st upMsg, { msn := 1, mcode := 0x110, target := 1, body := [5, 2] }, by decide +kernel⟩

theorem wit_KeyMessages_2 : ∃ (s : State) (msg : MgmtMsg), ServedAtOnce s.m 0 msg 0x0111 1 ∧ bodyField msg 0 1 < 64 ∧
  bodyField msg 1 1 < 8 :=
  ⟨st upMsg, { msn := 1, mcode := 0x111, target := 1, body := [5, 2] }, by decide +kernel⟩

theorem wit_KeyMessages_3 : ∃ (s : State) (msg : MgmtMsg), ServedAtOnce s.m 0 msg 0x0130 1 ∧ bodyField msg 0 8 + sigBytes
  ≤ 520192 ∧ s.m.parts.cells.any (fun c => c.2.regs.en) = true :=
  ⟨st { upMsg with parts := SMap.put {} 1 { regs := { en := true } } }, { msn := 1, mcode := 0x130, target := 1 }, by decide +kernel⟩

theorem wit_KeyMessages_4 : ∃ (s : State) (msg : MgmtMsg), ServedAtOnce s.m 0 msg 0x0130 1 ∧ bodyField msg 0 8 + sigBytes
  ≤ 520192 ∧ s.m.parts.cells.any (fun c => c.2.regs.en) = false :=
  ⟨st upMsg, { msn := 1, mcode := 0x130, target := 1 }, by decide +kernel⟩

theorem wit_KeyMessages_5 : ∃ (s : State) (msg : MgmtMsg), ServedAtOnce s.m 0 msg 0x0120 1 ∧ bodyField msg 0 1 = 0 ∧
  bodyField msg 8 8 % 4096 = 0 :=
  ⟨st upMsg, { msn := 1, mcode := 0x120, target := 1 }, by decide +kernel⟩

theorem wit_KeyMessages_6 : ∃ (s : State) (fn : Nat) (msg : MgmtMsg), ServedAtOnce s.m fn msg 0x0120 1 ∧ fn ≠ 0 ∧
  bodyField msg 0 1 = 0 :=
  ⟨st { upM with start := { stage := 11, ready := true, linkUp := true, perst := false, numVfs := 4 }, fns := SMap.put {} 3 { mrqTail := 9 } }, 3, { msn := 1, mcode := 0x120, target := 1 }, by decide +kernel⟩

theorem wit_KeyMessages_7 : ∃ (s : State) (fn : Nat) (msg : MgmtMsg), ServedAtOnce s.m fn msg 0x0121 1 ∧ bodyField msg 0 8
  % 4096 = 0 :=
  ⟨st upMsg, 0, { msn := 1, mcode := 0x121, target := 1 }, by decide +kernel⟩

theorem wit_KeyMessages_8 : ∃ (s : State) (fn : Nat) (msg : MgmtMsg), ServedAtOnce s.m fn msg 0x0121 1 ∧ bodyField msg 0 8
  % 4096 ≠ 0 :=
  ⟨st upMsg, 0, { msn := 1, mcode := 0x121, target := 1, body := [1] }, by decide +kernel⟩

theorem wit_DebugPort_2 : ∃ (s : State), s.m.sec.debug = false :=
  ⟨st upM, by decide +kernel⟩

theorem wit_DebugPort_3 : ∃ (s : State), s.m.sec.debug = true :=
  ⟨st { upM with sec := { debug := true } }, by decide +kernel⟩

theorem wit_SchedulerMessages_1 : ∃ (s : State) (fn : Nat) (msg : MgmtMsg), ServedAtOnce s.m fn msg 0x0201 0 :=
  ⟨st upMsg, 0, { msn := 1, mcode := 0x201 }, by decide +kernel⟩

theorem wit_SchedulerMessages_2 : ∃ (s : State) (fn : Nat) (msg : MgmtMsg), ServedAtOnce s.m fn msg 0x0200 0 ∧ bodyField
  msg 0 1 < 64 ∧ (fn = 0 ∨ ownPart s.m fn = some (bodyField msg 0 1)) :=
  ⟨st upMsg, 0, { msn := 1, mcode := 0x200 }, by decide +kernel⟩

theorem wit_SchedulerMessages_3 : ∃ (s : State) (fn : Nat) (msg : MgmtMsg), ServedAtOnce s.m fn msg 0x0200 0 ∧ bodyField
  msg 0 1 < 64 ∧ fn ≠ 0 ∧ ownPart s.m fn ≠ some (bodyField msg 0 1) :=
  ⟨st { upM with start := { stage := 11, ready := true, linkUp := true, perst := false, numVfs := 4 }, fns := SMap.put {} 3 { mrqTail := 9 } }, 3, { msn := 1, mcode := 0x200 }, by decide +kernel⟩

theorem wit_SchedulerMessages_4 : ∃ (s : State) (fn : Nat) (msg : MgmtMsg) (p : Nat), ServedAtOnce s.m fn msg 0x0210 0 ∧
  (s.m.proc 1).st = .running ∧ ownPart s.m fn = some p ∧ (s.m.part p).swaths.all (fun w => w.id != bodyField msg 0 8 ||
  !w.ready) = true :=
  ⟨st { upM with fns := SMap.put {} 0 { mrqTail := 9, bound := true, part := 3 } }, 0, { msn := 1, mcode := 0x210 }, 3, by decide +kernel⟩

theorem wit_SchedulerMessages_5 : ∃ (s : State) (fn : Nat) (msg : MgmtMsg) (p : Nat) (w : Swath) (b : Mem), ServedAtOnce
  s.m fn msg 0x0210 0 ∧ (s.m.proc 1).st = .running ∧ (s.m.fn fn).mgmtWait = [] ∧ ownPart s.m fn = some p ∧ swathOf s.m p
  (bodyField msg 0 8) = some w ∧ w.ready = true ∧ b = (s.m.part p).range.slice (bodyField msg 8 8) (bodyField msg 0x10 4)
  ∧ bodyField msg 8 8 + bodyField msg 0x10 4 ≤ rangeEnd s.m p ∧ bodyField msg 0x18 8 + sigBytes ≤ rangeEnd s.m p ∧
  programHeaderOk b (bodyField msg 0 8) (bodyField msg 0x10 4) = true :=
  ⟨st fabLoadM, 0, fabLoadMsg, 3, fabLoadW, (fabLoadM.part 3).range.slice 0 128, by decide +kernel⟩

theorem wit_EthernetPorts_1 : ∃ (s : State) (port : Nat) (qp : Nat) (q : Qp), QpLive s.m port qp q :=
  ⟨st ethM, 1, 5, { reads := [(⟨0, 2, 9⟩, 0, 128)] }, by decide +kernel⟩

theorem wit_EthernetPorts_2 : ∃ (s : State) (port : Nat) (qp : Nat), port < 2 ∧ qp < 1024 ∧ (s.m.eth.get port).en = true ∧
  (s.m.eth.get port).linkUp = true :=
  ⟨st ethM, 1, 5, by decide +kernel⟩

theorem wit_EthernetPorts_3 : ∃ (s : State) (port : Nat) (qp : Nat) (q : Qp) (i : ItemRef) (off : Nat) (left : Nat) (rest
  : List (ItemRef × Nat × Nat)) (x : Item), QpLive s.m port qp q ∧ q.reads = (i, off, left) :: rest ∧ q.retries < 7 ∧
  findItem s.m i = some x :=
  ⟨st ethM, 1, 5, { reads := [(⟨0, 2, 9⟩, 0, 128)] }, ⟨0, 2, 9⟩, 0, 128, [], { ref := ⟨0, 2, 9⟩, opcode := 5, desc := 0, st := .running }, by decide +kernel⟩

theorem wit_EthernetPorts_4 : ∃ (s : State) (port : Nat) (qp : Nat) (q : Qp) (i : ItemRef) (off : Nat) (left : Nat) (rest
  : List (ItemRef × Nat × Nat)) (x : Item), QpLive s.m port qp q ∧ q.reads = (i, off, left) :: rest ∧ q.retries < 7 ∧
  findItem s.m i = some x :=
  ⟨st ethM, 1, 5, { reads := [(⟨0, 2, 9⟩, 0, 128)] }, ⟨0, 2, 9⟩, 0, 128, [], { ref := ⟨0, 2, 9⟩, opcode := 5, desc := 0, st := .running }, by decide +kernel⟩

theorem wit_EthernetPorts_5 : ∃ (s : State) (port : Nat), port < 2 ∧ (s.m.eth.get port).linkUp = true :=
  ⟨st ethM, 1, by decide +kernel⟩

theorem wit_EthernetPorts_6 : ∃ (s : State) (port : Nat), port < 2 ∧ (s.m.eth.get port).en = true ∧
  s.m.power.domains.getLsbD (2649 + port) = true :=
  ⟨st ethM, 1, by decide +kernel⟩

theorem wit_EthernetPorts_7 : ∃ (s : State) (port : Nat) (qp : Nat) (p : Nat) (data : List Byte) (q : Qp) (i : ItemRef)
  (off : Nat) (left : Nat) (rest : List (ItemRef × Nat × Nat)) (x : Item), QpLive s.m port qp q ∧ q.reads = (i, off, left)
  :: rest ∧ findItem s.m i = some x ∧ x.st = .running ∧ itemPart s.m i = some p ∧ 0 < data.length ∧ data.length ≤ left ∧
  data.length ≤ mtuBytes q.mtu ∧ regEmpty s.m p 3 = false ∧ tierWaits s.m p (wDst x + off) data.length = false ∧ wDst x +
  off + data.length ≤ rangeEnd s.m p ∧ poisonedIn s.m p (wDst x + off) data.length = none ∧ x.landed.get (off /
  (manifestAt s.m p (wManifest x)).chunk) + data.length ≠ (manifestAt s.m p (wManifest x)).len (off / (manifestAt s.m p
  (wManifest x)).chunk) :=
  ⟨st ethM, 1, 5, 3, [1, 2, 3], { reads := [(⟨0, 2, 9⟩, 0, 128)] }, ⟨0, 2, 9⟩, 0, 128, [], { ref := ⟨0, 2, 9⟩, opcode := 5, desc := 0, st := .running }, by decide +kernel⟩

theorem wit_EthernetPorts_8 : ∃ (s : State) (fn : Nat) (msg : MgmtMsg), ServedAtOnce s.m fn msg 0x0220 0 ∧ bodyField msg 0
  1 < 2 ∧ bodyField msg 1 2 < 1024 ∧ bodyField msg 31 1 < 3 :=
  ⟨st upMsg, 0, { msn := 1, mcode := 0x220, body := [1, 5] }, by decide +kernel⟩

theorem wit_EthernetPorts_9 : ∃ (s : State) (fn : Nat) (msg : MgmtMsg), ServedAtOnce s.m fn msg 0x0221 0 ∧ bodyField msg 0
  1 < 2 ∧ bodyField msg 1 2 < 1024 ∧ (loadsOver s.m (bodyField msg 0 1) fun q => q == bodyField msg 1 2) = [] :=
  ⟨st upMsg, 0, { msn := 1, mcode := 0x221, body := [1, 5] }, by decide +kernel⟩

theorem wit_EthernetPorts_10 : ∃ (s : State) (fn : Nat) (msg : MgmtMsg), ServedAtOnce s.m fn msg 0x0310 2 ∧ bodyField msg
  0 1 < 12 ∧ bodyField msg 3 1 ≤ 128 :=
  ⟨st upMsg, 0, { msn := 1, mcode := 0x310, target := 2 }, by decide +kernel⟩

theorem wit_EthernetPorts_11 : ∃ (s : State) (fn : Nat) (msg : MgmtMsg), ServedAtOnce s.m fn msg 0x0311 2 ∧ bodyField msg
  0 1 < 12 ∧ bodyField msg 3 1 ≤ 128 ∧ (bodyField msg 1 1 = 0x10 ∨ bodyField msg 1 1 = 0x11) :=
  ⟨st upMsg, 0, { msn := 1, mcode := 0x311, target := 2, body := [4, 0x10] }, by decide +kernel⟩

theorem wit_EthernetPorts_12 : ∃ (s : State) (link : Nat), link < 12 ∧ (s.m.proc 2).st = .running :=
  ⟨st upM, 4, by decide +kernel⟩

theorem wit_EthernetPorts_13 : ∃ (s : State) (link : Nat), link < 12 ∧ (s.m.proc 2).st = .running ∧ (s.m.link link).st =
  .up :=
  ⟨st { upM with fabric := { links := SMap.put {} 4 { st := .up } } }, 4, by decide +kernel⟩

theorem wit_Doorbells_1 : ∃ (s : State) (fn : Nat) (ring : Nat) (v : Word), BellRings s.m fn ring ∧ (s.m.ring fn
  ring).sqEn = true ∧ ((v - lastFetched (s.m.ring fn ring)).toNat = 0 ∨ 2 ^ 31 ≤ (v - lastFetched (s.m.ring fn
  ring)).toNat) :=
  ⟨st (upRing { sqEn := true }), 0, 2, 0, by decide +kernel⟩

theorem wit_Doorbells_2 : ∃ (s : State) (fn : Nat) (ring : Nat) (v : Word), BellRings s.m fn ring ∧ (s.m.ring fn
  ring).sqEn = true ∧ 1 ≤ (v - lastFetched (s.m.ring fn ring)).toNat ∧ (v - lastFetched (s.m.ring fn ring)).toNat ≤ 2 ^
  (s.m.ring fn ring).sqLog2 ∧ (v - lastFetched (s.m.ring fn ring)).toNat < 2 ^ 31 :=
  ⟨st (upRing { sqEn := true }), 0, 2, 64, by decide +kernel⟩

theorem wit_Doorbells_3 : ∃ (s : State) (fn : Nat) (ring : Nat) (v : Word), BellRings s.m fn ring ∧ (s.m.ring fn
  ring).sqEn = true ∧ 2 ^ (s.m.ring fn ring).sqLog2 < (v - lastFetched (s.m.ring fn ring)).toNat ∧ (v - lastFetched
  (s.m.ring fn ring)).toNat < 2 ^ 31 :=
  ⟨st (upRing { sqEn := true }), 0, 2, 65, by decide +kernel⟩

theorem wit_Doorbells_4 : ∃ (s : State) (fn : Nat) (ring : Nat), BellRings s.m fn ring ∧ (s.m.ring fn ring).cqEn = true :=
  ⟨st (upRing { cqEn := true, cqNext := 5 }), 0, 2, by decide +kernel⟩

theorem wit_Doorbells_5 : ∃ (s : State) (fn : Nat) (v : Word), WriteActs s.m fn blkRing 4 ∧ 6 ≤ v.toNat % 32 ∧ v.toNat %
  32 ≤ 16 ∧ v.getLsbD 8 = true ∧ (s.m.ring fn (s.m.fn fn).sel.ring).sqEn = false :=
  ⟨st (upSel { ring := 2 }), 0, 0x106, by decide +kernel⟩

theorem wit_Doorbells_6 : ∃ (s : State) (fn : Nat) (v : Word), WriteActs s.m fn blkRing 8 ∧ 6 ≤ v.toNat % 32 ∧ v.toNat %
  32 ≤ 16 ∧ (s.m.ring fn (s.m.fn fn).sel.ring).cqEn = false :=
  ⟨st (upSel { ring := 2 }), 0, 0x106, by decide +kernel⟩

theorem wit_Doorbells_7 : ∃ (s : State) (fn : Nat) (v : Word), WriteActs s.m fn blkRing 8 ∧ (s.m.ring fn (s.m.fn
  fn).sel.ring).cqEn = true ∧ (v.toNat % 32 ≠ (s.m.ring fn (s.m.fn fn).sel.ring).cqLog2 ∨ (v.getLsbD 8 = false ∧ (s.m.ring
  fn (s.m.fn fn).sel.ring).items.any (fun x => x.st != .written) = true)) :=
  ⟨st { upM with fns := SMap.put {} 0 { sel := { ring := 2 }, rings := SMap.put {} 2 { cqEn := true } } }, 0, 0x107, by decide +kernel⟩

theorem wit_DescriptorFetch_1 : ∃ (s : State) (fn : Nat) (ring : Nat) (d : BitVec 512), fnOk fn = true ∧ ringOk ring =
  true ∧ mayFetch s.m fn ring = true ∧ dfield d 0 4 = (s.m.ring fn ring).sqNext.toNat ∧ itemPart s.m
  ⟨fn, ring, (s.m.ring fn ring).sqNext.toNat⟩ = none ∧ (s.m.fn fn).pendAborts = [] :=
  ⟨st (upRing { sqEn := true, cqEn := true, sqDb := 5 }), 0, 2, 1, by decide +kernel⟩

theorem wit_DescriptorFetch_2 : ∃ (s : State) (fn : Nat) (ring : Nat) (d : BitVec 512), fnOk fn = true ∧ ringOk ring =
  true ∧ mayFetch s.m fn ring = true ∧ dfield d 0 4 ≠ (s.m.ring fn ring).sqNext.toNat ∧ (s.m.fn fn).pendAborts = [] :=
  ⟨st (upRing { sqEn := true, cqEn := true, sqDb := 5 }), 0, 2, 7, by decide +kernel⟩

theorem wit_DescriptorFetch_3 : ∃ (s : State) (fn : Nat) (ring : Nat), fnOk fn = true ∧ ringOk ring = true ∧ mayFetch s.m
  fn ring = true :=
  ⟨st (upRing { sqEn := true, cqEn := true, sqDb := 5 }), 0, 2, by decide +kernel⟩

theorem wit_DescriptorFetch_4 : ∃ (s : State) (i : ItemRef) (x : Item) (p : Nat), i.ok = true ∧ findItem s.m i = some x ∧
  itemPart s.m i = some p ∧ readsHost x = true ∧ x.terminal = false ∧ x.opcode = opMove ∧ slotOf s.m i = none ∧ x.st =
  .running :=
  ⟨st { upM with fns := SMap.put {} 0 { bound := true, part := 3, rings := SMap.put {} 2 { items := [hostReadItem] } } }, ⟨0, 2, 9⟩, hostReadItem, 3, by decide +kernel⟩

theorem wit_Completions_1 : ∃ (s : State) (fn : Nat) (ring : Nat) (v : Nat) (w : Waiting) (x : Item), fnOk fn = true ∧
  ringOk ring = true ∧ hostAlive s.m = true ∧ (s.m.fn fn).resetting = false ∧ (s.m.ring fn ring).cqEn = true ∧ (s.m.ring
  fn ring).batch < 64 ∧ ((s.m.ring fn ring).cqNext - (s.m.ring fn ring).cqDb).toNat ≤ 2 ^ (s.m.ring fn ring).cqLog2 ∧
  (s.m.ring fn ring).waiting = [w] ∧ w.after = none ∧ w.detail = .val v ∧ w.terminal = true ∧ w.ref =
  ⟨fn, ring, x.ref.ssn⟩ ∧ findItem s.m w.ref = some x ∧ slotOf s.m w.ref = none :=
  ⟨st (upRing { cqEn := true, waiting := [{ waiter with detail := .val 7 }], items := [hostReadItem] }), 0, 2, 7, { waiter with detail := .val 7 }, hostReadItem, by decide +kernel⟩

theorem wit_Completions_2 : ∃ (s : State) (fn : Nat) (ring : Nat), fnOk fn = true ∧ ringOk ring = true ∧ (s.m.ring fn
  ring).cqEn = true ∧ (64 ≤ (s.m.ring fn ring).batch ∨ 2 ^ (s.m.ring fn ring).cqLog2 < ((s.m.ring fn ring).cqNext -
  (s.m.ring fn ring).cqDb).toNat) :=
  ⟨st (upRing { cqEn := true, batch := 64, waiting := [waiter] }), 0, 2, by decide +kernel⟩

theorem wit_Completions_3 : ∃ (s : State) (fn : Nat) (ring : Nat), fnOk fn = true ∧ ringOk ring = true ∧ hostAlive s.m =
  true ∧ (s.m.fn fn).resetting = false ∧ (s.m.ring fn ring).batch ≠ 0 :=
  ⟨st (upRing { batch := 3 }), 0, 2, by decide +kernel⟩

theorem wit_Completions_4 : ∃ (s : State) (fn : Nat) (ring : Nat), fnOk fn = true ∧ ringOk ring = true ∧ hostAlive s.m =
  true ∧ (s.m.fn fn).resetting = false ∧ (s.m.ring fn ring).intEn = true ∧ (s.m.ring fn ring).modTime ≠ 0 ∧ 0 < (s.m.ring
  fn ring).uncovered :=
  ⟨st (upRing { intEn := true, modTime := 4, uncovered := 2, batch := 1 }), 0, 2, by decide +kernel⟩

theorem wit_Completions_5 : ∃ (s : State) (fn : Nat), fnOk fn = true ∧ hostAlive s.m = true ∧ (s.m.fn fn).evtWritten ≠
  (s.m.fn fn).evtLast :=
  ⟨st { upM with fns := SMap.put {} 5 { evtWritten := 3 } }, 5, by decide +kernel⟩

theorem wit_Completions_6 : ∃ (s : State) (fn : Nat), fnOk fn = true ∧ hostAlive s.m = true ∧ (s.m.fn fn).respWritten ≠
  (s.m.fn fn).mrsLast :=
  ⟨st { upM with fns := SMap.put {} 5 { respWritten := 3 } }, 5, by decide +kernel⟩

theorem wit_FunctionResets_1 : ∃ (s : State) (v : Word), WriteActs s.m 0 blkHif 0x24 ∧ (s.m.fn 0).sel.fn ≤
  s.m.start.numVfs ∧ enabledRings s.m (s.m.fn 0).sel.fn = [] ∧ v.getLsbD 9 = false :=
  ⟨st upM, 0x103, by decide +kernel⟩

theorem wit_FunctionResets_2 : ∃ (s : State) (v : Word), WriteActs s.m 0 blkHif 0x24 ∧ enabledRings s.m (s.m.fn 0).sel.fn
  ≠ [] ∧ (v.getLsbD 8 ≠ (s.m.fn (s.m.fn 0).sel.fn).bound ∨ v.toNat % 64 ≠ (s.m.fn (s.m.fn 0).sel.fn).part) :=
  ⟨st (upRing { sqEn := true }), 0x103, by decide +kernel⟩

theorem wit_FunctionResets_3 : ∃ (s : State) (v : Word), WriteActs s.m 0 blkHif 0x24 ∧ (s.m.fn 0).sel.fn ≤
  s.m.start.numVfs ∧ (s.m.fn 0).sel.fn ≠ 0 ∧ v.getLsbD 9 = true ∧ v.getLsbD 8 = (s.m.fn (s.m.fn 0).sel.fn).bound ∧ v.toNat
  % 64 = (s.m.fn (s.m.fn 0).sel.fn).part ∧ (s.m.fn (s.m.fn 0).sel.fn).resetting = false :=
  ⟨st { upM with start := { stage := 11, ready := true, linkUp := true, perst := false, numVfs := 4 }, fns := SMap.put {} 0 { sel := { fn := 3 } } }, 0x200, by decide +kernel⟩

theorem wit_FunctionResets_4 : ∃ (s : State) (fn : Nat), fnOk fn = true ∧ s.m.start.linkUp = true ∧ s.m.start.perst =
  false ∧ fn ≤ s.m.start.numVfs ∧ (s.m.fn fn).resetting = false :=
  ⟨st (upRing { sqEn := true }), 0, by decide +kernel⟩

theorem wit_FunctionResets_5 : ∃ (s : State) (fn : Nat), fnOk fn = true ∧ (s.m.fn fn).resetting = true :=
  ⟨st { upM with fns := SMap.put {} 0 { resetting := true } }, 0, by decide +kernel⟩

theorem wit_FunctionResets_6 : ∃ (s : State) (fn : Nat), fnOk fn = true ∧ (s.m.fn fn).resetting = true ∧ (itemsOf s.m
  fn).all (fun i => (findItem s.m i).all fun x => x.st != .running) = true :=
  ⟨st { upRing { sqEn := true } with fns := SMap.put {} 0 { resetting := true, resets := 4 } }, 0, by decide +kernel⟩

theorem wit_TickSettings_1 : ∃ (s : State) (v : Word), WriteActs s.m 0 blkTick 8 ∧ (v.toNat % 64 < 4 ∨ 50 < v.toNat % 64)
  :=
  ⟨st upM, 3, by decide +kernel⟩

theorem wit_TickSettings_2 : ∃ (s : State) (v : Word), WriteActs s.m 0 blkTick 4 ∧ s.m.tick.role = .manager ∧ (v.toNat <
  20000 ∨ 200000000 < v.toNat) :=
  ⟨st upMgr, 3, by decide +kernel⟩

theorem wit_TaStage_1 : ∃ (s : State) (block : Nat) (off : Nat) (v : Word), isTa block off = true ∧ WriteActs s.m 0 block
  off ∧ noBoundary s.m = false ∧ partBusy s.m (selPart s.m 0 block) block = false ∧ taJudge s.m block off v.toNat = .stage
  ∧ (s.m.tick.staged.get block).length < 64 :=
  ⟨st upMgr, 9, 0x10, 5, by decide +kernel⟩

theorem wit_TaStage_2 : ∃ (s : State) (block : Nat) (off : Nat) (v : Word), isTa block off = true ∧ WriteActs s.m 0 block
  off ∧ noBoundary s.m = false ∧ partBusy s.m (selPart s.m 0 block) block = false ∧ taJudge s.m block off v.toNat = .stage
  ∧ 64 ≤ (s.m.tick.staged.get block).length :=
  ⟨st { upMgr with tick := { role := .manager, sync := .locked, staged := SMap.put {} 9 (List.replicate 64 ⟨0x900010, 0, 1⟩) } }, 9, 0x10, 5, by decide +kernel⟩

theorem wit_WideMailbox_1 : ∃ (s : State) (fn : Nat) (sel : BitVec 16), WriteActs s.m fn blkHif 0x40 ∧ (s.m.fn
  fn).box.valid = true ∧ wideExists sel.toNat = true ∧ wideOffered s.m fn sel.toNat = true :=
  ⟨st upM, 0, 0x0201, by decide +kernel⟩

theorem wit_WideMailbox_2 : ∃ (s : State) (fn : Nat) (sel : BitVec 16), WriteActs s.m fn blkHif 0x40 ∧ (s.m.fn
  fn).box.valid = true ∧ (wideExists sel.toNat = false ∨ wideOffered s.m fn sel.toNat = false) :=
  ⟨st upM, 0, 0x0301, by decide +kernel⟩

theorem wit_WideMailbox_3 : ∃ (s : State) (fn : Nat), WriteActs s.m fn blkHif 0x40 ∧ (s.m.fn fn).box.valid = false :=
  ⟨st { upM with fns := SMap.put {} 0 { box := { valid := false } } }, 0, by decide +kernel⟩

theorem wit_WideMailbox_4 : ∃ (s : State) (fn : Nat) (x : Selects), WriteActs s.m fn blkHif 0x40 ∧ wideOffered s.m fn
  0x0103 = true ∧ (s.m.fn fn).box.valid = true ∧ (s.m.fn fn).box.latched = some (0x0103, x) ∧ (s.m.fn fn).box.d0.toNat %
  64 = 0 :=
  ⟨st { upM with fns := SMap.put {} 0 { box := { latched := some (0x0103, { ring := 3 }), d0 := 0x1000, d1 := 2 } } }, 0, { ring := 3 }, by decide +kernel⟩

theorem wit_WideMailbox_5 : ∃ (s : State) (fn : Nat) (x : Selects), WriteActs s.m fn blkHif 0x40 ∧ wideOffered s.m fn
  0x0103 = true ∧ (s.m.fn fn).box.valid = true ∧ (s.m.fn fn).box.latched = some (0x0103, x) ∧ (s.m.fn fn).box.d0.toNat %
  64 ≠ 0 :=
  ⟨st { upM with fns := SMap.put {} 0 { box := { latched := some (0x0103, { ring := 3 }), d0 := 0x1001, d1 := 2 } } }, 0, { ring := 3 }, by decide +kernel⟩

theorem wit_Partitions_1 : ∃ (s : State) (v : Word), WriteActs s.m 0 blkPart 4 ∧ partBusy s.m (s.m.fn 0).sel.part blkPart
  = false ∧ v.getLsbD 0 = true ∧ v.getLsbD 1 = false ∧ (s.m.part (s.m.fn 0).sel.part).regs.pool = false ∧ csQuotasOk s.m =
  true :=
  ⟨st (upSel { part := 3 }), 1, by decide +kernel⟩

theorem wit_Partitions_2 : ∃ (s : State) (v : Word), WriteActs s.m 0 blkPart 8 ∧ partBusy s.m (s.m.fn 0).sel.part blkPart
  = false ∧ v.getLsbD 0 = true ∧ v.getLsbD 1 = false :=
  ⟨st (upSel { part := 3 }), 1, by decide +kernel⟩

theorem wit_Partitions_3 : ∃ (s : State) (v : Word), WriteActs s.m 0 blkPart 8 ∧ partBusy s.m (s.m.fn 0).sel.part blkPart
  = false ∧ v.getLsbD 0 = false ∧ v.getLsbD 1 = false ∧ (s.m.part (s.m.fn 0).sel.part).regs.drain = true :=
  ⟨st { upSel { part := 3 } with parts := SMap.put {} 3 { regs := { drain := true } } }, 0, by decide +kernel⟩

theorem wit_Partitions_4 : ∃ (s : State) (v : Word), WriteActs s.m 0 blkPart 8 ∧ partBusy s.m (s.m.fn 0).sel.part blkPart
  = false ∧ v.getLsbD 1 = true :=
  ⟨st (upSel { part := 3 }), 2, by decide +kernel⟩

theorem wit_Partitions_5 : ∃ (s : State) (p : Nat), partOk p = true ∧ (s.m.part p).regs.busy = true ∧ (boundTo s.m p).all
  (fun f => !(s.m.fn f).resetting) = true :=
  ⟨st { upM with parts := SMap.put {} 3 { regs := { busy := true } } }, 3, by decide +kernel⟩

theorem wit_Partitions_6 : ∃ (s : State) (fn : Nat), WriteActs s.m fn blkPart 4 ∧ fn ≠ 0 ∧ (s.m.fn fn).err.writeErr =
  false :=
  ⟨st { upM with start := { stage := 11, ready := true, linkUp := true, perst := false, numVfs := 4 }, fns := SMap.put {} 3 { bound := true, part := 5 } }, 3, by decide +kernel⟩

theorem wit_ClusterCounters_1 : ∃ (s : State) (k : Nat), k < 32 ∧ reaches s.m 0 = true ∧ s.m.start.ready = true ∧
  s.m.start.startFail = false ∧ s.m.power.domains.getLsbD (2560 + k) = true :=
  ⟨st upM, 4, by decide +kernel⟩

theorem wit_ClusterCounters_2 : ∃ (s : State) (k : Nat), k < 32 ∧ reaches s.m 0 = true ∧ s.m.start.ready = true ∧
  s.m.start.startFail = false ∧ s.m.power.domains.getLsbD (2560 + k) = true :=
  ⟨st upM, 4, by decide +kernel⟩

theorem wit_ClusterCounters_3 : ∃ (s : State) (k : Nat), k < 32 ∧ (s.m.clu k).busy = true :=
  ⟨st { upM with clusters := SMap.put {} 4 { busy := true, clr := 1, freeze := 1 } }, 4, by decide +kernel⟩

theorem wit_ClusterCounters_4 : ∃ (s : State) (fn : Nat), WriteActs s.m fn blkRing 0 :=
  ⟨st upM, 0, by decide +kernel⟩

theorem wit_ClusterCounters_5 : ∃ (s : State) (fn : Nat) (off : Nat) (data : List Byte) (enables : List Bool), fnOk fn =
  true ∧ reaches s.m fn = true ∧ data.length = enables.length ∧ data ≠ [] ∧ accessOk off data enables = false ∧ isMsix off
  = false :=
  ⟨st upM, 0, 2, [1, 2, 3, 4], [true, true, true, true], by decide +kernel⟩

theorem wit_ClusterCounters_6 : ∃ (s : State) (off : Nat) (data : List Byte) (enables : List Bool), bellReaches s.m 0 =
  true ∧ data.length = enables.length ∧ enables.all id = true ∧ 0x181000 ≤ off ∧ off + data.length ≤ 0x200000 ∧ off <
  0x200000 :=
  ⟨st upM, 0x181010, [1, 2, 3], [true, true, true], by decide +kernel⟩

theorem wit_ClusterCounters_7 : ∃ (s : State) (off : Nat) (data : List Byte) (enables : List Bool), data.length =
  enables.length ∧ accessOk off data enables = true ∧ debugHit s.m 0 0 off = true :=
  ⟨st { upM with sec := { debug := true } }, 0x2000000, [1, 2, 3, 4], [true, true, true, true], by decide +kernel⟩

theorem wit_ClusterCounters_8 : ∃ (s : State), reaches s.m 0 = true :=
  ⟨st upM, by decide +kernel⟩

theorem wit_ClusterCounters_9 : ∃ (s : State) (fn : Nat) (a : Nat) (v : Nat), reaches s.m fn = true ∧ a < barBytes fn ∧
  debugHit s.m fn 0 a = false ∧ a % 4 = 0 ∧ readWord s.m fn a = some v :=
  ⟨st upM, 0, 0x200004, 2000000, by decide +kernel⟩

theorem wit_ClusterCounters_10 : ∃ (s : State) (fn : Nat) (a : Nat) (n : Nat), reaches s.m fn = true ∧ a < barBytes fn ∧
  debugHit s.m fn 0 a = false ∧ (readSizeOk a n = false ∨ readWord s.m fn (a / 4 * 4) = none) :=
  ⟨st upM, 0, 0x200000, 4, by decide +kernel⟩

theorem wit_ClusterCounters_11 : ∃ (s : State) (k : Nat), k < 32 ∧ reaches s.m 0 = true ∧ s.m.start.startFail = false ∧
  s.m.power.domains.getLsbD (2560 + k) = true :=
  ⟨st upM, 4, by decide +kernel⟩

theorem wit_CellsAndSyncs_1 : ∃ (s : State) (i : ItemRef) (x : Item) (y : Item) (p : Nat), ItemAt s.m i x p opAbort
  .dispatched ∧ findItem s.m (targetOf i x.desc) = some y ∧ [opAbort, opSync, opQuery].contains y.opcode = false ∧ (y.st =
  .fetched ∨ y.st = .dispatched) ∧ unstoppable s.m p (targetOf i x.desc) y = false :=
  ⟨st (upItems [itm opAbort (5 * 2 ^ 32 + 2), { itm opStep 0 with ref := ⟨0, 2, 5⟩ }]), ⟨0, 2, 9⟩, itm opAbort (5 * 2 ^ 32 + 2), { itm opStep 0 with ref := ⟨0, 2, 5⟩ }, 3, by decide +kernel⟩

theorem wit_CellsAndSyncs_2 : ∃ (s : State) (i : ItemRef) (x : Item) (y : Item) (p : Nat), ItemAt s.m i x p opAbort
  .dispatched ∧ findItem s.m (targetOf i x.desc) = some y ∧ [opAbort, opSync, opQuery].contains y.opcode = false ∧
  y.terminal = true ∧ inWindow (s.m.ring (targetOf i x.desc).fn (targetOf i x.desc).ring) (targetOf i x.desc).ssn = true
  :=
  ⟨st (upItems [itm opAbort (5 * 2 ^ 32 + 2), { itm opStep 0 with ref := ⟨0, 2, 5⟩, st := .written }]), ⟨0, 2, 9⟩, itm opAbort (5 * 2 ^ 32 + 2), { itm opStep 0 with ref := ⟨0, 2, 5⟩, st := .written }, 3, by decide +kernel⟩

theorem wit_CellsAndSyncs_3 : ∃ (s : State) (i : ItemRef) (x : Item) (p : Nat), ItemAt s.m i x p opAbort .dispatched ∧
  findItem s.m (targetOf i x.desc) = none ∧ toCome (s.m.ring (targetOf i x.desc).fn (targetOf i x.desc).ring) (targetOf i
  x.desc).ssn = true ∧ (s.m.ring (targetOf i x.desc).fn (targetOf i x.desc).ring).sqEn = true ∧ (s.m.fn
  i.fn).pendAborts.length < 64 :=
  ⟨st (upItems [itm opAbort (12 * 2 ^ 32 + 2)]), ⟨0, 2, 9⟩, itm opAbort (12 * 2 ^ 32 + 2), 3, by decide +kernel⟩

theorem wit_CellsAndSyncs_4 : ∃ (s : State) (i : ItemRef) (x : Item) (p : Nat), ItemAt s.m i x p opAbort .dispatched ∧
  findItem s.m (targetOf i x.desc) = none ∧ toCome (s.m.ring (targetOf i x.desc).fn (targetOf i x.desc).ring) (targetOf i
  x.desc).ssn = false :=
  ⟨st (upItems [itm opAbort (8 * 2 ^ 32 + 2)]), ⟨0, 2, 9⟩, itm opAbort (8 * 2 ^ 32 + 2), 3, by decide +kernel⟩

theorem wit_CellsAndSyncs_5 : ∃ (s : State) (i : ItemRef) (x : Item) (p : Nat), ItemAt s.m i x p opSync .dispatched ∧
  x.waits.all (settled s.m) = true :=
  ⟨st (upItems [{ itm opSync 0 with waits := [⟨0, 2, 5⟩] }]), ⟨0, 2, 9⟩, { itm opSync 0 with waits := [⟨0, 2, 5⟩] }, 3, by decide +kernel⟩

theorem wit_CellsAndSyncs_6 : ∃ (s : State) (i : ItemRef) (x : Item) (p : Nat), ItemAt s.m i x p opSync .dispatched ∧
  x.waits.all (settled s.m) = false :=
  ⟨st (upItems [{ itm opSync 0 with waits := [⟨0, 2, 5⟩] }, { itm opStep 0 with ref := ⟨0, 2, 5⟩ }]), ⟨0, 2, 9⟩, { itm opSync 0 with waits := [⟨0, 2, 5⟩] }, 3, by decide +kernel⟩

theorem wit_CellsAndSyncs_7 : ∃ (s : State) (i : ItemRef) (x : Item) (p : Nat), ItemAt s.m i x p opQuery .dispatched ∧
  dfield x.desc 0x1A 2 = 0 ∧ regEmpty s.m p 4 = false ∧ (s.m.fn i.fn).resetting = false :=
  ⟨st (upItems [itm opQuery (64 * 2 ^ 64 + 5 * 2 ^ 32 + 2)]), ⟨0, 2, 9⟩, itm opQuery (64 * 2 ^ 64 + 5 * 2 ^ 32 + 2), 3, by decide +kernel⟩

theorem wit_CellsAndSyncs_8 : ∃ (s : State) (i : ItemRef) (x : Item) (p : Nat) (slot : Nat) (q : Request), ItemAt s.m i x
  p opQuery .dispatched ∧ dfield x.desc 0x1A 2 = 1 ∧ regEmpty s.m p 4 = false ∧ (s.m.fn i.fn).resetting = false ∧ slotOf
  s.m (targetOf i x.desc) = some slot ∧ s.m.slots.get slot = some q :=
  ⟨st (upReq .paused [itm opQuery (64 * 2 ^ 64 + 5 * 2 ^ 32 + 1 * 2 ^ 16 + 2)]), ⟨0, 2, 9⟩, itm opQuery (64 * 2 ^ 64 + 5 * 2 ^ 32 + 1 * 2 ^ 16 + 2), 3, 4, req5 .paused, by decide +kernel⟩

theorem wit_CellsAndSyncs_9 : ∃ (s : State) (i : ItemRef) (x : Item) (p : Nat), ItemAt s.m i x p opQuery .dispatched ∧
  regEmpty s.m p 4 = true :=
  ⟨st { upItems [itm opQuery 0] with parts := SMap.put {} 3 { regs := { rate := SMap.put {} 4 1, level := SMap.put {} 4 0 } } }, ⟨0, 2, 9⟩, itm opQuery 0, 3, by decide +kernel⟩

theorem wit_RunsOpen_1 : ∃ (s : State) (i : ItemRef) (x : Item) (p : Nat) (n : Nat) (v : Serving), ItemAt s.m i x p opStep
  .dispatched ∧ servingOf s.m p (dfield x.desc 0x18 8) = some v ∧ dfield x.desc 0x26 2 ≤ v.reqMax ∧ dfield x.desc 0x28 4 ≤
  v.tokensMax ∧ runOf s.m p (dfield x.desc 0x18 8) = none ∧ modelBroken s.m p (dfield x.desc 0x18 8) = false ∧ (dfield
  x.desc 0x24 2 = 0 ∨ capTooHigh s.m p (dfield x.desc 0x18 8) (dfield x.desc 0x24 2) = false) ∧ freeRun s.m p = some n :=
  ⟨st { upItems [itm opStep (3 * 2 ^ 64 + 7)] with parts := SMap.put {} 3 servePart }, ⟨0, 2, 9⟩, itm opStep (3 * 2 ^ 64 + 7), 3, 0, serveRec, by decide +kernel⟩

theorem wit_RunsOpen_2 : ∃ (s : State) (i : ItemRef) (x : Item) (p : Nat), ItemAt s.m i x p opStep .dispatched ∧ servingOf
  s.m p (dfield x.desc 0x18 8) = none :=
  ⟨st (upItems [itm opStep (3 * 2 ^ 64 + 7)]), ⟨0, 2, 9⟩, itm opStep (3 * 2 ^ 64 + 7), 3, by decide +kernel⟩

theorem wit_RunsOpen_3 : ∃ (s : State) (i : ItemRef) (x : Item) (p : Nat) (v : Serving), ItemAt s.m i x p opStep
  .dispatched ∧ servingOf s.m p (dfield x.desc 0x18 8) = some v ∧ (v.reqMax < dfield x.desc 0x26 2 ∨ v.tokensMax < dfield
  x.desc 0x28 4) :=
  ⟨st { upItems [itm opStep (9 * 2 ^ 112 + 3 * 2 ^ 64 + 7)] with parts := SMap.put {} 3 servePart }, ⟨0, 2, 9⟩, itm opStep (9 * 2 ^ 112 + 3 * 2 ^ 64 + 7), 3, serveRec, by decide +kernel⟩

theorem wit_RunsOpen_4 : ∃ (s : State) (i : ItemRef) (x : Item) (p : Nat) (n : Nat), ItemAt s.m i x p opRunGraph
  .dispatched ∧ runOf s.m p (dfield x.desc 0x18 8) = none ∧ modelBroken s.m p (dfield x.desc 0x18 8) = false ∧ (dfield
  x.desc 0x24 2 = 0 ∨ capTooHigh s.m p (dfield x.desc 0x18 8) (dfield x.desc 0x24 2) = false) ∧ freeRun s.m p = some n :=
  ⟨st { upItems [itm opRunGraph (3 * 2 ^ 64 + 7)] with parts := SMap.put {} 3 servePart }, ⟨0, 2, 9⟩, itm opRunGraph (3 * 2 ^ 64 + 7), 3, 0, by decide +kernel⟩

theorem wit_RunsOpen_5 : ∃ (s : State) (i : ItemRef) (x : Item) (p : Nat) (r : Run), ItemAt s.m i x p opRunGraph
  .dispatched ∧ runOf s.m p (dfield x.desc 0x18 8) = some r :=
  ⟨st { upItems [itm opRunGraph (3 * 2 ^ 64 + 7)] with parts := SMap.put {} 3 { runs := [{ num := 0, graph := true, model := 7, item := ⟨0, 2, 3⟩, count := 1 }] } }, ⟨0, 2, 9⟩, itm opRunGraph (3 * 2 ^ 64 + 7), 3, { num := 0, graph := true, model := 7, item := ⟨0, 2, 3⟩, count := 1 }, by decide +kernel⟩

theorem wit_Requests_1 : ∃ (s : State) (i : ItemRef) (block : List Byte) (prompt : List Nat) (x : Item) (p : Nat) (slot :
  Nat) (v : Serving) (a : Asked) (r : SMap Nat 0) (m1 : Module), ItemAt s.m i x p opAdmit .dispatched ∧ earlierAdmit s.m x
  = false ∧ block.length = 128 ∧ regEmpty s.m p 4 = false ∧ servingReady s.m p (leNat (block.take 8)) = some v ∧ blockBad
  (regTake s.m p 4 ((128 + 4 * prompt.length + 63) / 64)) p block (some v) = none ∧ askedOf (regTake s.m p 4 ((128 + 4 *
  prompt.length + 63) / 64)) i x p block prompt v = some a ∧ prompt.length = leNat ((block.drop 0x18).take 4) ∧ (reqsOf
  s.m p).length < (s.m.part p).regs.srvQuota ∧ lowestFree s.m 0 65536 = some slot ∧ reserve (regTake s.m p 4 ((128 + 4 *
  prompt.length + 63) / 64)) p (firstTierOf s.m p) a.pages = some (r, m1) ∧ (startLists m1 i p a.q).2 = true :=
  ⟨st { upItems [itm opAdmit 0] with parts := SMap.put {} 3 servePart }, ⟨0, 2, 9⟩, admitBlock, [5], itm opAdmit 0, 3, 0, serveRec, admitAsked, (admitTaken.getD ({}, {})).1, (admitTaken.getD ({}, {})).2, by decide +kernel⟩

theorem wit_Requests_2 : ∃ (s : State) (i : ItemRef) (block : List Byte) (prompt : List Nat) (x : Item) (p : Nat) (o :
  Nat), ItemAt s.m i x p opAdmit .dispatched ∧ earlierAdmit s.m x = false ∧ block.length = 128 ∧ regEmpty s.m p 4 = false
  ∧ blockBad (regTake s.m p 4 ((128 + 4 * prompt.length + 63) / 64)) p block (servingReady s.m p (leNat (block.take 8))) =
  some o :=
  ⟨st { upItems [itm opAdmit 0] with parts := SMap.put {} 3 servePart }, ⟨0, 2, 9⟩, List.replicate 128 0, [], itm opAdmit 0, 3, 0x18, by decide +kernel⟩

theorem wit_Requests_3 : ∃ (s : State) (i : ItemRef) (block : List Byte) (prompt : List Nat) (x : Item) (p : Nat) (v :
  Serving) (a : Asked), ItemAt s.m i x p opAdmit .dispatched ∧ earlierAdmit s.m x = false ∧ block.length = 128 ∧ regEmpty
  s.m p 4 = false ∧ servingReady s.m p (leNat (block.take 8)) = some v ∧ blockBad (regTake s.m p 4 ((128 + 4 *
  prompt.length + 63) / 64)) p block (some v) = none ∧ askedOf (regTake s.m p 4 ((128 + 4 * prompt.length + 63) / 64)) i x
  p block prompt v = some a ∧ prompt.length = leNat ((block.drop 0x18).take 4) ∧ (s.m.part p).regs.srvQuota ≤ (reqsOf s.m
  p).length :=
  ⟨st { upItems [itm opAdmit 0] with parts := SMap.put {} 3 { servePart with regs := { srvQuota := 0 } } }, ⟨0, 2, 9⟩, admitBlock, [5], itm opAdmit 0, 3, serveRec, admitAsked, by decide +kernel⟩

theorem wit_Requests_4 : ∃ (s : State) (i : ItemRef) (block : List Byte) (x : Item) (p : Nat), ItemAt s.m i x p opAdmit
  .dispatched ∧ block.length = 128 ∧ earlierAdmit s.m x = true :=
  ⟨st (upItems [itm opAdmit 0, { itm opAdmit 0 with ref := ⟨0, 2, 5⟩ }]), ⟨0, 2, 9⟩, admitBlock, itm opAdmit 0, 3, by decide +kernel⟩

theorem wit_Requests_5 : ∃ (s : State) (i : ItemRef) (x : Item) (p : Nat) (slot : Nat) (q : Request), ItemAt s.m i x p
  opPause .dispatched ∧ slotOf s.m (targetOf i x.desc) = some slot ∧ s.m.slots.get slot = some q ∧ (q.st = .waiting ∨ q.st
  = .running) :=
  ⟨st (upReq .waiting [itm opPause (5 * 2 ^ 32 + 2)]), ⟨0, 2, 9⟩, itm opPause (5 * 2 ^ 32 + 2), 3, 4, req5 .waiting, by decide +kernel⟩

theorem wit_Requests_6 : ∃ (s : State) (i : ItemRef) (x : Item) (p : Nat), ItemAt s.m i x p opPause .dispatched ∧ slotOf
  s.m (targetOf i x.desc) = none :=
  ⟨st (upItems [itm opPause (5 * 2 ^ 32 + 2)]), ⟨0, 2, 9⟩, itm opPause (5 * 2 ^ 32 + 2), 3, by decide +kernel⟩

theorem wit_Requests_7 : ∃ (s : State) (i : ItemRef) (x : Item) (p : Nat) (slot : Nat) (q : Request), ItemAt s.m i x p
  opResume .dispatched ∧ slotOf s.m (targetOf i x.desc) = some slot ∧ s.m.slots.get slot = some q ∧ q.st = .paused :=
  ⟨st (upReq .paused [itm opResume (5 * 2 ^ 32 + 2)]), ⟨0, 2, 9⟩, itm opResume (5 * 2 ^ 32 + 2), 3, 4, req5 .paused, by decide +kernel⟩

theorem wit_Requests_8 : ∃ (s : State) (i : ItemRef) (x : Item) (p : Nat), ItemAt s.m i x p opResume .dispatched ∧ slotOf
  s.m (targetOf i x.desc) = none :=
  ⟨st (upItems [itm opResume (5 * 2 ^ 32 + 2)]), ⟨0, 2, 9⟩, itm opResume (5 * 2 ^ 32 + 2), 3, by decide +kernel⟩

theorem wit_SwathLoads_1 : ∃ (s : State) (i : ItemRef) (x : Item) (p : Nat), ItemAt s.m i x p opLoadSwath .dispatched ∧
  earlierLoad s.m p x = false ∧ (badRun s.m p i (dfield x.desc 0x18 8) (64 * dfield x.desc 0x20 1)).isNone = true ∧
  listBad (loadList s.m p x.desc) = none ∧ (loadImages s.m p i x).isSome = true ∧ (loadList s.m p x.desc).all (fun e =>
  (badRun s.m p i e.signature sigBytes).isNone) = true :=
  ⟨st loadM, ⟨0, 2, 9⟩, loadItem, 3, by decide +kernel⟩

theorem wit_SwathLoads_2 : ∃ (s : State) (i : ItemRef) (x : Item) (p : Nat), ItemAt s.m i x p opLoadSwath .running ∧
  x.progress = 1 ∧ (loadList s.m p x.desc).any (fun e => tierWaits s.m p e.image e.bytes) = false ∧ streamBad (loading s.m
  p i) = none :=
  ⟨st (upPart { mem := { rangePages := 4 }, range := loadRange, swaths := [{ id := 9, loader := some ⟨0, 2, 9⟩ }] } [{ loadItem with st := .running, progress := 1 }]), ⟨0, 2, 9⟩, { loadItem with st := .running, progress := 1 }, 3, by decide +kernel⟩

theorem wit_WeightLoads_1 : ∃ (s : State) (i : ItemRef) (x : Item) (p : Nat), ItemAt s.m i x p opLoadWeights .dispatched ∧
  wSource x ≠ 1 ∧ (wSource x = 3 → (s.m.fab p).en = true ∧ (s.m.fab p).rank ≠ 0) ∧ (manifestsOf s.m p).length < 256 ∧
  (badRun s.m p i (wManifest x) 0x80).isNone = true ∧ manifestBad s.m p (wManifest x) = none ∧ dfield x.desc 0x38 8 =
  (manifestAt s.m p (wManifest x)).total ∧ 0 < (manifestAt s.m p (wManifest x)).total ∧ (badRun s.m p i (wManifest x)
  ((manifestAt s.m p (wManifest x)).bytes + sigBytes)).isNone = true ∧ wDst x + (manifestAt s.m p (wManifest x)).total ≤
  rangeEnd s.m p ∧ (wSource x ≠ 2 → (backForWrite s.m p (if dfield x.desc 0x31 1 = 0xFF then firstTierOf s.m p else dfield
  x.desc 0x31 1) (wDst x) (manifestAt s.m p (wManifest x)).total).2 = none) ∧ x.att = none ∧ x.progress = 0 ∧ x.landed =
  {} :=
  ⟨st (upPart { mem := { rangePages := 4, quota := SMap.put {} 0 8 }, range := manifestRange } [weightItem]), ⟨0, 2, 9⟩, weightItem, 3, by decide +kernel⟩

theorem wit_WeightLoads_2 : ∃ (s : State) (i : ItemRef) (x : Item) (p : Nat), ItemAt s.m i x p opLoadWeights .dispatched ∧
  wSource x = 1 ∧ (manifestsOf s.m p).length < 256 ∧ (badRun s.m p i (wManifest x) 0x80).isNone = true ∧ manifestBad s.m p
  (wManifest x) = none ∧ dfield x.desc 0x38 8 = (manifestAt s.m p (wManifest x)).total ∧ 0 < (manifestAt s.m p (wManifest
  x)).total ∧ (badRun s.m p i (wManifest x) ((manifestAt s.m p (wManifest x)).bytes + sigBytes)).isNone = true ∧ wDst x +
  (manifestAt s.m p (wManifest x)).total ≤ rangeEnd s.m p ∧ dfield x.desc 0x28 8 + 64 ≤ rangeEnd s.m p ∧ ethBlockOk s.m p
  (dfield x.desc 0x28 8) = true ∧ ethConnected s.m (ethBlock s.m p (dfield x.desc 0x28 8)) = true ∧ (ethPorts (ethBlock
  s.m p (dfield x.desc 0x28 8))).all (fun port => !heldOff s.m (2649 + port) && (s.m.eth.get port).linkUp) = true ∧
  (backForWrite s.m p (if dfield x.desc 0x31 1 = 0xFF then firstTierOf s.m p else dfield x.desc 0x31 1) (wDst x)
  (manifestAt s.m p (wManifest x)).total).2 = none ∧ x.att = none ∧ x.progress = 0 ∧ x.landed = {} :=
  ⟨st { upPart { mem := { rangePages := 4, quota := SMap.put {} 0 8 }, range := ethRange } [ethWeightItem] with eth := SMap.put {} 0 { en := true, linkUp := true, qps := SMap.put {} 5 (some {}) } }, ⟨0, 2, 9⟩, ethWeightItem, 3, by decide +kernel⟩

theorem wit_WeightLoads_3 : ∃ (s : State) (i : ItemRef) (data : List Byte) (x : Item) (p : Nat), ItemAt s.m i x p
  opLoadWeights .running ∧ wSource x = 0 ∧ x.progress < (manifestAt s.m p (wManifest x)).chunks ∧ data.length =
  (manifestAt s.m p (wManifest x)).len x.progress ∧ tierWaits s.m p (wDst x + x.progress * (manifestAt s.m p (wManifest
  x)).chunk) data.length = false ∧ (badRun s.m p i (wDst x + x.progress * (manifestAt s.m p (wManifest x)).chunk)
  data.length).isNone = true ∧ regEmpty s.m p 4 = false ∧ (s.m.fab p).en = false :=
  ⟨st (upPart { mem := { rangePages := 4 }, range := twoChunks } [{ weightItem with st := .running }]), ⟨0, 2, 9⟩, List.replicate 64 7, { weightItem with st := .running }, 3, by decide +kernel⟩

theorem wit_WeightLoads_4 : ∃ (s : State) (i : ItemRef) (x : Item) (p : Nat), ItemAt s.m i x p opLoadWeights .running ∧
  (wSource x = 1 ∨ wSource x = 3 ∨ (manifestAt s.m p (wManifest x)).chunks ≤ x.progress) :=
  ⟨st (upPart { mem := { rangePages := 4 } } [{ weightItem with st := .running }]), ⟨0, 2, 9⟩, { weightItem with st := .running }, 3, by decide +kernel⟩

theorem wit_WeightLoads_5 : ∃ (s : State) (i : ItemRef) (x : Item) (p : Nat), ItemAt s.m i x p opLoadWeights .running ∧
  wSource x = 3 :=
  ⟨st (upPart {} [{ itm opLoadWeights (3 * 2 ^ 192) with st := .running }]), ⟨0, 2, 9⟩, { itm opLoadWeights (3 * 2 ^ 192) with st := .running }, 3, by decide +kernel⟩

theorem wit_WeightLoads_6 : ∃ (s : State) (i : ItemRef) (x : Item) (p : Nat), ItemAt s.m i x p opLoadWeights .running ∧
  (s.m.fab p).en = true ∧ (s.m.fab p).fwd = true ∧ (s.m.fab p).rank + 1 < (s.m.fab p).nranks ∧ x.fwdBroken = false :=
  ⟨st { upPart {} [{ weightItem with st := .running }] with fabParts := SMap.put {} 3 { en := true, fwd := true, rank := 0, nranks := 2 } }, ⟨0, 2, 9⟩, { weightItem with st := .running }, 3, by decide +kernel⟩

theorem wit_SwapsAndMoves_1 : ∃ (s : State) (i : ItemRef) (x : Item) (p : Nat), ItemAt s.m i x p opSwap .dispatched ∧
  (badRun s.m p i (dfield x.desc 0x20 8) 0x80).isNone = true ∧ dfield x.desc 0x28 8 + dfield x.desc 0x38 8 ≤ rangeEnd s.m
  p ∧ dfield x.desc 0x30 8 + dfield x.desc 0x38 8 ≤ rangeEnd s.m p :=
  ⟨st (upPart { mem := { rangePages := 4 }, range := manifestRange } [swapItem]), ⟨0, 2, 9⟩, swapItem, 3, by decide +kernel⟩

theorem wit_SwapsAndMoves_2 : ∃ (s : State) (i : ItemRef) (x : Item) (p : Nat) (w : Swap), ItemAt s.m i x p opSwap
  .running ∧ (s.m.part p).swaps.find? (fun t => t.item == i) = some w ∧ w.held = true ∧ w.copying = false ∧ modelBusy s.m
  p w.model = false ∧ (backForWrite s.m p (firstTierOf s.m p) w.target w.bytes).2 = none :=
  ⟨st (upPart { mem := { rangePages := 4, quota := SMap.put {} 0 8 }, swaps := [swap9] } [{ swapItem with st := .running }]), ⟨0, 2, 9⟩, { swapItem with st := .running }, 3, swap9, by decide +kernel⟩

theorem wit_SwapsAndMoves_3 : ∃ (s : State) (i : ItemRef) (x : Item) (p : Nat) (w : Swap), ItemAt s.m i x p opSwap
  .running ∧ (s.m.part p).swaps.find? (fun t => t.item == i) = some w ∧ w.copying = true ∧ tierWaits s.m p w.stage w.bytes
  = false ∧ tierWaits s.m p w.target w.bytes = false ∧ poisonedIn s.m p w.stage w.bytes = none ∧ poisonedIn s.m p w.target
  w.bytes = none :=
  ⟨st (upPart { mem := { rangePages := 4 }, swaps := [{ swap9 with copying := true }] } [{ swapItem with st := .running }]), ⟨0, 2, 9⟩, { swapItem with st := .running }, 3, { swap9 with copying := true }, by decide +kernel⟩

theorem wit_SwapsAndMoves_4 : ∃ (s : State) (i : ItemRef) (x : Item) (p : Nat), ItemAt s.m i x p opMove .dispatched ∧
  mvKind x = 0 ∧ dfield x.desc 0x19 1 ≤ 2 ∧ (dfield x.desc 0x19 1 = 2 → homeFits s.m (mvPlace x) ((range' (mvSrc x /
  pageSize) (mvLen x / pageSize)).filter fun g => !inPlace s.m ((s.m.part p).pages.get g) (dfield x.desc 0x19 1) (mvPlace
  x)).length = true) ∧ (badRun s.m p i (mvSrc x) (mvLen x)).isNone = true ∧ (range' (mvSrc x / pageSize) (mvLen x /
  pageSize)).all (fun g => ((s.m.part p).pages.get g).mig.isNone) = true ∧ (range' (mvSrc x / pageSize) (mvLen x /
  pageSize)).all (fun g => !((s.m.part p).pages.get g).locked && !(fixedPages s.m p).contains g) = true ∧ ((range' (mvSrc
  x / pageSize) (mvLen x / pageSize)).filter fun g => !inPlace s.m ((s.m.part p).pages.get g) (dfield x.desc 0x19 1)
  (mvPlace x)).length ≤ min (quotaRoom s.m p (dfield x.desc 0x19 1)) (freeIn s.m (dfield x.desc 0x19 1)) :=
  ⟨st (upPart { mem := { rangePages := 4, quota := SMap.put {} 1 8 }, pages := SMap.put {} 0 { tier := some .sward } } [itm opMove (0x400000 * 2 ^ 192 + 1 * 2 ^ 8)]), ⟨0, 2, 9⟩, itm opMove (0x400000 * 2 ^ 192 + 1 * 2 ^ 8), 3, by decide +kernel⟩

theorem wit_SwapsAndMoves_5 : ∃ (s : State) (i : ItemRef) (x : Item) (p : Nat), ItemAt s.m i x p opMove .dispatched ∧
  mvKind x = 0 ∧ bit (dfield x.desc 0x1B 1) 1 = false ∧ (badRun s.m p i (mvSrc x) (mvLen x)).isNone = true ∧ (range'
  (mvSrc x / pageSize) (mvLen x / pageSize)).all (fun g => ((s.m.part p).pages.get g).mig.isNone) = true ∧ (range' (mvSrc
  x / pageSize) (mvLen x / pageSize)).any (fun g => ((s.m.part p).pages.get g).locked && ((s.m.part p).pages.get g).tier
  == some .sward) = true ∧ dfield x.desc 0x19 1 = 1 :=
  ⟨st (upPart { mem := { rangePages := 4 }, pages := SMap.put {} 0 { tier := some .sward, locked := true } } [itm opMove (0x400000 * 2 ^ 192 + 1 * 2 ^ 8)]), ⟨0, 2, 9⟩, itm opMove (0x400000 * 2 ^ 192 + 1 * 2 ^ 8), 3, by decide +kernel⟩

theorem wit_SwapsAndMoves_6 : ∃ (s : State) (i : ItemRef) (x : Item) (p : Nat), ItemAt s.m i x p opMove .dispatched ∧
  mvKind x = 1 ∧ (badRun s.m p i (mvSrc x) (mvLen x)).isNone = true ∧ regEmpty s.m p 4 = false :=
  ⟨st (upPart { mem := { rangePages := 4 } } [itm opMove (64 * 2 ^ 192 + 1)]), ⟨0, 2, 9⟩, itm opMove (64 * 2 ^ 192 + 1), 3, by decide +kernel⟩

theorem wit_SwapsAndMoves_7 : ∃ (s : State) (i : ItemRef) (data : List Byte) (x : Item) (p : Nat), ItemAt s.m i x p opMove
  .running ∧ mvKind x = 1 ∧ data.length % 64 = 0 ∧ (badRun s.m p i (mvSrc x + x.progress) data.length).isNone = true ∧
  x.progress + data.length ≤ mvLen x ∧ tierWaits s.m p (mvSrc x + x.progress) data.length = false ∧ regEmpty s.m p 4 =
  false ∧ (s.m.fn i.fn).resetting = false :=
  ⟨st (upPart { mem := { rangePages := 4 } } [{ itm opMove (64 * 2 ^ 192 + 1) with st := .running }]), ⟨0, 2, 9⟩, List.replicate 64 0, { itm opMove (64 * 2 ^ 192 + 1) with st := .running }, 3, by decide +kernel⟩

theorem wit_SwapsAndMoves_8 : ∃ (s : State) (i : ItemRef) (data : List Byte) (x : Item) (p : Nat), ItemAt s.m i x p opMove
  .running ∧ mvKind x = 2 ∧ data.length % 64 = 0 ∧ (badRun s.m p i (mvDst x + x.progress) data.length).isNone = true ∧
  x.progress + data.length ≤ mvLen x ∧ tierWaits s.m p (mvDst x + x.progress) data.length = false ∧ regEmpty s.m p 4 =
  false :=
  ⟨st (upPart { mem := { rangePages := 4 } } [{ itm opMove (64 * 2 ^ 192 + 2) with st := .running }]), ⟨0, 2, 9⟩, List.replicate 64 5, { itm opMove (64 * 2 ^ 192 + 2) with st := .running }, 3, by decide +kernel⟩

theorem wit_SwapsAndMoves_9 : ∃ (s : State) (i : ItemRef) (data : List Byte) (x : Item) (p : Nat), ItemAt s.m i x p opMove
  .running ∧ mvKind x = 3 ∧ data.length % 64 = 0 ∧ (badRun s.m p i (mvSrc x + x.progress) data.length).isNone = true ∧
  (badRun s.m p i (mvDst x + x.progress) data.length).isNone = true ∧ x.progress + data.length ≤ mvLen x ∧ tierWaits s.m p
  (mvSrc x + x.progress) data.length = false ∧ tierWaits s.m p (mvDst x + x.progress) data.length = false ∧ (mvSrc x +
  mvLen x ≤ mvDst x ∨ mvDst x + mvLen x ≤ mvSrc x) :=
  ⟨st (upPart { mem := { rangePages := 4 }, range := [(3, 8)] } [{ itm opMove (64 * 2 ^ 192 + 0x200000 * 2 ^ 128 + 3) with st := .running }]), ⟨0, 2, 9⟩, List.replicate 64 5, { itm opMove (64 * 2 ^ 192 + 0x200000 * 2 ^ 128 + 3) with st := .running }, 3, by decide +kernel⟩

theorem wit_SwapsAndMoves_10 : ∃ (s : State) (i : ItemRef) (x : Item) (p : Nat), ItemAt s.m i x p opMove .running ∧ mvKind
  x ≠ 0 ∧ x.progress = mvLen x :=
  ⟨st (upPart {} [{ itm opMove (64 * 2 ^ 192 + 2) with st := .running, progress := 64 }]), ⟨0, 2, 9⟩, { itm opMove (64 * 2 ^ 192 + 2) with st := .running, progress := 64 }, 3, by decide +kernel⟩

theorem wit_SwapsAndMoves_11 : ∃ (s : State) (i : ItemRef) (x : Item) (p : Nat), ItemAt s.m i x p opEvict .dispatched ∧
  dfield x.desc 0x18 1 = 3 ∧ dfield x.desc 0x30 8 + dfield x.desc 0x38 8 ≤ rangeEnd s.m p ∧ (range' (dfield x.desc 0x30 8
  / pageSize) (dfield x.desc 0x38 8 / pageSize)).all (fun g => ((s.m.part p).pages.get g).mig.isNone) = true ∧ (range'
  (dfield x.desc 0x30 8 / pageSize) (dfield x.desc 0x38 8 / pageSize)).all (fun g => !((s.m.part p).pages.get g).locked &&
  !(fixedPages s.m p).contains g && ((s.m.part p).pages.get g).heldBy == 0) = true :=
  ⟨st (upPart { mem := { rangePages := 4 }, pages := SMap.put {} 0 { tier := some .sward }, range := [(3, 8)] } [itm opEvict (0x200000 * 2 ^ 256 + 3)]), ⟨0, 2, 9⟩, itm opEvict (0x200000 * 2 ^ 256 + 3), 3, by decide +kernel⟩

theorem wit_SwapsAndMoves_12 : ∃ (s : State) (i : ItemRef) (x : Item) (p : Nat), ItemAt s.m i x p opEvict .dispatched ∧
  dfield x.desc 0x18 1 = 0 ∧ (s.m.part p).swaths.any (fun w => w.id == dfield x.desc 0x20 8) = true ∧ (s.m.part
  p).swaths.all (fun w => w.id != dfield x.desc 0x20 8 || !(swathBusy s.m p w || hasRun s.m p w.model)) = true :=
  ⟨st (upPart { swaths := [{ id := 7, ready := true }, { id := 8 }] } [itm opEvict (7 * 2 ^ 64)]), ⟨0, 2, 9⟩, itm opEvict (7 * 2 ^ 64), 3, by decide +kernel⟩

theorem wit_SwapsAndMoves_13 : ∃ (s : State) (i : ItemRef) (x : Item) (p : Nat), ItemAt s.m i x p opEvict .dispatched ∧
  dfield x.desc 0x18 1 = 0 ∧ (s.m.part p).swaths.any (fun w => w.id == dfield x.desc 0x20 8) = false :=
  ⟨st (upPart { swaths := [{ id := 8 }] } [itm opEvict (7 * 2 ^ 64)]), ⟨0, 2, 9⟩, itm opEvict (7 * 2 ^ 64), 3, by decide +kernel⟩

theorem wit_SwapsAndMoves_14 : ∃ (s : State) (i : ItemRef) (x : Item) (p : Nat), ItemAt s.m i x p opEvict .dispatched ∧
  dfield x.desc 0x18 1 = 1 ∧ ((s.m.part p).swaths.any (fun w => w.model == dfield x.desc 0x20 8) = true ∨ (s.m.part
  p).prefixes.any (fun z => z.model == dfield x.desc 0x20 8) = true) ∧ hasRun s.m p (dfield x.desc 0x20 8) = false ∧
  (s.m.part p).swaths.all (fun w => w.model != dfield x.desc 0x20 8 || !swathBusy s.m p w) = true ∧ (s.m.part
  p).pages.cells.all (fun c => c.2.mig.isNone) = true :=
  ⟨st (upPart { swaths := [{ id := 7, model := 5, ready := true }, { id := 8 }] } [itm opEvict (5 * 2 ^ 64 + 1)]), ⟨0, 2, 9⟩, itm opEvict (5 * 2 ^ 64 + 1), 3, by decide +kernel⟩

theorem wit_SwapsAndMoves_15 : ∃ (s : State) (i : ItemRef) (x : Item) (p : Nat), ItemAt s.m i x p opEvict .dispatched ∧
  dfield x.desc 0x18 1 = 2 ∧ (s.m.part p).prefixes.any (fun z => z.model == dfield x.desc 0x20 8 && z.num == dfield x.desc
  0x28 2) = true ∧ hasRun s.m p (dfield x.desc 0x20 8) = false ∧ (s.m.part p).pages.cells.all (fun c => c.2.mig.isNone) =
  true :=
  ⟨st (upPart { prefixes := [{ model := 5, num := 2, srv := some serveRec, pages := [] }] } [itm opEvict (2 * 2 ^ 128 + 5 * 2 ^ 64 + 2)]), ⟨0, 2, 9⟩, itm opEvict (2 * 2 ^ 128 + 5 * 2 ^ 64 + 2), 3, by decide +kernel⟩

theorem wit_Fences_1 : ∃ (s : State) (value : Word), WriteActs s.m 0 blkRas 4 ∧ value.toNat % 4096 < 2560 ∧ s.m.live
  (value.toNat % 4096) = true :=
  ⟨st (upLive upM), 0x25, by decide +kernel⟩

theorem wit_Fences_2 : ∃ (s : State) (value : Word), WriteActs s.m 0 blkRas 4 ∧ s.m.live (value.toNat % 4096) = false :=
  ⟨st upM, 0x25, by decide +kernel⟩

theorem wit_Fences_3 : ∃ (s : State) (place : ErrPlace), place.ok = true ∧ (ownCore place = none ∨ ((s.m.ras.ceTimes.get
  ((ownCore place).getD 0)).filter fun t => s.m.tick.ns < t + 3600000000000).length < s.m.ras.ceLimit) :=
  ⟨st upM, .path 1 2, by decide +kernel⟩

theorem wit_Fences_4 : ∃ (s : State) (c : Nat) (k : Nat) (a : Nat), (ErrPlace.core c k a).ok = true ∧ s.m.live c = true ∧
  s.m.ras.ceLimit ≤ ((s.m.ras.ceTimes.get c).filter fun t => s.m.tick.ns < t + 3600000000000).length :=
  ⟨st (upLive { upM with ras := { ceLimit := 0 } }), 7, 0, 64, by decide +kernel⟩

theorem wit_Fences_5 : ∃ (s : State) (c : Nat) (k : Nat) (a : Nat), (ErrPlace.core c k a).ok = true ∧ s.m.live c = true :=
  ⟨st (upLive upM), 7, 0, 64, by decide +kernel⟩

theorem wit_Fences_6 : ∃ (c : Nat) (a : Nat), (ErrPlace.core c 0 a).ok = true :=
  ⟨7, 64, by decide +kernel⟩

theorem wit_Fences_7 : ∃ (k : Nat) (u : Nat), (ErrPlace.path k u).ok = true :=
  ⟨1, 2, by decide +kernel⟩

theorem wit_Fences_8 : ∃ (s : State) (unit : Nat), unit < 8 ∧ s.m.mem.healthSward.getLsbD unit = true :=
  ⟨st { upM with mem := { healthSward := 255 } }, 3, by decide +kernel⟩

theorem wit_Fences_9 : ∃ (s : State) (part : Nat) (core : Nat) (r : Recovery), partOk part = true ∧ coreOk core = true ∧
  s.m.ras.active.find? (fun r => r.part = part && r.core = core && r.placed.isEmpty) = some r ∧ (s.m.proc (32 + core /
  80)).st = .running ∧ (replaceAll s.m part (groupOf core)).2 = true ∧ ((replaceAll s.m part (groupOf core)).1.part
  part).replay = none ∧ (s.m.ras.queues.get part).head?.all (fun q => q.abort.isNone) = true :=
  ⟨st { upM with ras := { active := [{ core := 7, part := 3, cause := 0, tick := 0 }] } }, 3, 7, { core := 7, part := 3, cause := 0, tick := 0 }, by decide +kernel⟩

theorem wit_Fences_10 : ∃ (s : State) (part : Nat) (core : Nat) (r : Recovery), partOk part = true ∧ coreOk core = true ∧
  s.m.ras.active.find? (fun r => r.part = part && r.core = core && r.placed.isEmpty) = some r ∧ (s.m.proc (32 + core /
  80)).st ≠ .running ∧ core ∉ (s.m.clu (core / 80)).holding ∧ (s.m.clu (core / 80)).holding.length < 256 :=
  ⟨st { upProc 32 { st := .restarting } with ras := { active := [{ core := 7, part := 3, cause := 0, tick := 0 }] } }, 3, 7, { core := 7, part := 3, cause := 0, tick := 0 }, by decide +kernel⟩

theorem wit_Losses_1 : ∃ (s : State) (tier : Nat) (unit : Nat) (part : Nat) (page : Nat), tier < 3 ∧ partOk part = true ∧
  unit < 64 ∧ onUnit ((s.m.part part).pages.get page) tier unit = true ∧ ((s.m.part part).pages.get page).poison = false ∧
  (runningItems s.m part).all (fun x => !(itemPages s.m part x).contains page) = true ∧ (stepPages s.m part).contains page
  = false :=
  ⟨st (upPart { mem := { rangePages := 4 }, pages := SMap.put {} 2 { tier := some .ley } } []), 1, 5, 3, 2, by decide +kernel⟩

theorem wit_Losses_2 : ∃ (s : State) (tier : Nat) (unit : Nat) (part : Nat) (page : Nat), tier < 3 ∧ partOk part = true ∧
  unit < 64 ∧ onUnit ((s.m.part part).pages.get page) tier unit = false :=
  ⟨st upM, 1, 5, 3, 2, by decide +kernel⟩

theorem wit_Losses_3 : ∃ (s : State) (k : Nat), k < 8 ∧ s.m.mem.healthSward.getLsbD k = true :=
  ⟨st { upM with mem := { healthSward := 255 } }, 3, by decide +kernel⟩

theorem wit_Losses_4 : ∃ (s : State) (c : Nat), c < 64 ∧ s.m.mem.lostLey.getLsbD c = false :=
  ⟨st upM, 9, by decide +kernel⟩

theorem wit_Losses_5 : ∃ (s : State) (l : Nat), l < 12 ∧ ((s.m.link l).st = .up ∨ (s.m.link l).st = .check ∨ (s.m.link
  l).st = .train) :=
  ⟨st { upM with fabric := { links := SMap.put {} 3 { st := .up } } }, 3, by decide +kernel⟩

theorem wit_Losses_6 : ∃ (s : State) (die : Nat), dieOk die = true ∧ (s.m.nodes.get die).planes = .both :=
  ⟨st upM, 4, by decide +kernel⟩

theorem wit_Losses_7 : ∃ (s : State) (die : Nat) (plane : Bool), dieOk die = true ∧ (s.m.nodes.get die).planes = (if plane
  = true then PlaneUse.onlyB else PlaneUse.onlyA) :=
  ⟨st { upM with nodes := SMap.put {} 16 { planes := .onlyB } }, 16, true, by decide +kernel⟩

theorem wit_Losses_8 : ∃ (s : State) (die : Nat), die < 16 ∧ s.m.ras.lostDies.contains die = false :=
  ⟨st upM, 4, by decide +kernel⟩

theorem wit_Losses_9 : ∃ (s : State), s.m.ras.lostDies.contains 17 = false :=
  ⟨st upM, by decide +kernel⟩

theorem wit_Losses_10 : ∃ (s : State), s.m.ras.lostDies.contains 16 = false :=
  ⟨st upM, by decide +kernel⟩

theorem wit_Tests_1 : ∃ (s : State) (i : ItemRef) (x : Item) (p : Nat), TestAt s.m i x p opSelftest 0x0001 ∧ testTarget x
  < 160 ∧ i.fn = 0 ∧ (s.m.ras.testing.get (testTarget x)).isNone = true ∧ groupIdle s.m (testTarget x) = true ∧ (liveIn
  s.m (testTarget x)).all (fun c => !heldOff s.m c) = true :=
  ⟨st (upPart {} [testItem opSelftest 1 9 0]), ⟨0, 2, 9⟩, testItem opSelftest 1 9 0, 3, by decide +kernel⟩

theorem wit_Tests_2 : ∃ (s : State) (i : ItemRef) (x : Item) (p : Nat), TestAt s.m i x p opSelftest 0x0002 ∧ testTarget x
  < 2560 ∧ s.m.live (testTarget x) = false ∧ s.m.flash.liveMap.getLsbD (testTarget x) = true ∧ s.m.power.domains.getLsbD
  (2560 + clusterOf (testTarget x)) = true ∧ heldOff s.m (testTarget x) = false :=
  ⟨st { upPart {} [testItem opSelftest 2 9 0] with flash := { record := Mem.wr [] 0x51 1 255 } }, ⟨0, 2, 9⟩, testItem opSelftest 2 9 0, 3, by decide +kernel⟩

theorem wit_Tests_3 : ∃ (s : State) (i : ItemRef) (x : Item) (p : Nat), TestAt s.m i x p opSelftest 0x0010 ∧ testTarget x
  < 72 ∧ i.fn = 0 ∧ dfield x.desc 0x20 8 ≠ 0 ∧ regEmpty s.m p 4 = false ∧ (s.m.fn 0).resetting = false :=
  ⟨st (upPart {} [testItem opSelftest 0x10 9 4096]), ⟨0, 2, 9⟩, testItem opSelftest 0x10 9 4096, 3, by decide +kernel⟩

theorem wit_Tests_4 : ∃ (s : State) (i : ItemRef) (x : Item) (p : Nat), TestAt s.m i x p opSelftest 0x0011 ∧ testTarget x
  < 8 ∧ unitInUse s.m 0 (testTarget x) = false ∧ heldOff s.m (2608 + testTarget x) = false :=
  ⟨st (upPart {} [testItem opSelftest 0x11 5 0]), ⟨0, 2, 9⟩, testItem opSelftest 0x11 5 0, 3, by decide +kernel⟩

theorem wit_Tests_5 : ∃ (s : State) (i : ItemRef) (x : Item) (p : Nat), TestAt s.m i x p opSelftest 0x0020 ∧ testTarget x
  < 64 ∧ unitInUse s.m 1 (testTarget x) = false ∧ heldOff s.m (2616 + testTarget x / 4) = false :=
  ⟨st (upPart {} [testItem opSelftest 0x20 63 0]), ⟨0, 2, 9⟩, testItem opSelftest 0x20 63 0, 3, by decide +kernel⟩

theorem wit_Tests_6 : ∃ (s : State) (i : ItemRef) (x : Item) (p : Nat), TestAt s.m i x p opSelftest 0x0040 ∧ testTarget x
  < 4 ∧ unitInUse s.m 2 (testTarget x) = false ∧ heldOff s.m (2632 + testTarget x) = false :=
  ⟨st (upPart {} [testItem opSelftest 0x40 3 0]), ⟨0, 2, 9⟩, testItem opSelftest 0x40 3 0, 3, by decide +kernel⟩

theorem wit_Tests_7 : ∃ (s : State) (i : ItemRef) (x : Item) (p : Nat), TestAt s.m i x p opSelftest 0x0040 ∧ 4 ≤
  testTarget x :=
  ⟨st (upPart {} [testItem opSelftest 0x40 4 0]), ⟨0, 2, 9⟩, testItem opSelftest 0x40 4 0, 3, by decide +kernel⟩

theorem wit_Tests_8 : ∃ (s : State) (i : ItemRef) (x : Item) (p : Nat), TestAt s.m i x p opSelftest 0x0030 ∧ testTarget x
  < 12 ∧ (jobsOn s.m (ownCoord s.m) (testTarget x)).all (fun q => (s.m.part q).regs.drained) = true ∧ heldOff s.m (2637 +
  testTarget x) = false :=
  ⟨st (upPart {} [testItem opSelftest 0x30 11 0]), ⟨0, 2, 9⟩, testItem opSelftest 0x30 11 0, 3, by decide +kernel⟩

theorem wit_Tests_9 : ∃ (s : State) (i : ItemRef) (x : Item) (p : Nat), TestAt s.m i x p opCalibrate 0x0002 ∧ testTarget x
  < 12 ∧ (jobsOn s.m (ownCoord s.m) (testTarget x)).all (fun q => (s.m.part q).regs.drained) = true ∧ heldOff s.m (2637 +
  testTarget x) = false :=
  ⟨st (upPart {} [testItem opCalibrate 2 11 0]), ⟨0, 2, 9⟩, testItem opCalibrate 2 11 0, 3, by decide +kernel⟩

theorem wit_Tests_10 : ∃ (s : State) (i : ItemRef) (x : Item) (p : Nat), TestAt s.m i x p opCalibrate 0x0001 ∧ (testTarget
  x < 16 ∨ testTarget x = 0xFFFF) :=
  ⟨st (upPart {} [testItem opCalibrate 1 0xFFFF 0]), ⟨0, 2, 9⟩, testItem opCalibrate 1 0xFFFF 0, 3, by decide +kernel⟩

theorem wit_Tests_11 : ∃ (s : State) (i : ItemRef) (x : Item) (p : Nat), TestAt s.m i x p opCalibrate 0x0003 ∧ testTarget
  x = 0 :=
  ⟨st (upPart {} [testItem opCalibrate 3 0 0]), ⟨0, 2, 9⟩, testItem opCalibrate 3 0 0, 3, by decide +kernel⟩

theorem wit_Tests_12 : ∃ (s : State) (i : ItemRef) (failed : List Nat) (x : Item) (p : Nat), ItemAt s.m i x p opSelftest
  .running ∧ failed.all coreOk = true ∧ testCode x = 0x0002 ∧ testTarget x < 2560 ∧ dfield x.desc 0x20 8 = 0 ∧ s.m.live
  (testTarget x) = false ∧ failed.contains (testTarget x) = false :=
  ⟨st (upPart {} [{ testItem opSelftest 2 9 0 with st := .running }]), ⟨0, 2, 9⟩, [8], { testItem opSelftest 2 9 0 with st := .running }, 3, by decide +kernel⟩

theorem wit_Tests_13 : ∃ (s : State) (i : ItemRef) (failed : List Nat) (x : Item) (p : Nat), ItemAt s.m i x p opSelftest
  .running ∧ failed.all coreOk = true ∧ testCode x = 0x0002 ∧ testTarget x < 2560 ∧ dfield x.desc 0x20 8 = 0 ∧ s.m.live
  (testTarget x) = false ∧ failed.contains (testTarget x) = true :=
  ⟨st (upPart {} [{ testItem opSelftest 2 9 0 with st := .running }]), ⟨0, 2, 9⟩, [8, 9], { testItem opSelftest 2 9 0 with st := .running }, 3, by decide +kernel⟩

theorem wit_Tests_14 : ∃ (s : State) (i : ItemRef) (failed : List Nat) (x : Item) (p : Nat), ItemAt s.m i x p opCalibrate
  .running ∧ failed.all coreOk = true ∧ testCode x = 0x0003 ∧ dfield x.desc 0x20 8 = 0 :=
  ⟨st (upPart {} [{ testItem opCalibrate 3 0 0 with st := .running }]), ⟨0, 2, 9⟩, [], { testItem opCalibrate 3 0 0 with st := .running }, 3, by decide +kernel⟩

theorem wit_FabricLinks_1 : ∃ (s : State) (link : Nat) (peer : Nat), linkOk link = true ∧ linkOk peer = true ∧ (s.m.link
  link).st = .train ∧ s.m.power.domains.getLsbD (2637 + link) = true :=
  ⟨st (upLink 3 { st := .train }), 3, 1, by decide +kernel⟩

theorem wit_FabricLinks_2 : ∃ (s : State) (link : Nat), linkOk link = true ∧ ((s.m.link link).st = .up ∨ (s.m.link
  link).st = .check ∨ (s.m.link link).st = .train) :=
  ⟨st (upLink 3 { st := .up }), 3, by decide +kernel⟩

theorem wit_FabricLinks_3 : ∃ (s : State) (value : Word), WriteActs s.m 0 blkFab 8 ∧ value.getLsbD 0 = true ∧ (s.m.fn
  0).sel.link < 12 ∧ jobsOn s.m (ownCoord s.m) (s.m.fn 0).sel.link = [] ∧ (s.m.link (s.m.fn 0).sel.link).st = .down :=
  ⟨st { upSel { link := 3 } with fabric := { links := SMap.put {} 3 { st := .down } } }, 1, by decide +kernel⟩

theorem wit_FabricLinks_4 : ∃ (s : State) (value : Word), WriteActs s.m 0 blkFab 8 ∧ value.getLsbD 0 = true ∧ (s.m.fn
  0).sel.link < 12 ∧ jobsOn s.m (ownCoord s.m) (s.m.fn 0).sel.link ≠ [] :=
  ⟨st { shiftM with fns := SMap.put {} 0 { sel := { link := 0 } } }, 1, by decide +kernel⟩

theorem wit_FabricLinks_5 : ∃ (s : State) (link : Nat), linkOk link = true ∧ ((s.m.link link).st = .check ∨ (s.m.link
  link).st = .up) :=
  ⟨st (upLink 3 { st := .check }), 3, by decide +kernel⟩

theorem wit_FabricLinks_6 : ∃ (s : State) (link : Nat) (w : SyncWord) (sl : SliceRec), linkOk link = true ∧
  s.m.fabric.slice = some sl ∧ (s.m.link link).st = .check ∧ w.echo ≠ 0 :=
  ⟨st (upLink 3 { st := .check }), 3, { slice := 9, echo := 5, rx := 900 }, slice9, by decide +kernel⟩

theorem wit_FabricLinks_7 : ∃ (s : State), s.m.tick.role = .manager ∧ s.m.tick.sync = .locked :=
  ⟨st upMgr, by decide +kernel⟩

theorem wit_FabricLinks_8 : ∃ (s : State), (s.m.tick.role ≠ .manager ∨ s.m.tick.sync ≠ .locked) :=
  ⟨st upM, by decide +kernel⟩

theorem wit_FabricLinks_9 : ∃ (s : State), (s.m.tick.sync = .acquire ∨ s.m.tick.sync = .locked) ∧ s.m.tick.armed <
  s.m.tick.count + 1 ∧ s.m.tick.due.contains .safeFall = false :=
  ⟨st upMgr, by decide +kernel⟩

theorem wit_FabricLinks_10 : ∃ (s : State), (s.m.tick.sync = .acquire ∨ s.m.tick.sync = .locked) ∧ s.m.tick.armed <
  s.m.tick.count + 1 ∧ s.m.tick.due.contains .safeFall = true :=
  ⟨st { upMgr with tick := { role := .manager, sync := .locked, due := [.safeFall] } }, by decide +kernel⟩

theorem wit_FabricLinks_11 : ∃ (s : State), s.m.tick.role = .standby ∧ s.m.tick.sync = .stopped ∧ (upLinks s.m).isEmpty =
  false :=
  ⟨st { upLink 3 { st := .up } with tick := { role := .standby, sync := .stopped } }, by decide +kernel⟩

theorem wit_FabricJobs_1 : ∃ (s : State) (fn : Nat) (value : Word), WriteActs s.m fn blkFab 0x104 ∧ (s.m.fab (selPart s.m
  fn blkFab)).en = false ∧ value.getLsbD 0 = true ∧ bits value.toNat 16 16 ≠ 0 ∧ (s.m.part (selPart s.m fn blkFab)).runs =
  [] ∧ mapOk s.m (selPart s.m fn blkFab) = true :=
  ⟨st { upM with fns := SMap.put {} 0 { sel := { fab := 3 } }, fabric := { slice := some slice9 }, parts := SMap.put {} 3 { mem := { rangePages := 1 }, range := [(0, 1)] } }, 0, 0x00050101, by decide +kernel⟩

theorem wit_FabricJobs_2 : ∃ (s : State) (fn : Nat) (value : Word), WriteActs s.m fn blkFab 0x104 ∧ (s.m.fab (selPart s.m
  fn blkFab)).en = true ∧ bits value.toNat 16 16 ≠ (s.m.fab (selPart s.m fn blkFab)).job :=
  ⟨st { upM with fns := SMap.put {} 0 { sel := { fab := 3 } }, fabParts := SMap.put {} 3 { en := true, job := 4 } }, 0, 0x00050101, by decide +kernel⟩

theorem wit_FabricJobs_3 : ∃ (s : State) (link : Nat) (origin : Coord) (oseq : Nat), linkOk link = true ∧ (s.m.link
  link).st = .up ∧ s.m.fabric.seen.contains (origin, oseq) = false :=
  ⟨st (upLink 3 { st := .up }), 3, {}, 7, by decide +kernel⟩

theorem wit_FabricJobs_4 : ∃ (s : State) (link : Nat) (origin : Coord) (oseq : Nat), linkOk link = true ∧ ((s.m.link
  link).st ≠ .up ∨ s.m.fabric.seen.contains (origin, oseq) = true) :=
  ⟨st (upLink 3 { st := .check }), 3, {}, 7, by decide +kernel⟩

theorem wit_FabricJobs_5 : ∃ (s : State) (link : Nat) (origin : Coord) (oseq : Nat) (core : Nat), linkOk link = true ∧
  coreOk core = true ∧ (s.m.link link).st = .up ∧ s.m.fabric.seen.contains (origin, oseq) = false :=
  ⟨st shiftM, 0, {}, 7, 9, by decide +kernel⟩

theorem wit_FabricJobs_6 : ∃ (s : State) (job : Nat) (gen : Nat) (model : Nat) (step : Nat) (p : Nat) (rs : List RunStep),
  jobParts s.m job gen = [p] ∧ (s.m.fab p).halted = false ∧ (s.m.part p).replay = none ∧ stepNamed s.m p model step = some
  rs :=
  ⟨st shiftM, 5, 1, 7, 0, 3, [{ run := 0, model := 7, index := 0 }], by decide +kernel⟩

theorem wit_FabricJobs_7 : ∃ (s : State) (link : Nat), linkOk link = true ∧ (s.m.link link).st = .up :=
  ⟨st (upLink 3 { st := .up }), 3, by decide +kernel⟩

theorem wit_FabricJobs_8 : ∃ (s : State) (link : Nat) (frame : Frame) (origin : Coord) (oseq : Nat) (slope : Nat)
  (boundary : Nat), linkOk link = true ∧ (s.m.link link).st = .up ∧ frame.body = .hedge origin oseq 2 [slope, boundary] ∧
  frame.seq = (s.m.link link).rxSeq ∧ s.m.fabric.seen.contains (origin, oseq) = false :=
  ⟨st (upLink 3 { st := .up }), 3, { body := .hedge {} 7 2 [100, 9] }, {}, 7, 100, 9, by decide +kernel⟩

theorem wit_FabricJobs_9 : ∃ (s : State) (link : Nat) (frame : Frame) (origin : Coord) (oseq : Nat) (cls : Nat) (payload :
  List Nat), linkOk link = true ∧ (s.m.link link).st = .up ∧ frame.body = .hedge origin oseq cls payload ∧ frame.seq ≠
  (s.m.link link).rxSeq :=
  ⟨st (upLink 3 { st := .up }), 3, { seq := 4, body := .hedge {} 7 2 [100, 9] }, {}, 7, 2, [100, 9], by decide +kernel⟩

theorem wit_FabricJobs_10 : ∃ (s : State) (link : Nat) (p : Nat) (frame : Frame) (job : Nat) (gen : Nat) (chan : Nat)
  (lane : Nat) (place : Nat) (src : Nat) (off : Nat) (shape : List Nat) (bs : List Byte) (last : Bool), linkOk link = true
  ∧ (s.m.link link).st = .up ∧ frame.body = .data job gen chan (ownCoord s.m) lane place shape src off bs last ∧ frame.seq
  = (s.m.link link).rxSeq ∧ jobParts s.m job gen = [] ∧ s.m.fabParts.keys.find? (fun q => (s.m.fab q).job == job) = some p
  :=
  ⟨st { upLink 3 { st := .up } with fabParts := SMap.put {} 3 { job := 5 } }, 3, 3, { body := .data 5 1 0 ⟨1, 0, 0⟩ 0 0 [] 0 0 [] true }, 5, 1, 0, 0, 0, 0, 0, [], [], true, by decide +kernel⟩

theorem wit_FabricJobs_11 : ∃ (s : State) (part : Nat) (prog : Nat) (idx : Nat) (w : Swath) (d : XfDesc), partOk part =
  true ∧ swathOf s.m part prog = some w ∧ descOf s.m part prog idx = some d ∧ d.op = 1 ∧ mayIssue s.m part prog idx w d =
  true ∧ ((s.m.fab part).rank + d.shift) % (s.m.fab part).nranks ≠ (s.m.fab part).rank ∧ regEmpty s.m part 3 = false ∧
  tierWaits s.m part d.send d.slot = false ∧ d.send + d.slot ≤ rangeEnd s.m part ∧ poisonedIn s.m part d.send d.slot =
  none :=
  ⟨st shiftM, 3, 7, 0, { id := 7, model := 7, ready := true }, (descOf shiftM 3 7 0).getD (xfDesc [] 0), by decide +kernel⟩

theorem wit_FabricJobs_12 : ∃ (s : State) (part : Nat) (prog : Nat) (idx : Nat) (w : Swath) (d : XfDesc), partOk part =
  true ∧ swathOf s.m part prog = some w ∧ descOf s.m part prog idx = some d ∧ mayIssue s.m part prog idx w d = true ∧
  regEmpty s.m part 3 = true :=
  ⟨st { shiftM with parts := SMap.put {} 3 { shiftPart with regs := { rate := SMap.put {} 3 1, level := SMap.put {} 3 0 } } }, 3, 7, 0, { id := 7, model := 7, ready := true }, (descOf shiftM 3 7 0).getD (xfDesc [] 0), by decide +kernel⟩

theorem wit_FabricJobs_13 : ∃ (s : State) (part : Nat) (prog : Nat) (idx : Nat) (w : Swath) (d : XfDesc), partOk part =
  true ∧ swathOf s.m part prog = some w ∧ descOf s.m part prog idx = some d ∧ (xferOf s.m part prog idx).done = false ∧
  (xferOf s.m part prog idx).issued = true ∧ allLanded (s.m.fab part) d (xferOf s.m part prog idx) = true ∧ (modelRuns s.m
  part w).isSome = true ∧ d.rxQ = 0xFF :=
  ⟨st { shiftM with xfers := [{ part := 3, prog := 7, idx := 0, step := 0, issued := true, landed := [0] }] }, 3, 7, 0, { id := 7, model := 7, ready := true }, (descOf shiftM 3 7 0).getD (xfDesc [] 0), by decide +kernel⟩

theorem wit_Boundaries_1 : ∃ (s : State), noBoundary s.m = false ∧ s.m.tick.count + 1 ≤ s.m.tick.armed ∧
  s.m.ras.lostDies.contains 17 = false :=
  ⟨st armedM, by decide +kernel⟩

theorem wit_Boundaries_2 : ∃ (s : State), (noBoundary s.m = true ∨ s.m.tick.armed < s.m.tick.count + 1 ∨
  s.m.ras.lostDies.contains 17 = true) :=
  ⟨st upM, by decide +kernel⟩

theorem wit_Boundaries_3 : ∃ (s : State) (p : Nat), noBoundary s.m = false ∧ s.m.tick.count + 1 ≤ s.m.tick.armed ∧
  s.m.ras.lostDies.contains 17 = false ∧ p ∈ s.m.parts.keys ∧ (s.m.part p).step = none :=
  ⟨st { armedM with parts := SMap.put {} 3 { regs := { tickCc := 77 } } }, 3, by decide +kernel⟩

theorem wit_Boundaries_4 : ∃ (s : State) (b : Bool), noBoundary s.m = false ∧ s.m.tick.inReserve = false ∧ s.m.tick.due =
  [.leyCal b] ∧ 2000 ≤ s.m.tick.period - s.m.tick.period * (100 - s.m.tick.pct) / 100 :=
  ⟨st armedM, false, by decide +kernel⟩

theorem wit_Boundaries_5 : ∃ (s : State), (noBoundary s.m = true ∨ s.m.tick.inReserve = true) :=
  ⟨st upM, by decide +kernel⟩

theorem wit_Boundaries_6 : ∃ (s : State), s.m.power.dark = false ∧ s.m.start.tripped = false :=
  ⟨st upM, by decide +kernel⟩

theorem wit_Boundaries_7 : ∃ (s : State) (b : Bool), noBoundary s.m = true ∧ s.m.tick.due = [.leyCal b] ∧
  s.m.parts.keys.all (fun p => (runningStep s.m p).isNone) = true :=
  ⟨st { upM with tick := { due := [.leyCal false] } }, false, by decide +kernel⟩

theorem wit_SealsAndSteps_1 : ∃ (s : State), s.m.start.ready = true ∧ s.m.start.startFail = false ∧ s.m.tick.sync =
  .locked ∧ s.m.tick.count + 1 ≤ s.m.tick.armed ∧ s.m.tick.sealedFor ≠ some (s.m.tick.count + 1) ∧ s.m.power.loss = .none
  ∧ (s.m.proc 0).st = .running :=
  ⟨st armedM, by decide +kernel⟩

theorem wit_SealsAndSteps_2 : ∃ (s : State), s.m.start.ready = true ∧ s.m.start.startFail = false ∧ s.m.tick.sync =
  .locked ∧ s.m.tick.count + 1 ≤ s.m.tick.armed ∧ s.m.tick.sealedFor ≠ some (s.m.tick.count + 1) ∧ (s.m.power.loss ≠ .none
  ∨ (s.m.proc 0).st ≠ .running) :=
  ⟨st { armedM with power := { onW with loss := .bad } }, by decide +kernel⟩

theorem wit_SealsAndSteps_3 : ∃ (s : State) (part : Nat) (t : PartStep), partOk part = true ∧ runningStep s.m part = some
  t ∧ t.runs.all (runDone s.m part) = true ∧ t.switching = [] :=
  ⟨st { upM with parts := SMap.put {} 3 donePart }, 3, (donePart.step.getD { tick := 0, launchNs := 0, runs := [], cores := [] }), by decide +kernel⟩

theorem wit_SealsAndSteps_4 : ∃ (s : State) (part : Nat), partOk part = true ∧ runningStep s.m part = none :=
  ⟨st upM, 3, by decide +kernel⟩

theorem wit_SealsAndSteps_5 : ∃ (s : State) (core : Nat) (part : Nat) (t : PartStep), coreOk core = true ∧ partOk part =
  true ∧ (s.m.part part).step = some t ∧ t.switching.contains core = true ∧ (s.m.core core).lastPart = none :=
  ⟨st { upM with parts := SMap.put {} 3 { step := some { tick := 0, launchNs := 0, runs := [], cores := [], switching := [7] } } }, 7, 3, { tick := 0, launchNs := 0, runs := [], cores := [], switching := [7] }, by decide +kernel⟩

theorem wit_SealsAndSteps_6 : ∃ (s : State) (part : Nat) (t : Nat) (rs : RunStep) (e : SetEntry) (q : Request) (v :
  Serving), partOk part = true ∧ (s.m.part part).results = [rs] ∧ (s.m.proc 0).st = .running ∧ regEmpty s.m part 4 = false
  ∧ rs.entries = [e] ∧ s.m.slots.get e.slot = some q ∧ q.st = .running ∧ q.part = part ∧ q.aborted = false ∧ q.orphan =
  false ∧ q.model = rs.model ∧ q.srv = some v ∧ e.kind = 1 ∧ q.prefixPin = 0 ∧ q.pauseDue = false ∧ (s.m.fn
  q.fn).resetting = false ∧ entryOk e (resultEntry s.m part v rs.index 0) = true ∧ (resultEntry s.m part v rs.index
  0).tokens = [t] ∧ (resultEntry s.m part v rs.index 0).noToken = false ∧ (resultEntry s.m part v rs.index 0).final =
  false ∧ stopReason v q (q.generated.length + 1) (q.prompt.length + q.generated.length) t = none :=
  ⟨st resultM, 3, 42, { run := 0, model := 7, index := 0, entries := [decodeEntry] }, decodeEntry, decodeReq, serveRec, by decide +kernel⟩

theorem wit_Hedgerow_1 : ∃ (die : Nat), dieOk die = true :=
  ⟨4, by decide +kernel⟩

theorem wit_Hedgerow_2 : ∃ (s : State) (die : Nat) (tick : Nat), dieOk die = true ∧ ((s.m.nodes.get die).planes = .both ∨
  (s.m.nodes.get die).planes = .onlyA) ∧ (s.m.nodes.get die).replica ≠ tick ∧ ((s.m.nodes.get die).replicaB = tick ∨
  (s.m.nodes.get die).planes = .onlyA) :=
  ⟨st { upM with nodes := SMap.put {} 4 { replica := 8, replicaB := 9 } }, 4, 9, by decide +kernel⟩

theorem wit_Hedgerow_3 : ∃ (s : State) (die : Nat) (tick : Nat), dieOk die = true ∧ ((s.m.nodes.get die).planes = .lost ∨
  ((s.m.nodes.get die).replica = tick ∧ (s.m.nodes.get die).replicaB = tick)) :=
  ⟨st upM, 4, 0, by decide +kernel⟩

theorem wit_Hedgerow_4 : ∃ (core : Nat), coreOk core = true :=
  ⟨7, by decide +kernel⟩

theorem wit_Hedgerow_5 : ∃ (s : State) (core : Nat), coreOk core = true ∧ (s.m.core core).outq.wf = true :=
  ⟨st upM, 7, by decide +kernel⟩

theorem wit_Hedgerow_6 : ∃ (s : State) (die : Nat), dieOk die = true ∧ (s.m.nodes.get die).planes ≠ .lost ∧ within100 s.m
  (s.m.nodes.get die).lastErrNs = true :=
  ⟨st { upM with nodes := SMap.put {} 4 { lastErrNs := some 0 } }, 4, by decide +kernel⟩

theorem wit_Hedgerow_7 : ∃ (s : State) (die : Nat), dieOk die = true ∧ (s.m.nodes.get die).planes = .lost :=
  ⟨st { upM with nodes := SMap.put {} 4 { planes := .lost } }, 4, by decide +kernel⟩

theorem wit_Hedgerow_8 : ∃ (s : State) (die : Nat), dieOk die = true ∧ (s.m.nodes.get die).planes ≠ .lost ∧ within100 s.m
  (s.m.nodes.get die).lastErrNs = false :=
  ⟨st { upM with tick := { ns := 100 }, nodes := SMap.put {} 4 { lastErrNs := some 0 } }, 4, by decide +kernel⟩

theorem wit_Hedgerow_9 : ∃ (s : State) (proc : Nat), procOk proc = true ∧ (s.m.proc proc).st = .running ∧ within100 s.m
  (s.m.proc proc).msgNs = false ∧ (s.m.nodes.get (dieOfProc proc)).planes ≠ .lost :=
  ⟨st upM, 33, by decide +kernel⟩

theorem wit_Hedgerow_10 : ∃ (s : State) (proc : Nat), procOk proc = true ∧ ((s.m.proc proc).st ≠ .running ∨ within100 s.m
  (s.m.proc proc).msgNs = true ∨ (s.m.nodes.get (dieOfProc proc)).planes = .lost) :=
  ⟨st (upProc 33 { msgNs := some 0 }), 33, by decide +kernel⟩

theorem wit_FlitsAndBarriers_1 : ∃ (s : State) (core : Nat) (queue : BitVec 4) (f : Flit) (r : List Flit), coreOk core =
  true ∧ (outQ s.m core queue.toNat).inFlight = f :: r ∧ f.run ≠ (s.m.core core).run :=
  ⟨st (flowM { run := 4, outq := SMap.put {} 1 { inFlight := [flit1] } } {}), 7, 1, flit1, [], by decide +kernel⟩

theorem wit_FlitsAndBarriers_2 : ∃ (s : State) (core : Nat) (g : Nat) (queue : BitVec 4) (f : Flit) (r : List Flit),
  coreOk core = true ∧ (outQ s.m core queue.toNat).inFlight = f :: r ∧ f.run = (s.m.core core).run ∧ globalOf s.m core
  (outBind s.m core queue.toNat).destCore = some g ∧ (s.m.core g).run = f.run ∧ (activePlane (s.m.core g)).isSome = true ∧
  (inBind s.m g (outBind s.m core queue.toNat).destQ).consumer ≠ 5 ∧ (inBind s.m g (outBind s.m core
  queue.toNat).destQ).consumer ≠ 6 ∧ (inQ s.m g (outBind s.m core queue.toNat).destQ).feed = [] ∧ (inQ s.m g (outBind s.m
  core queue.toNat).destQ).ext = [] ∧ (inQ s.m g (outBind s.m core queue.toNat).destQ).flits.length < 32 ∧ suIdle s.m g =
  true :=
  ⟨st (flowM { outq := SMap.put {} 1 { inFlight := [flit1] } } {}), 7, 9, 1, flit1, [], by decide +kernel⟩

theorem wit_FlitsAndBarriers_3 : ∃ (s : State) (core : Nat) (g : Nat) (queue : BitVec 4) (f : Flit) (r : List Flit),
  coreOk core = true ∧ (outQ s.m core queue.toNat).inFlight = f :: r ∧ f.run = (s.m.core core).run ∧ globalOf s.m core
  (outBind s.m core queue.toNat).destCore = some g ∧ (s.m.core g).run = f.run ∧ (activePlane (s.m.core g)).isSome = true ∧
  (inBind s.m g (outBind s.m core queue.toNat).destQ).consumer ≠ 5 ∧ (inBind s.m g (outBind s.m core
  queue.toNat).destQ).consumer ≠ 6 ∧ (inQ s.m g (outBind s.m core queue.toNat).destQ).feed = [] ∧ ((inQ s.m g (outBind s.m
  core queue.toNat).destQ).ext ≠ [] ∨ 32 ≤ (inQ s.m g (outBind s.m core queue.toNat).destQ).flits.length) ∧ (inQ s.m g
  (outBind s.m core queue.toNat).destQ).ext.length < (inBind s.m g (outBind s.m core queue.toNat).destQ).ext ∧ suIdle s.m
  g = true :=
  ⟨st (flowMB (Mem.wr flowBytes 0xB086 2 8) { outq := SMap.put {} 1 { inFlight := [flit1] } } { inq := SMap.put {} 2 { ext := [flit1] } }), 7, 9, 1, flit1, [], by decide +kernel⟩

theorem wit_FlitsAndBarriers_4 : ∃ (s : State) (core : Nat) (g : Nat) (queue : BitVec 4) (f : Flit) (r : List Flit),
  coreOk core = true ∧ (outQ s.m core queue.toNat).inFlight = f :: r ∧ f.run = (s.m.core core).run ∧ globalOf s.m core
  (outBind s.m core queue.toNat).destCore = some g ∧ (s.m.core g).run = f.run ∧ (activePlane (s.m.core g)).isSome = true ∧
  inRoom s.m g (outBind s.m core queue.toNat).destQ = 0 :=
  ⟨st (flowM { outq := SMap.put {} 1 { inFlight := [flit1] } } { inq := SMap.put {} 2 { flits := List.replicate 32 flit1 } }), 7, 9, 1, flit1, [], by decide +kernel⟩

theorem wit_FlitsAndBarriers_5 : ∃ (s : State) (core : Nat) (queue : BitVec 4) (f : Flit) (r : List Flit), coreOk core =
  true ∧ (outQ s.m core queue.toNat).creditsBack ≠ 0 ∧ (outQ s.m core queue.toNat).credit = 0 ∧ (outQ s.m core
  queue.toNat).staging = f :: r ∧ suIdle s.m core = true :=
  ⟨st (flowM { outq := SMap.put {} 1 { staging := [flit1], creditsBack := 2 } } {}), 7, 1, flit1, [], by decide +kernel⟩

theorem wit_FlitsAndBarriers_6 : ∃ (s : State) (core : Nat) (queue : BitVec 4) (f : Flit) (r : List Flit), coreOk core =
  true ∧ (inQ s.m core queue.toNat).ext = f :: r ∧ (inQ s.m core queue.toNat).feed = [] ∧ (inQ s.m core
  queue.toNat).flits.length < 32 ∧ (inBind s.m core queue.toNat).consumer ≠ 5 ∧ (inBind s.m core queue.toNat).consumer ≠ 6
  ∧ suIdle s.m core = true :=
  ⟨st (flowM { inq := SMap.put {} 2 { ext := [flit1] } } {}), 7, 2, flit1, [], by decide +kernel⟩

theorem wit_FlitsAndBarriers_7 : ∃ (s : State) (core : Nat) (o : Nat) (pair : BitVec 3) (h : BitVec 512) (r : List Flit)
  (d : SuRule), coreOk core = true ∧ inUse s.m core = true ∧ suRule (planeBytes (s.m.core core)) pair.toNat = d ∧ d.action
  = 0 ∧ d.inToken = 255 ∧ d.inData ≠ 255 ∧ d.outQ = o ∧ suIdle s.m core = true ∧ (outQ s.m core o).openBundle = false ∧
  (outQ s.m core o).room 1 = true ∧ (inQ s.m core d.inData).feed = [] ∧ r.head?.all (·.first) = true ∧ (inQ s.m core
  d.inData).flits = { data := h, first := true, last := true } :: r ∧ headerBad h = false ∧ isClosing h = false :=
  ⟨st (flowM { inq := SMap.put {} 3 { flits := [flit1] }, outq := SMap.put {} 1 { seq := 6 } } {}), 7, 1, 0, 5, [], suRule flowBytes 0, by decide +kernel⟩

theorem wit_FlitsAndBarriers_8 : ∃ (s : State) (core : Nat), coreOk core = true ∧ inUse s.m core = false :=
  ⟨st upM, 7, by decide +kernel⟩

theorem wit_FlitsAndBarriers_9 : ∃ (s : State) (core : Nat) (part : Nat), coreOk core = true ∧ corePart s.m core = some
  part ∧ (runningStep s.m part).isSome = true ∧ isDrained s.m core = true ∧ (s.m.core core).drained = false :=
  ⟨st (flowM { me := { runIdx := 1 }, outq := SMap.put {} 1 { credit := 32 } } {}), 7, 3, by decide +kernel⟩

theorem wit_FlitsAndBarriers_10 : ∃ (s : State) (part : Nat) (run : Nat) (node : Nat) (b : Barrier) (u : PlaneUse), run <
  64 ∧ node < 4096 ∧ s.m.barriers.get (64 * part + run) = b ∧ b.released = false ∧ b.expected.contains node = true ∧
  b.arrived.contains node = false ∧ b.arrivedB.contains node = false ∧ (s.m.core node).drained = true ∧ (s.m.nodes.get
  (dieOfCluster (clusterOf node))).planes = u ∧ u ≠ .lost ∧ b.expected.all (fun n => n = node || b.arrived.contains n ||
  b.arrivedB.contains n) = false :=
  ⟨st { flowM { drained := true } {} with barriers := SMap.put {} 192 { expected := [7, 9] } }, 3, 0, 7, { expected := [7, 9] }, .both, by decide +kernel⟩

theorem wit_FlitsAndBarriers_11 : ∃ (s : State) (part : Nat) (run : Nat) (node : Nat) (b : Barrier) (u : PlaneUse), run <
  64 ∧ node < 4096 ∧ s.m.barriers.get (64 * part + run) = b ∧ b.released = false ∧ b.expected.contains node = true ∧
  b.arrived.contains node = false ∧ b.arrivedB.contains node = false ∧ (s.m.core node).drained = true ∧ (s.m.nodes.get
  (dieOfCluster (clusterOf node))).planes = u ∧ u ≠ .lost ∧ b.expected.all (fun n => n = node || b.arrived.contains n ||
  b.arrivedB.contains n) = true :=
  ⟨st { flowM { drained := true } {} with nodes := SMap.put {} (dieOfCluster 0) { planes := .onlyA }, barriers := SMap.put {} 192 { expected := [7, 9], arrivedB := [9] } }, 3, 0, 7, { expected := [7, 9], arrivedB := [9] }, .onlyA, by decide +kernel⟩

theorem wit_FlitsAndBarriers_12 : ∃ (s : State) (part : Nat) (run : Nat) (t : PartStep) (r : RunStep), partOk part = true
  ∧ run < 64 ∧ runningStep s.m part = some t ∧ t.runs.find? (fun r => r.run == run && r.foldDone) = some r ∧ foldSwath s.m
  part r.model (r.fold + 1) = none :=
  ⟨st { upM with parts := SMap.put {} 3 donePart }, 3, 0, (donePart.step.getD flowStep), { run := 0, model := 7, index := 0, foldDone := true }, by decide +kernel⟩

theorem wit_FlitsAndBarriers_13 : ∃ (s : State) (part : Nat) (run : Nat) (t : PartStep) (r : RunStep) (old : Swath) (new :
  Swath), partOk part = true ∧ run < 64 ∧ runningStep s.m part = some t ∧ t.runs.find? (fun r => r.run == run &&
  r.foldDone) = some r ∧ foldSwath s.m part r.model r.fold = some old ∧ foldSwath s.m part r.model (r.fold + 1) = some new
  ∧ new.cores.any t.switching.contains = false ∧ old.cores.any (fun c => (s.m.core c).halted) = false :=
  ⟨st { upM with parts := SMap.put {} 3 foldPart }, 3, 0, (foldPart.step.getD flowStep), { run := 0, model := 7, index := 0, foldDone := true }, { id := 7, model := 7, ready := true, cores := [7] }, { id := 8, model := 7, ready := true, cores := [7, 9], plane := 1, foldIndex := 1 }, by decide +kernel⟩

theorem wit_FlitsAndBarriers_14 : ∃ (s : State) (part : Nat) (t : PartStep), partOk part = true ∧ runningStep s.m part =
  some t ∧ t.replayOf = none ∧ (s.m.part part).lark.stallLimit ≤ t.stall ∧ xferMoves s.m part = false ∧ recovering s.m
  part = false :=
  ⟨st { flowM {} {} with parts := (flowM {} {}).parts.upd 3 fun x => { x with lark := { stallLimit := 5 }, step := some { flowStep with stall := 5 } } }, 3, { flowStep with stall := 5 }, by decide +kernel⟩

theorem wit_FlitsAndBarriers_15 : ∃ (s : State) (part : Nat) (t : PartStep), partOk part = true ∧ runningStep s.m part =
  some t ∧ (t.stall < (s.m.part part).lark.stallLimit ∨ xferMoves s.m part = true) :=
  ⟨st (flowM {} {}), 3, flowStep, by decide +kernel⟩

theorem wit_FlitsAndBarriers_16 : ∃ (s : State) (part : Nat), partOk part = true ∧ runningStep s.m part = none :=
  ⟨st upM, 3, by decide +kernel⟩

theorem wit_FlitsAndBarriers_17 : ∃ (s : State) (part : Nat) (offset : Nat) (t : PartStep), partOk part = true ∧
  runningStep s.m part = some t ∧ (s.m.part part).lark.en = true ∧ (s.m.part part).lark.ringPages ≠ 0 ∧ (s.m.part
  part).lark.committed = true ∧ (s.m.part part).lark.wrap = true ∧ offset % (s.m.part part).lark.interval = 0 :=
  ⟨st { flowM {} {} with parts := (flowM {} {}).parts.upd 3 fun x => { x with lark := { en := true, wrap := true, ringPages := 1, committed := true } } }, 3, 0x2000, flowStep, by decide +kernel⟩

theorem wit_FlitsAndBarriers_18 : ∃ (s : State) (part : Nat) (offset : Nat), partOk part = true ∧ (runningStep s.m part =
  none ∨ (s.m.part part).lark.en = false ∨ offset % (s.m.part part).lark.interval ≠ 0) :=
  ⟨st upM, 3, 5, by decide +kernel⟩

theorem wit_VectorIntegers_1 : ∃ (s : State) (core : Nat), Runs s.m core :=
  ⟨st veM, 7, by decide +kernel⟩

theorem wit_VectorIntegers_2 : ∃ (s : State) (core : Nat), Runs s.m core :=
  ⟨st veM, 7, by decide +kernel⟩

theorem wit_VectorIntegers_3 : ∃ (s : State) (core : Nat), Runs s.m core :=
  ⟨st veM, 7, by decide +kernel⟩

theorem wit_VectorIntegers_4 : ∃ (s : State) (core : Nat), Runs s.m core :=
  ⟨st veM, 7, by decide +kernel⟩

theorem wit_VectorIntegers_5 : ∃ (s : State) (core : Nat), Runs s.m core :=
  ⟨st veM, 7, by decide +kernel⟩

theorem wit_VectorIntegers_6 : ∃ (s : State) (core : Nat), Runs s.m core :=
  ⟨st veM, 7, by decide +kernel⟩

theorem wit_VectorIntegers_7 : ∃ (s : State) (core : Nat), Runs s.m core :=
  ⟨st veM, 7, by decide +kernel⟩

theorem wit_VectorIntegers_8 : ∃ (s : State) (core : Nat), Runs s.m core :=
  ⟨st veM, 7, by decide +kernel⟩

theorem wit_VectorIntegers_9 : ∃ (s : State) (core : Nat), Runs s.m core :=
  ⟨st veM, 7, by decide +kernel⟩

theorem wit_VectorIntegers_10 : ∃ (s : State) (core : Nat), Runs s.m core :=
  ⟨st veM, 7, by decide +kernel⟩

theorem wit_VectorIntegers_11 : ∃ (s : State) (core : Nat), Runs s.m core :=
  ⟨st veM, 7, by decide +kernel⟩

theorem wit_VectorIntegers_12 : ∃ (s : State) (core : Nat), Runs s.m core :=
  ⟨st veM, 7, by decide +kernel⟩

theorem wit_VectorIntegers_13 : ∃ (s : State) (core : Nat), Runs s.m core :=
  ⟨st veM, 7, by decide +kernel⟩

theorem wit_VectorFloats_1 : ∃ (s : State) (core : Nat), Runs s.m core :=
  ⟨st veM, 7, by decide +kernel⟩

theorem wit_VectorFloats_2 : ∃ (s : State) (core : Nat), Runs s.m core :=
  ⟨st veM, 7, by decide +kernel⟩

theorem wit_VectorFloats_3 : ∃ (s : State) (core : Nat), Runs s.m core :=
  ⟨st veM, 7, by decide +kernel⟩

theorem wit_VectorFloats_4 : ∃ (s : State) (core : Nat), Runs s.m core :=
  ⟨st veM, 7, by decide +kernel⟩

theorem wit_VectorFloats_5 : ∃ (s : State) (core : Nat), Runs s.m core :=
  ⟨st veM, 7, by decide +kernel⟩

theorem wit_VectorFloats_6 : ∃ (s : State) (core : Nat), Runs s.m core :=
  ⟨st veM, 7, by decide +kernel⟩

theorem wit_VectorFloats_7 : ∃ (s : State) (core : Nat), Runs s.m core :=
  ⟨st veM, 7, by decide +kernel⟩

theorem wit_VectorFloats_8 : ∃ (s : State) (core : Nat), Runs s.m core :=
  ⟨st veM, 7, by decide +kernel⟩

theorem wit_VectorFloats_9 : ∃ (s : State) (core : Nat), Runs s.m core :=
  ⟨st veM, 7, by decide +kernel⟩

theorem wit_VectorFloats_10 : ∃ (s : State) (core : Nat), Runs s.m core :=
  ⟨st veM, 7, by decide +kernel⟩

theorem wit_VectorFloats_11 : ∃ (s : State) (core : Nat), Runs s.m core :=
  ⟨st veM, 7, by decide +kernel⟩

theorem wit_VectorFloats_12 : ∃ (s : State) (core : Nat), Runs s.m core :=
  ⟨st veM, 7, by decide +kernel⟩

theorem wit_VectorFloats_13 : ∃ (s : State) (core : Nat), Runs s.m core :=
  ⟨st veM, 7, by decide +kernel⟩

theorem wit_VectorFloats_14 : ∃ (s : State) (core : Nat), Runs s.m core :=
  ⟨st veM, 7, by decide +kernel⟩

theorem wit_VectorFloats_15 : ∃ (s : State) (core : Nat), Runs s.m core :=
  ⟨st veM, 7, by decide +kernel⟩

theorem wit_VectorFloats_16 : ∃ (s : State) (core : Nat), Runs s.m core :=
  ⟨st veM, 7, by decide +kernel⟩

theorem wit_VectorFloats_17 : ∃ (s : State) (core : Nat), Runs s.m core :=
  ⟨st veM, 7, by decide +kernel⟩

theorem wit_VectorFloats_18 : ∃ (s : State) (core : Nat), Runs s.m core :=
  ⟨st veM, 7, by decide +kernel⟩

theorem wit_VectorFloats_19 : ∃ (s : State) (core : Nat), Runs s.m core :=
  ⟨st veM, 7, by decide +kernel⟩

theorem wit_VectorFloats_20 : ∃ (s : State) (core : Nat), Runs s.m core :=
  ⟨st veM, 7, by decide +kernel⟩

theorem wit_VectorFloats_21 : ∃ (s : State) (core : Nat), Runs s.m core :=
  ⟨st veM, 7, by decide +kernel⟩

theorem wit_VectorCompares_1 : ∃ (s : State) (core : Nat) (o : CmpOps), Runs s.m core ∧ o.ok = true :=
  ⟨st veM, 7, { msk := 1, d := 3, a := 1, b := 2 }, by decide +kernel⟩

theorem wit_VectorCompares_2 : ∃ (s : State) (core : Nat) (o : CmpOps), Runs s.m core ∧ o.ok = true :=
  ⟨st veM, 7, { msk := 1, d := 3, a := 1, b := 2 }, by decide +kernel⟩

theorem wit_VectorCompares_3 : ∃ (s : State) (core : Nat) (o : CmpOps), Runs s.m core ∧ o.ok = true :=
  ⟨st veM, 7, { msk := 1, d := 3, a := 1, b := 2 }, by decide +kernel⟩

theorem wit_VectorCompares_4 : ∃ (s : State) (core : Nat) (o : CmpOps), Runs s.m core ∧ o.ok = true :=
  ⟨st veM, 7, { msk := 1, d := 3, a := 1, b := 2 }, by decide +kernel⟩

theorem wit_VectorCompares_5 : ∃ (s : State) (core : Nat) (o : CmpOps), Runs s.m core ∧ o.ok = true :=
  ⟨st veM, 7, { msk := 1, d := 3, a := 1, b := 2 }, by decide +kernel⟩

theorem wit_VectorCompares_6 : ∃ (s : State) (core : Nat) (o : CmpOps), Runs s.m core ∧ o.ok = true :=
  ⟨st veM, 7, { msk := 1, d := 3, a := 1, b := 2 }, by decide +kernel⟩

theorem wit_VectorCompares_7 : ∃ (s : State) (core : Nat) (o : CmpOps), Runs s.m core ∧ o.ok = true ∧ o.int = false :=
  ⟨st veM, 7, { msk := 1, d := 3, a := 1, b := 2 }, by decide +kernel⟩

theorem wit_VectorCompares_8 : ∃ (s : State) (core : Nat) (o : CmpOps), Runs s.m core ∧ o.ok = true ∧ o.int = false :=
  ⟨st veM, 7, { msk := 1, d := 3, a := 1, b := 2 }, by decide +kernel⟩

theorem wit_VectorCompares_9 : ∃ (s : State) (core : Nat) (o : CvtOps), Runs s.m core ∧ o.ok = true ∧ narrowFmt
  o.dst.toNat = false :=
  ⟨st veM, 7, { msk := 1, d := 4, a := 1, src := 0, dst := 1 }, by decide +kernel⟩

theorem wit_VectorCompares_10 : ∃ (s : State) (core : Nat) (o : CvtOps), Runs s.m core ∧ o.ok = true ∧ narrowFmt
  o.dst.toNat = true :=
  ⟨st veM, 7, { msk := 1, d := 4, a := 1, s := 5, src := 0, dst := 3, auto := true }, by decide +kernel⟩

theorem wit_VectorReductions_1 : ∃ (s : State) (core : Nat) (o : ThreeOps), Runs s.m core ∧ o.evenD = true :=
  ⟨st veM, 7, { msk := 1, d := 4, a := 1 }, by decide +kernel⟩

theorem wit_VectorReductions_2 : ∃ (s : State) (core : Nat) (o : ThreeOps), Runs s.m core ∧ o.evenD = true :=
  ⟨st veM, 7, { msk := 1, d := 4, a := 1, b := 2 }, by decide +kernel⟩

theorem wit_VectorReductions_3 : ∃ (s : State) (core : Nat) (o : ThreeOps), Runs s.m core ∧ o.evenD = true :=
  ⟨st veM, 7, { d := 2 }, by decide +kernel⟩

theorem wit_VectorReductions_4 : ∃ (s : State) (core : Nat), Runs s.m core :=
  ⟨st veM, 7, by decide +kernel⟩

theorem wit_VectorReductions_5 : ∃ (s : State) (core : Nat), Runs s.m core :=
  ⟨st veM, 7, by decide +kernel⟩

theorem wit_VectorReductions_6 : ∃ (s : State) (core : Nat), Runs s.m core :=
  ⟨st veM, 7, by decide +kernel⟩

theorem wit_VectorReductions_7 : ∃ (s : State) (core : Nat), Runs s.m core :=
  ⟨st veM, 7, by decide +kernel⟩

theorem wit_VectorReductions_8 : ∃ (s : State) (core : Nat), Runs s.m core :=
  ⟨st veM, 7, by decide +kernel⟩

theorem wit_VectorReductions_9 : ∃ (s : State) (core : Nat), Runs s.m core :=
  ⟨st veM, 7, by decide +kernel⟩

theorem wit_VectorReductions_10 : ∃ (s : State) (core : Nat) (o : SampOps), Runs s.m core ∧ o.evenD = true :=
  ⟨st veM, 7, { msk := 1, d := 4, a := 1, b := 2, km1 := 1 }, by decide +kernel⟩

theorem wit_VectorMasks_1 : ∃ (s : State) (core : Nat) (o : ThreeOps), Runs s.m core ∧ o.noMask = true ∧ o.maskD = true ∧
  o.maskA = true ∧ o.maskB = true :=
  ⟨st veM, 7, { d := 3, a := 1, b := 0 }, by decide +kernel⟩

theorem wit_VectorMasks_2 : ∃ (s : State) (core : Nat) (o : ThreeOps), Runs s.m core ∧ o.noMask = true ∧ o.maskD = true ∧
  o.maskA = true ∧ o.maskB = true :=
  ⟨st veM, 7, { d := 3, a := 1, b := 0 }, by decide +kernel⟩

theorem wit_VectorMasks_3 : ∃ (s : State) (core : Nat) (o : ThreeOps), Runs s.m core ∧ o.noMask = true ∧ o.maskD = true ∧
  o.maskA = true ∧ o.maskB = true :=
  ⟨st veM, 7, { d := 3, a := 1, b := 0 }, by decide +kernel⟩

theorem wit_VectorMasks_4 : ∃ (s : State) (core : Nat) (o : ThreeOps), Runs s.m core ∧ o.noMask = true ∧ o.maskD = true ∧
  o.maskA = true ∧ o.maskB = true :=
  ⟨st veM, 7, { d := 3, a := 1, b := 0 }, by decide +kernel⟩

theorem wit_VectorMasks_5 : ∃ (s : State) (core : Nat) (o : ThreeOps), Runs s.m core ∧ o.noMask = true ∧ o.maskD = true ∧
  o.maskA = true :=
  ⟨st veM, 7, { d := 3, a := 1 }, by decide +kernel⟩

theorem wit_VectorMasks_6 : ∃ (s : State) (core : Nat) (o : ThreeOps), Runs s.m core ∧ o.noMask = true ∧ o.maskD = true :=
  ⟨st veM, 7, { d := 3, a := 2 }, by decide +kernel⟩

theorem wit_VectorMasks_7 : ∃ (s : State) (core : Nat) (o : ThreeOps), Runs s.m core ∧ o.noMask = true ∧ o.maskA = true :=
  ⟨st veM, 7, { d := 4, a := 1 }, by decide +kernel⟩

theorem wit_VectorMasks_8 : ∃ (s : State) (core : Nat) (o : ThreeOps), Runs s.m core ∧ o.noMask = true ∧ o.maskA = true :=
  ⟨st veM, 7, { d := 4, a := 1 }, by decide +kernel⟩

theorem wit_VectorMasks_9 : ∃ (s : State) (core : Nat) (o : ThreeOps), Runs s.m core ∧ o.noMask = true ∧ o.maskA = true :=
  ⟨st veM, 7, { d := 4, a := 1 }, by decide +kernel⟩

theorem wit_VectorMasks_10 : ∃ (s : State) (core : Nat) (o : ThreeOps), Runs s.m core ∧ o.noMask = true ∧ o.maskD = true
  :=
  ⟨st veM, 7, { d := 3, a := 1 }, by decide +kernel⟩

theorem wit_VectorMasks_11 : ∃ (s : State) (core : Nat), Runs s.m core :=
  ⟨st veM, 7, by decide +kernel⟩

theorem wit_VectorMasks_12 : ∃ (s : State) (core : Nat), Runs s.m core :=
  ⟨st veM, 7, by decide +kernel⟩

theorem wit_VectorMasks_13 : ∃ (s : State) (core : Nat), Runs s.m core :=
  ⟨st veM, 7, by decide +kernel⟩

theorem wit_VectorMasks_14 : ∃ (s : State) (core : Nat), Runs s.m core :=
  ⟨st veM, 7, by decide +kernel⟩

theorem wit_VectorMasks_15 : ∃ (s : State) (core : Nat), Runs s.m core :=
  ⟨st veM, 7, by decide +kernel⟩

theorem wit_VectorMasks_16 : ∃ (s : State) (core : Nat), Runs s.m core :=
  ⟨st veM, 7, by decide +kernel⟩

theorem wit_VectorMasks_17 : ∃ (s : State) (core : Nat), Runs s.m core :=
  ⟨st veM, 7, by decide +kernel⟩

theorem wit_VectorMasks_18 : ∃ (s : State) (core : Nat), Runs s.m core :=
  ⟨st veM, 7, by decide +kernel⟩

theorem wit_VectorLoads_1 : ∃ (s : State) (core : Nat) (o : MemOps), Runs s.m core ∧ o.anyFmt = true ∧ packedFmt
  o.fmt.toNat = false ∧ Accessible s.m core (laneSize o.fmt.toNat) (((veOf s.m core).actives o.msk.toNat).map (laneAddr
  (veOf s.m core) o (fun l => l * laneSize o.fmt.toNat))) :=
  ⟨st veM, 7, { msk := 1, d := 4, a := 1, base := 2, fmt := 0 }, by decide +kernel⟩

theorem wit_VectorLoads_2 : ∃ (s : State) (core : Nat) (o : MemOps), Runs s.m core ∧ o.wideFmt = true ∧ Accessible s.m
  core (laneSize o.fmt.toNat) (((veOf s.m core).actives o.msk.toNat).map (laneAddr (veOf s.m core) o (fun l => l * ((veOf
  s.m core).scalar o.b.toNat).toNat))) :=
  ⟨st veM, 7, { msk := 1, d := 4, b := 2, base := 2, fmt := 0 }, by decide +kernel⟩

theorem wit_VectorLoads_3 : ∃ (s : State) (core : Nat) (o : MemOps), Runs s.m core ∧ o.wideFmt = true ∧ Accessible s.m
  core (laneSize o.fmt.toNat) (((veOf s.m core).actives o.msk.toNat).map (laneAddr (veOf s.m core) o (fun l => ((veOf s.m
  core).lane o.b.toNat l).toNat))) :=
  ⟨st veM, 7, { msk := 1, d := 4, b := 3, base := 2, fmt := 0 }, by decide +kernel⟩

theorem wit_VectorLoads_4 : ∃ (s : State) (core : Nat) (o : MemOps), Runs s.m core ∧ o.anyFmt = true ∧ packedFmt
  o.fmt.toNat = true ∧ Accessible s.m core 1 (packedAddrs (veOf s.m core) o) :=
  ⟨st veM, 7, { msk := 1, d := 4, base := 2, fmt := 3, part := 1 }, by decide +kernel⟩

theorem wit_VectorLoads_5 : ∃ (s : State) (core : Nat) (o : MemOps), Runs s.m core ∧ o.maskD = true ∧ Accessible s.m core
  8 [(veOf s.m core).base o] :=
  ⟨st veM, 7, { d := 3, base := 2 }, by decide +kernel⟩

theorem wit_VectorLoads_6 : ∃ (s : State) (core : Nat) (part : Nat) (o : MemOps), Runs s.m core ∧ o.anyFmt = true ∧
  packedFmt o.fmt.toNat = false ∧ (addrFault (laneSize o.fmt.toNat) (((veOf s.m core).actives o.msk.toNat).map (laneAddr
  (veOf s.m core) o (fun l => l * laneSize o.fmt.toNat)))).isSome = true ∧ corePart s.m core = some part ∧ (s.m.part
  part).step.bind (·.replayOf) = none ∧ recovering s.m part = false :=
  ⟨st veM, 7, 3, { msk := 1, d := 4, base := 2, fmt := 0, offset := 2 }, by decide +kernel⟩

theorem wit_VectorStores_1 : ∃ (s : State) (core : Nat) (o : MemOps), Runs s.m core ∧ o.anyFmt = true ∧ packedFmt
  o.fmt.toNat = false ∧ addrFault (laneSize o.fmt.toNat) (((veOf s.m core).actives o.msk.toNat).map (laneAddr (veOf s.m
  core) o (fun l => l * laneSize o.fmt.toNat))) = none :=
  ⟨st veM, 7, { msk := 1, d := 4, a := 1, base := 2, fmt := 0 }, by decide +kernel⟩

theorem wit_VectorStores_2 : ∃ (s : State) (core : Nat) (o : MemOps), Runs s.m core ∧ o.wideFmt = true ∧ addrFault
  (laneSize o.fmt.toNat) (((veOf s.m core).actives o.msk.toNat).map (laneAddr (veOf s.m core) o (fun l => l * ((veOf s.m
  core).scalar o.b.toNat).toNat))) = none :=
  ⟨st veM, 7, { msk := 1, a := 1, b := 2, base := 2, fmt := 0 }, by decide +kernel⟩

theorem wit_VectorStores_3 : ∃ (s : State) (core : Nat) (o : MemOps), Runs s.m core ∧ o.wideFmt = true ∧ addrFault
  (laneSize o.fmt.toNat) (((veOf s.m core).actives o.msk.toNat).map (laneAddr (veOf s.m core) o (fun l => ((veOf s.m
  core).lane o.b.toNat l).toNat))) = none :=
  ⟨st veM, 7, { msk := 1, a := 1, b := 3, base := 2, fmt := 0 }, by decide +kernel⟩

theorem wit_VectorStores_4 : ∃ (s : State) (core : Nat) (o : MemOps), Runs s.m core ∧ o.anyFmt = true ∧ packedFmt
  o.fmt.toNat = true ∧ addrFault 1 (packedAddrs (veOf s.m core) o) = none :=
  ⟨st veM, 7, { msk := 1, a := 1, base := 2, fmt := 7, part := 1 }, by decide +kernel⟩

theorem wit_VectorStores_5 : ∃ (s : State) (core : Nat) (o : MemOps), Runs s.m core ∧ o.maskA = true ∧ addrFault 8
  [(veOf s.m core).base o] = none :=
  ⟨st veM, 7, { a := 1, base := 2 }, by decide +kernel⟩

theorem wit_VectorStores_6 : ∃ (s : State) (core : Nat) (part : Nat) (o : MemOps), Runs s.m core ∧ o.maskA = true ∧
  addrFault 8 [(veOf s.m core).base o] ≠ none ∧ corePart s.m core = some part ∧ (s.m.part part).step.bind (·.replayOf) =
  none ∧ recovering s.m part = false :=
  ⟨st veM, 7, 3, { a := 1, base := 2, offset := 4 }, by decide +kernel⟩

theorem wit_VectorScalars_1 : ∃ (s : State) (core : Nat), Runs s.m core :=
  ⟨st veM, 7, by decide +kernel⟩

theorem wit_VectorScalars_2 : ∃ (s : State) (core : Nat), Runs s.m core :=
  ⟨st veM, 7, by decide +kernel⟩

theorem wit_VectorScalars_3 : ∃ (s : State) (core : Nat), Runs s.m core :=
  ⟨st veM, 7, by decide +kernel⟩

theorem wit_VectorScalars_4 : ∃ (s : State) (core : Nat), Runs s.m core :=
  ⟨st veM, 7, by decide +kernel⟩

theorem wit_VectorScalars_5 : ∃ (s : State) (core : Nat), Runs s.m core :=
  ⟨st veM, 7, by decide +kernel⟩

theorem wit_VectorScalars_6 : ∃ (s : State) (core : Nat), Runs s.m core :=
  ⟨st veM, 7, by decide +kernel⟩

theorem wit_VectorScalars_7 : ∃ (s : State) (core : Nat) (h : Handler), coreOk core = true ∧ (veOf s.m core).handler =
  some h :=
  ⟨st veM, 7, { inQ := 2, header := 5, outMask := 2, startCc := 0 }, by decide +kernel⟩

theorem wit_VectorScalars_8 : ∃ (s : State) (core : Nat), Runs s.m core :=
  ⟨st veM, 7, by decide +kernel⟩

theorem wit_VectorScalars_9 : ∃ (s : State) (core : Nat), Runs s.m core :=
  ⟨st veM, 7, by decide +kernel⟩

theorem wit_VectorScalars_10 : ∃ (s : State) (core : Nat) (o : SctlOps), Runs s.m core ∧ o.bodyOk = true ∧ (veOf s.m
  core).scalar o.a.toNat ≠ 0 :=
  ⟨st veM, 7, { a := 2, imm := 3, strip := true }, by decide +kernel⟩

theorem wit_VectorScalars_11 : ∃ (s : State) (core : Nat) (o : SctlOps), Runs s.m core ∧ o.bodyOk = true ∧ (veOf s.m
  core).scalar o.a.toNat = 0 :=
  ⟨st veM, 7, { a := 5, imm := 3 }, by decide +kernel⟩

theorem wit_VectorScalars_12 : ∃ (s : State) (core : Nat), Runs s.m core :=
  ⟨st veM, 7, by decide +kernel⟩

theorem wit_VectorScalars_13 : ∃ (s : State) (core : Nat) (w : Nat) (i : Instr), coreOk core = true ∧ handling s.m core =
  false ∧ veDecode core w = some i :=
  ⟨st upM, 7, 0x00D4611100000000, ((veDecode 7 0x00D4611100000000).getD (.faluAdd 7 {})), by decide +kernel⟩

theorem wit_VectorQueues_1 : ∃ (s : State) (core : Nat) (queue : BitVec 4) (f : Flit) (r : List Flit) (e : HandlerEntry),
  coreOk core = true ∧ handling s.m core = false ∧ (s.m.core core).halted = false ∧ inUse s.m core = true ∧ (inBind s.m
  core queue.toNat).consumer = 1 ∧ handlerBefore s.m core queue.toNat = false ∧ (inQ s.m core queue.toNat).flits = f :: r
  ∧ f.first = true ∧ headerBad f.data = false ∧ isMarker f.data = false ∧ handlerFor s.m core queue.toNat (htag f.data) =
  some e :=
  ⟨st (flowM { inq := SMap.put {} 2 { flits := [flit1] } } {}), 7, 2, flit1, [], (handlerFor (flowM { inq := SMap.put {} 2 { flits := [flit1] } } {}) 7 2 5).getD { tag := 0, inQ := 0, start := 0, outMask := 0 }, by decide +kernel⟩

theorem wit_VectorQueues_2 : ∃ (s : State) (core : Nat) (queue : BitVec 4) (f : Flit) (r : List Flit) (e : HandlerEntry),
  coreOk core = true ∧ handling s.m core = false ∧ (s.m.core core).halted = false ∧ inUse s.m core = true ∧ (inBind s.m
  core queue.toNat).consumer = 1 ∧ handlerBefore s.m core queue.toNat = false ∧ (inQ s.m core queue.toNat).flits = f :: r
  ∧ f.first = true ∧ headerBad f.data = false ∧ isMarker f.data = true ∧ handlerFor s.m core queue.toNat (htag f.data) =
  some e ∧ (maskQueues e.outMask).all (fun x => (outQ s.m core x).takes 1) = true :=
  ⟨st (flowM { inq := SMap.put {} 2 { flits := [{ flit1 with data := 2 ^ 32 + 5 }] } } {}), 7, 2, { flit1 with data := 2 ^ 32 + 5 }, [], (handlerFor (flowM {} {}) 7 2 5).getD { tag := 0, inQ := 0, start := 0, outMask := 0 }, by decide +kernel⟩

theorem wit_VectorQueues_3 : ∃ (s : State) (core : Nat) (part : Nat) (queue : BitVec 4) (f : Flit) (r : List Flit), coreOk
  core = true ∧ handling s.m core = false ∧ (s.m.core core).halted = false ∧ inUse s.m core = true ∧ (inBind s.m core
  queue.toNat).consumer = 1 ∧ handlerBefore s.m core queue.toNat = false ∧ (inQ s.m core queue.toNat).flits = f :: r ∧
  f.first = true ∧ handlerFor s.m core queue.toNat (htag f.data) = none ∧ corePart s.m core = some part ∧ (s.m.part
  part).step.bind (·.replayOf) = none ∧ recovering s.m part = false :=
  ⟨st (flowM { inq := SMap.put {} 2 { flits := [{ flit1 with data := 6 }] } } {}), 7, 3, 2, { flit1 with data := 6 }, [], by decide +kernel⟩

theorem wit_VectorQueues_4 : ∃ (s : State) (core : Nat) (queue : BitVec 4), coreOk core = true ∧ (handling s.m core = true
  ∨ (s.m.core core).halted = true ∨ inUse s.m core = false ∨ handlerBefore s.m core queue.toNat = true ∨ (inQ s.m core
  queue.toNat).flits = []) :=
  ⟨st veM, 7, 2, by decide +kernel⟩

theorem wit_VectorQueues_5 : ∃ (s : State) (core : Nat) (o : QioOps) (pop : List Flit) (pay : List Flit), Runs s.m core ∧
  recvFlits s.m core o.q.toNat (o.nf.toNat + 1) = some (pop, pay) ∧ pop.all (fun f => !f.first || !headerBad f.data) =
  true :=
  ⟨st (flowM { ve := veW, inq := SMap.put {} 2 { flits := [{ data := 9, last := true }] } } {}), 7, { q := 2, d := 4, b := 5 }, [{ data := 9, last := true }], [{ data := 9, last := true }], by decide +kernel⟩

theorem wit_VectorQueues_6 : ∃ (s : State) (core : Nat) (part : Nat) (o : QioOps) (f : Flit) (pop : List Flit) (pay : List
  Flit), Runs s.m core ∧ recvFlits s.m core o.q.toNat (o.nf.toNat + 1) = some (f :: pop, pay) ∧ f.first = true ∧ headerBad
  f.data = true ∧ corePart s.m core = some part ∧ (s.m.part part).step.bind (·.replayOf) = none ∧ recovering s.m part =
  false :=
  ⟨st (flowM { ve := veW, inq := SMap.put {} 3 { flits := [{ flit1 with data := 5 * 2 ^ 28 }] } } {}), 7, 3, { q := 3, d := 4, b := 5 }, { flit1 with data := 5 * 2 ^ 28 }, [], [], by decide +kernel⟩

theorem wit_VectorQueues_7 : ∃ (s : State) (core : Nat) (o : QioOps), Runs s.m core ∧ recvFlits s.m core o.q.toNat
  (o.nf.toNat + 1) = none :=
  ⟨st veM, 7, { q := 2, d := 4, b := 5 }, by decide +kernel⟩

theorem wit_VectorQueues_8 : ∃ (s : State) (core : Nat) (o : QioOps), Runs s.m core ∧ (outQ s.m core o.q.toNat).room
  (sendCount s.m core o) = true ∧ (outQ s.m core o.q.toNat).openBundle = false ∧ o.tag.toNat ≠ closeTag ∧ (outBind s.m
  core o.q.toNat).tokenQ = false :=
  ⟨st veM, 7, { q := 1, a := 1, tag := 5, last := true }, by decide +kernel⟩

theorem wit_VectorQueues_9 : ∃ (s : State) (core : Nat) (o : QioOps), Runs s.m core ∧ (outQ s.m core o.q.toNat).room
  (sendCount s.m core o) = true ∧ (outQ s.m core o.q.toNat).openBundle = true :=
  ⟨st (flowM { ve := veW, outq := SMap.put {} 1 { openBundle := true } } {}), 7, { q := 1, a := 1, nf := 1, tag := 5, last := true }, by decide +kernel⟩

theorem wit_VectorQueues_10 : ∃ (s : State) (core : Nat) (o : QioOps), Runs s.m core ∧ (outQ s.m core o.q.toNat).takes 1 =
  true ∧ o.tag.toNat = closeTag :=
  ⟨st veM, 7, { q := 1, a := 1, tag := 0x0FFFFFFF, last := true }, by decide +kernel⟩

theorem wit_VectorQueues_11 : ∃ (s : State) (core : Nat) (o : QioOps), Runs s.m core ∧ (outQ s.m core o.q.toNat).takes 1 =
  true ∧ o.tag.toNat ≠ closeTag ∧ (outBind s.m core o.q.toNat).tokenQ = true :=
  ⟨st (flowMB (Mem.wr flowBytes 0xB261 1 1) { ve := veW } {}), 7, { q := 1, a := 1, tag := 5, last := true }, by decide +kernel⟩

theorem wit_VectorQueues_12 : ∃ (s : State) (core : Nat) (o : QioOps), Runs s.m core ∧ (outQ s.m core o.q.toNat).room
  (sendCount s.m core o) = false :=
  ⟨st (flowM { ve := veW, outq := SMap.put {} 1 { staging := [flit1, flit1, flit1] } } {}), 7, { q := 1, a := 1, tag := 5, last := true }, by decide +kernel⟩

theorem wit_VectorQueues_13 : ∃ (s : State) (core : Nat) (o : QioOps), Runs s.m core ∧ (outQ s.m core o.q.toNat).takes 1 =
  true ∧ o.tag.toNat ≠ closeTag :=
  ⟨st veM, 7, { q := 1, tag := 5 }, by decide +kernel⟩

theorem wit_VectorQueues_14 : ∃ (s : State) (core : Nat) (o : QioOps), Runs s.m core ∧ (outQ s.m core o.q.toNat).takes 1 =
  true ∧ o.tag.toNat = closeTag :=
  ⟨st veM, 7, { q := 1, tag := 0x0FFFFFFF }, by decide +kernel⟩

theorem wit_VectorQueues_15 : ∃ (s : State) (core : Nat) (o : QioOps), Runs s.m core ∧ (outQ s.m core o.q.toNat).takes 1 =
  false :=
  ⟨st (flowM { ve := veW, outq := SMap.put {} 1 { openBundle := true } } {}), 7, { q := 1, tag := 5 }, by decide +kernel⟩

theorem wit_Matrix_1 : ∃ (s : State) (core : Nat), coreOk core = true ∧ ((runList (planeBytes (s.m.core
  core)))[(s.m.core core).me.runIdx]? = none ∨ (activePlane (s.m.core core)).isNone = true ∨ inUse s.m core = false ∨
  (s.m.core core).halted = true ∨ (s.m.core core).me.pass.isSome = true) :=
  ⟨st upM, 7, by decide +kernel⟩

theorem wit_Matrix_2 : ∃ (s : State) (core : Nat) (e : RunEntry), coreOk core = true ∧ (runList (planeBytes (s.m.core
  core)))[(s.m.core core).me.runIdx]? = some e ∧ inUse s.m core = true ∧ (s.m.core core).halted = false ∧ (s.m.core
  core).me.pass = none ∧ e.wait = false :=
  ⟨st (flowM {} {}), 7, { desc := 0, wait := false, ring := 0, times := 1 }, by decide +kernel⟩

theorem wit_Matrix_3 : ∃ (s : State) (core : Nat) (e : RunEntry) (r : List Bool), coreOk core = true ∧ (runList
  (planeBytes (s.m.core core)))[(s.m.core core).me.runIdx]? = some e ∧ inUse s.m core = true ∧ (s.m.core core).halted =
  false ∧ (s.m.core core).me.pass = none ∧ e.wait = true ∧ ((s.m.core core).rings.get e.ring).order = false :: r :=
  ⟨st (flowMB meWaitBytes { rings := SMap.put {} 1 { order := [false], full := 1 } } {}), 7, { desc := 0, wait := true, ring := 1, times := 1 }, [], by decide +kernel⟩

theorem wit_Matrix_4 : ∃ (s : State) (core : Nat) (e : RunEntry), coreOk core = true ∧ (runList (planeBytes (s.m.core
  core)))[(s.m.core core).me.runIdx]? = some e ∧ inUse s.m core = true ∧ (s.m.core core).halted = false ∧ (s.m.core
  core).me.pass = none ∧ e.wait = true ∧ ((s.m.core core).rings.get e.ring).order = [] :=
  ⟨st (flowMB meWaitBytes {} {}), 7, { desc := 0, wait := true, ring := 1, times := 1 }, by decide +kernel⟩

theorem wit_Matrix_5 : ∃ (s : State) (core : Nat) (e : RunEntry) (r : List Bool), coreOk core = true ∧ (runList
  (planeBytes (s.m.core core)))[(s.m.core core).me.runIdx]? = some e ∧ inUse s.m core = true ∧ (s.m.core core).halted =
  false ∧ (s.m.core core).me.pass = none ∧ e.wait = true ∧ ((s.m.core core).rings.get e.ring).order = true :: r ∧ merges
  s.m core (meDesc (planeBytes (s.m.core core)) e.desc) = false ∧ ((meDesc (planeBytes (s.m.core core)) e.desc).outKind =
  0 ∨ (outQ s.m core (meDesc (planeBytes (s.m.core core)) e.desc).outQ).takes 1 = true) :=
  ⟨st (flowMB meWaitBytes { rings := SMap.put {} 1 { order := [true, false] } } {}), 7, { desc := 0, wait := true, ring := 1, times := 1 }, [false], by decide +kernel⟩

theorem wit_Matrix_6 : ∃ (s : State) (core : Nat) (e : RunEntry) (r : List Bool), coreOk core = true ∧ (runList
  (planeBytes (s.m.core core)))[(s.m.core core).me.runIdx]? = some e ∧ inUse s.m core = true ∧ (s.m.core core).halted =
  false ∧ (s.m.core core).me.pass = none ∧ e.wait = true ∧ ((s.m.core core).rings.get e.ring).order = true :: r ∧ (meDesc
  (planeBytes (s.m.core core)) e.desc).outKind ≠ 0 ∧ (outQ s.m core (meDesc (planeBytes (s.m.core core))
  e.desc).outQ).takes 1 = false :=
  ⟨st (flowMB (Mem.wr meWaitBytes 0xA01B 1 1) { rings := SMap.put {} 1 { order := [true, false] }, outq := SMap.put {} 0 { openBundle := true } } {}), 7, { desc := 0, wait := true, ring := 1, times := 1 }, [false], by decide +kernel⟩

theorem wit_Matrix_7 : ∃ (s : State) (core : Nat), coreOk core = true ∧ (s.m.core core).me.pass = none ∧ (s.m.core
  core).me.tiles.cells.isEmpty = true :=
  ⟨st upM, 7, by decide +kernel⟩

theorem wit_Matrix_8 : ∃ (s : State) (core : Nat) (p : Pass) (d : MeDesc) (w : List Byte), coreOk core = true ∧ (s.m.core
  core).me.tiles.cells.isEmpty = true ∧ (s.m.core core).me.pass = some p ∧ meDesc (planeBytes (s.m.core core)) p.desc = d
  ∧ p.live = false ∧ (s.m.core core).halted = false ∧ seedsIn (s.m.core core).me d p.rows = true ∧ p.blk + 1 < d.blocks ∧
  (s.m.core core).me.wNext = some w ∧ passPoison s.m core d p = none ∧ d.mode = 0 ∧ d.narrow = true ∧ d.outKind ≠ 2 ∧
  merges s.m core d = false :=
  ⟨st (flowMB meBytes { me := { pass := some { desc := 0, rows := 1, ring := none, slotAddr := 0x4000 }, wNext := some (List.replicate 4224 0) } } {}), 7, { desc := 0, rows := 1, ring := none, slotAddr := 0x4000 }, meDesc meBytes 0, List.replicate 4224 0, by decide +kernel⟩

theorem wit_Matrix_9 : ∃ (s : State) (core : Nat) (p : Pass) (d : MeDesc) (e : RunEntry), coreOk core = true ∧ (s.m.core
  core).me.tiles.cells.isEmpty = true ∧ (s.m.core core).me.pass = some p ∧ meDesc (planeBytes (s.m.core core)) p.desc = d
  ∧ seedsIn (s.m.core core).me d p.rows = true ∧ d.blocks ≤ p.blk ∧ d.outKind ≠ 3 ∧ d.writeOut = false ∧ (runList
  (planeBytes (s.m.core core)))[(s.m.core core).me.runIdx]? = some e :=
  ⟨st (flowM { me := { pass := some { desc := 0, rows := 1, ring := none, slotAddr := 0 } } } {}), 7, { desc := 0, rows := 1, ring := none, slotAddr := 0 }, meDesc flowBytes 0, { desc := 0, wait := false, ring := 0, times := 1 }, by decide +kernel⟩

theorem wit_Matrix_10 : ∃ (s : State) (core : Nat) (p : Pass) (d : MeDesc), coreOk core = true ∧ (s.m.core
  core).me.tiles.cells.isEmpty = true ∧ (s.m.core core).me.pass = some p ∧ meDesc (planeBytes (s.m.core core)) p.desc = d
  ∧ seedsIn (s.m.core core).me d p.rows = true ∧ d.blocks ≤ p.blk ∧ p.sent = 0 ∧ d.outKind = 0 ∧ d.writeOut = true ∧
  merges s.m core d = false ∧ (s.m.core core).me.acc.wf = true :=
  ⟨st (flowMB (Mem.wr meBytes 0xA003 1 4) { me := { pass := some { desc := 0, rows := 1, ring := none, slotAddr := 0, blk := 2 } } } {}), 7, { desc := 0, rows := 1, ring := none, slotAddr := 0, blk := 2 }, meDesc (Mem.wr meBytes 0xA003 1 4) 0, by decide +kernel⟩

theorem wit_Matrix_11 : ∃ (s : State) (core : Nat) (p : Pass) (d : MeDesc), coreOk core = true ∧ (s.m.core
  core).me.tiles.cells.isEmpty = true ∧ (s.m.core core).me.pass = some p ∧ meDesc (planeBytes (s.m.core core)) p.desc = d
  ∧ seedsIn (s.m.core core).me d p.rows = false :=
  ⟨st (flowMB meSeedBytes { me := { pass := some { desc := 0, rows := 1, ring := none, slotAddr := 0 } } } {}), 7, { desc := 0, rows := 1, ring := none, slotAddr := 0 }, meDesc meSeedBytes 0, by decide +kernel⟩

theorem wit_Matrix_12 : ∃ (s : State) (core : Nat) (q : Nat) (r : Nat) (x : Nat) (p : Pass) (d : MeDesc) (h : BitVec 512)
  (payload : List (BitVec 512)), coreOk core = true ∧ (s.m.core core).me.pass = some p ∧ meDesc (planeBytes (s.m.core
  core)) p.desc = d ∧ d.seeds = some q ∧ ((List.range p.rows).flatMap fun r => (List.range (if d.isFp32 = true then 4 else
  1)).map fun x => (x, r)).find? (fun k => !(s.m.core core).me.seeded.get (k.1 * 256 + k.2)) = some (x, r) ∧ headBundle
  s.m core q = some (h, payload) ∧ headerBad h = false ∧ isClosing h = false :=
  ⟨st (flowMB meSeedBytes { me := { pass := some { desc := 0, rows := 1, ring := none, slotAddr := 0 } }, inq := SMap.put {} 2 { flits := bundle8 0 } } {}), 7, 2, 0, 0, { desc := 0, rows := 1, ring := none, slotAddr := 0 }, meDesc meSeedBytes 0, 0, List.replicate 8 1, by decide +kernel⟩

theorem wit_Matrix_13 : ∃ (s : State) (core : Nat) (j : Nat) (row : Nat) (stream : Nat) (queue : BitVec 4) (h : BitVec
  512) (payload : List (BitVec 512)), coreOk core = true ∧ inUse s.m core = true ∧ (inBind s.m core queue.toNat).consumer
  = 3 ∧ headBundle s.m core queue.toNat = some (h, payload) ∧ headerBad h = false ∧ isClosing h = false ∧ stream = hword h
  9 % 16 ∧ row = hword h 10 % 256 ∧ j = hword h 11 ∧ (s.m.core core).me.nextJ.get (nextKey stream row) ≤ j ∧ inOrder s.m
  core stream row j = true ∧ (s.m.core core).me.held = [] ∧ (s.m.core core).me.tiles.get stream = none :=
  ⟨st (flowMB meMergeBytes { inq := SMap.put {} 2 { flits := bundle8 (recHeader 0) } } {}), 7, 0, 0, 0, 2, recHeader 0, List.replicate 8 1, by decide +kernel⟩

theorem wit_Matrix_14 : ∃ (s : State) (core : Nat) (part : Nat) (queue : BitVec 4) (h : BitVec 512) (payload : List
  (BitVec 512)), coreOk core = true ∧ inUse s.m core = true ∧ (inBind s.m core queue.toNat).consumer = 3 ∧ headBundle s.m
  core queue.toNat = some (h, payload) ∧ headerBad h = false ∧ isClosing h = false ∧ (hword h 11 < (s.m.core
  core).me.nextJ.get (nextKey (hword h 9 % 16) (hword h 10 % 256)) ∨ (s.m.core core).me.held.any (fun y => y.stream ==
  hword h 9 % 16 && y.row == hword h 10 % 256 && y.block == hword h 11) = true) ∧ corePart s.m core = some part ∧
  (s.m.part part).step.bind (·.replayOf) = none ∧ recovering s.m part = false :=
  ⟨st (flowMB meMergeBytes { inq := SMap.put {} 2 { flits := bundle8 (recHeader 0) }, me := { nextJ := SMap.put {} 0 1 } } {}), 7, 3, 2, recHeader 0, List.replicate 8 1, by decide +kernel⟩

theorem wit_Matrix_15 : ∃ (s : State) (core : Nat) (queue : BitVec 4) (h : BitVec 512) (payload : List (BitVec 512)),
  coreOk core = true ∧ inUse s.m core = true ∧ (inBind s.m core queue.toNat).consumer = 3 ∧ headBundle s.m core
  queue.toNat = some (h, payload) ∧ headerBad h = false ∧ isClosing h = false ∧ (s.m.core core).me.nextJ.get (nextKey
  (hword h 9 % 16) (hword h 10 % 256)) < hword h 11 ∧ inOrder s.m core (hword h 9 % 16) (hword h 10 % 256) (hword h 11) =
  false ∧ (s.m.core core).me.held = [] ∧ 0 < mergeDepthOf (planeBytes (s.m.core core)) (hword h 9 % 16) :=
  ⟨st (flowMB meMergeBytes { inq := SMap.put {} 2 { flits := bundle8 (recHeader 2) } } {}), 7, 2, recHeader 2, List.replicate 8 1, by decide +kernel⟩

theorem wit_Matrix_16 : ∃ (s : State) (core : Nat) (queue : BitVec 4) (h : BitVec 512) (payload : List (BitVec 512)),
  coreOk core = true ∧ inUse s.m core = true ∧ (inBind s.m core queue.toNat).consumer = 3 ∧ headBundle s.m core
  queue.toNat = some (h, payload) ∧ headerBad h = false ∧ isClosing h = false ∧ (s.m.core core).me.nextJ.get (nextKey
  (hword h 9 % 16) (hword h 10 % 256)) < hword h 11 ∧ inOrder s.m core (hword h 9 % 16) (hword h 10 % 256) (hword h 11) =
  false ∧ mergeDepthOf (planeBytes (s.m.core core)) (hword h 9 % 16) = 0 ∧ (s.m.core core).me.held = [] :=
  ⟨st (flowMB (Mem.wr meMergeBytes 0xA019 1 0) { inq := SMap.put {} 2 { flits := bundle8 (recHeader 2) } } {}), 7, 2, recHeader 2, List.replicate 8 1, by decide +kernel⟩

theorem wit_Matrix_17 : ∃ (s : State) (core : Nat) (queue : BitVec 4) (h : BitVec 512) (payload : List (BitVec 512)),
  coreOk core = true ∧ inUse s.m core = true ∧ (inBind s.m core queue.toNat).consumer = 3 ∧ headBundle s.m core
  queue.toNat = some (h, payload) ∧ headerBad h = false ∧ isMarker h = true ∧ markerFits s.m core queue.toNat (hword h 9 %
  16) = true ∧ (s.m.core core).me.held = [] ∧ (s.m.core core).me.tiles.get (hword h 9 % 16) = none :=
  ⟨st (flowMB meMergeBytes { inq := SMap.put {} 2 { flits := [{ flit1 with data := 2 ^ 32 }] } } {}), 7, 2, 2 ^ 32, [], by decide +kernel⟩

theorem wit_TileMovers_1 : ∃ (s : State) (part : Nat) (swath : Nat) (entry : Nat), partOk part = true ∧ swath < 2 ^ 64 ∧
  entry < 65536 ∧ ((s.m.part part).swaths.any fun w => w.id == swath && w.ready) = false :=
  ⟨st upM, 3, 7, 0, by decide +kernel⟩

theorem wit_TileMovers_2 : ∃ (s : State) (part : Nat) (entry : Nat) (cl : Nat) (mv : Nat) (n : Nat) (w : Swath) (d :
  TmDesc), partOk part = true ∧ w.id < 2 ^ 64 ∧ entry < 65536 ∧ entry < w.entries ∧ swathOf s.m part w.id = some w ∧
  w.ready = true ∧ tmDesc w.schedule entry = d ∧ nextIssue (s.m.part part) w d entry = n ∧ (s.m.part part).swaps = [] ∧ n
  ≤ (s.m.part part).steps.get w.id + 1 ∧ triggered s.m part w d n = true ∧ (openStreams s.m part).any (fun x => x.swath ==
  w.id && x.entry == entry) = false ∧ clusterFor w d.lcluster = some cl ∧ d.gate = 0 ∧ (d.trig ≠ 2 ∨ d.prev = true ∨
  (s.m.part part).issueCancelled.get (entryKey w.id d.dep) ≠ n) ∧ (List.range 8).find? (fun i => ((s.m.clu cl).tm.get
  i).isNone) = some mv :=
  ⟨st (tmM 1 0x20 8 {} {}), 3, 0, 0, 0, 1, tmSwath 1 0x20 8, tmDesc (tmSchedule 1 0x20 8) 0, by decide +kernel⟩

theorem wit_TileMovers_3 : ∃ (s : State) (part : Nat) (entry : Nat) (cl : Nat) (n : Nat) (w : Swath) (d : TmDesc), partOk
  part = true ∧ w.id < 2 ^ 64 ∧ entry < 65536 ∧ entry < w.entries ∧ swathOf s.m part w.id = some w ∧ w.ready = true ∧
  tmDesc w.schedule entry = d ∧ nextIssue (s.m.part part) w d entry = n ∧ (s.m.part part).swaps = [] ∧ n ≤ (s.m.part
  part).steps.get w.id + 1 ∧ triggered s.m part w d n = true ∧ (openStreams s.m part).any (fun x => x.swath == w.id &&
  x.entry == entry) = false ∧ clusterFor w d.lcluster = some cl ∧ d.gate = 0 ∧ (d.trig ≠ 2 ∨ d.prev = true ∨ (s.m.part
  part).issueCancelled.get (entryKey w.id d.dep) ≠ n) ∧ (List.range 8).find? (fun i => ((s.m.clu cl).tm.get i).isNone) =
  none :=
  ⟨st (tmM 1 0x20 8 {} ((List.range 8).foldl (fun ss i => ss.put i (some { part := 4 })) {})), 3, 0, 0, 1, tmSwath 1 0x20 8, tmDesc (tmSchedule 1 0x20 8) 0, by decide +kernel⟩

theorem wit_TileMovers_4 : ∃ (s : State) (part : Nat) (entry : Nat) (cl : Nat) (n : Nat) (w : Swath) (d : TmDesc), partOk
  part = true ∧ w.id < 2 ^ 64 ∧ entry < 65536 ∧ entry < w.entries ∧ swathOf s.m part w.id = some w ∧ w.ready = true ∧
  tmDesc w.schedule entry = d ∧ nextIssue (s.m.part part) w d entry = n ∧ (s.m.part part).swaps = [] ∧ n ≤ (s.m.part
  part).steps.get w.id + 1 ∧ triggered s.m part w d n = true ∧ (openStreams s.m part).any (fun x => x.swath == w.id &&
  x.entry == entry) = false ∧ clusterFor w d.lcluster = some cl ∧ d.gate ≠ 0 ∧ n ≠ 1 ∧ d.dstLvl ≠ 3 ∧ d.dstLvl ≠ 4 ∧
  ((s.m.part part).gates.get (entryGate w d (n - 1)))[(s.m.part part).gateTaken.get (entryGate w d (n - 1))]? = some 0 :=
  ⟨st { upM with parts := SMap.put {} 3 { steps := SMap.put {} 7 1, gates := SMap.put {} (gateKey 7 1 7 0) [0], step := some flowStep, swaths := [gatedSwath] } }, 3, 0, 0, 2, gatedSwath, tmDesc gatedSwath.schedule 0, by decide +kernel⟩

theorem wit_TileMovers_5 : ∃ (s : State) (core : Nat) (count : Nat) (n : Nat) (ix : Nat) (queue : BitVec 4) (pl : Plane),
  coreOk core = true ∧ activePlane (s.m.core core) = some (ix, pl) ∧ n = ((s.m.core core).closings.get queue.toNat).headD
  count ∧ n ≠ 0 ∧ (s.m.part pl.part).tmWait = [] :=
  ⟨st (flowM {} {}), 7, 5, 5, 0, 2, flowPlane 0 flowBytes, by decide +kernel⟩

theorem wit_TileMovers_6 : ∃ (s : State) (core : Nat) (ix : Nat) (cl : Nat) (mv : Nat) (count : Nat) (queue : BitVec 4)
  (pl : Plane) (x : Stream) (w : Swath) (d : TmDesc), coreOk core = true ∧ activePlane (s.m.core core) = some (ix, pl) ∧
  ((s.m.core core).closings.get queue.toNat).headD count = 0 ∧ (s.m.part pl.part).tmWait = [] ∧ (s.m.part
  pl.part).savedStreams = [] ∧ (s.m.clu cl).tm.get mv = some x ∧ x.part = pl.part ∧ x.swath = pl.swath ∧ x.stepP1 =
  (s.m.part pl.part).steps.get pl.swath ∧ streamInfo s.m x = some (w, d) ∧ d.gate = 1 ∧ entryGate w d x.stepP1 = (gateKey
  pl.swath ((s.m.part pl.part).steps.get pl.swath) core queue.toNat) ∧ x.gateIx = some ((s.m.part pl.part).gates.get
  (gateKey pl.swath ((s.m.part pl.part).steps.get pl.swath) core queue.toNat)).length ∧ streamsOf s.m pl.part =
  [(cl, mv, x)] :=
  ⟨st { tmM 1 0x20 0 {} (SMap.put {} 2 (some { part := 3, swath := 7, stepP1 := 1, gateIx := some 0 })) with cores := SMap.put {} 7 { planes := SMap.put {} 0 (flowPlane 0 flowBytes) }, parts := SMap.put {} 3 { swaths := [gatedSwath], steps := SMap.put {} 7 1 } }, 7, 0, 0, 2, 0, 0, flowPlane 0 flowBytes, { part := 3, swath := 7, stepP1 := 1, gateIx := some 0 }, gatedSwath, tmDesc gatedSwath.schedule 0, by decide +kernel⟩

theorem wit_TileMovers_7 : ∃ (s : State) (cluster : Nat) (mover : BitVec 3), clusterOk cluster = true ∧ (s.m.clu
  cluster).tm.get mover.toNat = none :=
  ⟨st upM, 0, 2, by decide +kernel⟩

theorem wit_TileMovers_8 : ∃ (s : State) (cluster : Nat) (core : Nat) (count : Nat) (mover : BitVec 3) (x : Stream) (w :
  Swath) (d : TmDesc), clusterOk cluster = true ∧ (s.m.clu cluster).tm.get mover.toNat = some x ∧ streamInfo s.m x = some
  (w, d) ∧ returnSize s.m x w d count = 1 ∧ x.cancelled = false ∧ d.op = 1 ∧ d.dstLvl = 2 ∧ d.skew = 0 ∧ d.scales = false
  ∧ targets w d = [core] :=
  ⟨st (tmM 1 0x20 8 {} (SMap.put {} 2 (some { part := 3, swath := 7, outer := 1 }))), 0, 7, 1, 2, { part := 3, swath := 7, outer := 1 }, tmSwath 1 0x20 8, tmDesc (tmSchedule 1 0x20 8) 0, by decide +kernel⟩

theorem wit_TileMovers_9 : ∃ (s : State) (cluster : Nat) (core : Nat) (count : Nat) (mover : BitVec 3) (x : Stream) (w :
  Swath) (d : TmDesc), clusterOk cluster = true ∧ (s.m.clu cluster).tm.get mover.toNat = some x ∧ streamInfo s.m x = some
  (w, d) ∧ returnSize s.m x w d count = 1 ∧ x.cancelled = false ∧ d.op = 0 ∧ d.srcLvl = 0 ∧ d.dstLvl = 2 ∧ d.skew = 0 ∧
  d.scales = false ∧ d.padEn = false ∧ targets w d = [core] ∧ (linesOf [(srcBit d x.stepP1 (d.indexAt x.pos))]).all (fun l
  => !((s.m.part x.part).pages.get (l * 64 / pageSize)).poison && ((s.m.part x.part).pages.get (l * 64 /
  pageSize)).tier.all (fun t => !regEmpty s.m x.part t.idx)) = true ∧ outOfRange s.m x.part
  [(srcBit d x.stepP1 (d.indexAt x.pos))] = none :=
  ⟨st (tmM 0 0x20 8 { mem := { rangePages := 1 }, range := Mem.wr [] 0 4 99 } (SMap.put {} 2 (some { part := 3, swath := 7, outer := 1 }))), 0, 7, 1, 2, { part := 3, swath := 7, outer := 1 }, tmSwath 0 0x20 8, tmDesc (tmSchedule 0 0x20 8) 0, by decide +kernel⟩

theorem wit_TileMovers_10 : ∃ (s : State) (cluster : Nat) (count : Nat) (mover : BitVec 3) (x : Stream) (w : Swath) (d :
  TmDesc), clusterOk cluster = true ∧ (s.m.clu cluster).tm.get mover.toNat = some x ∧ streamInfo s.m x = some (w, d) ∧
  returnSize s.m x w d count ≠ 0 ∧ x.cancelled = true :=
  ⟨st (tmM 1 0x20 8 {} (SMap.put {} 2 (some { part := 3, swath := 7, outer := 1, cancelled := true }))), 0, 1, 2, { part := 3, swath := 7, outer := 1, cancelled := true }, tmSwath 1 0x20 8, tmDesc (tmSchedule 1 0x20 8) 0, by decide +kernel⟩

theorem wit_TileMovers_11 : ∃ (s : State) (cluster : Nat) (mover : BitVec 3) (x : Stream) (w : Swath) (d : TmDesc),
  clusterOk cluster = true ∧ (s.m.clu cluster).tm.get mover.toNat = some x ∧ streamInfo s.m x = some (w, d) ∧ delivered
  s.m w d = true ∧ x.cancelled = false ∧ s.m.parts.cells.all (fun c => c.2.tmWait.isEmpty) = true :=
  ⟨st (tmM 1 0x20 8 {} (SMap.put {} 2 (some { part := 3, swath := 7, outer := 1, pos := 1 }))), 0, 2, { part := 3, swath := 7, outer := 1, pos := 1 }, tmSwath 1 0x20 8, tmDesc (tmSchedule 1 0x20 8) 0, by decide +kernel⟩

theorem wit_TileMovers_12 : ∃ (s : State) (cluster : Nat) (mover : BitVec 3) (x : Stream) (w : Swath) (d : TmDesc),
  clusterOk cluster = true ∧ (s.m.clu cluster).tm.get mover.toNat = some x ∧ streamInfo s.m x = some (w, d) ∧ d.dstLvl ≠ 4
  ∧ x.cancelled = true ∧ s.m.parts.cells.all (fun c => c.2.tmWait.isEmpty) = true :=
  ⟨st (tmM 1 0x20 8 {} (SMap.put {} 2 (some { part := 3, swath := 7, outer := 1, cancelled := true }))), 0, 2, { part := 3, swath := 7, outer := 1, cancelled := true }, tmSwath 1 0x20 8, tmDesc (tmSchedule 1 0x20 8) 0, by decide +kernel⟩

theorem wit_TileMovers_13 : ∃ (s : State) (part : Nat) (page : Nat) (dirty : Nat) (g : Migration), partOk part = true ∧
  ((s.m.part part).pages.get page).mig = some g ∧ ((s.m.part part).pages.get page).tier.all (fun t => !regEmpty s.m part
  t.idx) = true ∧ regEmpty s.m part g.toTier.idx = false ∧ 64 < max dirty g.dirty.length :=
  ⟨st (upPart { pages := SMap.put {} 2 { tier := some .sward, mig := some { toTier := .ley, toPlace := .stripe } } } []), 3, 2, 65, { toTier := .ley, toPlace := .stripe }, by decide +kernel⟩

theorem wit_TileMovers_14 : ∃ (s : State) (part : Nat) (page : Nat) (dirty : Nat) (g : Migration), partOk part = true ∧
  ((s.m.part part).pages.get page).mig = some g ∧ ((s.m.part part).pages.get page).tier.all (fun t => !regEmpty s.m part
  t.idx) = true ∧ regEmpty s.m part g.toTier.idx = false ∧ max dirty g.dirty.length ≤ 64 ∧ g.item = none :=
  ⟨st (upPart { pages := SMap.put {} 2 { tier := some .sward, mig := some { toTier := .ley, toPlace := .stripe } } } []), 3, 2, 64, { toTier := .ley, toPlace := .stripe }, by decide +kernel⟩

theorem wit_TileMovers_15 : ∃ (s : State) (part : Nat) (page : Nat), partOk part = true ∧ ((s.m.part part).pages.get
  page).mig = none :=
  ⟨st upM, 3, 2, by decide +kernel⟩

end Sys2Proof.Tests
end

section
/-! PROOFS. Tick-applied writes (02_tick R37, R38, R48, R49): what a CONFIG_REFUSED event of the host I/O die leaves, when a register
write acts, what a TA write that reaches its register does, and the statements TickSettings and TaStage. -/

namespace Sys2Proof.Machine

/-! ### Event records (R331) -/

theorem writeEvent_fn_other (m : Module) {f g : Nat} (code part tick die unit : Nat) (payload : List Nat) (h : g ≠ f) :
    (writeEvent m f code part tick die unit payload).fn g = m.fn g := Module.setFn_fn_other m _ h

/-- An event ring that is not full holds one record more, and nothing is counted lost. -/
theorem writeEvent_fn_same (m : Module) (f code part tick die unit : Nat) (payload : List Nat)
    (h : ((m.fn f).evtWritten + 4294967296 - (m.fn f).evtHead) % 4294967296 ≠ 16384) :
    (writeEvent m f code part tick die unit payload).fn f =
      { m.fn f with
        evtWritten := ((m.fn f).evtWritten + 1) % 4294967296, evtLostNow := 0
        events := ⟨((m.fn f).evtWritten + 1) % 4294967296, code, part, tick, die, unit, (m.fn f).evtLostNow, payload⟩ ::
          (m.fn f).events } := by
  rw [writeEvent, Module.setFn_fn_same, if_neg h]

theorem foldM_cons {α : Type} (x : α) (l : List α) (w : Module → α → Module) (m : Module) :
    foldM (x :: l) w m = foldM l w (w m x) := rfl

/-- A fold over other functions, each step of which leaves this one alone, leaves it as it was. -/
theorem foldM_fn_other {w : Module → Nat → Module} {f : Nat} (hw : ∀ m g, f ≠ g → (w m g).fn f = m.fn f) {fs : List Nat}
    (h : f ∉ fs) (m : Module) : (foldM fs w m).fn f = m.fn f := by
  induction fs generalizing m with
  | nil => rfl
  | cons g gs ih =>
    obtain ⟨hg, hgs⟩ := not_or.1 (mt List.mem_cons.2 h)
    rw [foldM_cons, ih hgs, hw m g hg]

/-- PF0 receives every record first, and once. -/
theorem recipients_eq_cons (m : Module) (part : Nat) : ∃ vfs, recipients m part = 0 :: vfs ∧ 0 ∉ vfs :=
  ⟨_, rfl, by simp⟩

theorem record_raised (m : Module) (code part die : Nat) (payload : List Nat) :
    Raised m (record m code part die payload) code part payload := by
  intro hup hroom
  obtain ⟨vfs, hrec, hvfs⟩ := recipients_eq_cons m part
  have hfn : (record m code part die payload).fn 0 =
      (writeEvent m 0 code part m.tick.count die (Config.eventUnit code die % 256) payload).fn 0 := by
    rw [record, if_pos hup, hrec, foldM_cons, foldM_fn_other (fun m _ => writeEvent_fn_other m _ _ _ _ _ _) hvfs]
  rw [hfn, writeEvent_fn_same m _ _ _ _ _ _ _ hroom]
  exact ⟨_, rfl, rfl, rfl, rfl, rfl, rfl⟩

/-- The host I/O die keeps its records itself, so a CONFIG_REFUSED event sends no message (log 67). -/
theorem configRefused_eq_record (m : Module) (part offset cause : Nat) :
    configRefused m part offset cause = record m 0x0106 part dieH [offset, cause] := rfl

/-- A setting of the tick with a CONFIG_REFUSED event: the tick is as set, PF0 sees the event, and nothing else changes but the event
rings and the start log. -/
theorem configRefused_setTick (m : Module) (g : Tick → Tick) (part offset cause : Nat) :
    (configRefused (m.setTick g) part offset cause).tick = g m.tick ∧
      Raised m (configRefused (m.setTick g) part offset cause) 0x0106 part [offset, cause] ∧
      configRefused (m.setTick g) part offset cause =
        { m with tick := (configRefused (m.setTick g) part offset cause).tick
                 start := (configRefused (m.setTick g) part offset cause).start
                 fns := (configRefused (m.setTick g) part offset cause).fns } := by
  rw [configRefused_eq_record]
  have hframe : SameBut [.start, .fns] (m.setTick g) (record (m.setTick g) 0x0106 part dieH [offset, cause]) :=
    record_frame (SameBut.refl _ _) fun _ hx => hx
  have htick := hframe.tick (by decide)
  exact ⟨htick, record_raised (m.setTick g) _ _ _ _, htick ▸ hframe.eq⟩

/-! ### TA writes that reach their register -/

theorem regWrite_of_writeActs {m : Module} {fn block off : Nat} (h : WriteActs m fn block off) (g : Module → Module) :
    regWrite m fn block off g = g m := by
  obtain ⟨-, hreach, hstage, hoffer⟩ := h
  have hready : ¬(block ≠ blkHif && (!m.start.ready || m.start.startFail)) = true := by
    rcases hstage with rfl | ⟨hr, hf⟩ <;> simp [*]
  have hoffered : ¬(fn ≠ 0 && !vfWrites m fn block off) = true := by
    rcases hoffer with rfl | hv <;> simp [*]
  rw [regWrite, if_neg (by simp [hreach]), if_neg hready, if_neg hoffered]

/-- Registers with TA fields stand on word offsets inside one of the first twelve blocks (Table 18.3). -/
theorem isTa_bounds {block off : Nat} (h : isTa block off = true) : block < 12 ∧ off < 0x100000 ∧ off % 4 = 0 := by
  simp only [isTa, blkTick, blkPwr, blkPart, blkLark, Bool.or_eq_true, Bool.and_eq_true, beq_iff_eq, decide_eq_true_eq] at h
  omega

theorem exec_taWrite (fn offset : Nat) (v : Word) (s : State) : exec (.taWrite fn offset v) s = execTaWrite fn offset v s :=
  rfl

/-- TA_WRITE to a register with TA fields, where the write acts. -/
theorem exec_taWrite_of_writeActs {s : State} {fn block off : Nat} (v : Word) (hta : isTa block off = true)
    (h : WriteActs s.m fn block off) :
    exec (.taWrite fn (block * 0x100000 + off) v) s = .next { s with m := taArrives s.m fn block off v.toNat } := by
  obtain ⟨hblock, hoff, halign⟩ := isTa_bounds hta
  have hdiv : (block * 0x100000 + off) / 0x100000 = block := by omega
  have hmod : (block * 0x100000 + off) % 0x100000 = off := by omega
  have hok : (fnOk fn && decide ((block * 0x100000 + off) % 4 = 0) && decide (block * 0x100000 + off < 67108864)) = true := by
    simp only [h.1, Bool.true_and, Bool.and_eq_true, decide_eq_true_eq]
    omega
  have hfn : taWriteFn fn (block * 0x100000 + off) v s.m = taArrives s.m fn block off v.toNat := by
    simp [taWriteFn, hdiv, hmod, hta, regWrite_of_writeActs h]
  rw [exec_taWrite, execTaWrite, guarded, if_pos hok, hfn]

theorem taArrives_pf0_stage {m : Module} {block off v : Nat} (hbusy : partBusy m (selPart m 0 block) block = false)
    (hj : taJudge m block off v = .stage) : taArrives m 0 block off v = stageTa m (selPart m 0 block) block off v := by
  simp [taArrives, hbusy, hj]

theorem taArrives_pf0_refused {m : Module} {block off v : Nat} (hj : taJudge m block off v = .refused) :
    taArrives m 0 block off v =
      refuse m (taPart (selPart m 0 block) block) block off (taBad (selPart m 0 block) block off) := by
  simp [taArrives, hj]

theorem stageTa_room {m : Module} {p block off v : Nat} (hb : noBoundary m = false)
    (hroom : (m.tick.staged.get block).length < 64) :
    stageTa m p block off v =
      m.setTick fun t => { t with staged := t.staged.upd block (· ++ [⟨barOff block off, p, v⟩]) } := by
  simp [stageTa, hb, Nat.not_le.2 hroom]

theorem stageTa_full {m : Module} {p block off v : Nat} (hb : noBoundary m = false)
    (hfull : 64 ≤ (m.tick.staged.get block).length) :
    stageTa m p block off v =
      configRefused (m.setTick fun t => { t with taOvf := true }) (taPart p block) (barOff block off) 1 := by
  simp [stageTa, hb, hfull]

/-! ### Tick settings out of range (R37) -/

theorem taJudge_reservePct_refused (m : Module) {v : Nat} (h : v % 64 < 4 ∨ 50 < v % 64) :
    taJudge m blkTick 0x8 v = .refused := by
  have : inRange 4 50 (v % 64) = false := by
    simp only [inRange, Bool.and_eq_false_iff, decide_eq_false_iff_not]
    omega
  simp [taJudge, this]

theorem taJudge_periodNs_refused {m : Module} {v : Nat} (hrole : m.tick.role = .manager) (h : v < 20000 ∨ 200000000 < v) :
    taJudge m blkTick 0x4 v = .refused := by
  have : inRange 20000 200000000 v = false := by
    simp only [inRange, Bool.and_eq_false_iff, decide_eq_false_iff_not]
    omega
  simp [taJudge, this, hrole]

theorem refuse_taBad_tick (m : Module) (p off : Nat) :
    refuse m (taPart p blkTick) blkTick off (taBad p blkTick off) =
      configRefused (m.setTick fun t => { t with badWrite := true }) noPart (barOff blkTick off) 0 := rfl

/-- A write of PF0 to a TA register of the TICK block, of a value out of its range. -/
theorem exec_taWrite_tick_refused {s : State} {off : Nat} {v : Word} (hta : isTa blkTick off = true)
    (h : WriteActs s.m 0 blkTick off) (hj : taJudge s.m blkTick off v.toNat = .refused) :
    ∃ m, exec (.taWrite 0 (blkTick * 0x100000 + off) v) s = .next { s with m := m } ∧
      m.tick = { s.m.tick with badWrite := true } ∧ Raised s.m m 0x0106 255 [blkTick * 0x100000 + off, 0] ∧
      m = { s.m with tick := m.tick, start := m.start, fns := m.fns } := by
  refine ⟨_, exec_taWrite_of_writeActs v hta h, ?_⟩
  rw [taArrives_pf0_refused hj, refuse_taBad_tick]
  exact configRefused_setTick _ _ _ _ _

/-- Settles O29: on the TICK block both registers share the refusal of R37, and each value out of range is judged so. -/
theorem tickSettings : Obligations.TickSettings :=
  ⟨fun s _ h hv => exec_taWrite_tick_refused rfl h (taJudge_reservePct_refused s.m hv),
    fun _ _ h hrole hv => exec_taWrite_tick_refused rfl h (taJudge_periodNs_refused hrole hv)⟩

/-! ### The stage of a block (R49) -/

/-- A write of PF0 to a TA register, of a value that the register takes, goes to the stage of its block. -/
theorem exec_taWrite_stage {s : State} {block off : Nat} {v : Word} (hta : isTa block off = true)
    (h : WriteActs s.m 0 block off) (hbusy : partBusy s.m (selPart s.m 0 block) block = false)
    (hj : taJudge s.m block off v.toNat = .stage) :
    exec (.taWrite 0 (block * 0x100000 + off) v) s =
      .next { s with m := stageTa s.m (selPart s.m 0 block) block off v.toNat } := by
  rw [exec_taWrite_of_writeActs v hta h, taArrives_pf0_stage hbusy hj]

/-- Settles O30: the stage of the block has room for the write, or is full. -/
theorem taStage : Obligations.TaStage := by
  refine ⟨fun s block off v hta h hb hbusy hj hroom => ⟨_, exec_taWrite_stage hta h hbusy hj, ?_⟩,
    fun s block off v hta h hb hbusy hj hfull => ⟨_, exec_taWrite_stage hta h hbusy hj, ?_⟩⟩
  · rw [stageTa_room hb hroom]
    exact ⟨rfl, SMap.get_upd_same _ _ _, fun _ hne => SMap.get_upd_other _ _ hne, rfl⟩
  · rw [stageTa_full hb hfull]
    exact configRefused_setTick _ _ _ _ _

end Sys2Proof.Machine
end

section
/-! PROOFS. Integer lane operations of the vector engine (05_vector_engine R113, R114, R123): the lanes that a masked register write
leaves, what the issue of an instruction may change of the module, what an instruction that computes lane by lane leaves, and the
statement VectorIntegers. -/

namespace Sys2Proof.Machine

/-! ### A register written lane by lane (R113, R114) -/

/-- The keys of two lanes of the register file agree for the same lane of the same register alone. -/
theorem laneKey_eq_iff {r r' l l' : Nat} (hl : l < 64) (hl' : l' < 64) : 64 * r' + l' = 64 * r + l ↔ r' = r ∧ l' = l := by
  omega

theorem Ve.lane_setLane (v : Ve) {r r' l l' : Nat} (x : BitVec 32) (hl : l < 64) (hl' : l' < 64) :
    (v.setLane r l x).lane r' l' = if r' = r ∧ l' = l then x else v.lane r' l' := by
  simp only [Ve.lane, Ve.setLane, SMap.get_put, laneKey_eq_iff hl hl']

/-- One lane of a register write: what `Ve.writeLanes` does at lane `l`, the mask being that of `v`. -/
def Ve.writeLane (v : Ve) (o : ThreeOps) (f : Nat → BitVec 32) (w : Ve) (l : Nat) : Ve :=
  if v.active o.msk.toNat l then w.setLane o.d.toNat l (f l)
  else if o.zm then w.setLane o.d.toNat l 0 else w

theorem Ve.writeLanes_eq_foldl (v : Ve) (o : ThreeOps) (f : Nat → BitVec 32) :
    v.writeLanes o f = (range' 0 (min v.vl 64)).foldl (v.writeLane o f) v := rfl

theorem Ve.writeLane_changes_v (v : Ve) (o : ThreeOps) (f : Nat → BitVec 32) (w : Ve) (l : Nat) :
    ∃ x, v.writeLane o f w l = { w with v := x } := by
  unfold Ve.writeLane
  split
  · exact ⟨_, rfl⟩
  · split <;> exact ⟨_, rfl⟩

theorem Ve.foldl_writeLane_changes_v (v : Ve) (o : ThreeOps) (f : Nat → BitVec 32) (ls : List Nat) (w : Ve) :
    ∃ x, ls.foldl (v.writeLane o f) w = { w with v := x } := by
  induction ls generalizing w with
  | nil => exact ⟨w.v, rfl⟩
  | cons l ls ih =>
    obtain ⟨x, hx⟩ := v.writeLane_changes_v o f w l
    obtain ⟨y, hy⟩ := ih (v.writeLane o f w l)
    exact ⟨y, by rw [List.foldl_cons, hy, hx]⟩

/-- A register write changes the vector registers alone. -/
theorem Ve.writeLanes_changes_v (v : Ve) (o : ThreeOps) (f : Nat → BitVec 32) :
    ∃ x, v.writeLanes o f = { v with v := x } := v.foldl_writeLane_changes_v o f _ v

/-- A lane of D that the write reaches: the new value under the mask, else 0 under ZM, else what it was. -/
theorem Ve.writeLane_lane (v : Ve) (o : ThreeOps) (f : Nat → BitVec 32) (w : Ve) {l r l' : Nat} (hl : l < 64) (hl' : l' < 64) :
    (v.writeLane o f w l).lane r l' =
      if r = o.d.toNat ∧ l' = l then
        if v.active o.msk.toNat l' = true then f l' else if o.zm = true then 0 else w.lane r l'
      else w.lane r l' := by
  unfold Ve.writeLane
  split
  · rw [Ve.lane_setLane _ _ hl hl']
    grind
  · split
    · rw [Ve.lane_setLane _ _ hl hl']
      grind
    · grind

/-- The same over a run of lanes: each lane is reached once. -/
theorem Ve.foldl_writeLane_lane (v : Ve) (o : ThreeOps) (f : Nat → BitVec 32) {r l : Nat} (hl : l < 64) (n lo : Nat) (w : Ve)
    (hn : lo + n ≤ 64) :
    ((range' lo n).foldl (v.writeLane o f) w).lane r l =
      if r = o.d.toNat ∧ lo ≤ l ∧ l < lo + n then
        if v.active o.msk.toNat l = true then f l else if o.zm = true then 0 else w.lane r l
      else w.lane r l := by
  induction n generalizing lo w with
  | zero => rw [if_neg (by omega)]; rfl
  | succ n ih =>
    rw [range', List.foldl_cons, ih (lo + 1) _ (by omega), Ve.writeLane_lane _ _ _ _ (by omega) hl]
    by_cases hlo : l = lo
    · rw [if_neg (by omega)]
      simp [hlo]
    · have hrun : (lo + 1 ≤ l ∧ l < lo + 1 + n) ↔ (lo ≤ l ∧ l < lo + (n + 1)) := by omega
      rw [if_neg (not_and_of_not_right _ hlo)]
      simp only [hrun]

/-- Lanes of D below VL are written under the mask; tail lanes and the other registers keep their values. -/
theorem Ve.writeLanes_lanesAre (v : Ve) (o : ThreeOps) (f : Nat → BitVec 32) :
    LanesAre v (v.writeLanes o f) o.d.toNat (masked v o f) := by
  intro r _ l hl
  rw [Ve.writeLanes_eq_foldl, Ve.foldl_writeLane_lane v o f hl _ _ _ (by omega)]
  by_cases h : r = o.d.toNat ∧ l < v.vl
  · rw [if_pos (by omega), if_pos h, masked, h.1]
  · rw [if_neg (by omega), if_neg h]

/-! ### The frame of a vector instruction (R81, R175) -/

theorem corePart_of_planes {m m' : Module} {core : Nat} (h : (m'.core core).planes = (m.core core).planes) :
    corePart m' core = corePart m core := by
  rw [corePart, corePart, activePlane, activePlane, h]

namespace VeFrame

variable {m m' m'' : Module} {core : Nat}

theorem corePart_eq (h : VeFrame m m' core) : corePart m' core = corePart m core := by
  obtain ⟨-, hcore, -, -⟩ := h
  exact corePart_of_planes (by rw [hcore])

theorem trans (h : VeFrame m m' core) (g : VeFrame m' m'' core) : VeFrame m m'' core := by
  have hpart := corePart_eq h
  obtain ⟨hother, hcore, hparts, hrest⟩ := h
  obtain ⟨gother, gcore, gparts, grest⟩ := g
  refine ⟨fun c hc => (gother c hc).trans (hother c hc), by rw [gcore, hcore], fun p hp => ?_, by rw [grest, hrest]⟩
  rw [gparts p (hpart ▸ hp), hparts p hp]

theorem of_setVe (m : Module) (core : Nat) (g : Ve → Ve) : VeFrame m (m.setVe core g) core :=
  ⟨fun _ hc => Module.setCore_core_other m _ hc, by rw [Module.setVe_core_same], fun _ _ => rfl, rfl⟩

theorem of_setCnt (m : Module) (core : Nat) (g : CoreCnt → CoreCnt) : VeFrame m (m.setCnt core g) core :=
  ⟨fun _ hc => Module.setCore_core_other m _ hc, by rw [Module.setCnt_core_same], fun _ _ => rfl, rfl⟩

theorem of_setPart (m : Module) {core p : Nat} (hp : corePart m core = some p) (g : Part → Part) :
    VeFrame m (m.setPart p g) core :=
  ⟨fun _ _ => rfl, rfl, fun _ hq => Module.setPart_part_other m g fun e => hq (e ▸ hp), rfl⟩

theorem of_issueTime (m : Module) (core : Nat) (srcs dsts : List Nat) (interval latency : Nat) :
    VeFrame m (issueTime m core srcs dsts interval latency) core :=
  (of_setVe m core _).trans (of_setCnt _ core _)

theorem of_noteProgress (m : Module) (core : Nat) : VeFrame m (noteProgress m core) core := by
  unfold noteProgress
  split
  · next p hp => exact of_setPart m hp _
  · exact ⟨fun _ _ => rfl, rfl, fun _ _ => rfl, rfl⟩

theorem of_countOuts (m : Module) (core : Nat) (os : List LaneOut) : VeFrame m (countOuts m core os) core := by
  unfold countOuts countAx
  split
  · exact ⟨fun _ _ => rfl, rfl, fun _ _ => rfl, rfl⟩
  · next p hp => exact of_setPart m hp _

end VeFrame

/-! ### The issue of an instruction (R117, R142) -/

/-- Of the engine, the times of the scoreboard alone have changed. -/
def Retimed (v w : Ve) : Prop := ∃ cc ready, w = { v with cc := cc, ready := ready }

theorem Retimed.handling {m a : Module} {core : Nat} (h : Retimed (veOf m core) (veOf a core)) :
    handling a core = handling m core := by
  obtain ⟨_, _, hve⟩ := h
  exact congrArg (·.handler.isSome) hve

theorem Retimed.lane {v w : Ve} (h : Retimed v w) (r l : Nat) : w.lane r l = v.lane r l := by
  obtain ⟨_, _, rfl⟩ := h
  rfl

theorem Retimed.low {v w : Ve} (h : Retimed v w) (r : Nat) : w.low r = v.low r := by
  obtain ⟨_, _, rfl⟩ := h
  rfl

theorem noteProgress_core (m : Module) (core c : Nat) : (noteProgress m core).core c = m.core c :=
  congrArg (·.get c) ((noteProgress_frame (SameBut.refl [.parts] m) fun _ h => h).cores (by decide))

theorem countOuts_core (m : Module) (core : Nat) (os : List LaneOut) (c : Nat) : (countOuts m core os).core c = m.core c :=
  congrArg (·.get c) ((countOuts_frame (SameBut.refl [.parts] m) fun _ h => h).cores (by decide))

/-- The module in which an issued instruction has its effect: the time of the issue is counted, and progress is noted. -/
def issueFront (m : Module) (core : Nat) (srcs dsts : List Nat) (interval latency : Nat) : Module :=
  noteProgress (issueTime m core srcs dsts interval latency) core

theorem CoreCnt.counted_unfrozen (old new : CoreCnt) : CoreCnt.counted 0 old new = new := rfl

section

variable (m : Module) (core : Nat) (srcs dsts : List Nat) (interval latency : Nat)

theorem issueFront_veFrame : VeFrame m (issueFront m core srcs dsts interval latency) core :=
  (VeFrame.of_issueTime m core srcs dsts interval latency).trans (VeFrame.of_noteProgress _ core)

theorem issueFront_core :
    (issueFront m core srcs dsts interval latency).core core = (issueTime m core srcs dsts interval latency).core core :=
  noteProgress_core _ core core

theorem issueFront_retimed : Retimed (veOf m core) (veOf (issueFront m core srcs dsts interval latency) core) := by
  simp only [veOf, issueFront_core, issueTime, Module.setCnt_core_same, Module.setVe_core_same]
  exact ⟨_, _, rfl⟩

theorem issueFront_veIssue (h : (m.clu (core / 80)).freeze = 0) :
    ((issueFront m core srcs dsts interval latency).core core).cnt.veIssue = satAdd (m.core core).cnt.veIssue 1 := by
  rw [issueFront_core, issueTime, Module.setCnt_core_same, Module.setVe_core_same, Module.setVe_clu, h, CoreCnt.counted_unfrozen]

end

/-- An instruction whose effect leaves the handler running goes on to the next one. -/
theorem issue_eq_goTo {m : Module} {core : Nat} {srcs dsts : List Nat} {interval latency : Nat} {body : Module → Module}
    (h : handling m core = true) (hb : handling (body (issueFront m core srcs dsts interval latency)) core = true) :
    issue m core srcs dsts interval latency body =
      (body (issueFront m core srcs dsts interval latency)).setVe core fun v => v.goTo (v.pc + 1) := by
  rw [issue, if_pos h]
  exact if_pos hb

/-! ### An instruction that computes one result per active lane (R113, R114) -/

/-- The effect of such an instruction: register D, and the exceptions of the active lanes. -/
def laneBody (core : Nat) (o : ThreeOps) (f : Ve → Nat → LaneOut) (m : Module) : Module :=
  countOuts (m.setVe core fun w => w.writeLanes o fun l => (f (veOf m core) l).val) core
    (((veOf m core).actives o.msk.toNat).map fun l => f (veOf m core) l)

section

variable {m : Module} {core : Nat} (o : ThreeOps) (srcs : List Nat) (interval latency : Nat) (f : Ve → Nat → LaneOut)

/-- Such an instruction is the issue of its effect. -/
theorem laneOp_eq_issue : laneOp core o srcs interval latency f m =
    issue m core (mskKey o ++ srcs) [keyV o.d.toNat] interval latency (laneBody core o f) := by
  simp only [laneOp, List.map_map, Function.comp_def]
  rfl

theorem laneBody_veFrame : VeFrame m (laneBody core o f m) core :=
  (VeFrame.of_setVe m core _).trans (VeFrame.of_countOuts _ core _)

theorem laneBody_core : (laneBody core o f m).core core =
    { m.core core with ve := (veOf m core).writeLanes o fun l => (f (veOf m core) l).val } := by
  rw [laneBody, countOuts_core, Module.setVe_core_same]

/-- A register write leaves the running handler alone. -/
theorem laneBody_handling : handling (laneBody core o f m) core = handling m core := by
  obtain ⟨x, hx⟩ := (veOf m core).writeLanes_changes_v o fun l => (f (veOf m core) l).val
  rw [handling, laneBody_core, hx]
  rfl

/-- What the engine keeps and takes when, at moved times, register D is written and the loop stack followed. -/
theorem Retimed.writeLanes_goTo {v w : Ve} (hw : Retimed v w) (g : Nat → BitVec 32) {z : Ve}
    (hz : z = (w.writeLanes o g).goTo ((w.writeLanes o g).pc + 1)) :
    z.handler = v.handler ∧ (z.loops, z.pc, z.vl) = loopEnds v.loops (v.pc + 1) v.vl ∧
      LanesAre v z o.d.toNat (masked v o g) ∧ SameMasks v z ∧ SameScalars v z ∧ SameSeeds v z := by
  obtain ⟨cc, ready, rfl⟩ := hw
  have hlanes := Ve.writeLanes_lanesAre { v with cc := cc, ready := ready } o g
  obtain ⟨x, hx⟩ := Ve.writeLanes_changes_v { v with cc := cc, ready := ready } o g
  rw [hx] at hlanes hz
  subst hz
  exact ⟨rfl, rfl, hlanes, fun _ _ => rfl, fun _ _ => rfl, rfl, rfl⟩

/-- The lane function may not look at the times of the scoreboard: then it sees the engine as it was before the issue. -/
theorem laneOp_writesActive (h : handling m core = true) (hf : ∀ w, Retimed (veOf m core) w → f w = f (veOf m core)) :
    WritesActive m (laneOp core o srcs interval latency f m) core o fun l => (f (veOf m core) l).val := by
  have hfront := issueFront_veFrame m core (mskKey o ++ srcs) [keyV o.d.toNat] interval latency
  have htimes := issueFront_retimed m core (mskKey o ++ srcs) [keyV o.d.toNat] interval latency
  have hcount := issueFront_veIssue m core (mskKey o ++ srcs) [keyV o.d.toNat] interval latency
  rw [laneOp_eq_issue, issue_eq_goTo h (by rw [laneBody_handling, htimes.handling, h])]
  generalize issueFront m core (mskKey o ++ srcs) [keyV o.d.toNat] interval latency = a at hfront htimes hcount
  have hcore := Module.setVe_core_same (laneBody core o f a) core fun v => v.goTo (v.pc + 1)
  have hframe := (hfront.trans (laneBody_veFrame o f)).trans (VeFrame.of_setVe _ core fun v => v.goTo (v.pc + 1))
  generalize (laneBody core o f a).setVe core (fun v => v.goTo (v.pc + 1)) = b at hcore hframe ⊢
  rw [laneBody_core, hf _ htimes] at hcore
  obtain ⟨hhandler, hloops, hregs⟩ := htimes.writeLanes_goTo o (fun l => (f (veOf m core) l).val) (congrArg Core.ve hcore)
  exact ⟨hframe, ⟨hhandler, hloops, fun hfreeze => by rw [hcore, hcount hfreeze]⟩, hregs⟩

end

/-! ### IALU (R123) -/

theorem Retimed.aluB {v w : Ve} (h : Retimed v w) (o : AluOps) (l : Nat) : aluB o w l = aluB o v l := by
  rw [Machine.aluB, Machine.aluB, h.low, h.lane]

theorem ialu_writesActive {m : Module} {core : Nat} (o : AluOps) (interval latency : Nat) (f : BitVec 32 → BitVec 32 → BitVec 32)
    (h : handling m core = true) :
    WritesActive m (ialu core o interval latency f m) core o.toThreeOps fun l =>
      f ((veOf m core).lane o.a.toNat l) (aluB o (veOf m core) l) :=
  laneOp_writesActive _ _ _ _ _ h fun w hw => funext fun l => by rw [hw.lane, hw.aluB]

/-- An IALU command on a core whose handler runs writes to each active lane what its operation gives there. -/
theorem exec_ialu {c : Instr} {s : State} {core interval latency : Nat} {o : AluOps} {f : BitVec 32 → BitVec 32 → BitVec 32}
    {g : Nat → BitVec 32} (hexec : exec c s = guarded (coreOk core) (ialu core o interval latency f) s) (h : Runs s.m core)
    (hg : ∀ l, f ((veOf s.m core).lane o.a.toNat l) (aluB o (veOf s.m core) l) = g l) :
    ∃ m, exec c s = .next { s with m := m } ∧ WritesActive s.m m core o.toThreeOps g := by
  obtain ⟨hcore, hruns⟩ := h
  refine ⟨ialu core o interval latency f s.m, by rw [hexec, guarded, if_pos hcore], ?_⟩
  rw [← funext hg]
  exact ialu_writesActive o interval latency f hruns

/-! ### The operations as numbers (R123) -/

section

variable (a b : BitVec 32)

theorem shl_eq_ofNat (n : Nat) : a <<< n = BitVec.ofNat 32 (a.toNat * 2 ^ n) :=
  BitVec.eq_of_toNat_eq (by rw [BitVec.toNat_shiftLeft, BitVec.toNat_ofNat, Nat.shiftLeft_eq])

theorem shr_eq_ofNat (n : Nat) : a >>> n = BitVec.ofNat 32 (a.toNat / 2 ^ n) := by
  rw [← Nat.shiftRight_eq_div_pow, ← BitVec.toNat_ushiftRight, BitVec.ofNat_toNat, BitVec.setWidth_eq]

theorem sra_eq_ofInt (n : Nat) : a.sshiftRight n = BitVec.ofInt 32 (a.toInt / 2 ^ n) := by
  rw [BitVec.sshiftRight, Int.shiftRight_eq_div_pow, Int.natCast_pow, Int.cast_ofNat_Int]

theorem min_eq_ofInt : (if a.toInt ≤ b.toInt then a else b) = BitVec.ofInt 32 (min a.toInt b.toInt) := by
  simp only [Int.min_def, apply_ite (BitVec.ofInt 32), BitVec.ofInt_toInt]

theorem max_eq_ofInt : (if a.toInt ≤ b.toInt then b else a) = BitVec.ofInt 32 (max a.toInt b.toInt) := by
  simp only [Int.max_def, apply_ite (BitVec.ofInt 32), BitVec.ofInt_toInt]

theorem minu_eq_ofNat : (if a ≤ b then a else b) = BitVec.ofNat 32 (min a.toNat b.toNat) := by
  simp only [BitVec.le_def, Nat.min_def, apply_ite (BitVec.ofNat 32), BitVec.ofNat_toNat, BitVec.setWidth_eq]

theorem maxu_eq_ofNat : (if a ≤ b then b else a) = BitVec.ofNat 32 (max a.toNat b.toNat) := by
  simp only [BitVec.le_def, Nat.max_def, apply_ite (BitVec.ofNat 32), BitVec.ofNat_toNat, BitVec.setWidth_eq]

end

/-- Settles O49: each command is an IALU instruction with its own lane operation, which is the number that R123 names. -/
theorem vectorIntegers : Obligations.VectorIntegers :=
  ⟨fun _ _ _ h => exec_ialu rfl h fun _ => rfl,
    fun _ _ _ h => exec_ialu rfl h fun _ => rfl,
    fun _ _ _ h => exec_ialu rfl h fun _ => rfl,
    fun _ _ _ h => exec_ialu rfl h fun _ => rfl,
    fun _ _ _ h => exec_ialu rfl h fun _ => rfl,
    fun _ _ _ h => exec_ialu rfl h fun _ => rfl,
    fun _ _ _ h => exec_ialu rfl h fun _ => shl_eq_ofNat _ _,
    fun _ _ _ h => exec_ialu rfl h fun _ => shr_eq_ofNat _ _,
    fun _ _ _ h => exec_ialu rfl h fun _ => sra_eq_ofInt _ _,
    fun _ _ _ h => exec_ialu rfl h fun _ => min_eq_ofInt _ _,
    fun _ _ _ h => exec_ialu rfl h fun _ => max_eq_ofInt _ _,
    fun _ _ _ h => exec_ialu rfl h fun _ => minu_eq_ofNat _ _,
    fun _ _ _ h => exec_ialu rfl h fun _ => maxu_eq_ofNat _ _⟩

end Sys2Proof.Machine
end

section
/-! PROOFS. The orders of the sideband (20_package R510, with 19_startup R498, R499 and 15_power R424): when the three fields of SB_ORDER
agree, when a warm reset and a thermal restart act, what they leave of the start-up state, and the statement OrdersAgree. -/

namespace Sys2Proof.Machine

/-! ### When the fields agree (R510) -/

theorem sbUp_iff (m : Module) : sbUp m = true ↔ m.power.dark = false ∧ 1 ≤ m.start.stage := by
  rw [sbUp, Bool.and_eq_true, Bool.not_eq_true', decide_eq_true_eq]

theorem orderAgrees_iff (m : Module) (code order inverse : BitVec 8) (serial : BitVec 16) :
    orderAgrees m code.toNat order inverse serial = true ↔
      sbUp m = true ∧ order = code ∧ inverse = ~~~order ∧ serial.toNat = m.flash.serial % 65536 := by
  simp only [orderAgrees, Bool.and_eq_true, beq_iff_eq, BitVec.toNat_inj, and_assoc]

/-! ### When an order acts, and what it leaves -/

section

variable (order inverse : BitVec 8) (serial : BitVec 16) (s : State) (m : Module)

/-- WARM_RESET acts under these conditions alone. -/
theorem warmResetFn_eq_ite :
    warmResetFn order inverse serial m =
      if (sbUp m = true ∧ order = 1 ∧ inverse = ~~~order ∧ serial.toNat = m.flash.serial % 65536) ∧ m.start.tripped = false
      then warmStart m else m :=
  ite_congr (propext (Bool.and_eq_true_iff.trans
    (and_congr (orderAgrees_iff m 1 order inverse serial) (iff_of_eq (Bool.not_eq_true' _))))) (fun _ => rfl) (fun _ => rfl)

/-- THERMAL_RESTART acts under these conditions alone. -/
theorem thermalRestartFn_eq_ite :
    thermalRestartFn order inverse serial m =
      if ((sbUp m = true ∧ order = 2 ∧ inverse = ~~~order ∧ serial.toNat = m.flash.serial % 65536) ∧ m.start.tripped = true) ∧
        m.power.tempDeg < 85
      then beginCold (goDark m) else m :=
  ite_congr (propext (Bool.and_eq_true_iff.trans (and_congr (Bool.and_eq_true_iff.trans
    (and_congr (orderAgrees_iff m 2 order inverse serial) Iff.rfl)) decide_eq_true_iff))) (fun _ => rfl) (fun _ => rfl)

theorem exec_warmReset :
    exec (.warmReset order inverse serial) s = .next { s with m := warmResetFn order inverse serial s.m } := rfl

theorem exec_thermalRestart :
    exec (.thermalRestart order inverse serial) s = .next { s with m := thermalRestartFn order inverse serial s.m } := rfl

theorem warmStart_stage : (warmStart m).start.stage = 1 := rfl

theorem warmStart_ready : (warmStart m).start.ready = false := rfl

theorem warmStart_tick_count : (warmStart m).tick.count = 0 := rfl

end

/-- A module gone dark starts from power-on where a feed is good and EPO_N is not asserted (R484): both are levels at its pins. -/
theorem beginCold_goDark {m : Module} (hepo : m.start.epo = false) (hfeed : m.power.mainOk = true ∨ m.power.backupOk = true) :
    beginCold (goDark m) = m.outside.setPower fun w => { w with dark := false, onBackup := !w.mainOk } := by
  have hepo' : (goDark m).start.epo = false := hepo
  have hfeed' : ((goDark m).power.mainOk || (goDark m).power.backupOk) = true := Bool.or_eq_true_iff.2 hfeed
  have hdark : (goDark m).power.dark = true := rfl
  simp only [beginCold, hdark, hepo', hfeed', Bool.not_true, Bool.or_false, Bool.false_eq_true, if_false]
  rfl

/-! ### An order that is refused, an order that is taken -/

section

variable {order inverse : BitVec 8} {serial : BitVec 16} {s : State}

theorem exec_warmReset_refused (h : order ≠ 1 ∨ inverse ≠ ~~~order ∨ serial.toNat ≠ s.m.flash.serial % 65536 ∨
    s.m.start.tripped = true) : exec (.warmReset order inverse serial) s = .next s := by
  rw [exec_warmReset, warmResetFn_eq_ite, if_neg]
  rintro ⟨⟨-, horder, hinverse, hserial⟩, htripped⟩
  rcases h with h | h | h | h
  · exact h horder
  · exact h hinverse
  · exact h hserial
  · exact Bool.false_ne_true (htripped.symm.trans h)

theorem exec_thermalRestart_refused (h : order ≠ 2 ∨ inverse ≠ ~~~order ∨ serial.toNat ≠ s.m.flash.serial % 65536 ∨
    s.m.start.tripped = false ∨ 85 ≤ s.m.power.tempDeg) : exec (.thermalRestart order inverse serial) s = .next s := by
  rw [exec_thermalRestart, thermalRestartFn_eq_ite, if_neg]
  rintro ⟨⟨⟨-, horder, hinverse, hserial⟩, htripped⟩, hcool⟩
  rcases h with h | h | h | h | h
  · exact h horder
  · exact h hinverse
  · exact h hserial
  · exact Bool.false_ne_true (h.symm.trans htripped)
  · exact Nat.not_lt.2 h hcool

theorem exec_warmReset_taken (hup : sbUp s.m = true) (hserial : serial.toNat = s.m.flash.serial % 65536)
    (htripped : s.m.start.tripped = false) :
    exec (.warmReset 0x01 0xFE serial) s = .next { s with m := warmStart s.m } := by
  rw [exec_warmReset, warmResetFn_eq_ite, if_pos ⟨⟨hup, rfl, by decide, hserial⟩, htripped⟩]

theorem exec_thermalRestart_taken (hup : sbUp s.m = true) (hserial : serial.toNat = s.m.flash.serial % 65536)
    (htripped : s.m.start.tripped = true) (hcool : s.m.power.tempDeg < 85) :
    exec (.thermalRestart 0x02 0xFD serial) s = .next { s with m := beginCold (goDark s.m) } := by
  rw [exec_thermalRestart, thermalRestartFn_eq_ite, if_pos ⟨⟨⟨hup, rfl, by decide, hserial⟩, htripped⟩, hcool⟩]

end

/-- Settles O13: an order is refused where one of its conditions fails; taken, it leaves the module of a warm or of a cold start. -/
theorem ordersAgree : Obligations.OrdersAgree := by
  refine ⟨fun _ _ _ _ => exec_warmReset_refused, fun _ _ _ _ => exec_thermalRestart_refused, ?warm, ?thermal⟩
  case warm =>
    intro s serial hdark hstage htripped hserial
    exact ⟨warmStart s.m, exec_warmReset_taken ((sbUp_iff s.m).2 ⟨hdark, hstage⟩) hserial htripped,
      warmStart_stage s.m, warmStart_ready s.m, warmStart_tick_count s.m⟩
  case thermal =>
    intro s serial hdark hstage htripped hcool hepo hfeed hserial
    refine ⟨_, exec_thermalRestart_taken ((sbUp_iff s.m).2 ⟨hdark, hstage⟩) hserial htripped hcool, ?_⟩
    rw [beginCold_goDark hepo hfeed]
    exact ⟨rfl, rfl, rfl⟩

end Sys2Proof.Machine
end
